-- ==== Sys2Proof/Word.lean ====
section
/-! DEFINITION. Word.lean: the word types of the Yarenos 480 (R6) and their plainest names. -/
namespace Sys2Proof

/-- One byte of memory. -/
abbrev Byte := BitVec 8

/-- The 32-bit word of a named register or a scalar (R61). -/
abbrev W32 := BitVec 32

/-- The 64-bit word of a result-queue entry, an instruction or a header (R61, R87, R91). -/
abbrev W64 := BitVec 64

end Sys2Proof
end

