-- ==== Sys2Proof/Syntax.lean ====
section
/-! DEFINITION. Syntax.lean: the operand forms of R83 to R95 and the one inductive `Instr`: a constructor for
every row of the opcode table, the instructions of R96 first, then the steps of the other agents. -/
namespace Sys2Proof

/-- The guard field of R91: `neg` negates, `p` names p0 to p7. -/
structure Guard where
  neg : Bool
  p   : BitVec 3
deriving DecidableEq, Repr

/-- The guard 0b0111: always. -/
def Guard.always : Guard := { neg := false, p := 7 }

/-- The special registers of R82, in the order of their indices 64 to 75. -/
inductive Special
  | wid | widHi | cohort | cohortHi | lane | crew | clk | clkHi | dt | dtHi | fpflags | sib
deriving DecidableEq, Repr

/-- A source field of R84. -/
inductive Src
  | queue (n : BitVec 4)
  | named (n : BitVec 6) (trap : Bool)
  | scalar (n : BitVec 5)
  | special (k : Special)
  | const (c : BitVec 7)
deriving DecidableEq, Repr

/-- The all-zero source field, which is also what an unused source field holds (R86). -/
def Src.zero : Src := .queue 0

/-- A destination field of R83. -/
inductive Dest
  | push
  | named (n : BitVec 6)
  | scalar (n : BitVec 5)
deriving DecidableEq, Repr

/-- The integer types of R93, codes 0 to 7. -/
inductive IntTy | s32 | n32 | s64 | n64 | s16 | n16 | s8 | n8
deriving DecidableEq, Repr

/-- The floating types of R93, codes 8 to 12. -/
inductive FTy | f32 | f16 | bf16 | e4m3 | e5m2
deriving DecidableEq, Repr

/-- The nibble types of R93, codes 13 and 14. -/
inductive NibTy | s4 | n4
deriving DecidableEq, Repr

/-- Any type of R93. -/
inductive NumTy
  | int (t : IntTy)
  | flt (t : FTy)
  | nib (t : NibTy)
deriving DecidableEq, Repr

/-- The two types of the logic group (R405). -/
inductive BTy | b32 | b64
deriving DecidableEq, Repr

/-- The rounding codes of R93. -/
inductive Rnd | rne | rz | rdn | rup | rna | sr
deriving DecidableEq, Repr

/-- The access sizes of R94. -/
inductive Size | n8 | s8 | n16 | s16 | b32 | b64 | b128
deriving DecidableEq, Repr

/-- The scopes of R94 and R180. -/
inductive Scope | crew | cohort | cluster | die | pkg | sys
deriving DecidableEq, Repr

/-- The conditions of ICMP (R487). -/
inductive ICond | eq | ne | lt | le | gt | ge | tst
deriving DecidableEq, Repr

/-- The conditions of FCMP (R466). -/
inductive FCond | eq | lt | le | gt | ge | ne | num | equ | ltu | leu | gtu | geu | neu | nan
deriving DecidableEq, Repr

/-- The operations of RED and SCAN (R531). -/
inductive RedOp | add | min | max | and | or | xor
deriving DecidableEq, Repr

/-- The types of RED and SCAN (R531). -/
inductive RedTy | s32 | n32 | s64 | n64 | f32 | f16 | bf16
deriving DecidableEq, Repr

/-- The types of ATOM, ATOMO and REDS (R412, R534). -/
inductive AtomTy | s32 | n32 | s64 | n64 | f32
deriving DecidableEq, Repr

/-- The operations of ATOM and ATOMO (R413). -/
inductive AtomOp | add | min | max | and | or | xor | exch | cas | fadd | fmin | fmax
deriving DecidableEq, Repr

/-- The operations of REDS (R534). -/
inductive RedsOp | add | min | max
deriving DecidableEq, Repr

/-- The modes of SHFL (R546). -/
inductive ShflMode | idx | up | down | xor
deriving DecidableEq, Repr

/-- The modes of VOTE (R566). -/
inductive VoteMode | any | all | uni | ballot
deriving DecidableEq, Repr

/-- The targets of PREF (R526). -/
inductive PrefTarget | l1 | l2 | icache
deriving DecidableEq, Repr

/-- The modes of PRMT (R528). -/
inductive PrmtMode | byte | nib | nx | nxs
deriving DecidableEq, Repr

/-- The forms of MOVI (R518). -/
inductive MoviForm | plain | sx64 | hi
deriving DecidableEq, Repr

/-- The directions of COPY (R441). -/
inductive CopyDir | g2s | s2g | g2g
deriving DecidableEq, Repr

/-- The epilogues of MDRAIN (R506). -/
inductive Epi | none | smax | gmax
deriving DecidableEq, Repr

/-- The kinds of WLOAD (R574). -/
inductive WloadKind | cells | dir | coup | scale
deriving DecidableEq, Repr

/-- The kinds of WREAD (R576). -/
inductive WreadKind | cell | dir | coup | slot
deriving DecidableEq, Repr

/-- The completion count of a queued well command (R568): CE and KC. -/
structure WellCount where
  ce : Bool
  kc : BitVec 3
deriving DecidableEq, Repr

/-- The common modifier fields of R93 for a floating instruction. -/
structure FMod where
  rnd : Rnd
  ftz : Bool
  sat : Bool
deriving DecidableEq, Repr

/-- The fields of a format M access (R92, R94): lane offset A, record BR, size and displacement. -/
structure MemRef where
  a   : Src
  br  : BitVec 4
  sz  : Size
  off : BitVec 11
deriving DecidableEq, Repr

/-- The fields of a tile store access (R497, R558): lane offset A, swizzle XS, size and displacement. -/
structure SpadRef where
  a   : Src
  xs  : BitVec 3
  sz  : Size
  off : BitVec 11
deriving DecidableEq, Repr

/-- The fields of a COPY extension word (R441). -/
structure CopyExt where
  brs  : BitVec 4
  brd  : BitVec 4
  xs   : BitVec 3
  kc   : BitVec 3
  cont : Option (BitVec 32)
deriving DecidableEq, Repr

/-- The extension fields of WSWEEP (R569). -/
structure SweepExt where
  beta   : BitVec 16
  sweeps : BitVec 16
  br     : BitVec 4
  xs     : BitVec 3
  str    : Bool
  ssp    : Bool
  phys   : Bool
  len    : BitVec 22
deriving DecidableEq, Repr

/-- What the error correction of a granule read found (R334, R335): the outcome is physics. -/
inductive EccOutcome | clean | corrected | uncorrectable
deriving DecidableEq, Repr

/-- A register that a write names (R7, R390, R447): an offset of BAR0, or a privileged CSR. -/
inductive RegRef
  | bar0 (off : Nat)
  | csr (n : BitVec 12)
deriving DecidableEq, Repr

/-- Which failure takes the device out of service (R19, R395). -/
inductive DeviceFailure
  | boundary (b : Nat)
  | hostLink
deriving DecidableEq, Repr

/-- Every row of the opcode table. The rows down to `trace` and `illegalOpcode` are the instructions of R96 and
R97; the others are the whole and indivisible steps of the other agents, whose operands name the object that
moves and what physics or the outside supplies. -/
inductive Instr
  -- the control group (R96, 0x00 to 0x0B)
  | nop (g : Guard)
  | bra (off : BitVec 32)
  | brc (g : Guard) (off : BitVec 32)
  | call (off : BitVec 32)
  | ret
  | exit (g : Guard)
  | exitSuccessor (off : BitVec 32) (keep : W64)
  | yield (t : Src) (k : BitVec 3) (off : BitVec 32)
  | waitc (g : Guard) (t : Src) (k : BitVec 3)
  | bar (n : BitVec 4) (arrive : Bool)
  | trap (g : Guard) (imm : W32)
  | rtt
  | gsig (g : Guard) (a : Src)
  -- the integer group (0x10 to 0x1F)
  | iadd (g : Guard) (d : Dest) (ty : IntTy) (sat : Bool) (a b : Src)
  | isub (g : Guard) (d : Dest) (ty : IntTy) (sat : Bool) (a b : Src)
  | imul (g : Guard) (d : Dest) (ty : IntTy) (sat : Bool) (a b : Src)
  | imulh (g : Guard) (d : Dest) (ty : IntTy) (a b : Src)
  | imad (g : Guard) (d : Dest) (ty : IntTy) (sat : Bool) (a b c : Src)
  | idiv (g : Guard) (d : Dest) (ty : IntTy) (sat z rem : Bool) (a b : Src)
  | imin (g : Guard) (d : Dest) (ty : IntTy) (a b : Src)
  | imax (g : Guard) (d : Dest) (ty : IntTy) (a b : Src)
  | iabs (g : Guard) (d : Dest) (ty : IntTy) (sat : Bool) (a : Src)
  | ineg (g : Guard) (d : Dest) (ty : IntTy) (sat : Bool) (a : Src)
  | icmp (g : Guard) (d : Dest) (ty : IntTy) (cond : ICond) (pw : Option (BitVec 3)) (a b : Src)
  | idp4 (g : Guard) (d : Dest) (aty bty : NumTy) (sat : Bool) (a b c : Src)
  | sel (g : Guard) (d : Dest) (w64 : Bool) (neg : Bool) (p : BitVec 3) (a b : Src)
  | mov (g : Guard) (d : Dest) (w64 : Bool) (a : Src)
  | movi (g : Guard) (d : Dest) (form : MoviForm) (a : Src) (imm : W32)
  | cvt (g : Guard) (d : Dest) (dty sty : NumTy) (m : FMod) (a : Src)
  -- the logic group (0x20 to 0x2F)
  | andL (g : Guard) (d : Dest) (ty : BTy) (a b : Src)
  | orL (g : Guard) (d : Dest) (ty : BTy) (a b : Src)
  | xorL (g : Guard) (d : Dest) (ty : BTy) (a b : Src)
  | notL (g : Guard) (d : Dest) (ty : BTy) (a : Src)
  | bool3 (g : Guard) (d : Dest) (ty : BTy) (lut : BitVec 8) (a b c : Src)
  | shl (g : Guard) (d : Dest) (ty : BTy) (a n : Src)
  | shr (g : Guard) (d : Dest) (ty : BTy) (a n : Src)
  | sar (g : Guard) (d : Dest) (ty : BTy) (a n : Src)
  | rot (g : Guard) (d : Dest) (ty : BTy) (right : Bool) (a n : Src)
  | fsh (g : Guard) (d : Dest) (ty : BTy) (right : Bool) (a b n : Src)
  | bfx (g : Guard) (d : Dest) (ty : IntTy) (a pos len : Src)
  | bfi (g : Guard) (d : Dest) (ty : BTy) (a b c : Src)
  | popc (g : Guard) (d : Dest) (ty : BTy) (a : Src)
  | clz (g : Guard) (d : Dest) (ty : BTy) (a : Src)
  | brev (g : Guard) (d : Dest) (ty : BTy) (a : Src)
  | prmt (g : Guard) (d : Dest) (mode : PrmtMode) (a b sel : Src)
  -- the floating and packed groups (0x30 to 0x42)
  | fadd (g : Guard) (d : Dest) (ty : FTy) (m : FMod) (a b : Src)
  | fsub (g : Guard) (d : Dest) (ty : FTy) (m : FMod) (a b : Src)
  | fmul (g : Guard) (d : Dest) (ty : FTy) (m : FMod) (a b : Src)
  | ffma (g : Guard) (d : Dest) (ty : FTy) (m : FMod) (a b c : Src)
  | fmin (g : Guard) (d : Dest) (ty : FTy) (nanp ftz : Bool) (a b : Src)
  | fmax (g : Guard) (d : Dest) (ty : FTy) (nanp ftz : Bool) (a b : Src)
  | fcmp (g : Guard) (d : Dest) (ty : FTy) (cond : FCond) (ftz : Bool) (pw : Option (BitVec 3)) (a b : Src)
  | fclass (g : Guard) (d : Dest) (ty : FTy) (a : Src)
  | frcp (g : Guard) (d : Dest) (ty : FTy) (ftz : Bool) (a : Src)
  | frsq (g : Guard) (d : Dest) (ty : FTy) (ftz : Bool) (a : Src)
  | fsqrt (g : Guard) (d : Dest) (ty : FTy) (ftz : Bool) (a : Src)
  | flog2 (g : Guard) (d : Dest) (ty : FTy) (ftz : Bool) (a : Src)
  | fexp2 (g : Guard) (d : Dest) (ty : FTy) (ftz : Bool) (a : Src)
  | ftanh (g : Guard) (d : Dest) (ty : FTy) (ftz : Bool) (a : Src)
  | fsig (g : Guard) (d : Dest) (ty : FTy) (ftz : Bool) (a : Src)
  | hadd2 (g : Guard) (d : Dest) (ty : FTy) (m : FMod) (a b : Src)
  | hmul2 (g : Guard) (d : Dest) (ty : FTy) (m : FMod) (a b : Src)
  | hfma2 (g : Guard) (d : Dest) (ty : FTy) (m : FMod) (a b c : Src)
  -- the crew group (0x44 to 0x4A)
  | shfl (g : Guard) (d : Dest) (ty : BTy) (mode : ShflMode) (a b : Src)
  | vote (g : Guard) (d : Dest) (mode : VoteMode) (pw : Option (BitVec 3)) (a : Src)
  | red (g : Guard) (d : Dest) (ty : RedTy) (op : RedOp) (m : FMod) (a : Src)
  | rmaxi (g : Guard) (d : Dest) (ty : RedTy) (ftz : Bool) (a idx : Src)
  | scan (g : Guard) (d : Dest) (ty : RedTy) (op : RedOp) (excl : Bool) (m : FMod) (a : Src)
  | reform (ps : BitVec 3) (keep : W64)
  | elect (g : Guard) (d : Dest) (pw : Option (BitVec 3)) (cnd : Option Src)
  -- memory (0x50 to 0x5F)
  | ld (g : Guard) (d : Dest) (m : MemRef) (acq : Option Scope)
  | st (g : Guard) (m : MemRef) (data : Src) (rel : Option Scope)
  | lds (g : Guard) (d : Dest) (m : SpadRef)
  | sts (g : Guard) (m : SpadRef) (data : Src)
  | gather (g : Guard) (d : Dest) (m : MemRef)
  | scatter (g : Guard) (m : MemRef) (data : Src)
  | pref (g : Guard) (m : MemRef) (target : PrefTarget)
  | fence (g : Guard) (smask dmask : BitVec 8) (scope : Scope) (spadw : Bool)
  | icsync (g : Guard) (br : BitVec 4) (a len : Src)
  | copy (g : Guard) (dir : CopyDir) (src dst shape : Src) (x : CopyExt)
  | brld (g : Guard) (bd : BitVec 4) (a : Src) (br : BitVec 4) (off : BitVec 11) (acq : Option Scope)
  | brmk (g : Guard) (bd : BitVec 4) (base extent : Src) (baseHi : BitVec 8) (stride : BitVec 16)
      (rights : BitVec 5) (swz : BitVec 3)
  | spgrow (g : Guard) (d : Dest) (n : Src)
  | spfree (g : Guard) (n : Src)
  | pin (g : Guard) (d : Dest) (br : BitVec 4) (fade : BitVec 8) (a n : Src)
  | unpin (g : Guard) (h : Src)
  -- synchronisation (0x60 to 0x65)
  | atom (g : Guard) (d : Dest) (op : AtomOp) (ty : AtomTy) (br : BitVec 4) (off : BitVec 11)
      (scope : Option Scope) (a b c : Src)
  | atomo (g : Guard) (d : Dest) (op : AtomOp) (ty : AtomTy) (br : BitVec 4) (off : BitVec 11)
      (scope : Option Scope) (a b s : Src)
  | reds (g : Guard) (op : RedsOp) (ty : AtomTy) (br : BitVec 4) (off : BitVec 11) (a b c : Src)
  | combine (g : Guard) (grp : BitVec 12)
  | llock (g : Guard) (d : Dest) (br : BitVec 4) (off : BitVec 11) (limit : W32) (a : Src)
  | lunlock (g : Guard) (br : BitVec 4) (off : BitVec 10) (a : Src)
  -- matrix (0x70 to 0x78)
  | mma (g : Guard) (arow brow k0 : Src) (ha hb : BitVec 12) (km1 : BitVec 20) (lastA lastB : Bool)
  | mmas (g : Guard) (arow brow k0 : Src) (ha hb : BitVec 12) (km1 : BitVec 20) (lastA lastB : Bool)
  | mgrp (g : Guard) (table k0 groups : Src) (ha : BitVec 12) (km1 : BitVec 20) (lastA : Bool)
  | mzero (g : Guard)
  | mdrain (g : Guard) (stats key posseq : Src) (rnd : Rnd) (epi : Epi) (merge clr notile keyed : Bool)
      (hd : BitVec 12)
  | mmask (g : Guard) (addr : Src) (off : Bool)
  | mwait (g : Guard) (d : Dest)
  | tilepost (g : Guard) (h : BitVec 12)
  | tilewait (g : Guard) (d : Dest) (h : BitVec 12) (drain : Bool)
  -- wells (0x80 to 0x88)
  | wload (g : Guard) (w off first : Src) (kind : WloadKind) (sp : Bool) (cnt : WellCount) (br : BitVec 4)
      (xs : BitVec 3) (count : BitVec 18)
  | wbias (g : Guard) (w cell bias : Src) (cnt : WellCount)
  | wclamp (g : Guard) (w cell clamp : Src) (cnt : WellCount)
  | wsweep (g : Guard) (w off order : Src) (nclsm1 : BitVec 3) (cnt : WellCount) (x : SweepExt)
  | wread (g : Guard) (d : Dest) (w index : Src) (kind : WreadKind)
  | wkey (g : Guard) (w key : Src) (imm : Option W64) (cnt : WellCount)
  | wkeyPhys (g : Guard) (w : Src) (cnt : WellCount)
  | wkeyDraw (g : Guard) (key : Src) (imm : Option W64)
  | wnoise (g : Guard) (d : Dest) (keyed : Bool)
  | wstat (g : Guard) (d : Dest) (w : Src)
  | wlink (g : Guard) (w slot value : Src) (cnt : WellCount) (stale : BitVec 4)
  -- generation and the CSRs (0x90 to 0x97)
  | accept (g : Guard) (d : Dest) (a padlo n : Src) (vm1 padhi : BitVec 24) (br : BitVec 4) (seq : Bool)
  | ballot (g : Guard) (d : Dest) (hash : Option Src)
  | sibchk (g : Guard) (d : Dest) (trp : Bool)
  | ringput (g : Guard) (seq pos token : Src) (rh : BitVec 6)
  | csrr (g : Guard) (d : Dest) (csr : BitVec 12) (w64 : Bool)
  | csrw (g : Guard) (csr : BitVec 12) (w64 : Bool) (a : Src)
  | stamp (g : Guard) (a : Src)
  | trace (g : Guard) (a : Src)
  -- writes of registers with a step of their own
  | leasesetWrite (v : W32)
  | repmodeWrite (v : W32)
  | repmodeTakeEffect (ctx : Nat)
  | mondataWrite (v : W32)
  | requalify (v : W32)
  | hotcfgWrite (v : W32)
  | patternTest (v : W32)
  | patternTestDone (stack pch : Nat) (fails : BitVec 17)
  | trnHoldWrite (v : W32)
  | trnResRead
  | registerWrite (r : RegRef) (v : W64)
  -- user windows and BAR0
  | doorbell (queue : Nat) (v : W32)
  | windowViolation (queue off : Nat)
  | violRead (queue : Nat)
  | evtdropRead (dbg : Bool)
  | evtconsWrite (dbg : Bool) (v : W32)
  -- the commands of R392: each performs the command processor's next record
  | ctxCreate | ctxDestroy | queueBind | queueReset | preempt | resume | invalidate | faultAnswer
  | retireStack | retireAck | breakCmd | continueCmd | stampBind | traceOpen | traceClose | quiesce
  | release | image | restore | power | applyMargin | hotAck | attest
  -- the module
  | deviceReset (verified : Bool)
  | powerRemove
  | brakeOn (milliwatts : Nat)
  | brakeOff (milliwatts : Nat)
  | laneRepair (boundary : Nat)
  | deviceError (what : DeviceFailure)
  | peerLinkFail (link : Nat)
  | hostMemRead (link : Option Nat) (addr len : Nat)
  | hostMemWrite (link : Option Nat) (addr : Nat) (bytes : List Byte)
  -- dispatch and issue
  | issueSelect (core : Nat)
  | priorityAge (crew split : Nat)
  | cohortPlace
  | cohortStart (core : Nat)
  | spillEvict (core : Nat)
  | registerFill (crew reg : Nat)
  -- memory system
  | resultArrive (acc : Nat)
  | lineRequestHome (acc line : Nat)
  | storeArrive (acc line : Nat)
  | storeLand (line : Nat)
  | storeQueueSend (crew : Nat)
  | pageWalk (req : Nat)
  | pendingFaultPost (ctx : Nat)
  | operandLogReplay (crew : Nat)
  | trapDelivery (crew : Nat)
  | contextError (ctx : Nat)
  | cohortKill (cohort : Nat)
  -- synchronisation engines
  | syncAccess (acc line : Nat)
  | atomoRequest (acc lane : Nat)
  | atomoResend (acc lane : Nat)
  | redsContribution (acc lane : Nat)
  | lockRequest (acc : Nat)
  | lockTimeout (crew : Nat)
  | deadlockScan
  -- copies and gathers
  | copyComplete (id n : Nat)
  | copyViolation (id : Nat)
  | gatherExpand (acc stack : Nat)
  -- stacks and base dies
  | stackRequest (stack : Nat)
  | stackCompletion (stack tag : Nat) (ecc : EccOutcome)
  | scrub (stack : Nat) (ecc : EccOutcome)
  | rowRepair (stack : Nat)
  | regionClose
  | regionReopen
  | staleRequest (acc line : Nat)
  | fadeTick
  -- matrix engines
  | passGrant (cluster : Nat)
  | passComplete (cluster : Nat)
  | matrixFaultLimit (stream : Nat)
  | matrixPriorityAge (stream : Nat)
  | mzeroPerform (stream : Nat)
  | mmaskPerform (stream : Nat)
  | mdrainPerform (stream : Nat)
  | drainComplete (stream : Nat)
  -- wells
  | wellCommandPerform (well : Nat)
  | wellClassUpdate (well : Nat)
  | boundaryStateArrive (well slot : Nat)
  | healthWindow (well : Nat) (ones corr : Nat)
  -- the pump
  | queueEntryStart (queue : Nat)
  | kernelNodeStart (queue : Nat)
  | copyNode (queue : Nat)
  | condNode (queue : Nat)
  | loopIteration (queue : Nat)
  | endNode (queue : Nat)
  | phaseArrive (queue : Nat)
  | waitEvaluate (queue : Nat)
  | waitTick
  | waitTimeout (queue : Nat)
  | signalNode (queue : Nat)
  | ringNode (queue : Nat)
  | nodeComplete (queue : Nat)
  -- rings, siblings, the tile store, repeatable mode, observation
  | ringAppend (acc lane : Nat)
  | ringCoalesceTimeout (ctx ring : Nat)
  | ballotPost (acc : Nat)
  | siblingPageRelease (ctx group sib : Nat)
  | spgrowGrant (core : Nat)
  | replayTimeout (ctx : Nat)
  | countingRetry
  | monitorSample
  | traceFlush
  | quiesceComplete (scope : Nat)
  | imageComplete (scope : Nat) (linkOk : Bool)
  -- R97
  | illegalOpcode (op : BitVec 8)
deriving DecidableEq, Repr

end Sys2Proof
end

