-- ==== Sys2Proof/WellFormed.lean ====
section
/-! DEFINITION. WellFormed.lean: the field checks of R83 to R86 and R91 to R95 that an instruction's typed syntax
does not rule out already (check 5 of R100), and what an instruction names (its signature), which checks 3, 4 and 6
of R100 read. -/
namespace Sys2Proof

/-- The width of an operand (R66). -/
inductive Width | w32 | w64 | w128
deriving DecidableEq, Repr

/-- Which engines execute an opcode (R98, R99). -/
inductive EngineClass
  /-- cores and control cores, the service core included -/
  | both
  /-- cores only (R99) -/
  | coreOnly
  /-- control cores that own matrix streams only (R98, R99) -/
  | matrix
deriving DecidableEq, Repr

/-- The engine a crew runs on (R22, R24). -/
inductive Engine | core | control | service
deriving DecidableEq, Repr

/-- Whether an engine executes an opcode of the class (R98, R99). -/
def EngineClass.runsOn : EngineClass → Engine → Bool
  | .both, _ => true
  | .coreOnly, e => decide (e = .core)
  | .matrix, e => decide (e = .control)

/-- How a source is read: its width, and whether a small constant may stand there (R85). -/
structure SrcUse where
  src     : Src
  width   : Width
  noConst : Bool := false
deriving DecidableEq, Repr

/-- What an instruction writes (R62, R73, R80, R96). -/
inductive DestUse
  | none
  | q (d : Dest) (w : Width)
  | l (d : Dest) (w : Width)
  | record (b : BitVec 4)
deriving DecidableEq, Repr

/-- What an instruction names. -/
structure Sig where
  eng   : EngineClass := .coreOnly
  guard : Guard := Guard.always
  srcs  : List SrcUse := []
  dest  : DestUse := .none
  recs  : List (BitVec 4) := []
  csr   : Option (BitVec 12) := Option.none
  ok    : Bool := true
deriving DecidableEq, Repr

/-- R82: the specials that a 64-bit operand may name. -/
def Special.has64 : Special → Bool
  | .wid | .cohort | .clk | .dt => true
  | _ => false

/-- R66, R82, R84, R85: a source field is allowed at the operand's width. -/
def SrcUse.ok (u : SrcUse) : Bool :=
  match u.src, u.width with
  | .queue _, .w128 => false
  | .queue _, _ => true
  | .named _ _, .w32 => true
  | .named n _, .w64 => n.toNat % 2 == 0
  | .named n _, .w128 => n.toNat % 4 == 0
  | .scalar _, .w32 => true
  | .scalar n, .w64 => n.toNat % 2 == 0
  | .scalar _, .w128 => false
  | .special _, .w32 => true
  | .special k, .w64 => k.has64
  | .special _, .w128 => false
  | .const _, .w128 => false
  | .const _, _ => !u.noConst

/-- R66, R73, R83: a destination field is allowed at the result's width and class. -/
def DestUse.ok : DestUse → Bool
  | .none => true
  | .record _ => true
  | .q .push _ => true
  | .q (.named _) .w32 => true
  | .q (.named n) .w64 => n.toNat % 2 == 0
  | .q (.named n) .w128 => n.toNat % 4 == 0
  | .q (.scalar _) .w32 => true
  | .q (.scalar n) .w64 => n.toNat % 2 == 0
  | .q (.scalar _) .w128 => false
  | .l (.named _) .w32 => true
  | .l (.named n) .w64 => n.toNat % 2 == 0
  | .l (.named n) .w128 => n.toNat % 4 == 0
  | .l _ _ => false

/-- R91: the guard value 0b1111 is illegal. -/
def Guard.ok (g : Guard) : Bool := !(g.neg && g.p == 7)

/-- Check 5 of R100 on a signature. -/
def Sig.fieldsOk (s : Sig) : Bool :=
  s.guard.ok && s.srcs.all SrcUse.ok && s.dest.ok && s.ok

/-- The operand width of an integer type (R104). -/
def IntTy.operand : IntTy → Width
  | .s64 | .n64 => .w64
  | _ => .w32

/-- The operand width of a logic type (R405). -/
def BTy.operand : BTy → Width
  | .b32 => .w32
  | .b64 => .w64

/-- The operand width of a RED type. -/
def RedTy.operand : RedTy → Width
  | .s64 | .n64 => .w64
  | _ => .w32

/-- Whether a RED type is an integer type. -/
def RedTy.isInt : RedTy → Bool
  | .s32 | .n32 | .s64 | .n64 => true
  | _ => false

/-- The operand width of an atomic type (R412). -/
def AtomTy.operand : AtomTy → Width
  | .s64 | .n64 => .w64
  | _ => .w32

/-- The register width of a memory operand (R66, R94). -/
def Size.operand : Size → Width
  | .b64 => .w64
  | .b128 => .w128
  | _ => .w32

/-- The types FADD and its like accept (R461). -/
def FTy.wide : FTy → Bool
  | .f32 | .f16 | .bf16 => true
  | _ => false

/-- The types the packed instructions accept (R483). -/
def FTy.half : FTy → Bool
  | .f16 | .bf16 => true
  | _ => false

/-- The 8-bit formats, for which a small constant is not allowed (R85). -/
def FTy.byte : FTy → Bool
  | .e4m3 | .e5m2 => true
  | _ => false

/-- Whether a type is floating. -/
def NumTy.isFlt : NumTy → Bool
  | .flt _ => true
  | _ => false

/-- The storage bits of a floating type (R107). -/
def FTy.bits : FTy → Nat
  | .f32 => 32
  | .f16 | .bf16 => 16
  | _ => 8

/-- R452: whether a CVT destination is narrower than its source (both floating). -/
def FTy.narrower : FTy → FTy → Bool
  | .f16, .bf16 => true
  | .bf16, .f16 => true
  | .e4m3, .e5m2 => true
  | .e5m2, .e4m3 => true
  | d, s => d.bits < s.bits

/-- The register width of a CVT operand (R451). -/
def NumTy.operand : NumTy → NumTy → Width
  | .int t, _ => t.operand
  | .flt _, _ => .w32
  | .nib _, _ => .w32

/-- R452: the width of a CVT source: a pair for 64-bit types, and for .s8/.n8 read as packed bytes beside a
nibble destination. -/
def cvtSrcWidth (dty sty : NumTy) : Width :=
  match dty, sty with
  | .nib _, .int .s8 => .w64
  | .nib _, .int .n8 => .w64
  | _, .int t => t.operand
  | _, _ => .w32

/-- R452: the width of a CVT result: a pair for 64-bit types, and for packed bytes out of a nibble source. -/
def cvtDestWidth (dty sty : NumTy) : Width :=
  match dty, sty with
  | .int .s8, .nib _ => .w64
  | .int .n8, .nib _ => .w64
  | .int t, _ => t.operand
  | _, _ => .w32

/-- R450, R452, R453: the type pairs, rounding codes and .ftz that CVT accepts. -/
def cvtOk (dty sty : NumTy) (m : FMod) : Bool :=
  let ftzOk := !m.ftz || (match dty, sty with
    | .flt d, .flt s => (d.wide || s.wide) && !d.byte && !s.byte
    | .flt d, .int _ => d.wide
    | .int _, .flt s => s.wide
    | _, _ => false)
  match dty, sty with
  | .int _, .int _ => m.rnd == .rne && !m.ftz
  | .flt _, .int _ => ftzOk
  | .int _, .flt _ => ftzOk
  | .flt d, .flt s => ftzOk && (m.rnd != .sr || d.narrower s)
  | .int t, .nib _ => (t == .s8 || t == .n8) && m.rnd == .rne && !m.ftz
  | .nib _, .int t => (t == .s8 || t == .n8) && m.rnd == .rne && !m.ftz
  | .nib _, .nib _ => m.rnd == .rne && !m.ftz
  | .nib _, .flt _ => false
  | .flt _, .nib _ => false

/-- R413: the pairs of OPC and TYPE that ATOM allows. -/
def atomPairOk (op : AtomOp) (ty : AtomTy) : Bool :=
  match op with
  | .exch => true
  | .fadd | .fmin | .fmax => ty == .f32
  | _ => ty != .f32

/-- R492: the types of IDP4. -/
def idp4Bits : NumTy → Nat
  | .int .s8 | .int .n8 => 8
  | .nib _ => 4
  | _ => 0

/-- R531, R93: what RED and SCAN accept. -/
def redOk (ty : RedTy) (op : RedOp) (m : FMod) : Bool :=
  m.rnd != .sr
  && (!ty.isInt || (m.rnd == .rne && !m.ftz))
  && (ty.isInt || (op == .add || op == .min || op == .max))
  && (!m.sat || op == .add)

/-- A 32-bit source. -/
def s32 (s : Src) : SrcUse := { src := s, width := .w32 }

/-- A 64-bit source. -/
def s64 (s : Src) : SrcUse := { src := s, width := .w64 }

/-- A source of a width. -/
def sw (s : Src) (w : Width) : SrcUse := { src := s, width := w }

/-- The signature of an instruction, from its reference entry (R403 to R581): engines, guard, sources in field
order, destination, records read, CSR number, and the entry's own restrictions on its fields' values, which are taken as
field encodings of check 5 of R100 (log entry 67: DESIGN CHOICE). -/
def Instr.sig : Instr → Sig
  | .nop g => { eng := .both, guard := g }
  | .bra _ => { eng := .both }
  | .brc g _ => { eng := .both, guard := g }
  | .call _ => { eng := .both }
  | .ret => { eng := .both }
  | .exit g => { eng := .both, guard := g }
  | .exitSuccessor _ _ => { eng := .both }
  | .yield t _ _ => { srcs := [s32 t] }
  | .waitc g t _ => { eng := .both, guard := g, srcs := [s32 t] }
  | .bar _ _ => { }
  | .trap g _ => { eng := .both, guard := g }
  | .rtt => { eng := .both }
  | .gsig g a => { eng := .both, guard := g, srcs := [s32 a] }
  | .iadd g d ty _ a b => { eng := .both, guard := g, srcs := [sw a ty.operand, sw b ty.operand], dest := .q d ty.operand }
  | .isub g d ty _ a b => { eng := .both, guard := g, srcs := [sw a ty.operand, sw b ty.operand], dest := .q d ty.operand }
  | .imul g d ty _ a b => { eng := .both, guard := g, srcs := [sw a ty.operand, sw b ty.operand], dest := .q d ty.operand }
  | .imulh g d ty a b => { eng := .both, guard := g, srcs := [sw a ty.operand, sw b ty.operand], dest := .q d ty.operand }
  | .imad g d ty _ a b c =>
      { eng := .both, guard := g, srcs := [sw a ty.operand, sw b ty.operand, sw c ty.operand], dest := .q d ty.operand }
  | .idiv g d ty _ _ _ a b =>
      { eng := .both, guard := g, srcs := [sw a ty.operand, sw b ty.operand], dest := .l d ty.operand,
        ok := ty == .s32 || ty == .n32 || ty == .s64 || ty == .n64 }
  | .imin g d ty a b => { eng := .both, guard := g, srcs := [sw a ty.operand, sw b ty.operand], dest := .q d ty.operand }
  | .imax g d ty a b => { eng := .both, guard := g, srcs := [sw a ty.operand, sw b ty.operand], dest := .q d ty.operand }
  | .iabs g d ty _ a => { eng := .both, guard := g, srcs := [sw a ty.operand], dest := .q d ty.operand }
  | .ineg g d ty _ a => { eng := .both, guard := g, srcs := [sw a ty.operand], dest := .q d ty.operand }
  | .icmp g d ty _ _ a b => { eng := .both, guard := g, srcs := [sw a ty.operand, sw b ty.operand], dest := .q d .w32 }
  | .idp4 g d aty bty _ a b c =>
      { guard := g, srcs := [s32 a, s32 b, s32 c], dest := .q d .w32,
        ok := idp4Bits aty != 0 && idp4Bits aty == idp4Bits bty }
  | .sel g d w64 _ _ a b =>
      let w : Width := if w64 then .w64 else .w32
      { eng := .both, guard := g, srcs := [sw a w, sw b w], dest := .q d w }
  | .mov g d w64 a =>
      let w : Width := if w64 then .w64 else .w32
      { eng := .both, guard := g, srcs := [sw a w], dest := .q d w }
  | .movi g d form a _ =>
      { eng := .both, guard := g, srcs := [s32 a],
        dest := .q d (match form with | .plain => .w32 | _ => .w64),
        ok := form == .hi || a == Src.zero }
  | .cvt g d dty sty m a =>
      { eng := if dty.isFlt || sty.isFlt then .coreOnly else .both, guard := g,
        srcs := [{ src := a, width := cvtSrcWidth dty sty,
                   noConst := match sty with | .flt t => t.byte | _ => false }],
        dest := .q d (cvtDestWidth dty sty), ok := cvtOk dty sty m }
  | .andL g d ty a b => { eng := .both, guard := g, srcs := [sw a ty.operand, sw b ty.operand], dest := .q d ty.operand }
  | .orL g d ty a b => { eng := .both, guard := g, srcs := [sw a ty.operand, sw b ty.operand], dest := .q d ty.operand }
  | .xorL g d ty a b => { eng := .both, guard := g, srcs := [sw a ty.operand, sw b ty.operand], dest := .q d ty.operand }
  | .notL g d ty a => { eng := .both, guard := g, srcs := [sw a ty.operand], dest := .q d ty.operand }
  | .bool3 g d ty _ a b c =>
      { eng := .both, guard := g, srcs := [sw a ty.operand, sw b ty.operand, sw c ty.operand], dest := .q d ty.operand }
  | .shl g d ty a n => { eng := .both, guard := g, srcs := [sw a ty.operand, s32 n], dest := .q d ty.operand }
  | .shr g d ty a n => { eng := .both, guard := g, srcs := [sw a ty.operand, s32 n], dest := .q d ty.operand }
  | .sar g d ty a n => { eng := .both, guard := g, srcs := [sw a ty.operand, s32 n], dest := .q d ty.operand }
  | .rot g d ty _ a n => { eng := .both, guard := g, srcs := [sw a ty.operand, s32 n], dest := .q d ty.operand }
  | .fsh g d ty _ a b n =>
      { eng := .both, guard := g, srcs := [sw a ty.operand, sw b ty.operand, s32 n], dest := .q d ty.operand }
  | .bfx g d ty a pos len =>
      { eng := .both, guard := g, srcs := [sw a ty.operand, s32 pos, s32 len], dest := .q d ty.operand,
        ok := ty == .s32 || ty == .n32 || ty == .s64 || ty == .n64 }
  | .bfi g d ty a b c =>
      { eng := .both, guard := g, srcs := [sw a ty.operand, sw b ty.operand, s32 c], dest := .q d ty.operand }
  | .popc g d ty a => { eng := .both, guard := g, srcs := [sw a ty.operand], dest := .q d .w32 }
  | .clz g d ty a => { eng := .both, guard := g, srcs := [sw a ty.operand], dest := .q d .w32 }
  | .brev g d ty a => { eng := .both, guard := g, srcs := [sw a ty.operand], dest := .q d ty.operand }
  | .prmt g d _ a b c => { eng := .both, guard := g, srcs := [s32 a, s32 b, s32 c], dest := .q d .w32 }
  | .fadd g d ty _ a b => { guard := g, srcs := [s32 a, s32 b], dest := .q d .w32, ok := ty.wide }
  | .fsub g d ty _ a b => { guard := g, srcs := [s32 a, s32 b], dest := .q d .w32, ok := ty.wide }
  | .fmul g d ty _ a b => { guard := g, srcs := [s32 a, s32 b], dest := .q d .w32, ok := ty.wide }
  | .ffma g d ty _ a b c => { guard := g, srcs := [s32 a, s32 b, s32 c], dest := .q d .w32, ok := ty.wide }
  | .fmin g d ty _ _ a b => { guard := g, srcs := [s32 a, s32 b], dest := .q d .w32, ok := ty.wide }
  | .fmax g d ty _ _ a b => { guard := g, srcs := [s32 a, s32 b], dest := .q d .w32, ok := ty.wide }
  | .fcmp g d ty _ _ _ a b => { guard := g, srcs := [s32 a, s32 b], dest := .q d .w32, ok := ty.wide }
  | .fclass g d ty a => { guard := g, srcs := [{ src := a, width := .w32, noConst := ty.byte }], dest := .q d .w32 }
  | .frcp g d ty _ a => { guard := g, srcs := [s32 a], dest := .q d .w32, ok := ty.wide }
  | .frsq g d ty _ a => { guard := g, srcs := [s32 a], dest := .q d .w32, ok := ty.wide }
  | .fsqrt g d ty _ a => { guard := g, srcs := [s32 a], dest := .q d .w32, ok := ty.wide }
  | .flog2 g d ty _ a => { guard := g, srcs := [s32 a], dest := .q d .w32, ok := ty.wide }
  | .fexp2 g d ty _ a => { guard := g, srcs := [s32 a], dest := .q d .w32, ok := ty.wide }
  | .ftanh g d ty _ a => { guard := g, srcs := [s32 a], dest := .q d .w32, ok := ty.wide }
  | .fsig g d ty _ a => { guard := g, srcs := [s32 a], dest := .q d .w32, ok := ty.wide }
  | .hadd2 g d ty _ a b => { guard := g, srcs := [s32 a, s32 b], dest := .q d .w32, ok := ty.half }
  | .hmul2 g d ty _ a b => { guard := g, srcs := [s32 a, s32 b], dest := .q d .w32, ok := ty.half }
  | .hfma2 g d ty _ a b c => { guard := g, srcs := [s32 a, s32 b, s32 c], dest := .q d .w32, ok := ty.half }
  | .shfl g d ty _ a b => { guard := g, srcs := [sw a ty.operand, s32 b], dest := .q d ty.operand }
  | .vote g d mode pw a => { guard := g, srcs := [s32 a], dest := .q d .w32, ok := !(mode == .ballot && pw.isSome) }
  | .red g d ty op m a => { guard := g, srcs := [sw a ty.operand], dest := .q d ty.operand, ok := redOk ty op m }
  | .rmaxi g d ty ftz a idx =>
      { guard := g, srcs := [s32 a, s32 idx], dest := .q d .w64,
        ok := ty != .s64 && ty != .n64 && (!ty.isInt || !ftz) && (match d with | .scalar _ => false | _ => true) }
  | .scan g d ty op _ m a => { guard := g, srcs := [sw a ty.operand], dest := .q d ty.operand, ok := redOk ty op m }
  | .reform _ _ => { }
  | .elect g d _ cnd => { guard := g, srcs := (match cnd with | some a => [s32 a] | none => []), dest := .q d .w32 }
  | .ld g d m _ => { eng := .both, guard := g, srcs := [s32 m.a], dest := .l d m.sz.operand, recs := [m.br] }
  | .st g m data _ => { eng := .both, guard := g, srcs := [s32 m.a, sw data m.sz.operand], recs := [m.br] }
  | .lds g d m => { guard := g, srcs := [s32 m.a], dest := .l d m.sz.operand }
  | .sts g m data => { guard := g, srcs := [s32 m.a, sw data m.sz.operand] }
  | .gather g d m => { guard := g, srcs := [s32 m.a], dest := .l d m.sz.operand, recs := [m.br] }
  | .scatter g m data => { guard := g, srcs := [s32 m.a, sw data m.sz.operand], recs := [m.br] }
  | .pref g m _ => { guard := g, srcs := [s32 m.a], recs := [m.br] }
  | .fence g smask dmask _ _ => { eng := .both, guard := g, ok := smask != 0 && dmask != 0 }
  | .icsync g br a len => { guard := g, srcs := [s32 a, s32 len], recs := [br] }
  | .copy g dir src dst shape x =>
      { guard := g, srcs := [s64 src, s64 dst, s32 shape],
        recs := (match dir with | .g2s => [x.brs] | .s2g => [x.brd] | .g2g => [x.brs, x.brd]),
        ok := (match dir with | .g2s => x.brd == 0 | .s2g => x.brs == 0 | .g2g => x.xs == 0) }
  | .brld g bd a br _ _ => { eng := .both, guard := g, srcs := [s32 a], dest := .record bd, recs := [br] }
  | .brmk g bd base extent _ _ _ _ => { eng := .both, guard := g, srcs := [s64 base, s32 extent], dest := .record bd }
  | .spgrow g d n => { guard := g, srcs := [s32 n], dest := .l d .w32 }
  | .spfree g n => { guard := g, srcs := [s32 n] }
  | .pin g d br _ a n => { guard := g, srcs := [s64 a, s32 n], dest := .l d .w32, recs := [br] }
  | .unpin g h => { guard := g, srcs := [s32 h] }
  | .atom g d op ty br _ _ a b c =>
      { eng := .both, guard := g, srcs := [s32 a, sw b ty.operand, sw c ty.operand], dest := .l d ty.operand,
        recs := [br], ok := atomPairOk op ty && (op == .cas || c == Src.zero) }
  | .atomo g d op ty br _ _ a b s =>
      { guard := g, srcs := [s32 a, s32 b, s32 s], dest := .l d .w64, recs := [br],
        ok := atomPairOk op ty && op != .cas && ty != .s64 && ty != .n64 }
  | .reds g _ ty br _ a b c => { guard := g, srcs := [s32 a, sw b ty.operand, s32 c], recs := [br] }
  | .combine g _ => { guard := g }
  | .llock g d br _ _ a => { guard := g, srcs := [s32 a], dest := .l d .w32, recs := [br] }
  | .lunlock g br _ a => { guard := g, srcs := [s32 a], recs := [br] }
  | .mma g arow brow k0 _ _ _ _ _ => { eng := .matrix, guard := g, srcs := [s32 arow, s32 brow, s32 k0] }
  | .mmas g arow brow k0 _ _ km1 _ _ =>
      { eng := .matrix, guard := g, srcs := [s32 arow, s32 brow, s32 k0], ok := (km1.toNat + 1) % 64 == 0 }
  | .mgrp g table k0 groups _ _ _ => { eng := .matrix, guard := g, srcs := [s64 table, s32 k0, s32 groups] }
  | .mzero g => { eng := .matrix, guard := g }
  | .mdrain g stats key posseq rnd epi merge _ notile keyed _ =>
      { eng := .matrix, guard := g, srcs := [s64 stats, s64 key, s64 posseq],
        ok := rnd != .sr && (epi != .none || (!merge && !notile && stats == Src.zero)) && (epi == .gmax || !keyed)
              && (epi == .gmax || (key == Src.zero && posseq == Src.zero)) }
  | .mmask g addr off => { eng := .matrix, guard := g, srcs := [s64 addr], ok := !off || addr == Src.zero }
  | .mwait g d => { eng := .matrix, guard := g, dest := .l d .w32 }
  | .tilepost g _ => { guard := g }
  | .tilewait g d _ _ => { guard := g, dest := .l d .w32 }
  | .wload g w off first _ sp _ br _ count =>
      { guard := g, srcs := [s32 w, s32 off, s32 first], recs := (if sp then [] else [br]), ok := (!sp || br == 0) && count != 0 }
  | .wbias g w cell bias _ => { guard := g, srcs := [s32 w, s32 cell, s32 bias] }
  | .wclamp g w cell clamp _ => { guard := g, srcs := [s32 w, s32 cell, s32 clamp] }
  | .wsweep g w off order _ _ x =>
      { guard := g, srcs := [s32 w, s32 off, s32 order], recs := (if x.str && !x.ssp then [x.br] else []),
        ok := x.sweeps != 0 && (x.str || (off == Src.zero && x.br == 0 && x.xs == 0 && !x.ssp && x.len == 0))
              && !(x.ssp && x.br != 0) }
  | .wread g d w index kind =>
      { guard := g, srcs := [s32 w, s32 index], dest := .l d (if kind == .cell then .w64 else .w32) }
  | .wkey g w key imm _ => { guard := g, srcs := [s32 w, s64 key], ok := imm.isNone || key == Src.zero }
  | .wkeyPhys g w _ => { guard := g, srcs := [s32 w] }
  | .wkeyDraw g key imm => { guard := g, srcs := [s64 key], ok := imm.isNone || key == Src.zero }
  | .wnoise g d _ => { guard := g, dest := .l d .w32 }
  | .wstat g d w => { guard := g, srcs := [s32 w], dest := .l d .w32 }
  | .wlink g w slot value _ _ => { guard := g, srcs := [s32 w, s32 slot, s32 value] }
  | .accept g d a padlo n _ _ br _ => { guard := g, srcs := [s32 a, s32 padlo, s32 n], dest := .l d .w64, recs := [br] }
  | .ballot g d hash => { guard := g, srcs := (match hash with | some h => [s64 h] | none => []), dest := .l d .w32 }
  | .sibchk g d _ => { guard := g, dest := .q d .w32 }
  | .ringput g seq pos token _ => { guard := g, srcs := [s32 seq, s32 pos, s32 token] }
  | .csrr g d csr w64 => { eng := .both, guard := g, dest := .q d (if w64 then .w64 else .w32), csr := some csr }
  | .csrw g csr w64 a => { eng := .both, guard := g, srcs := [if w64 then s64 a else s32 a], csr := some csr }
  | .stamp g a => { guard := g, srcs := [s32 a] }
  | .trace g a => { eng := .both, guard := g, srcs := [s64 a] }
  | .illegalOpcode _ => { eng := .both }
  | _ => { eng := .both }

/-- Check 5 of R100: every field encoding of the instruction is legal. -/
def Instr.wf (i : Instr) : Bool := i.sig.fieldsOk

/-- Whether the constructor is a step of another agent, and not an instruction that a split issues. -/
def Instr.isEvent : Instr → Bool
  | .leasesetWrite _ | .repmodeWrite _ | .repmodeTakeEffect _ | .mondataWrite _ | .requalify _ | .hotcfgWrite _
  | .patternTest _ | .patternTestDone _ _ _ | .trnHoldWrite _ | .trnResRead | .registerWrite _ _ | .doorbell _ _
  | .windowViolation _ _ | .violRead _ | .evtdropRead _ | .evtconsWrite _ _ | .ctxCreate | .ctxDestroy | .queueBind
  | .queueReset | .preempt | .resume | .invalidate | .faultAnswer | .retireStack | .retireAck | .breakCmd
  | .continueCmd | .stampBind | .traceOpen | .traceClose | .quiesce | .release | .image | .restore | .power
  | .applyMargin | .hotAck | .attest | .deviceReset _ | .powerRemove | .brakeOn _ | .brakeOff _ | .laneRepair _
  | .deviceError _ | .peerLinkFail _ | .hostMemRead _ _ _ | .hostMemWrite _ _ _ | .issueSelect _ | .priorityAge _ _
  | .cohortPlace | .cohortStart _ | .spillEvict _ | .registerFill _ _ | .resultArrive _ | .lineRequestHome _ _
  | .storeArrive _ _ | .storeLand _ | .storeQueueSend _ | .pageWalk _ | .pendingFaultPost _ | .operandLogReplay _
  | .trapDelivery _ | .contextError _ | .cohortKill _ | .syncAccess _ _ | .atomoRequest _ _ | .atomoResend _ _
  | .redsContribution _ _ | .lockRequest _ | .lockTimeout _ | .deadlockScan | .copyComplete _ _ | .copyViolation _
  | .gatherExpand _ _ | .stackRequest _ | .stackCompletion _ _ _ | .scrub _ _ | .rowRepair _ | .regionClose
  | .regionReopen | .staleRequest _ _ | .fadeTick | .passGrant _ | .passComplete _ | .matrixFaultLimit _
  | .matrixPriorityAge _ | .mzeroPerform _ | .mmaskPerform _ | .mdrainPerform _ | .drainComplete _
  | .wellCommandPerform _ | .wellClassUpdate _ | .boundaryStateArrive _ _ | .healthWindow _ _ _
  | .queueEntryStart _ | .kernelNodeStart _ | .copyNode _ | .condNode _ | .loopIteration _ | .endNode _
  | .phaseArrive _ | .waitEvaluate _ | .waitTick | .waitTimeout _ | .signalNode _ | .ringNode _ | .nodeComplete _
  | .ringAppend _ _ | .ringCoalesceTimeout _ _ | .ballotPost _ | .siblingPageRelease _ _ _ | .spgrowGrant _
  | .replayTimeout _ | .countingRetry | .monitorSample | .traceFlush | .quiesceComplete _ | .imageComplete _ _ => true
  | _ => false

end Sys2Proof
end

