-- ==== Sys2Proof/Decode.lean ====
section
/-! DEFINITION. Decode.lean: the encoding of instruction words (R83 to R97 and the encoding tables of R406 to
R580). A decoder total on any words, which rejects by name, and an encoder written from the same tables. -/
namespace Sys2Proof

/-- Why a word is no instruction. All but the first give ILLEGAL_OPERAND at check 5 of R100. -/
inductive Reject
  /-- the opcode takes an extension word, which lies beyond the block (R90; check 2 of R100) -/
  | noExtension
  /-- a guard field that R91 or the entry forbids -/
  | guardField
  /-- a destination field against R83 -/
  | destField
  /-- a source field against R84, or a non-zero unused one (R86) -/
  | srcField
  /-- a modifier field against R93, R94 or the entry, or a non-zero unused one (R86) -/
  | modField
  /-- a non-zero reserved or forbidden bit of the extension word (R95) -/
  | extField
  /-- an operand width, register index or combination that the entry forbids (R66, R403) -/
  | operand
deriving DecidableEq, Repr

/-- What the decoder answers. -/
inductive Decoded
  | instr (i : Instr)
  | reject (r : Reject)
deriving DecidableEq, Repr

/-- What a decoding step answers. -/
abbrev Dec (α : Type) := Except Reject α

/-- The fields of format A (R92), of which the other formats are regroupings. -/
structure Fields where
  op  : BitVec 8
  g   : BitVec 4
  d   : BitVec 8
  a   : BitVec 10
  b   : BitVec 10
  c   : BitVec 10
  mod : BitVec 14
deriving DecidableEq, Repr

/-- R92: the fields of a word. -/
def Fields.ofWord (w : W64) : Fields :=
  { op := w.extractLsb' 56 8, g := w.extractLsb' 52 4, d := w.extractLsb' 44 8, a := w.extractLsb' 34 10,
    b := w.extractLsb' 24 10, c := w.extractLsb' 14 10, mod := w.extractLsb' 0 14 }

/-- R92: the word of the fields. -/
def Fields.toWord (f : Fields) : W64 :=
  ((f.op ++ f.g ++ f.d ++ f.a ++ f.b ++ f.c ++ f.mod : BitVec 64))

/-- A condition that must hold, else the word is rejected. -/
def need (b : Bool) (r : Reject) : Dec Unit := if b then .ok () else .error r

/-- A code that must be one of the entry's, else the word is rejected. -/
def needSome {α : Type} (o : Option α) (r : Reject) : Dec α :=
  match o with
  | some x => .ok x
  | none => .error r

/-- One bit as a Bool. -/
def flag {n : Nat} (w : BitVec n) (i : Nat) : Bool := w.getLsbD i

/-- A Bool as one bit. -/
def bit (b : Bool) : BitVec 1 := BitVec.ofBool b

-- codes of the enumerations, both ways

/-- R82: the index of a special, from 64. -/
def Special.code : Special → BitVec 7
  | .wid => 64 | .widHi => 65 | .cohort => 66 | .cohortHi => 67 | .lane => 68 | .crew => 69
  | .clk => 70 | .clkHi => 71 | .dt => 72 | .dtHi => 73 | .fpflags => 74 | .sib => 75

/-- R82: the special of an index. -/
def Special.ofCode (c : BitVec 7) : Option Special :=
  match c.toNat with
  | 64 => some .wid | 65 => some .widHi | 66 => some .cohort | 67 => some .cohortHi | 68 => some .lane
  | 69 => some .crew | 70 => some .clk | 71 => some .clkHi | 72 => some .dt | 73 => some .dtHi
  | 74 => some .fpflags | 75 => some .sib | _ => none

/-- R91. -/
def Guard.code (g : Guard) : BitVec 4 := bit g.neg ++ g.p

/-- R91. -/
def Guard.ofCode (c : BitVec 4) : Guard := { neg := flag c 3, p := c.extractLsb' 0 3 }

/-- R84. -/
def Src.code : Src → BitVec 10
  | .queue n => (0 : BitVec 1) ++ (0 : BitVec 2) ++ (0 : BitVec 3) ++ n
  | .named n t => bit t ++ (1 : BitVec 2) ++ (0 : BitVec 1) ++ n
  | .scalar n => (0 : BitVec 1) ++ (2 : BitVec 2) ++ (0 : BitVec 2) ++ n
  | .special k => (0 : BitVec 1) ++ (2 : BitVec 2) ++ k.code
  | .const c => (0 : BitVec 1) ++ (3 : BitVec 2) ++ c

/-- R84. -/
def Src.ofCode (c : BitVec 10) : Option Src :=
  let i : BitVec 7 := c.extractLsb' 0 7
  match (c.extractLsb' 7 2).toNat with
  | 0 => if flag c 9 || decide (16 ≤ i.toNat) then none else some (.queue (i.extractLsb' 0 4))
  | 1 => if decide (64 ≤ i.toNat) then none else some (.named (i.extractLsb' 0 6) (flag c 9))
  | 2 =>
    if flag c 9 then none
    else if i.toNat < 32 then some (.scalar (i.extractLsb' 0 5))
    else (Special.ofCode i).map .special
  | _ => if flag c 9 then none else some (.const i)

/-- R83. -/
def Dest.code : Dest → BitVec 8
  | .push => 0
  | .named n => (2 : BitVec 2) ++ n
  | .scalar n => (1 : BitVec 2) ++ (0 : BitVec 1) ++ n

/-- R83. -/
def Dest.ofCode (c : BitVec 8) : Option Dest :=
  match (c.extractLsb' 6 2).toNat with
  | 0 => if c = 0 then some .push else none
  | 1 => if flag c 5 then none else some (.scalar (c.extractLsb' 0 5))
  | 2 => some (.named (c.extractLsb' 0 6))
  | _ => none

/-- R93. -/
def IntTy.code : IntTy → BitVec 4
  | .s32 => 0 | .n32 => 1 | .s64 => 2 | .n64 => 3 | .s16 => 4 | .n16 => 5 | .s8 => 6 | .n8 => 7

/-- R93. -/
def FTy.code : FTy → BitVec 4
  | .f32 => 8 | .f16 => 9 | .bf16 => 10 | .e4m3 => 11 | .e5m2 => 12

/-- R93. -/
def NumTy.code : NumTy → BitVec 4
  | .int t => t.code
  | .flt t => t.code
  | .nib .s4 => 13
  | .nib .n4 => 14

/-- R93. -/
def NumTy.ofCode (c : BitVec 4) : Option NumTy :=
  match c.toNat with
  | 0 => some (.int .s32) | 1 => some (.int .n32) | 2 => some (.int .s64) | 3 => some (.int .n64)
  | 4 => some (.int .s16) | 5 => some (.int .n16) | 6 => some (.int .s8) | 7 => some (.int .n8)
  | 8 => some (.flt .f32) | 9 => some (.flt .f16) | 10 => some (.flt .bf16) | 11 => some (.flt .e4m3)
  | 12 => some (.flt .e5m2) | 13 => some (.nib .s4) | 14 => some (.nib .n4) | _ => none

/-- R93: an integer TYPE. -/
def IntTy.ofCode (c : BitVec 4) : Option IntTy :=
  match NumTy.ofCode c with
  | some (.int t) => some t
  | _ => none

/-- R93: a floating TYPE. -/
def FTy.ofCode (c : BitVec 4) : Option FTy :=
  match NumTy.ofCode c with
  | some (.flt t) => some t
  | _ => none

/-- R405. -/
def BTy.code : BTy → BitVec 4
  | .b32 => 1 | .b64 => 3

/-- R405. -/
def BTy.ofCode (c : BitVec 4) : Option BTy :=
  match c.toNat with
  | 1 => some .b32 | 3 => some .b64 | _ => none

/-- R93. -/
def Rnd.code : Rnd → BitVec 3
  | .rne => 0 | .rz => 1 | .rdn => 2 | .rup => 3 | .rna => 4 | .sr => 5

/-- R93. -/
def Rnd.ofCode (c : BitVec 3) : Option Rnd :=
  match c.toNat with
  | 0 => some .rne | 1 => some .rz | 2 => some .rdn | 3 => some .rup | 4 => some .rna | 5 => some .sr | _ => none

/-- R94. -/
def Size.code : Size → BitVec 3
  | .n8 => 0 | .s8 => 1 | .n16 => 2 | .s16 => 3 | .b32 => 4 | .b64 => 5 | .b128 => 6

/-- R94. -/
def Size.ofCode (c : BitVec 3) : Option Size :=
  match c.toNat with
  | 0 => some .n8 | 1 => some .s8 | 2 => some .n16 | 3 => some .s16 | 4 => some .b32 | 5 => some .b64
  | 6 => some .b128 | _ => none

/-- R94: codes 1 to 6. -/
def Scope.code : Scope → BitVec 3
  | .crew => 1 | .cohort => 2 | .cluster => 3 | .die => 4 | .pkg => 5 | .sys => 6

/-- R94: 0 is plain, 7 reserved. -/
def Scope.code? : Option Scope → BitVec 3
  | none => 0
  | some s => s.code

/-- R94. -/
def Scope.ofCode? (c : BitVec 3) : Option (Option Scope) :=
  match c.toNat with
  | 0 => some none | 1 => some (some .crew) | 2 => some (some .cohort) | 3 => some (some .cluster)
  | 4 => some (some .die) | 5 => some (some .pkg) | 6 => some (some .sys) | _ => none

/-- R487. -/
def ICond.code : ICond → BitVec 3
  | .eq => 0 | .ne => 1 | .lt => 2 | .le => 3 | .gt => 4 | .ge => 5 | .tst => 6

/-- R487. -/
def ICond.ofCode (c : BitVec 3) : Option ICond :=
  match c.toNat with
  | 0 => some .eq | 1 => some .ne | 2 => some .lt | 3 => some .le | 4 => some .gt | 5 => some .ge | 6 => some .tst
  | _ => none

/-- R466. -/
def FCond.code : FCond → BitVec 4
  | .eq => 0 | .lt => 1 | .le => 2 | .gt => 3 | .ge => 4 | .ne => 5 | .num => 6
  | .equ => 8 | .ltu => 9 | .leu => 10 | .gtu => 11 | .geu => 12 | .neu => 13 | .nan => 14

/-- R466. -/
def FCond.ofCode (c : BitVec 4) : Option FCond :=
  match c.toNat with
  | 0 => some .eq | 1 => some .lt | 2 => some .le | 3 => some .gt | 4 => some .ge | 5 => some .ne | 6 => some .num
  | 8 => some .equ | 9 => some .ltu | 10 => some .leu | 11 => some .gtu | 12 => some .geu | 13 => some .neu
  | 14 => some .nan | _ => none

/-- R531. -/
def RedOp.code : RedOp → BitVec 3
  | .add => 0 | .min => 1 | .max => 2 | .and => 3 | .or => 4 | .xor => 5

/-- R531. -/
def RedOp.ofCode (c : BitVec 3) : Option RedOp :=
  match c.toNat with
  | 0 => some .add | 1 => some .min | 2 => some .max | 3 => some .and | 4 => some .or | 5 => some .xor | _ => none

/-- R531: TYPE 0 to 3 or 8 to 10. -/
def RedTy.code : RedTy → BitVec 4
  | .s32 => 0 | .n32 => 1 | .s64 => 2 | .n64 => 3 | .f32 => 8 | .f16 => 9 | .bf16 => 10

/-- R531. -/
def RedTy.ofCode (c : BitVec 4) : Option RedTy :=
  match c.toNat with
  | 0 => some .s32 | 1 => some .n32 | 2 => some .s64 | 3 => some .n64 | 8 => some .f32 | 9 => some .f16
  | 10 => some .bf16 | _ => none

/-- R412, R534. -/
def AtomTy.code : AtomTy → BitVec 4
  | .s32 => 0 | .n32 => 1 | .s64 => 2 | .n64 => 3 | .f32 => 8

/-- R412, R534. -/
def AtomTy.ofCode (c : BitVec 4) : Option AtomTy :=
  match c.toNat with
  | 0 => some .s32 | 1 => some .n32 | 2 => some .s64 | 3 => some .n64 | 8 => some .f32 | _ => none

/-- R413. -/
def AtomOp.code : AtomOp → BitVec 4
  | .add => 0 | .min => 1 | .max => 2 | .and => 3 | .or => 4 | .xor => 5 | .exch => 6 | .cas => 7
  | .fadd => 8 | .fmin => 9 | .fmax => 10

/-- R413. -/
def AtomOp.ofCode (c : BitVec 4) : Option AtomOp :=
  match c.toNat with
  | 0 => some .add | 1 => some .min | 2 => some .max | 3 => some .and | 4 => some .or | 5 => some .xor
  | 6 => some .exch | 7 => some .cas | 8 => some .fadd | 9 => some .fmin | 10 => some .fmax | _ => none

/-- R534. -/
def RedsOp.code : RedsOp → BitVec 2
  | .add => 0 | .min => 1 | .max => 2

/-- R534. -/
def RedsOp.ofCode (c : BitVec 2) : Option RedsOp :=
  match c.toNat with
  | 0 => some .add | 1 => some .min | 2 => some .max | _ => none

/-- R546. -/
def ShflMode.code : ShflMode → BitVec 2
  | .idx => 0 | .up => 1 | .down => 2 | .xor => 3

/-- R546. -/
def ShflMode.ofCode (c : BitVec 2) : ShflMode :=
  match c.toNat with
  | 0 => .idx | 1 => .up | 2 => .down | _ => .xor

/-- R566. -/
def VoteMode.code : VoteMode → BitVec 2
  | .any => 0 | .all => 1 | .uni => 2 | .ballot => 3

/-- R566. -/
def VoteMode.ofCode (c : BitVec 2) : VoteMode :=
  match c.toNat with
  | 0 => .any | 1 => .all | 2 => .uni | _ => .ballot

/-- R526. -/
def PrefTarget.code : PrefTarget → BitVec 3
  | .l1 => 0 | .l2 => 1 | .icache => 2

/-- R526. -/
def PrefTarget.ofCode (c : BitVec 3) : Option PrefTarget :=
  match c.toNat with
  | 0 => some .l1 | 1 => some .l2 | 2 => some .icache | _ => none

/-- R528: SGN and MODE. -/
def PrmtMode.code : PrmtMode → BitVec 3
  | .byte => 0 | .nib => 1 | .nx => 2 | .nxs => 6

/-- R528. -/
def PrmtMode.ofCode (c : BitVec 3) : Option PrmtMode :=
  match c.toNat with
  | 0 => some .byte | 1 => some .nib | 2 => some .nx | 6 => some .nxs | _ => none

/-- R518. -/
def MoviForm.code : MoviForm → BitVec 2
  | .plain => 0 | .sx64 => 1 | .hi => 2

/-- R518. -/
def MoviForm.ofCode (c : BitVec 2) : Option MoviForm :=
  match c.toNat with
  | 0 => some .plain | 1 => some .sx64 | 2 => some .hi | _ => none

/-- R441. -/
def CopyDir.code : CopyDir → BitVec 2
  | .g2s => 0 | .s2g => 1 | .g2g => 2

/-- R441. -/
def CopyDir.ofCode (c : BitVec 2) : Option CopyDir :=
  match c.toNat with
  | 0 => some .g2s | 1 => some .s2g | 2 => some .g2g | _ => none

/-- R506. -/
def Epi.code : Epi → BitVec 2
  | .none => 0 | .smax => 1 | .gmax => 2

/-- R506. -/
def Epi.ofCode (c : BitVec 2) : Option Epi :=
  match c.toNat with
  | 0 => some .none | 1 => some .smax | 2 => some .gmax | _ => Option.none

/-- R574. -/
def WloadKind.code : WloadKind → BitVec 2
  | .cells => 0 | .dir => 1 | .coup => 2 | .scale => 3

/-- R574. -/
def WloadKind.ofCode (c : BitVec 2) : WloadKind :=
  match c.toNat with
  | 0 => .cells | 1 => .dir | 2 => .coup | _ => .scale

/-- R576. -/
def WreadKind.code : WreadKind → BitVec 2
  | .cell => 0 | .dir => 1 | .coup => 2 | .slot => 3

/-- R576. -/
def WreadKind.ofCode (c : BitVec 2) : WreadKind :=
  match c.toNat with
  | 0 => .cell | 1 => .dir | 2 => .coup | _ => .slot

/-- The bits of PD and PW that write a predicate (R454, R466, R487, R566): PD is 0 when PW is 0. -/
def pwOfCode (pw : Bool) (pd : BitVec 3) : Option (Option (BitVec 3)) :=
  if pw then some (some pd) else if pd = 0 then some none else none

/-- PD of a predicate write. -/
def pdCode : Option (BitVec 3) → BitVec 3
  | some p => p
  | none => 0

-- field readers

def Fields.src (c : BitVec 10) : Dec Src := needSome (Src.ofCode c) .srcField
def Fields.dst (f : Fields) : Dec Dest := needSome (Dest.ofCode f.d) .destField

/-- R86: unused source fields are all zeros. -/
def zeroSrc (c : BitVec 10) : Dec Unit := need (c == 0) .srcField

/-- R83: a non-zero destination field on an instruction of class "none". -/
def Fields.noDest (f : Fields) : Dec Unit := need (f.d == 0) .destField

/-- R403: the guard must be 0b0111. -/
def Fields.always (f : Fields) : Dec Unit := need (f.g == 7) .guardField

/-- R93: the common MOD layout of an integer instruction; RND and FTZ are 0. `low` is MOD[4:0]. -/
def Fields.intMod (f : Fields) : Dec (IntTy × Bool × BitVec 5) := do
  let ty ← needSome (IntTy.ofCode (f.mod.extractLsb' 10 4)) .modField
  need (f.mod.extractLsb' 6 4 == 0) .modField
  .ok (ty, flag f.mod 5, f.mod.extractLsb' 0 5)

/-- R93: the common MOD layout of a floating instruction, with MOD[4:0]. -/
def Fields.fltMod (f : Fields) : Dec (FTy × FMod × BitVec 5) := do
  let ty ← needSome (FTy.ofCode (f.mod.extractLsb' 10 4)) .modField
  let rnd ← needSome (Rnd.ofCode (f.mod.extractLsb' 7 3)) .modField
  .ok (ty, { rnd := rnd, ftz := flag f.mod 6, sat := flag f.mod 5 }, f.mod.extractLsb' 0 5)

/-- R405: TYPE of the logic group, and MOD[9:0]. -/
def Fields.logMod (f : Fields) : Dec (BTy × BitVec 10) := do
  let ty ← needSome (BTy.ofCode (f.mod.extractLsb' 10 4)) .modField
  .ok (ty, f.mod.extractLsb' 0 10)

/-- R92: the 32-bit offset of format C, bits [31:0] of the word. -/
def Fields.off32 (f : Fields) : BitVec 32 := f.b.extractLsb' 0 8 ++ f.c ++ f.mod

/-- R92: the bits [51:32] of format C. -/
def Fields.kind20 (f : Fields) : BitVec 20 := f.d ++ f.a ++ f.b.extractLsb' 8 2

/-- R92: IMM32 of format I, bits [33:2] of the word. -/
def Fields.imm32 (f : Fields) : BitVec 32 := f.b ++ f.c ++ f.mod.extractLsb' 2 12

/-- R92, R94: BR, XS, SZ, SC and OFF of format M, bits [23:0] of the word. -/
def Fields.br (f : Fields) : BitVec 4 := f.c.extractLsb' 6 4
def Fields.xs (f : Fields) : BitVec 3 := f.c.extractLsb' 3 3
def Fields.sz (f : Fields) : BitVec 3 := f.c.extractLsb' 0 3
def Fields.sc (f : Fields) : BitVec 3 := f.mod.extractLsb' 11 3
def Fields.off11 (f : Fields) : BitVec 11 := f.mod.extractLsb' 0 11

/-- R94: a global access. XS must be 0. -/
def Fields.memRef (f : Fields) : Dec MemRef := do
  let a ← Fields.src f.a
  need (f.xs == 0) .modField
  let sz ← needSome (Size.ofCode f.sz) .modField
  .ok { a := a, br := f.br, sz := sz, off := f.off11 }

/-- R94, R497: a tile store access. BR and SC must be 0. -/
def Fields.spadRef (f : Fields) : Dec SpadRef := do
  let a ← Fields.src f.a
  need (f.br == 0 && f.sc == 0) .modField
  let sz ← needSome (Size.ofCode f.sz) .modField
  .ok { a := a, xs := f.xs, sz := sz, off := f.off11 }

/-- R568: CE and KC in MOD[3:0]. -/
def Fields.wcount (f : Fields) : WellCount := { ce := flag f.mod 3, kc := f.mod.extractLsb' 0 3 }

/-- R96: the opcodes that take an extension word. -/
def hasExt (op : Nat) : Bool :=
  op == 0x05 || op == 0x49 || op == 0x59 || op == 0x5B || (decide (0x60 ≤ op) && decide (op ≤ 0x64))
  || (decide (0x70 ≤ op) && decide (op ≤ 0x72)) || op == 0x74 || op == 0x75 || op == 0x77 || op == 0x78 || op == 0x80
  || op == 0x83 || op == 0x85 || op == 0x88 || op == 0x90 || op == 0x91 || op == 0x93

/-- R97: the opcodes of the map. -/
def opDefined (op : Nat) : Bool :=
  decide (op ≤ 0x0B) || (decide (0x10 ≤ op) && decide (op ≤ 0x3E)) || (decide (0x40 ≤ op) && decide (op ≤ 0x42))
  || (decide (0x44 ≤ op) && decide (op ≤ 0x4A)) || (decide (0x50 ≤ op) && decide (op ≤ 0x65))
  || (decide (0x70 ≤ op) && decide (op ≤ 0x78)) || (decide (0x80 ≤ op) && decide (op ≤ 0x88))
  || (decide (0x90 ≤ op) && decide (op ≤ 0x97))

-- decoders of shapes shared by several opcodes

def decInt2 (f : Fields) (satOk : Bool) (k : Guard → Dest → IntTy → Bool → Src → Src → Instr) : Dec Instr := do
  let d ← f.dst
  let a ← Fields.src f.a
  let b ← Fields.src f.b
  zeroSrc f.c
  let (ty, sat, low) ← f.intMod
  need (low == 0 && (satOk || !sat)) .modField
  .ok (k (Guard.ofCode f.g) d ty sat a b)

def decInt1 (f : Fields) (k : Guard → Dest → IntTy → Bool → Src → Instr) : Dec Instr := do
  let d ← f.dst
  let a ← Fields.src f.a
  zeroSrc f.b
  zeroSrc f.c
  let (ty, sat, low) ← f.intMod
  need (low == 0) .modField
  .ok (k (Guard.ofCode f.g) d ty sat a)

def decLog2 (f : Fields) (k : Guard → Dest → BTy → Src → Src → Instr) : Dec Instr := do
  let d ← f.dst
  let a ← Fields.src f.a
  let b ← Fields.src f.b
  zeroSrc f.c
  let (ty, low) ← f.logMod
  need (low == 0) .modField
  .ok (k (Guard.ofCode f.g) d ty a b)

def decLog1 (f : Fields) (k : Guard → Dest → BTy → Src → Instr) : Dec Instr := do
  let d ← f.dst
  let a ← Fields.src f.a
  zeroSrc f.b
  zeroSrc f.c
  let (ty, low) ← f.logMod
  need (low == 0) .modField
  .ok (k (Guard.ofCode f.g) d ty a)

def decFlt2 (f : Fields) (k : Guard → Dest → FTy → FMod → Src → Src → Instr) : Dec Instr := do
  let d ← f.dst
  let a ← Fields.src f.a
  let b ← Fields.src f.b
  zeroSrc f.c
  let (ty, m, low) ← f.fltMod
  need (low == 0) .modField
  .ok (k (Guard.ofCode f.g) d ty m a b)

def decFlt3 (f : Fields) (k : Guard → Dest → FTy → FMod → Src → Src → Src → Instr) : Dec Instr := do
  let d ← f.dst
  let a ← Fields.src f.a
  let b ← Fields.src f.b
  let c ← Fields.src f.c
  let (ty, m, low) ← f.fltMod
  need (low == 0) .modField
  .ok (k (Guard.ofCode f.g) d ty m a b c)

def decMinMax (f : Fields) (k : Guard → Dest → FTy → Bool → Bool → Src → Src → Instr) : Dec Instr := do
  let d ← f.dst
  let a ← Fields.src f.a
  let b ← Fields.src f.b
  zeroSrc f.c
  let (ty, m, low) ← f.fltMod
  need (m.rnd == .rne && !m.sat && low.extractLsb' 1 4 == 0) .modField
  .ok (k (Guard.ofCode f.g) d ty (flag low 0) m.ftz a b)

def decFun (f : Fields) (k : Guard → Dest → FTy → Bool → Src → Instr) : Dec Instr := do
  let d ← f.dst
  let a ← Fields.src f.a
  zeroSrc f.b
  zeroSrc f.c
  let (ty, m, low) ← f.fltMod
  need (m.rnd == .rne && !m.sat && low == 0) .modField
  .ok (k (Guard.ofCode f.g) d ty m.ftz a)

/-- Control group: 0x00 to 0x0B (R421 to R429, R437, R456, R482, R522, R543, R564, R567, R580). -/
def decodeControl (op : Nat) (f : Fields) (ext : W64) : Dec Instr :=
  let g := Guard.ofCode f.g
  match op with
  | 0x00 => do
    f.noDest; zeroSrc f.a; zeroSrc f.b; zeroSrc f.c
    need (f.mod == 0) .modField
    .ok (.nop g)
  | 0x01 => do f.always; need (f.kind20 == 0) .modField; .ok (.bra f.off32)
  | 0x02 => do need (f.kind20 == 0) .modField; .ok (.brc g f.off32)
  | 0x03 => do f.always; need (f.kind20 == 0) .modField; .ok (.call f.off32)
  | 0x04 => do f.always; need (f.kind20 == 0 && f.off32 == 0) .modField; .ok .ret
  | 0x05 => do
    need (f.kind20.extractLsb' 1 19 == 0) .modField
    if flag f.kind20 0 then do
      f.always
      .ok (.exitSuccessor f.off32 ext)
    else do
      need (f.off32 == 0) .modField
      need (ext == 0) .extField
      .ok (.exit g)
  | 0x06 => do
    f.always
    let t ← Fields.src (f.kind20.extractLsb' 10 10)
    need (f.kind20.extractLsb' 3 7 == 0) .modField
    .ok (.yield t (f.kind20.extractLsb' 0 3) f.off32)
  | 0x07 => do
    f.noDest
    let t ← Fields.src f.a
    zeroSrc f.b; zeroSrc f.c
    need (f.mod.extractLsb' 3 11 == 0) .modField
    .ok (.waitc g t (f.mod.extractLsb' 0 3))
  | 0x08 => do
    f.always; f.noDest; zeroSrc f.a; zeroSrc f.b; zeroSrc f.c
    need (f.mod.extractLsb' 5 9 == 0) .modField
    .ok (.bar (f.mod.extractLsb' 0 4) (flag f.mod 4))
  | 0x09 => do
    f.noDest; zeroSrc f.a
    need (f.mod.extractLsb' 0 2 == 0) .modField
    .ok (.trap g f.imm32)
  | 0x0A => do
    f.always; f.noDest; zeroSrc f.a; zeroSrc f.b; zeroSrc f.c
    need (f.mod == 0) .modField
    .ok .rtt
  | _ => do
    f.noDest
    let a ← Fields.src f.a
    zeroSrc f.b; zeroSrc f.c
    need (f.mod == 0) .modField
    .ok (.gsig g a)

/-- Integer group: 0x10 to 0x1F (R450, R484, R487, R490, R492, R517, R518, R545). -/
def decodeInteger (op : Nat) (f : Fields) : Dec Instr :=
  let g := Guard.ofCode f.g
  match op with
  | 0x10 => decInt2 f true .iadd
  | 0x11 => decInt2 f true .isub
  | 0x12 => decInt2 f true .imul
  | 0x13 => decInt2 f false (fun g d ty _ a b => .imulh g d ty a b)
  | 0x14 => do
    let d ← f.dst
    let a ← Fields.src f.a
    let b ← Fields.src f.b
    let c ← Fields.src f.c
    let (ty, sat, low) ← f.intMod
    need (low == 0) .modField
    .ok (.imad g d ty sat a b c)
  | 0x15 => do
    let d ← f.dst
    let a ← Fields.src f.a
    let b ← Fields.src f.b
    zeroSrc f.c
    let (ty, sat, low) ← f.intMod
    need (low.extractLsb' 2 3 == 0) .modField
    .ok (.idiv g d ty sat (flag low 1) (flag low 0) a b)
  | 0x16 => decInt2 f false (fun g d ty _ a b => .imin g d ty a b)
  | 0x17 => decInt2 f false (fun g d ty _ a b => .imax g d ty a b)
  | 0x18 => decInt1 f .iabs
  | 0x19 => decInt1 f .ineg
  | 0x1A => do
    let d ← f.dst
    let a ← Fields.src f.a
    let b ← Fields.src f.b
    zeroSrc f.c
    let ty ← needSome (IntTy.ofCode (f.mod.extractLsb' 10 4)) .modField
    need (!flag f.mod 6 && f.mod.extractLsb' 0 2 == 0) .modField
    let pw ← needSome (pwOfCode (flag f.mod 5) (f.mod.extractLsb' 7 3)) .modField
    let cond ← needSome (ICond.ofCode (f.mod.extractLsb' 2 3)) .modField
    .ok (.icmp g d ty cond pw a b)
  | 0x1B => do
    let d ← f.dst
    let a ← Fields.src f.a
    let b ← Fields.src f.b
    let c ← Fields.src f.c
    let aty ← needSome (NumTy.ofCode (f.mod.extractLsb' 10 4)) .modField
    let bty ← needSome (NumTy.ofCode (f.mod.extractLsb' 0 4)) .modField
    need (f.mod.extractLsb' 6 4 == 0 && !flag f.mod 4) .modField
    .ok (.idp4 g d aty bty (flag f.mod 5) a b c)
  | 0x1C => do
    let d ← f.dst
    let a ← Fields.src f.a
    let b ← Fields.src f.b
    zeroSrc f.c
    need (f.mod.extractLsb' 5 9 == 0) .modField
    .ok (.sel g d (flag f.mod 4) (flag f.mod 3) (f.mod.extractLsb' 0 3) a b)
  | 0x1D => do
    let d ← f.dst
    let a ← Fields.src f.a
    zeroSrc f.b; zeroSrc f.c
    need (f.mod.extractLsb' 1 13 == 0) .modField
    .ok (.mov g d (flag f.mod 0) a)
  | 0x1E => do
    let d ← f.dst
    let a ← Fields.src f.a
    let form ← needSome (MoviForm.ofCode (f.mod.extractLsb' 0 2)) .modField
    .ok (.movi g d form a f.imm32)
  | _ => do
    let d ← f.dst
    let a ← Fields.src f.a
    zeroSrc f.b; zeroSrc f.c
    let dty ← needSome (NumTy.ofCode (f.mod.extractLsb' 10 4)) .modField
    let rnd ← needSome (Rnd.ofCode (f.mod.extractLsb' 7 3)) .modField
    let sty ← needSome (NumTy.ofCode (f.mod.extractLsb' 0 4)) .modField
    need (!flag f.mod 4) .modField
    .ok (.cvt g d dty sty { rnd := rnd, ftz := flag f.mod 6, sat := flag f.mod 5 } a)

/-- Logic group: 0x20 to 0x2F (R411, R424, R425, R431, R477, R528). -/
def decodeLogic (op : Nat) (f : Fields) : Dec Instr :=
  let g := Guard.ofCode f.g
  match op with
  | 0x20 => decLog2 f .andL
  | 0x21 => decLog2 f .orL
  | 0x22 => decLog2 f .xorL
  | 0x23 => decLog1 f .notL
  | 0x24 => do
    let d ← f.dst
    let a ← Fields.src f.a
    let b ← Fields.src f.b
    let c ← Fields.src f.c
    let (ty, low) ← f.logMod
    need (low.extractLsb' 8 2 == 0) .modField
    .ok (.bool3 g d ty (low.extractLsb' 0 8) a b c)
  | 0x25 => decLog2 f .shl
  | 0x26 => decLog2 f .shr
  | 0x27 => decLog2 f .sar
  | 0x28 => do
    let d ← f.dst
    let a ← Fields.src f.a
    let b ← Fields.src f.b
    zeroSrc f.c
    let (ty, low) ← f.logMod
    need (low.extractLsb' 1 9 == 0) .modField
    .ok (.rot g d ty (flag low 0) a b)
  | 0x29 => do
    let d ← f.dst
    let a ← Fields.src f.a
    let b ← Fields.src f.b
    let c ← Fields.src f.c
    let (ty, low) ← f.logMod
    need (low.extractLsb' 1 9 == 0) .modField
    .ok (.fsh g d ty (flag low 0) a b c)
  | 0x2A => do
    let d ← f.dst
    let a ← Fields.src f.a
    let b ← Fields.src f.b
    let c ← Fields.src f.c
    let ty ← needSome (IntTy.ofCode (f.mod.extractLsb' 10 4)) .modField
    need (f.mod.extractLsb' 0 10 == 0) .modField
    .ok (.bfx g d ty a b c)
  | 0x2B => do
    let d ← f.dst
    let a ← Fields.src f.a
    let b ← Fields.src f.b
    let c ← Fields.src f.c
    let (ty, low) ← f.logMod
    need (low == 0) .modField
    .ok (.bfi g d ty a b c)
  | 0x2C => decLog1 f .popc
  | 0x2D => decLog1 f .clz
  | 0x2E => decLog1 f .brev
  | _ => do
    let d ← f.dst
    let a ← Fields.src f.a
    let b ← Fields.src f.b
    let c ← Fields.src f.c
    let mode ← needSome (PrmtMode.ofCode (f.mod.extractLsb' 0 3)) .modField
    need (f.mod.extractLsb' 3 11 == 0) .modField
    .ok (.prmt g d mode a b c)

/-- Floating and packed groups: 0x30 to 0x42 (R461, R465, R466, R474, R476, R483). -/
def decodeFloat (op : Nat) (f : Fields) : Dec Instr :=
  let g := Guard.ofCode f.g
  match op with
  | 0x30 => decFlt2 f .fadd
  | 0x31 => decFlt2 f .fsub
  | 0x32 => decFlt2 f .fmul
  | 0x33 => decFlt3 f .ffma
  | 0x34 => decMinMax f .fmin
  | 0x35 => decMinMax f .fmax
  | 0x36 => do
    let d ← f.dst
    let a ← Fields.src f.a
    let b ← Fields.src f.b
    zeroSrc f.c
    let ty ← needSome (FTy.ofCode (f.mod.extractLsb' 10 4)) .modField
    let pw ← needSome (pwOfCode (flag f.mod 5) (f.mod.extractLsb' 7 3)) .modField
    let cond ← needSome (FCond.ofCode (f.mod.extractLsb' 1 4)) .modField
    need (!flag f.mod 0) .modField
    .ok (.fcmp g d ty cond (flag f.mod 6) pw a b)
  | 0x37 => do
    let d ← f.dst
    let a ← Fields.src f.a
    zeroSrc f.b; zeroSrc f.c
    let ty ← needSome (FTy.ofCode (f.mod.extractLsb' 10 4)) .modField
    need (f.mod.extractLsb' 0 10 == 0) .modField
    .ok (.fclass g d ty a)
  | 0x38 => decFun f .frcp
  | 0x39 => decFun f .frsq
  | 0x3A => decFun f .fsqrt
  | 0x3B => decFun f .flog2
  | 0x3C => decFun f .fexp2
  | 0x3D => decFun f .ftanh
  | 0x3E => decFun f .fsig
  | 0x40 => decFlt2 f .hadd2
  | 0x41 => decFlt2 f .hmul2
  | _ => decFlt3 f .hfma2

/-- Crew group: 0x44 to 0x4A (R454, R531, R537, R546, R566). -/
def decodeCrew (op : Nat) (f : Fields) (ext : W64) : Dec Instr :=
  let g := Guard.ofCode f.g
  let redFields : Dec (RedTy × FMod) := do
    let ty ← needSome (RedTy.ofCode (f.mod.extractLsb' 10 4)) .modField
    let rnd ← needSome (Rnd.ofCode (f.mod.extractLsb' 7 3)) .modField
    need (!flag f.mod 4) .modField
    .ok (ty, { rnd := rnd, ftz := flag f.mod 6, sat := flag f.mod 5 })
  match op with
  | 0x44 => do
    let d ← f.dst
    let a ← Fields.src f.a
    let b ← Fields.src f.b
    zeroSrc f.c
    let (ty, low) ← f.logMod
    need (low.extractLsb' 2 8 == 0) .modField
    .ok (.shfl g d ty (ShflMode.ofCode (low.extractLsb' 0 2)) a b)
  | 0x45 => do
    let d ← f.dst
    let a ← Fields.src f.a
    zeroSrc f.b; zeroSrc f.c
    need (f.mod.extractLsb' 6 8 == 0) .modField
    let pw ← needSome (pwOfCode (flag f.mod 5) (f.mod.extractLsb' 2 3)) .modField
    .ok (.vote g d (VoteMode.ofCode (f.mod.extractLsb' 0 2)) pw a)
  | 0x46 => do
    let d ← f.dst
    let a ← Fields.src f.a
    zeroSrc f.b; zeroSrc f.c
    let (ty, m) ← redFields
    let o ← needSome (RedOp.ofCode (f.mod.extractLsb' 0 3)) .modField
    need (!flag f.mod 3) .modField
    .ok (.red g d ty o m a)
  | 0x47 => do
    let d ← f.dst
    let a ← Fields.src f.a
    let b ← Fields.src f.b
    zeroSrc f.c
    let (ty, m) ← redFields
    need (m.rnd == .rne && !m.sat && f.mod.extractLsb' 0 4 == 0) .modField
    .ok (.rmaxi g d ty m.ftz a b)
  | 0x48 => do
    let d ← f.dst
    let a ← Fields.src f.a
    zeroSrc f.b; zeroSrc f.c
    let (ty, m) ← redFields
    let o ← needSome (RedOp.ofCode (f.mod.extractLsb' 0 3)) .modField
    .ok (.scan g d ty o (flag f.mod 3) m a)
  | 0x49 => do
    f.always; f.noDest; zeroSrc f.a; zeroSrc f.b; zeroSrc f.c
    need (f.mod.extractLsb' 3 11 == 0) .modField
    .ok (.reform (f.mod.extractLsb' 0 3) ext)
  | _ => do
    let d ← f.dst
    zeroSrc f.b; zeroSrc f.c
    need (f.mod.extractLsb' 5 9 == 0) .modField
    let pw ← needSome (pwOfCode (flag f.mod 3) (f.mod.extractLsb' 0 3)) .modField
    if flag f.mod 4 then do
      let a ← Fields.src f.a
      .ok (.elect g d pw (some a))
    else do
      zeroSrc f.a
      .ok (.elect g d pw none)

/-- Memory group: 0x50 to 0x5F (R432, R435, R441, R468, R479, R488, R493, R497, R523, R526, R544, R551, R554,
R558, R565). -/
def decodeMemory (op : Nat) (f : Fields) (ext : W64) : Dec Instr :=
  let g := Guard.ofCode f.g
  match op with
  | 0x50 => do
    let d ← f.dst
    zeroSrc f.b
    let m ← f.memRef
    let sc ← needSome (Scope.ofCode? f.sc) .modField
    .ok (.ld g d m sc)
  | 0x51 => do
    f.noDest
    let b ← Fields.src f.b
    let m ← f.memRef
    let sc ← needSome (Scope.ofCode? f.sc) .modField
    .ok (.st g m b sc)
  | 0x52 => do
    let d ← f.dst
    zeroSrc f.b
    let m ← f.spadRef
    .ok (.lds g d m)
  | 0x53 => do
    f.noDest
    let b ← Fields.src f.b
    let m ← f.spadRef
    .ok (.sts g m b)
  | 0x54 => do
    let d ← f.dst
    zeroSrc f.b
    let m ← f.memRef
    need (f.sc == 0) .modField
    .ok (.gather g d m)
  | 0x55 => do
    f.noDest
    let b ← Fields.src f.b
    let m ← f.memRef
    need (f.sc == 0) .modField
    .ok (.scatter g m b)
  | 0x56 => do
    f.noDest
    zeroSrc f.b
    let m ← f.memRef
    let t ← needSome (PrefTarget.ofCode f.sc) .modField
    .ok (.pref g m t)
  | 0x57 => do
    f.noDest
    need (f.a == 0 && f.b == 0) .srcField
    let low : BitVec 24 := f.c ++ f.mod
    need (low.extractLsb' 0 4 == 0) .modField
    match Scope.ofCode? (low.extractLsb' 5 3) with
    | some (some sc) => .ok (.fence g (low.extractLsb' 16 8) (low.extractLsb' 8 8) sc (flag low 4))
    | _ => .error .modField
  | 0x58 => do
    f.noDest
    let a ← Fields.src f.a
    let b ← Fields.src f.b
    zeroSrc f.c
    need (f.mod.extractLsb' 4 10 == 0) .modField
    .ok (.icsync g (f.mod.extractLsb' 0 4) a b)
  | 0x59 => do
    f.noDest
    let a ← Fields.src f.a
    let b ← Fields.src f.b
    let c ← Fields.src f.c
    let dir ← needSome (CopyDir.ofCode (f.mod.extractLsb' 0 2)) .modField
    need (f.mod.extractLsb' 2 12 == 0) .modField
    need (ext.extractLsb' 32 17 == 0) .extField
    need (flag ext 49 || ext.extractLsb' 0 32 == 0) .extField
    .ok (.copy g dir a b c
      { brs := ext.extractLsb' 60 4, brd := ext.extractLsb' 56 4, xs := ext.extractLsb' 53 3,
        kc := ext.extractLsb' 50 3, cont := if flag ext 49 then some (ext.extractLsb' 0 32) else none })
  | 0x5A => do
    need (f.d.extractLsb' 4 4 == 0) .destField
    zeroSrc f.b
    let m ← f.memRef
    need (m.sz == .b128) .modField
    let sc ← needSome (Scope.ofCode? f.sc) .modField
    .ok (.brld g (f.d.extractLsb' 0 4) m.a m.br m.off sc)
  | 0x5B => do
    need (f.d.extractLsb' 4 4 == 0) .destField
    let a ← Fields.src f.a
    let b ← Fields.src f.b
    zeroSrc f.c
    need (f.mod == 0) .modField
    need (ext.extractLsb' 0 32 == 0) .extField
    .ok (.brmk g (f.d.extractLsb' 0 4) a b (ext.extractLsb' 56 8) (ext.extractLsb' 40 16) (ext.extractLsb' 35 5)
      (ext.extractLsb' 32 3))
  | 0x5C => do
    let d ← f.dst
    let a ← Fields.src f.a
    zeroSrc f.b; zeroSrc f.c
    need (f.mod == 0) .modField
    .ok (.spgrow g d a)
  | 0x5D => do
    f.noDest
    let a ← Fields.src f.a
    zeroSrc f.b; zeroSrc f.c
    need (f.mod == 0) .modField
    .ok (.spfree g a)
  | 0x5E => do
    let d ← f.dst
    let a ← Fields.src f.a
    let b ← Fields.src f.b
    zeroSrc f.c
    need (f.mod.extractLsb' 8 2 == 0) .modField
    .ok (.pin g d (f.mod.extractLsb' 10 4) (f.mod.extractLsb' 0 8) a b)
  | _ => do
    f.noDest
    let a ← Fields.src f.a
    zeroSrc f.b; zeroSrc f.c
    need (f.mod == 0) .modField
    .ok (.unpin g a)

/-- Synchronisation group: 0x60 to 0x65 (R412, R440, R499, R503, R534). -/
def decodeSync (op : Nat) (f : Fields) (ext : W64) : Dec Instr :=
  let g := Guard.ofCode f.g
  match op with
  | 0x60 => do
    let d ← f.dst
    let a ← Fields.src f.a
    let b ← Fields.src f.b
    let c ← Fields.src f.c
    need (f.mod == 0) .modField
    let o ← needSome (AtomOp.ofCode (ext.extractLsb' 56 4)) .extField
    let ty ← needSome (AtomTy.ofCode (ext.extractLsb' 52 4)) .extField
    let sc ← needSome (Scope.ofCode? (ext.extractLsb' 38 3)) .extField
    need (ext.extractLsb' 0 38 == 0) .extField
    .ok (.atom g d o ty (ext.extractLsb' 60 4) (ext.extractLsb' 41 11) sc a b c)
  | 0x61 => do
    let d ← f.dst
    let a ← Fields.src f.a
    let b ← Fields.src f.b
    let c ← Fields.src f.c
    need (f.mod == 0) .modField
    let o ← needSome (AtomOp.ofCode (ext.extractLsb' 56 4)) .extField
    let ty ← needSome (AtomTy.ofCode (ext.extractLsb' 52 4)) .extField
    let sc ← needSome (Scope.ofCode? (ext.extractLsb' 38 3)) .extField
    need (ext.extractLsb' 0 38 == 0) .extField
    .ok (.atomo g d o ty (ext.extractLsb' 60 4) (ext.extractLsb' 41 11) sc a b c)
  | 0x62 => do
    f.noDest
    let a ← Fields.src f.a
    let b ← Fields.src f.b
    let c ← Fields.src f.c
    need (f.mod == 0) .modField
    let o ← needSome (RedsOp.ofCode (ext.extractLsb' 58 2)) .extField
    let ty ← needSome (AtomTy.ofCode (ext.extractLsb' 54 4)) .extField
    need (ext.extractLsb' 0 43 == 0) .extField
    .ok (.reds g o ty (ext.extractLsb' 60 4) (ext.extractLsb' 43 11) a b c)
  | 0x63 => do
    f.noDest; zeroSrc f.a; zeroSrc f.b; zeroSrc f.c
    need (f.mod == 0) .modField
    need (ext.extractLsb' 12 52 == 0) .extField
    .ok (.combine g (ext.extractLsb' 0 12))
  | 0x64 => do
    let d ← f.dst
    let a ← Fields.src f.a
    zeroSrc f.b; zeroSrc f.c
    need (f.mod == 0) .modField
    need (!flag ext 48 && ext.extractLsb' 0 16 == 0) .extField
    .ok (.llock g d (ext.extractLsb' 60 4) (ext.extractLsb' 49 11) (ext.extractLsb' 16 32) a)
  | _ => do
    f.noDest
    let a ← Fields.src f.a
    zeroSrc f.b; zeroSrc f.c
    .ok (.lunlock g (f.mod.extractLsb' 10 4) (f.mod.extractLsb' 0 10) a)

/-- Matrix group: 0x70 to 0x78 (R506, R510, R512, R516, R519, R521, R559, R560). -/
def decodeMatrix (op : Nat) (f : Fields) (ext : W64) : Dec Instr :=
  let g := Guard.ofCode f.g
  match op with
  | 0x70 => do
    f.noDest
    let a ← Fields.src f.a
    let b ← Fields.src f.b
    let c ← Fields.src f.c
    need (f.mod.extractLsb' 2 12 == 0) .modField
    need (ext.extractLsb' 0 20 == 0) .extField
    .ok (.mma g a b c (ext.extractLsb' 52 12) (ext.extractLsb' 40 12) (ext.extractLsb' 20 20) (flag f.mod 0)
      (flag f.mod 1))
  | 0x71 => do
    f.noDest
    let a ← Fields.src f.a
    let b ← Fields.src f.b
    let c ← Fields.src f.c
    need (f.mod.extractLsb' 2 12 == 0) .modField
    need (ext.extractLsb' 0 20 == 0) .extField
    .ok (.mmas g a b c (ext.extractLsb' 52 12) (ext.extractLsb' 40 12) (ext.extractLsb' 20 20) (flag f.mod 0)
      (flag f.mod 1))
  | 0x72 => do
    f.noDest
    let a ← Fields.src f.a
    let b ← Fields.src f.b
    let c ← Fields.src f.c
    need (f.mod.extractLsb' 1 13 == 0) .modField
    need (ext.extractLsb' 40 12 == 0 && ext.extractLsb' 0 20 == 0) .extField
    .ok (.mgrp g a b c (ext.extractLsb' 52 12) (ext.extractLsb' 20 20) (flag f.mod 0))
  | 0x73 => do
    f.noDest; zeroSrc f.a; zeroSrc f.b; zeroSrc f.c
    need (f.mod == 0) .modField
    .ok (.mzero g)
  | 0x74 => do
    f.noDest
    let a ← Fields.src f.a
    let b ← Fields.src f.b
    let c ← Fields.src f.c
    let rnd ← needSome (Rnd.ofCode (f.mod.extractLsb' 11 3)) .modField
    let epi ← needSome (Epi.ofCode (f.mod.extractLsb' 9 2)) .modField
    need (f.mod.extractLsb' 0 5 == 0) .modField
    need (ext.extractLsb' 0 52 == 0) .extField
    .ok (.mdrain g a b c rnd epi (flag f.mod 8) (flag f.mod 7) (flag f.mod 6) (flag f.mod 5) (ext.extractLsb' 52 12))
  | 0x75 => do
    f.noDest
    let a ← Fields.src f.a
    zeroSrc f.b; zeroSrc f.c
    need (f.mod == 0) .modField
    need (ext.extractLsb' 1 63 == 0) .extField
    .ok (.mmask g a (flag ext 0))
  | 0x76 => do
    let d ← f.dst
    zeroSrc f.a; zeroSrc f.b; zeroSrc f.c
    need (f.mod == 0) .modField
    .ok (.mwait g d)
  | 0x77 => do
    f.noDest; zeroSrc f.a; zeroSrc f.b; zeroSrc f.c
    need (f.mod == 0) .modField
    need (ext.extractLsb' 0 52 == 0) .extField
    .ok (.tilepost g (ext.extractLsb' 52 12))
  | _ => do
    let d ← f.dst
    zeroSrc f.a; zeroSrc f.b; zeroSrc f.c
    need (f.mod == 0) .modField
    need (ext.extractLsb' 1 51 == 0) .extField
    .ok (.tilewait g d (ext.extractLsb' 52 12) (flag ext 0))

/-- Wells group: 0x80 to 0x88 (R569, R572). -/
def decodeWells (op : Nat) (f : Fields) (ext : W64) : Dec Instr :=
  let g := Guard.ofCode f.g
  match op with
  | 0x80 => do
    f.noDest
    let a ← Fields.src f.a
    let b ← Fields.src f.b
    let c ← Fields.src f.c
    need (f.mod.extractLsb' 4 7 == 0) .modField
    need (ext.extractLsb' 18 39 == 0) .extField
    .ok (.wload g a b c (WloadKind.ofCode (f.mod.extractLsb' 12 2)) (flag f.mod 11) f.wcount (ext.extractLsb' 60 4)
      (ext.extractLsb' 57 3) (ext.extractLsb' 0 18))
  | 0x81 => do
    f.noDest
    let a ← Fields.src f.a
    let b ← Fields.src f.b
    let c ← Fields.src f.c
    need (f.mod.extractLsb' 4 10 == 0) .modField
    .ok (.wbias g a b c f.wcount)
  | 0x82 => do
    f.noDest
    let a ← Fields.src f.a
    let b ← Fields.src f.b
    let c ← Fields.src f.c
    need (f.mod.extractLsb' 4 10 == 0) .modField
    .ok (.wclamp g a b c f.wcount)
  | 0x83 => do
    f.noDest
    let a ← Fields.src f.a
    let b ← Fields.src f.b
    let c ← Fields.src f.c
    need (f.mod.extractLsb' 7 7 == 0) .modField
    .ok (.wsweep g a b c (f.mod.extractLsb' 4 3) f.wcount
      { beta := ext.extractLsb' 48 16, sweeps := ext.extractLsb' 32 16, br := ext.extractLsb' 28 4,
        xs := ext.extractLsb' 25 3, str := flag ext 24, ssp := flag ext 23, phys := flag ext 22,
        len := ext.extractLsb' 0 22 })
  | 0x84 => do
    let d ← f.dst
    let a ← Fields.src f.a
    let b ← Fields.src f.b
    zeroSrc f.c
    need (f.mod.extractLsb' 6 8 == 0 && f.mod.extractLsb' 0 4 == 0) .modField
    .ok (.wread g d a b (WreadKind.ofCode (f.mod.extractLsb' 4 2)))
  | 0x85 => do
    f.noDest
    zeroSrc f.c
    need (f.mod.extractLsb' 7 7 == 0) .modField
    let imm : Option W64 := if flag f.mod 6 then some ext else none
    need (flag f.mod 6 || ext == 0) .extField
    match (f.mod.extractLsb' 4 2).toNat with
    | 0 => do
      let a ← Fields.src f.a
      let b ← Fields.src f.b
      .ok (.wkey g a b imm f.wcount)
    | 1 => do
      let a ← Fields.src f.a
      zeroSrc f.b
      need (!flag f.mod 6) .modField
      .ok (.wkeyPhys g a f.wcount)
    | 2 => do
      zeroSrc f.a
      let b ← Fields.src f.b
      need (f.mod.extractLsb' 0 4 == 0) .modField
      .ok (.wkeyDraw g b imm)
    | _ => .error .modField
  | 0x86 => do
    let d ← f.dst
    zeroSrc f.a; zeroSrc f.b; zeroSrc f.c
    need (f.mod.extractLsb' 5 9 == 0 && f.mod.extractLsb' 0 4 == 0) .modField
    .ok (.wnoise g d (flag f.mod 4))
  | 0x87 => do
    let d ← f.dst
    let a ← Fields.src f.a
    zeroSrc f.b; zeroSrc f.c
    need (f.mod == 0) .modField
    .ok (.wstat g d a)
  | _ => do
    f.noDest
    let a ← Fields.src f.a
    let b ← Fields.src f.b
    let c ← Fields.src f.c
    need (f.mod.extractLsb' 4 10 == 0) .modField
    need (ext.extractLsb' 4 60 == 0) .extField
    .ok (.wlink g a b c f.wcount (ext.extractLsb' 0 4))

/-- Generation group and the CSRs: 0x90 to 0x97 (R406, R417, R446, R540, R548, R557, R563). -/
def decodeGen (op : Nat) (f : Fields) (ext : W64) : Dec Instr :=
  let g := Guard.ofCode f.g
  match op with
  | 0x90 => do
    let d ← f.dst
    let a ← Fields.src f.a
    let b ← Fields.src f.b
    let c ← Fields.src f.c
    need (f.mod.extractLsb' 1 13 == 0) .modField
    need (ext.extractLsb' 0 12 == 0) .extField
    .ok (.accept g d a b c (ext.extractLsb' 40 24) (ext.extractLsb' 16 24) (ext.extractLsb' 12 4) (flag f.mod 0))
  | 0x91 => do
    let d ← f.dst
    zeroSrc f.b; zeroSrc f.c
    need (f.mod == 0) .modField
    need (ext.extractLsb' 1 63 == 0) .extField
    if flag ext 0 then do
      zeroSrc f.a
      .ok (.ballot g d none)
    else do
      let a ← Fields.src f.a
      .ok (.ballot g d (some a))
  | 0x92 => do
    let d ← f.dst
    zeroSrc f.a; zeroSrc f.b; zeroSrc f.c
    need (f.mod.extractLsb' 1 13 == 0) .modField
    .ok (.sibchk g d (flag f.mod 0))
  | 0x93 => do
    f.noDest
    let a ← Fields.src f.a
    let b ← Fields.src f.b
    let c ← Fields.src f.c
    need (f.mod == 0) .modField
    need (ext.extractLsb' 6 58 == 0) .extField
    .ok (.ringput g a b c (ext.extractLsb' 0 6))
  | 0x94 => do
    let d ← f.dst
    zeroSrc f.a
    need (f.imm32.extractLsb' 12 20 == 0 && !flag f.mod 1) .modField
    .ok (.csrr g d (f.imm32.extractLsb' 0 12) (flag f.mod 0))
  | 0x95 => do
    f.noDest
    let a ← Fields.src f.a
    need (f.imm32.extractLsb' 12 20 == 0 && !flag f.mod 1) .modField
    .ok (.csrw g (f.imm32.extractLsb' 0 12) (flag f.mod 0) a)
  | 0x96 => do
    f.noDest
    let a ← Fields.src f.a
    zeroSrc f.b; zeroSrc f.c
    need (f.mod == 0) .modField
    .ok (.stamp g a)
  | _ => do
    f.noDest
    let a ← Fields.src f.a
    zeroSrc f.b; zeroSrc f.c
    need (f.mod == 0) .modField
    .ok (.trace g a)

/-- The typed instruction of the fields, before the checks of `Instr.wf`; `ext` is the extension word (0 where the
opcode takes none). -/
def decodeFields (f : Fields) (ext : W64) : Dec Instr :=
  let op := f.op.toNat
  if !opDefined op then .ok (.illegalOpcode f.op)
  else if op < 0x10 then decodeControl op f ext
  else if op < 0x20 then decodeInteger op f
  else if op < 0x30 then decodeLogic op f
  else if op < 0x43 then decodeFloat op f
  else if op < 0x50 then decodeCrew op f ext
  else if op < 0x60 then decodeMemory op f ext
  else if op < 0x70 then decodeSync op f ext
  else if op < 0x80 then decodeMatrix op f ext
  else if op < 0x90 then decodeWells op f ext
  else decodeGen op f ext

/-- The typed instruction, if `Instr.wf` holds of it (check 5 of R100). -/
def checked : Dec Instr → Decoded
  | .ok i => if i.wf then .instr i else .reject .operand
  | .error r => .reject r

/-- The instruction of a word and of the word that follows it in its block (`none` where the block ends), or why
there is none. Checks 1, 2 and 5 of R100, in their order. -/
def decode (w : W64) (next : Option W64) : Decoded :=
  let f := Fields.ofWord w
  match hasExt f.op.toNat, next with
  | true, none => .reject .noExtension
  | true, some e => checked (decodeFields f e)
  | false, _ => checked (decodeFields f 0)

/-- R98: the engines that execute a word's opcode, read from its OP field, and for CVT from its type fields, so
that check 3 of R100 precedes check 5. -/
def engineOfWord (w : W64) : EngineClass :=
  let f := Fields.ofWord w
  let op := f.op.toNat
  let flt (c : Nat) : Bool := decide (8 ≤ c) && decide (c ≤ 12)
  if op == 0x1F then
    if flt (f.mod.extractLsb' 10 4).toNat || flt (f.mod.extractLsb' 0 4).toNat then .coreOnly else .both
  else if op == 0x06 || op == 0x08 || op == 0x1B then .coreOnly
  else if op ≤ 0x2F then .both
  else if op == 0x50 || op == 0x51 || op == 0x57 || op == 0x5A || op == 0x5B || op == 0x60 || op == 0x94 || op == 0x95
    || op == 0x97 then .both
  else if 0x70 ≤ op && op ≤ 0x76 then .matrix
  else .coreOnly

/-- R446: the CSR number of a CSRR or CSRW word, for check 4 of R100. -/
def csrOfWord (w : W64) : Option (BitVec 12) :=
  let f := Fields.ofWord w
  if f.op == 0x94 || f.op == 0x95 then some (f.mod.extractLsb' 2 12) else none

-- the encoder

/-- Format A. -/
def encA (op : BitVec 8) (g : Guard) (d : BitVec 8) (a b c : BitVec 10) (mod : BitVec 14) : W64 :=
  Fields.toWord { op := op, g := g.code, d := d, a := a, b := b, c := c, mod := mod }

/-- Format C. -/
def encC (op : BitVec 8) (g : Guard) (kind : BitVec 20) (off : BitVec 32) : W64 :=
  op ++ g.code ++ kind ++ off

/-- Format I. -/
def encI (op : BitVec 8) (g : Guard) (d : BitVec 8) (a : BitVec 10) (imm : BitVec 32) (mod : BitVec 2) : W64 :=
  op ++ g.code ++ d ++ a ++ imm ++ mod

/-- Format M. -/
def encM (op : BitVec 8) (g : Guard) (d : BitVec 8) (a b : BitVec 10) (br : BitVec 4) (xs sz sc : BitVec 3)
    (off : BitVec 11) : W64 :=
  op ++ g.code ++ d ++ a ++ b ++ br ++ xs ++ sz ++ sc ++ off

/-- The common MOD of an integer instruction (R93). -/
def modInt (ty : IntTy) (sat : Bool) (low : BitVec 5) : BitVec 14 :=
  ty.code ++ (0 : BitVec 4) ++ bit sat ++ low

/-- The common MOD of a floating instruction (R93). -/
def modFlt (ty : BitVec 4) (m : FMod) (low : BitVec 5) : BitVec 14 :=
  ty ++ m.rnd.code ++ bit m.ftz ++ bit m.sat ++ low

/-- MOD of the logic group (R405). -/
def modLog (ty : BTy) (low : BitVec 10) : BitVec 14 := ty.code ++ low

/-- CE and KC (R568). -/
def WellCount.code (c : WellCount) : BitVec 4 := bit c.ce ++ c.kc

/-- A queued well command's low MOD bits under ten zero bits. -/
def modWell (c : WellCount) : BitVec 14 := (0 : BitVec 10) ++ c.code

/-- The words of a well-formed instruction, from the encoding tables of R403 to R580. A step of another agent has
no words (the empty list). -/
def encode : Instr → List W64
  | .nop g => [encA 0x00 g 0 0 0 0 0]
  | .bra off => [encC 0x01 .always 0 off]
  | .brc g off => [encC 0x02 g 0 off]
  | .call off => [encC 0x03 .always 0 off]
  | .ret => [encC 0x04 .always 0 0]
  | .exit g => [encC 0x05 g 0 0, 0]
  | .exitSuccessor off keep => [encC 0x05 .always 1 off, keep]
  | .yield t k off => [encC 0x06 .always (t.code ++ (0 : BitVec 7) ++ k) off]
  | .waitc g t k => [encA 0x07 g 0 t.code 0 0 ((0 : BitVec 11) ++ k)]
  | .bar n arrive => [encA 0x08 .always 0 0 0 0 ((0 : BitVec 9) ++ bit arrive ++ n)]
  | .trap g imm => [encI 0x09 g 0 0 imm 0]
  | .rtt => [encA 0x0A .always 0 0 0 0 0]
  | .gsig g a => [encA 0x0B g 0 a.code 0 0 0]
  | .iadd g d ty sat a b => [encA 0x10 g d.code a.code b.code 0 (modInt ty sat 0)]
  | .isub g d ty sat a b => [encA 0x11 g d.code a.code b.code 0 (modInt ty sat 0)]
  | .imul g d ty sat a b => [encA 0x12 g d.code a.code b.code 0 (modInt ty sat 0)]
  | .imulh g d ty a b => [encA 0x13 g d.code a.code b.code 0 (modInt ty false 0)]
  | .imad g d ty sat a b c => [encA 0x14 g d.code a.code b.code c.code (modInt ty sat 0)]
  | .idiv g d ty sat z rem a b =>
      [encA 0x15 g d.code a.code b.code 0 (modInt ty sat ((0 : BitVec 3) ++ bit z ++ bit rem))]
  | .imin g d ty a b => [encA 0x16 g d.code a.code b.code 0 (modInt ty false 0)]
  | .imax g d ty a b => [encA 0x17 g d.code a.code b.code 0 (modInt ty false 0)]
  | .iabs g d ty sat a => [encA 0x18 g d.code a.code 0 0 (modInt ty sat 0)]
  | .ineg g d ty sat a => [encA 0x19 g d.code a.code 0 0 (modInt ty sat 0)]
  | .icmp g d ty cond pw a b =>
      [encA 0x1A g d.code a.code b.code 0
        (ty.code ++ pdCode pw ++ (0 : BitVec 1) ++ bit pw.isSome ++ cond.code ++ (0 : BitVec 2))]
  | .idp4 g d aty bty sat a b c =>
      [encA 0x1B g d.code a.code b.code c.code (aty.code ++ (0 : BitVec 4) ++ bit sat ++ (0 : BitVec 1) ++ bty.code)]
  | .sel g d w64 neg p a b =>
      [encA 0x1C g d.code a.code b.code 0 ((0 : BitVec 9) ++ bit w64 ++ bit neg ++ p)]
  | .mov g d w64 a => [encA 0x1D g d.code a.code 0 0 ((0 : BitVec 13) ++ bit w64)]
  | .movi g d form a imm => [encI 0x1E g d.code a.code imm form.code]
  | .cvt g d dty sty m a =>
      [encA 0x1F g d.code a.code 0 0
        (dty.code ++ m.rnd.code ++ bit m.ftz ++ bit m.sat ++ (0 : BitVec 1) ++ sty.code)]
  | .andL g d ty a b => [encA 0x20 g d.code a.code b.code 0 (modLog ty 0)]
  | .orL g d ty a b => [encA 0x21 g d.code a.code b.code 0 (modLog ty 0)]
  | .xorL g d ty a b => [encA 0x22 g d.code a.code b.code 0 (modLog ty 0)]
  | .notL g d ty a => [encA 0x23 g d.code a.code 0 0 (modLog ty 0)]
  | .bool3 g d ty lut a b c => [encA 0x24 g d.code a.code b.code c.code (modLog ty ((0 : BitVec 2) ++ lut))]
  | .shl g d ty a n => [encA 0x25 g d.code a.code n.code 0 (modLog ty 0)]
  | .shr g d ty a n => [encA 0x26 g d.code a.code n.code 0 (modLog ty 0)]
  | .sar g d ty a n => [encA 0x27 g d.code a.code n.code 0 (modLog ty 0)]
  | .rot g d ty r a n => [encA 0x28 g d.code a.code n.code 0 (modLog ty ((0 : BitVec 9) ++ bit r))]
  | .fsh g d ty r a b n => [encA 0x29 g d.code a.code b.code n.code (modLog ty ((0 : BitVec 9) ++ bit r))]
  | .bfx g d ty a pos len => [encA 0x2A g d.code a.code pos.code len.code (ty.code ++ (0 : BitVec 10))]
  | .bfi g d ty a b c => [encA 0x2B g d.code a.code b.code c.code (modLog ty 0)]
  | .popc g d ty a => [encA 0x2C g d.code a.code 0 0 (modLog ty 0)]
  | .clz g d ty a => [encA 0x2D g d.code a.code 0 0 (modLog ty 0)]
  | .brev g d ty a => [encA 0x2E g d.code a.code 0 0 (modLog ty 0)]
  | .prmt g d mode a b c => [encA 0x2F g d.code a.code b.code c.code ((0 : BitVec 11) ++ mode.code)]
  | .fadd g d ty m a b => [encA 0x30 g d.code a.code b.code 0 (modFlt ty.code m 0)]
  | .fsub g d ty m a b => [encA 0x31 g d.code a.code b.code 0 (modFlt ty.code m 0)]
  | .fmul g d ty m a b => [encA 0x32 g d.code a.code b.code 0 (modFlt ty.code m 0)]
  | .ffma g d ty m a b c => [encA 0x33 g d.code a.code b.code c.code (modFlt ty.code m 0)]
  | .fmin g d ty nanp ftz a b =>
      [encA 0x34 g d.code a.code b.code 0 (modFlt ty.code ⟨.rne, ftz, false⟩ ((0 : BitVec 4) ++ bit nanp))]
  | .fmax g d ty nanp ftz a b =>
      [encA 0x35 g d.code a.code b.code 0 (modFlt ty.code ⟨.rne, ftz, false⟩ ((0 : BitVec 4) ++ bit nanp))]
  | .fcmp g d ty cond ftz pw a b =>
      [encA 0x36 g d.code a.code b.code 0
        (ty.code ++ pdCode pw ++ bit ftz ++ bit pw.isSome ++ cond.code ++ (0 : BitVec 1))]
  | .fclass g d ty a => [encA 0x37 g d.code a.code 0 0 (ty.code ++ (0 : BitVec 10))]
  | .frcp g d ty ftz a => [encA 0x38 g d.code a.code 0 0 (modFlt ty.code ⟨.rne, ftz, false⟩ 0)]
  | .frsq g d ty ftz a => [encA 0x39 g d.code a.code 0 0 (modFlt ty.code ⟨.rne, ftz, false⟩ 0)]
  | .fsqrt g d ty ftz a => [encA 0x3A g d.code a.code 0 0 (modFlt ty.code ⟨.rne, ftz, false⟩ 0)]
  | .flog2 g d ty ftz a => [encA 0x3B g d.code a.code 0 0 (modFlt ty.code ⟨.rne, ftz, false⟩ 0)]
  | .fexp2 g d ty ftz a => [encA 0x3C g d.code a.code 0 0 (modFlt ty.code ⟨.rne, ftz, false⟩ 0)]
  | .ftanh g d ty ftz a => [encA 0x3D g d.code a.code 0 0 (modFlt ty.code ⟨.rne, ftz, false⟩ 0)]
  | .fsig g d ty ftz a => [encA 0x3E g d.code a.code 0 0 (modFlt ty.code ⟨.rne, ftz, false⟩ 0)]
  | .hadd2 g d ty m a b => [encA 0x40 g d.code a.code b.code 0 (modFlt ty.code m 0)]
  | .hmul2 g d ty m a b => [encA 0x41 g d.code a.code b.code 0 (modFlt ty.code m 0)]
  | .hfma2 g d ty m a b c => [encA 0x42 g d.code a.code b.code c.code (modFlt ty.code m 0)]
  | .shfl g d ty mode a b => [encA 0x44 g d.code a.code b.code 0 (modLog ty ((0 : BitVec 8) ++ mode.code))]
  | .vote g d mode pw a =>
      [encA 0x45 g d.code a.code 0 0 ((0 : BitVec 8) ++ bit pw.isSome ++ pdCode pw ++ mode.code)]
  | .red g d ty op m a =>
      [encA 0x46 g d.code a.code 0 0 (modFlt ty.code m ((0 : BitVec 2) ++ op.code))]
  | .rmaxi g d ty ftz a idx => [encA 0x47 g d.code a.code idx.code 0 (modFlt ty.code ⟨.rne, ftz, false⟩ 0)]
  | .scan g d ty op excl m a =>
      [encA 0x48 g d.code a.code 0 0 (modFlt ty.code m ((0 : BitVec 1) ++ bit excl ++ op.code))]
  | .reform ps keep => [encA 0x49 .always 0 0 0 0 ((0 : BitVec 11) ++ ps), keep]
  | .elect g d pw cnd =>
      [encA 0x4A g d.code (match cnd with | some a => a.code | none => 0) 0 0
        ((0 : BitVec 9) ++ bit cnd.isSome ++ bit pw.isSome ++ pdCode pw)]
  | .ld g d m acq => [encM 0x50 g d.code m.a.code 0 m.br 0 m.sz.code (Scope.code? acq) m.off]
  | .st g m data rel => [encM 0x51 g 0 m.a.code data.code m.br 0 m.sz.code (Scope.code? rel) m.off]
  | .lds g d m => [encM 0x52 g d.code m.a.code 0 0 m.xs m.sz.code 0 m.off]
  | .sts g m data => [encM 0x53 g 0 m.a.code data.code 0 m.xs m.sz.code 0 m.off]
  | .gather g d m => [encM 0x54 g d.code m.a.code 0 m.br 0 m.sz.code 0 m.off]
  | .scatter g m data => [encM 0x55 g 0 m.a.code data.code m.br 0 m.sz.code 0 m.off]
  | .pref g m t => [encM 0x56 g 0 m.a.code 0 m.br 0 m.sz.code t.code m.off]
  | .fence g smask dmask sc spadw =>
      [(0x57 : BitVec 8) ++ g.code ++ (0 : BitVec 28) ++ smask ++ dmask ++ sc.code ++ bit spadw ++ (0 : BitVec 4)]
  | .icsync g br a len => [encA 0x58 g 0 a.code len.code 0 ((0 : BitVec 10) ++ br)]
  | .copy g dir src dst shape x =>
      [encA 0x59 g 0 src.code dst.code shape.code ((0 : BitVec 12) ++ dir.code),
       x.brs ++ x.brd ++ x.xs ++ x.kc ++ bit x.cont.isSome ++ (0 : BitVec 17)
         ++ (match x.cont with | some o => o | none => (0 : BitVec 32))]
  | .brld g bd a br off acq => [encM 0x5A g ((0 : BitVec 4) ++ bd) a.code 0 br 0 6 (Scope.code? acq) off]
  | .brmk g bd base extent hi stride rights swz =>
      [encA 0x5B g ((0 : BitVec 4) ++ bd) base.code extent.code 0 0,
       hi ++ stride ++ rights ++ swz ++ (0 : BitVec 32)]
  | .spgrow g d n => [encA 0x5C g d.code n.code 0 0 0]
  | .spfree g n => [encA 0x5D g 0 n.code 0 0 0]
  | .pin g d br fade a n => [encA 0x5E g d.code a.code n.code 0 (br ++ (0 : BitVec 2) ++ fade)]
  | .unpin g h => [encA 0x5F g 0 h.code 0 0 0]
  | .atom g d op ty br off sc a b c =>
      [encA 0x60 g d.code a.code b.code c.code 0,
       br ++ op.code ++ ty.code ++ off ++ Scope.code? sc ++ (0 : BitVec 38)]
  | .atomo g d op ty br off sc a b c =>
      [encA 0x61 g d.code a.code b.code c.code 0,
       br ++ op.code ++ ty.code ++ off ++ Scope.code? sc ++ (0 : BitVec 38)]
  | .reds g op ty br off a b c =>
      [encA 0x62 g 0 a.code b.code c.code 0, br ++ op.code ++ ty.code ++ off ++ (0 : BitVec 43)]
  | .combine g grp => [encA 0x63 g 0 0 0 0 0, (0 : BitVec 52) ++ grp]
  | .llock g d br off limit a =>
      [encA 0x64 g d.code a.code 0 0 0, br ++ off ++ (0 : BitVec 1) ++ limit ++ (0 : BitVec 16)]
  | .lunlock g br off a => [encA 0x65 g 0 a.code 0 0 (br ++ off)]
  | .mma g a b c ha hb km1 la lb =>
      [encA 0x70 g 0 a.code b.code c.code ((0 : BitVec 12) ++ bit lb ++ bit la), ha ++ hb ++ km1 ++ (0 : BitVec 20)]
  | .mmas g a b c ha hb km1 la lb =>
      [encA 0x71 g 0 a.code b.code c.code ((0 : BitVec 12) ++ bit lb ++ bit la), ha ++ hb ++ km1 ++ (0 : BitVec 20)]
  | .mgrp g a b c ha km1 la =>
      [encA 0x72 g 0 a.code b.code c.code ((0 : BitVec 13) ++ bit la),
       ha ++ (0 : BitVec 12) ++ km1 ++ (0 : BitVec 20)]
  | .mzero g => [encA 0x73 g 0 0 0 0 0]
  | .mdrain g a b c rnd epi merge clr notile keyed hd =>
      [encA 0x74 g 0 a.code b.code c.code
        (rnd.code ++ epi.code ++ bit merge ++ bit clr ++ bit notile ++ bit keyed ++ (0 : BitVec 5)),
       hd ++ (0 : BitVec 52)]
  | .mmask g addr off => [encA 0x75 g 0 addr.code 0 0 0, (0 : BitVec 63) ++ bit off]
  | .mwait g d => [encA 0x76 g d.code 0 0 0 0]
  | .tilepost g h => [encA 0x77 g 0 0 0 0 0, h ++ (0 : BitVec 52)]
  | .tilewait g d h drain => [encA 0x78 g d.code 0 0 0 0, h ++ (0 : BitVec 51) ++ bit drain]
  | .wload g w off first kind sp cnt br xs count =>
      [encA 0x80 g 0 w.code off.code first.code (kind.code ++ bit sp ++ (0 : BitVec 7) ++ cnt.code),
       br ++ xs ++ (0 : BitVec 39) ++ count]
  | .wbias g w cell v cnt => [encA 0x81 g 0 w.code cell.code v.code (modWell cnt)]
  | .wclamp g w cell v cnt => [encA 0x82 g 0 w.code cell.code v.code (modWell cnt)]
  | .wsweep g w off order n cnt x =>
      [encA 0x83 g 0 w.code off.code order.code ((0 : BitVec 7) ++ n ++ cnt.code),
       x.beta ++ x.sweeps ++ x.br ++ x.xs ++ bit x.str ++ bit x.ssp ++ bit x.phys ++ x.len]
  | .wread g d w index kind =>
      [encA 0x84 g d.code w.code index.code 0 ((0 : BitVec 8) ++ kind.code ++ (0 : BitVec 4))]
  | .wkey g w key imm cnt =>
      [encA 0x85 g 0 w.code key.code 0 ((0 : BitVec 7) ++ bit imm.isSome ++ (0 : BitVec 2) ++ cnt.code),
       match imm with | some k => k | none => 0]
  | .wkeyPhys g w cnt => [encA 0x85 g 0 w.code 0 0 ((0 : BitVec 8) ++ (1 : BitVec 2) ++ cnt.code), 0]
  | .wkeyDraw g key imm =>
      [encA 0x85 g 0 0 key.code 0 ((0 : BitVec 7) ++ bit imm.isSome ++ (2 : BitVec 2) ++ (0 : BitVec 4)),
       match imm with | some k => k | none => 0]
  | .wnoise g d keyed => [encA 0x86 g d.code 0 0 0 ((0 : BitVec 9) ++ bit keyed ++ (0 : BitVec 4))]
  | .wstat g d w => [encA 0x87 g d.code w.code 0 0 0]
  | .wlink g w slot value cnt stale =>
      [encA 0x88 g 0 w.code slot.code value.code (modWell cnt), (0 : BitVec 60) ++ stale]
  | .accept g d a padlo n vm1 padhi br seq =>
      [encA 0x90 g d.code a.code padlo.code n.code ((0 : BitVec 13) ++ bit seq),
       vm1 ++ padhi ++ br ++ (0 : BitVec 12)]
  | .ballot g d hash =>
      [encA 0x91 g d.code (match hash with | some h => h.code | none => 0) 0 0 0, (0 : BitVec 63) ++ bit hash.isNone]
  | .sibchk g d trp => [encA 0x92 g d.code 0 0 0 ((0 : BitVec 13) ++ bit trp)]
  | .ringput g a b c rh => [encA 0x93 g 0 a.code b.code c.code 0, (0 : BitVec 58) ++ rh]
  | .csrr g d csr w64 => [encI 0x94 g d.code 0 ((0 : BitVec 20) ++ csr) ((0 : BitVec 1) ++ bit w64)]
  | .csrw g csr w64 a => [encI 0x95 g 0 a.code ((0 : BitVec 20) ++ csr) ((0 : BitVec 1) ++ bit w64)]
  | .stamp g a => [encA 0x96 g 0 a.code 0 0 0]
  | .trace g a => [encA 0x97 g 0 a.code 0 0 0]
  | .illegalOpcode op => [encA op .always 0 0 0 0 0]
  | _ => []

/-- R6, R91: the bytes of words in memory order, little-endian. -/
def bytesOfWords : List W64 → List Byte
  | [] => []
  | w :: ws =>
    w.extractLsb' 0 8 :: w.extractLsb' 8 8 :: w.extractLsb' 16 8 :: w.extractLsb' 24 8 :: w.extractLsb' 32 8
      :: w.extractLsb' 40 8 :: w.extractLsb' 48 8 :: w.extractLsb' 56 8 :: bytesOfWords ws

/-- R6: the little-endian word of a byte list's first eight bytes, where it has them. -/
def wordOfBytes? : List Byte → Option W64
  | b0 :: b1 :: b2 :: b3 :: b4 :: b5 :: b6 :: b7 :: _ => some (b7 ++ b6 ++ b5 ++ b4 ++ b3 ++ b2 ++ b1 ++ b0)
  | _ => none

/-- The instruction at the head of a byte list, as `decode` reads it: total on any bytes. -/
def decodeBytes (bs : List Byte) : Decoded :=
  match wordOfBytes? bs with
  | none => .reject .noExtension
  | some w => decode w (wordOfBytes? (bs.drop 8))

/-- What the decoder reads from an instruction whose bits are `w`, the first word the least significant; the words
stand in memory as the hardware stores them and are read back by `decodeBytes`. Bits from `nbits` up are 0. -/
def decodeTableWord (nbits w : Nat) : Option Instr :=
  let v := w % 2 ^ nbits
  match decodeBytes (bytesOfWords [BitVec.ofNat 64 v, BitVec.ofNat 64 (v / 2 ^ 64)]) with
  | .instr i => some i
  | .reject _ => none

end Sys2Proof
end

