-- ==== Sys2Proof/Machine/Flags.lean ====
section
/-! DEFINITION. Flags.lean: the sticky flags of FPFLAGS (R123), and every flag computation of integer results
(R105). -/
namespace Sys2Proof.Machine

/-- The flags of R123, bit by bit: SAT, NAN_ALL, NV, DZ, OF, UF, NX from bit 6 down. -/
abbrev Flags := BitVec 7

def Flags.none : Flags := 0
def Flags.nx : Flags := 0x01
def Flags.uf : Flags := 0x02
def Flags.of_ : Flags := 0x04
def Flags.dz : Flags := 0x08
def Flags.nv : Flags := 0x10
def Flags.nanAll : Flags := 0x20
def Flags.sat : Flags := 0x40

/-- A flag where a condition holds. -/
def Flags.when (b : Bool) (f : Flags) : Flags := if b then f else 0

/-- A result with the flags it sets. -/
structure Res where
  bits  : W64
  flags : Flags := 0
deriving DecidableEq, Repr

/-- R104: the width of an integer type. -/
def intWidth : IntTy → Nat
  | .s8 | .n8 => 8
  | .s16 | .n16 => 16
  | .s32 | .n32 => 32
  | .s64 | .n64 => 64

/-- R104: whether an integer type is signed. -/
def intSigned : IntTy → Bool
  | .s8 | .s16 | .s32 | .s64 => true
  | _ => false

/-- R13: sext(x, n), unbounded. -/
def sextNat (x n : Nat) : Int :=
  let v := x % 2 ^ n
  if 2 * v < 2 ^ n then (v : Int) else (v : Int) - (2 ^ n : Nat)

/-- R485: an operand of an integer type, unbounded. -/
def readInt (ty : IntTy) (x : W64) : Int :=
  if intSigned ty then sextNat x.toNat (intWidth ty) else ((x.toNat % 2 ^ intWidth ty : Nat) : Int)

/-- The least value of an integer type. -/
def intMin (ty : IntTy) : Int := if intSigned ty then -((2 ^ (intWidth ty - 1) : Nat) : Int) else 0

/-- The greatest value of an integer type. -/
def intMax (ty : IntTy) : Int :=
  if intSigned ty then ((2 ^ (intWidth ty - 1) : Nat) : Int) - 1 else ((2 ^ intWidth ty : Nat) : Int) - 1

/-- R105, R485: an exact value reduced to the type: clamped with SAT set where that changes it, or modulo 2^W;
then extended by the type's signedness to 32 bits where the type is narrower. -/
def finishInt (ty : IntTy) (sat : Bool) (x : Int) : Res :=
  let clamped := if x < intMin ty then intMin ty else if intMax ty < x then intMax ty else x
  let r : Int := if sat then clamped else sextNat (x % (2 ^ intWidth ty : Nat)).toNat (intWidth ty)
  let v : Int := if intSigned ty then r else r % (2 ^ intWidth ty : Nat)
  { bits := if intWidth ty = 64 then BitVec.ofInt 64 v else (BitVec.ofInt 32 v).setWidth 64
    flags := Flags.when (sat && decide (clamped ≠ x)) Flags.sat }

end Sys2Proof.Machine
end

