-- ==== Sys2Proof/Machine/Float.lean ====
section
/-! DEFINITION. Float.lean: the floating formats, rounding and exact arithmetic of 04_numbers (R107 to R122). -/
namespace Sys2Proof.Machine

/-- A format of R107: exponent bits, fraction bits, bias; `fn` marks E4M3, which has no infinity. -/
structure Fmt where
  eb   : Nat
  fb   : Nat
  bias : Nat
  fn   : Bool := false
deriving DecidableEq, Repr

/-- R107. -/
def fmtOf : FTy → Fmt
  | .f32 => { eb := 8, fb := 23, bias := 127 }
  | .f16 => { eb := 5, fb := 10, bias := 15 }
  | .bf16 => { eb := 8, fb := 7, bias := 127 }
  | .e4m3 => { eb := 4, fb := 3, bias := 7, fn := true }
  | .e5m2 => { eb := 5, fb := 2, bias := 15 }

/-- The storage width. -/
def Fmt.width (f : Fmt) : Nat := 1 + f.eb + f.fb

/-- R108: the NaNs of .f32, .f16 and .bf16 may signal; those of the 8-bit formats are quiet. -/
def Fmt.signals (f : Fmt) : Bool := 8 < f.width

/-- A floating value: NaN, infinity, or the number ±m·2^e. -/
inductive FVal
  | nan (signalling : Bool)
  | inf (neg : Bool)
  | num (neg : Bool) (m : Nat) (e : Int)
deriving DecidableEq, Repr

/-- The exponent of the least subnormal: value 2^(1 − bias − fb). -/
def Fmt.emin (f : Fmt) : Int := 1 - (f.bias : Int) - (f.fb : Int)

/-- The largest finite value as an integer multiple of 2^`emaxE`. -/
def Fmt.maxM (f : Fmt) : Nat := if f.fn then 2 ^ (f.fb + 1) - 2 else 2 ^ (f.fb + 1) - 1

/-- The exponent of the last place of the largest finite value. -/
def Fmt.maxE (f : Fmt) : Int :=
  ((if f.fn then 2 ^ f.eb - 1 else 2 ^ f.eb - 2 : Nat) : Int) - (f.bias : Int) - (f.fb : Int)

/-- R107: the value of an encoding. -/
def Fmt.decode (f : Fmt) (x : Nat) : FVal :=
  let frac := x % 2 ^ f.fb
  let ex := x / 2 ^ f.fb % 2 ^ f.eb
  let neg := x / 2 ^ (f.fb + f.eb) % 2 == 1
  if f.fn then
    if ex = 2 ^ f.eb - 1 ∧ frac = 2 ^ f.fb - 1 then .nan false
    else if ex = 0 then .num neg frac f.emin
    else .num neg (2 ^ f.fb + frac) (f.emin + (ex : Int) - 1)
  else if ex = 2 ^ f.eb - 1 then
    if frac = 0 then .inf neg
    else .nan (f.signals && decide (frac < 2 ^ (f.fb - 1)))
  else if ex = 0 then .num neg frac f.emin
  else .num neg (2 ^ f.fb + frac) (f.emin + (ex : Int) - 1)

/-- Whether an encoding is a non-zero subnormal. -/
def Fmt.isSubnormal (f : Fmt) (x : Nat) : Bool :=
  decide (x / 2 ^ f.fb % 2 ^ f.eb = 0) && decide (x % 2 ^ f.fb ≠ 0)

/-- R107: the canonical NaN. -/
def Fmt.canon (f : Fmt) : Nat :=
  if f.fn then 2 ^ (f.eb + f.fb) - 1 else (2 ^ f.eb - 1) * 2 ^ f.fb + 2 ^ (f.fb - 1)

/-- The sign bit's weight. -/
def Fmt.signBit (f : Fmt) (neg : Bool) : Nat := if neg then 2 ^ (f.eb + f.fb) else 0

/-- The encoding of an infinity (formats with infinities). -/
def Fmt.infBits (f : Fmt) (neg : Bool) : Nat := f.signBit neg + (2 ^ f.eb - 1) * 2 ^ f.fb

/-- The encoding of the largest finite value. -/
def Fmt.maxBits (f : Fmt) (neg : Bool) : Nat :=
  f.signBit neg + (if f.fn then 2 ^ (f.eb + f.fb) - 2 else (2 ^ f.eb - 1) * 2 ^ f.fb - 1)

/-- How a value is rounded: a mode of R114, with the noise word of R118 and its width for SR. -/
structure Rounding where
  rnd   : Rnd := .rne
  noise : Nat := 0
  nbits : Nat := 32
  ftz   : Bool := false
  sat   : Bool := false
deriving DecidableEq, Repr

/-- Rounds the magnitude (m + δ)·2^e, with 0 < δ < 1 where `sticky`, to a multiple q of 2^t (R114, R118); tells
whether that changed it. -/
def roundAt (r : Rounding) (neg : Bool) (m : Nat) (e : Int) (sticky : Bool) (t : Int) : Nat × Bool :=
  let sh := (t - e).toNat
  let q := if e < t then m >>> sh else m <<< (e - t).toNat
  let rest := if e < t then m % 2 ^ sh else 0
  let half := if e < t then 2 ^ sh / 2 else 1
  let inexact := decide (rest ≠ 0) || sticky
  let above := decide (e < t) && (decide (half < rest) || (decide (rest = half) && sticky))
  let tie := decide (e < t) && decide (rest = half) && !sticky
  let up : Bool := match r.rnd with
    | .rne => above || (tie && q % 2 == 1)
    | .rna => above || tie
    | .rz => false
    | .rdn => neg && inexact
    | .rup => !neg && inexact
    | .sr => inexact && decide (r.noise < rest * 2 ^ r.nbits / 2 ^ sh)
  (if up then q + 1 else q, inexact)

/-- Compares m·2^e with m'·2^e': whether the first is below. -/
def magLt (m : Nat) (e : Int) (m' : Nat) (e' : Int) : Bool :=
  decide (m <<< (e - e').toNat < m' <<< (e' - e).toNat)

/-- The encoding of q·2^t, where q has at most fb + 1 bits and t is at least `emin`, or q·2^t is the next power of
two. -/
def Fmt.encodeMag (f : Fmt) (q : Nat) (t : Int) : Nat :=
  let ex := (t - f.emin).toNat
  if q < 2 ^ f.fb then q
  else if q < 2 ^ (f.fb + 1) then (ex + 1) * 2 ^ f.fb + (q - 2 ^ f.fb)
  else (ex + 2) * 2 ^ f.fb

/-- R115: what an overflow writes. -/
def Fmt.overflow (f : Fmt) (r : Rounding) (neg : Bool) : Nat :=
  let toMax : Bool := r.sat || (match r.rnd with
    | .rz => true
    | .rdn => !neg
    | .rup => neg
    | _ => false)
  if toMax then f.maxBits neg else if f.fn then f.canon else f.infBits neg

/-- R115: an infinite result that is no overflow. -/
def Fmt.writeInf (f : Fmt) (r : Rounding) (neg : Bool) : Nat × Flags :=
  if r.sat then (f.maxBits neg, 0)
  else if f.fn then (f.canon, Flags.nv)
  else (f.infBits neg, 0)

/-- R114 to R118: the magnitude (m + δ)·2^e rounded to the format, with the flags set. -/
def Fmt.roundMag (f : Fmt) (r : Rounding) (neg : Bool) (m : Nat) (e : Int) (sticky : Bool) : Nat × Flags :=
  if m = 0 ∧ sticky = false then (f.signBit neg, 0)
  else
    let p : Int := (f.fb : Int) + 1
    let eu : Int := e + ((if m = 0 then 1 else m.log2 + 1 : Nat) : Int) - p
    let (qu, _) := roundAt r neg m e sticky eu
    let tiny := magLt qu eu 1 (f.emin + (f.fb : Int))
    let isOver := if r.rnd = .sr then magLt f.maxM f.maxE m e else magLt f.maxM f.maxE qu eu
    if isOver then (f.overflow r neg, Flags.of_ ||| Flags.nx)
    else if tiny && r.ftz then (f.signBit neg, Flags.uf ||| Flags.nx)
    else
      let t : Int := if eu < f.emin then f.emin else eu
      let (q, inexact) := roundAt r neg m e sticky t
      (f.signBit neg + f.encodeMag q t,
        Flags.when inexact Flags.nx ||| Flags.when (inexact && tiny) Flags.uf)

/-- The signed exact value k·2^e rounded to the format; an exact zero takes the sign `zneg`. -/
def Fmt.roundInt (f : Fmt) (r : Rounding) (zneg : Bool) (k : Int) (e : Int) : Nat × Flags :=
  if k = 0 then (f.signBit zneg, 0) else f.roundMag r (decide (k < 0)) k.natAbs e false

/-- R117: an operand, subnormals read as zero under FTZ. -/
def Fmt.read (f : Fmt) (ftz : Bool) (x : Nat) : FVal :=
  match f.decode x with
  | .num neg m e => if ftz && f.isSubnormal x then .num neg 0 e else .num neg m e
  | v => v

/-- R108: whether a value is a signalling NaN. -/
def FVal.snan : FVal → Bool
  | .nan s => s
  | _ => false

/-- Whether a value is a NaN. -/
def FVal.isNan : FVal → Bool
  | .nan _ => true
  | _ => false

/-- The signed integer k and exponent of a number k·2^e. -/
def FVal.scaled (neg : Bool) (m : Nat) : Int := if neg then -(m : Int) else (m : Int)

/-- R119: the sum of two values, rounded once. -/
def Fmt.addV (f : Fmt) (r : Rounding) (a b : FVal) : Nat × Flags :=
  let nv := Flags.when (a.snan || b.snan) Flags.nv
  match a, b with
  | .nan _, _ => (f.canon, nv)
  | _, .nan _ => (f.canon, nv)
  | .inf s, .inf t => if s = t then f.writeInf r s else (f.canon, Flags.nv)
  | .inf s, _ => f.writeInf r s
  | _, .inf t => f.writeInf r t
  | .num s m e, .num t n e' =>
    let lo := if e < e' then e else e'
    let k := FVal.scaled s m * (2 ^ (e - lo).toNat : Nat) + FVal.scaled t n * (2 ^ (e' - lo).toNat : Nat)
    let zneg := if m = 0 ∧ n = 0 ∧ s = t then s else decide (r.rnd = .rdn)
    f.roundInt r zneg k lo

/-- Negates a value. -/
def FVal.negate : FVal → FVal
  | .nan s => .nan s
  | .inf s => .inf (!s)
  | .num s m e => .num (!s) m e

/-- The exact product of two values that are not NaN: NaN where it is 0 × ∞. -/
def FVal.mulExact : FVal → FVal → FVal
  | .nan s, _ => .nan s
  | _, .nan s => .nan s
  | .inf s, .inf t => .inf (s != t)
  | .inf s, .num t n _ => if n = 0 then .nan false else .inf (s != t)
  | .num s m _, .inf t => if m = 0 then .nan false else .inf (s != t)
  | .num s m e, .num t n e' => .num (s != t) (m * n) (e + e')

/-- R119: whether a product is the invalid 0 × ∞. -/
def FVal.zeroInf : FVal → FVal → Bool
  | .inf _, .num _ n _ => decide (n = 0)
  | .num _ m _, .inf _ => decide (m = 0)
  | _, _ => false

/-- R119: the product of two values, rounded once. -/
def Fmt.mulV (f : Fmt) (r : Rounding) (a b : FVal) : Nat × Flags :=
  let nv := Flags.when (a.snan || b.snan || FVal.zeroInf a b) Flags.nv
  match FVal.mulExact a b with
  | .nan _ => (f.canon, nv)
  | .inf s => f.writeInf r s
  | .num s m e => f.roundMag r s m e false

/-- R119: a·b + c, rounded once. -/
def Fmt.fmaV (f : Fmt) (r : Rounding) (a b c : FVal) : Nat × Flags :=
  let nv := Flags.when (a.snan || b.snan || c.snan || FVal.zeroInf a b) Flags.nv
  match FVal.mulExact a b with
  | .nan _ => (f.canon, nv)
  | .inf s =>
    match c with
    | .nan _ => (f.canon, nv)
    | .inf t => if s = t then f.writeInf r s else (f.canon, Flags.nv)
    | .num _ _ _ => f.writeInf r s
  | .num s m e =>
    match c with
    | .nan _ => (f.canon, nv)
    | c => f.addV r (.num s m e) c

/-- R120's order of numbers, −0 below +0: whether a is below b. -/
def FVal.lt : FVal → FVal → Bool
  | .nan _, _ => false
  | _, .nan _ => false
  | .inf s, .inf t => s && !t
  | .inf s, .num _ _ _ => s
  | .num _ _ _, .inf t => !t
  | .num s m e, .num t n e' =>
    if m = 0 ∧ n = 0 then s && !t
    else if s && !t then decide (m ≠ 0) || decide (n ≠ 0)
    else if !s && t then false
    else if s then magLt n e' m e
    else magLt m e n e'

/-- R466: equality of numbers, −0 equal to +0. -/
def FVal.numEq : FVal → FVal → Bool
  | .nan _, _ => false
  | _, .nan _ => false
  | a, b =>
    match a, b with
    | .num _ 0 _, .num _ 0 _ => true
    | _, _ => !FVal.lt a b && !FVal.lt b a

/-- R466: a < b of numbers, −0 equal to +0. -/
def FVal.numLt (a b : FVal) : Bool :=
  match a, b with
  | .num _ 0 _, .num _ 0 _ => false
  | _, _ => FVal.lt a b

/-- R117, R120, R125: FMIN (`wantMax` false) or FMAX on encodings. -/
def Fmt.minMax (f : Fmt) (wantMax nanp ftz : Bool) (x y : Nat) : Nat × Flags :=
  let a := f.read ftz x
  let b := f.read ftz y
  let nv := Flags.when (a.snan || b.snan) Flags.nv
  let flush (z : Nat) : Nat := if ftz && f.isSubnormal z then z - z % 2 ^ f.fb else z
  if a.isNan && b.isNan then (f.canon, nv)
  else if a.isNan then (if nanp then f.canon else flush y, nv)
  else if b.isNan then (if nanp then f.canon else flush x, nv)
  else if wantMax then (if FVal.lt a b then flush y else flush x, 0)
  else (if FVal.lt b a then flush y else flush x, 0)

/-- R465: the class bit of an encoding. -/
def Fmt.classify (f : Fmt) (x : Nat) : Nat :=
  match f.decode x with
  | .nan true => 8
  | .nan false => 9
  | .inf true => 0
  | .inf false => 7
  | .num neg m _ =>
    if m = 0 then (if neg then 3 else 4)
    else if f.isSubnormal x then (if neg then 2 else 5)
    else (if neg then 1 else 6)

/-- R122: a value to another format, rounded. -/
def Fmt.convert (f : Fmt) (r : Rounding) (v : FVal) : Nat × Flags :=
  match v with
  | .nan s => (f.canon, Flags.when s Flags.nv)
  | .inf s => f.writeInf r s
  | .num s m e => f.roundMag r s m e false

/-- R122: a value to an integer in [lo, hi]. It is the rounded value that is held against the range, but under SR (R118)
the value itself (log entry 64: DESIGN CHOICE). -/
def toIntRange (r : Rounding) (lo hi : Int) (v : FVal) : Int × Flags :=
  match v with
  | .nan _ => (0, Flags.nv)
  | .inf s => (if s then lo else hi, Flags.nv)
  | .num s m e =>
    let (q, inexact) := roundAt r s m e false 0
    let k : Int := FVal.scaled s q
    let exactLo := decide (FVal.scaled s m * (2 ^ e.toNat : Nat) < lo * (2 ^ (-e).toNat : Nat))
    let exactHi := decide (hi * (2 ^ (-e).toNat : Nat) < FVal.scaled s m * (2 ^ e.toNat : Nat))
    -- R118: under SR a value beyond the range is not rounded
    if k < lo || (r.rnd == .sr && exactLo) then (lo, Flags.nv)
    else if hi < k || (r.rnd == .sr && exactHi) then (hi, Flags.nv)
    else (k, Flags.when inexact Flags.nx)

/-- R115, R122: an integer to a format. -/
def Fmt.ofInt (f : Fmt) (r : Rounding) (x : Int) : Nat × Flags := f.roundInt r false x 0

end Sys2Proof.Machine
end

