-- ==== Sys2Proof/Machine/SMap.lean ====
section
/-! DEFINITION. SMap.lean: finite maps from natural keys as lists of pairs in rising key order, the form every
table of State has, and the few list helpers the machine is written with. -/
namespace Sys2Proof.Machine

/-- A finite map from natural keys: pairs with strictly rising keys. -/
abbrev SMap (α : Type) := List (Nat × α)

/-- The value at a key. -/
def SMap.find {α : Type} : SMap α → Nat → Option α
  | [], _ => none
  | (j, v) :: m, k => if k = j then some v else SMap.find m k

/-- Stores a value at a key, keeping the rising order. -/
def SMap.put {α : Type} : SMap α → Nat → α → SMap α
  | [], k, v => [(k, v)]
  | (j, w) :: m, k, v =>
    if k < j then (k, v) :: (j, w) :: m
    else if k = j then (k, v) :: m
    else (j, w) :: SMap.put m k v

/-- Removes a key. -/
def SMap.del {α : Type} : SMap α → Nat → SMap α
  | [], _ => []
  | (j, w) :: m, k => if k = j then SMap.del m k else (j, w) :: SMap.del m k

/-- The value at a key, or a default. -/
def SMap.getD {α : Type} (m : SMap α) (k : Nat) (d : α) : α :=
  match m.find k with
  | some v => v
  | none => d

/-- Changes the value at a key that is present. -/
def SMap.change {α : Type} (m : SMap α) (k : Nat) (f : α → α) : SMap α :=
  match m.find k with
  | some v => m.put k (f v)
  | none => m

/-- Changes every value. -/
def SMap.mapAll {α : Type} (m : SMap α) (f : Nat → α → α) : SMap α :=
  m.map (fun p => (p.1, f p.1 p.2))

/-- Keeps the entries that satisfy a condition. -/
def SMap.keep {α : Type} (m : SMap α) (f : Nat → α → Bool) : SMap α :=
  m.filter (fun p => f p.1 p.2)

/-- The keys, rising. -/
def SMap.keys {α : Type} (m : SMap α) : List Nat := m.map (·.1)

/-- The values, in key order. -/
def SMap.vals {α : Type} (m : SMap α) : List α := m.map (·.2)

/-- The strictly rising order of keys. -/
def SMap.rising {α : Type} : SMap α → Bool
  | [] => true
  | [_] => true
  | (i, _) :: (j, w) :: m => decide (i < j) && SMap.rising ((j, w) :: m)

/-- The least element of a list by a key, the first where several are least. -/
def leastBy {α : Type} (key : α → Nat) : List α → Option α
  | [] => none
  | x :: xs =>
    match leastBy key xs with
    | none => some x
    | some y => if key y < key x then some y else some x

/-- The greatest element of a list by a key, the first where several are greatest. -/
def greatestBy {α : Type} (key : α → Nat) : List α → Option α
  | [] => none
  | x :: xs =>
    match greatestBy key xs with
    | none => some x
    | some y => if key x < key y then some y else some x

/-- The largest number of a list, 0 for the empty list. -/
def maxOf : List Nat → Nat
  | [] => 0
  | x :: xs => Nat.max x (maxOf xs)

/-- The sum of a list. -/
def sumOf : List Nat → Nat
  | [] => 0
  | x :: xs => x + sumOf xs

/-- A list with later repeats removed. -/
def nubNat : List Nat → List Nat
  | [] => []
  | x :: xs => x :: (nubNat xs).filter (fun y => y != x)

/-- Replaces the element at a position. -/
def setAt {α : Type} : List α → Nat → α → List α
  | [], _, _ => []
  | _ :: xs, 0, v => v :: xs
  | x :: xs, n + 1, v => x :: setAt xs n v

/-- Changes the element at a position. -/
def changeAt {α : Type} : List α → Nat → (α → α) → List α
  | [], _, _ => []
  | x :: xs, 0, f => f x :: xs
  | x :: xs, n + 1, f => x :: changeAt xs n f

/-- Inserts into a list sorted by a key, after equal keys. -/
def insertBy {α : Type} (key : α → Nat) (x : α) : List α → List α
  | [] => [x]
  | y :: ys => if key x < key y then x :: y :: ys else y :: insertBy key x ys

/-- Sorts by a key; elements with equal keys keep their order. -/
def sortBy {α : Type} (key : α → Nat) : List α → List α
  | [] => []
  | x :: xs =>
    let ys := sortBy key xs
    -- an element stands before the later ones with the same key
    let rec go : List α → List α
      | [] => [x]
      | y :: zs => if key x ≤ key y then x :: y :: zs else y :: go zs
    go ys

/-- Puts every entry of a map into another. -/
def putAll {α : Type} (m n : SMap α) : SMap α := n.foldl (fun m p => m.put p.1 p.2) m

end Sys2Proof.Machine
end

