-- ==== Sys2Proof/Machine/StateCrew.lean ====
section
/-! DEFINITION. StateCrew.lean: the records of State that hold a crew, its splits, its registers, its cohort, its
core and its accesses in flight (02_crews, 03_encoding, 05_spaces, 06_visibility, 11_faults). -/
namespace Sys2Proof.Machine

/-- An active mask of a crew (R36): bit l is lane l. Word j is bits 32j+31 to 32j. -/
abbrev Mask := BitVec 1024

/-- Bytes at natural addresses, in the canonical form of `Memory.wf`: rising addresses, no zero byte listed. -/
abbrev Mem := List (Nat × Byte)

/-- One lane of a named register that is live (R67, R73). An unlisted lane is dead: it reads 0 and is full (R68).
`pend` is the access whose result is due to this allocation; `failed` is the physical address of an uncorrectable
granule (R326, R335). -/
structure RegCell where
  val    : W32
  full   : Bool
  pend   : Option Nat := none
  failed : Option Nat := none
deriving DecidableEq, Repr

/-- The spill formats of R70. -/
inductive SpillFmt | raw | uniform | affine | narrow8 | narrow16
deriving DecidableEq, Repr

/-- Where a named register's value is (R71): resident in physical rows, or packed in its sump slot. -/
inductive RegPlace
  | resident (row nrow : Nat)
  | spilled (fmt : SpillFmt) (live : Mask) (bytes : List Byte) (failed : SMap Nat)
deriving DecidableEq, Repr

/-- A buffer record register (R80, R131): its 128 bits, its full/empty bit, its failed mark (R434) and the load
that fills it. -/
structure RecordReg where
  bits   : BitVec 128 := 0
  full   : Bool := true
  pend   : Option Nat := none
  failed : Option Nat := none
deriving DecidableEq, Repr

/-- The header kinds of R87. -/
inductive HdrKind | plain | join | loop | entry | cont | trap
deriving DecidableEq, Repr

/-- How a header is reached (R88). -/
inductive Entering
  | branch | fall | call | ret | launch | resume | trapDelivery | rtt
  /-- with the keep mask of the EXIT (R49) -/
  | successor (keep : W64)
deriving DecidableEq, Repr

/-- A decoded block header (R87) with its byte offset in the code segment. -/
structure Block where
  off  : Nat
  len  : Nat
  rcv  : BitVec 16
  live : BitVec 16
  pref : Nat
  kind : HdrKind
  how  : Entering := .branch
deriving DecidableEq, Repr

/-- Where a split stands: at a word of its block, or about to enter the header at an offset (which may lie outside
the segment: R619). -/
inductive Place
  | word (off : Nat)
  | header (off : Int) (how : Entering)
deriving DecidableEq, Repr

/-- A reconvergence header (R43) with the BRC execution that set it. -/
structure Recon where
  target : Nat
  setter : Nat
deriving DecidableEq, Repr

/-- What holds a split in WAIT_OPERAND. -/
inductive HeldBy
  /-- until some registers are full in some lanes, and some buffer records are full (R74, R80, R49) -/
  | full (regs recs : List Nat) (lanes : Mask)
  /-- until the split's outstanding acquires have returned (R181) -/
  | acquire
  /-- a free entry of its crew's store queue (R174) -/
  | storeRoom
  /-- a free entry of its core's copy engine (R150) -/
  | copyRoom
  /-- a free entry of its stream's command queue (R221, R505) -/
  | commandRoom
  /-- a free entry of a well's command queue (R248) -/
  | wellRoom (w : Nat)
  /-- a post entry of its slot for a handle (R233) -/
  | postRoom (h : Nat)
  /-- a post entry that is consumed, or a drain entry that is ready, for a handle (R560, R561) -/
  | entry (h : Nat) (drain : Bool)
  /-- its stream's queue to be empty, or to stop (R519) -/
  | stream
  /-- every access before a mark on some paths to be complete (R178) -/
  | fence (mark : Nat) (paths : BitVec 8)
  /-- the host link's acknowledgement (R178) -/
  | linkAck
  /-- a region that is closed (R344) -/
  | region (pa : Nat)
  /-- the accesses of its cohort to a range of the tile store (R145) -/
  | range (lo hi : Nat)
  /-- a full operand log (R318), or entries of one that are to be replayed first (R330) -/
  | log
  /-- the checks of an access of its own against the tracking entries of every granule it names (R359) -/
  | walk (acc : Nat)
  /-- a line that is on its way from its stack, in a closed region, or whose page's fault finds no tag -/
  | page (va : Nat)
  /-- until DT (of the split's die) -/
  | untilDT (t : Nat)
  /-- a page fault of instruction fetch, by its requester number (R319) -/
  | fetch (req : Nat)
  /-- its place in the dispatch trace, at a BALLOT (R363) -/
  | ballot
deriving DecidableEq, Repr

/-- The states of a split (R58), with what each wait waits for (R45, R458, R50). -/
inductive SplitState
  | ready
  | waitBar (n : Nat)
  | waitCount (k : Nat) (t : W32)
  | waitLock (acc : Nat)
  | waitYield (k : Nat) (t : W32) (hdr : Int)
  | waitOperand (by_ : HeldBy)
  /-- until spilled registers are filled (R72) -/
  | waitFill (regs : List Nat)
  /-- WAIT_FILL, until rows are free for registers (R69) -/
  | waitRows (regs : List Nat)
  | joinWait
  | exitWait (target : Int) (keep : W64) (from_ : Nat)
  | reformWait (addr : Nat) (ps : Nat) (keep : W64)
deriving DecidableEq, Repr

/-- A trap report: code, DEF, TRAPADDR and TRAPADDRH (R326, R327). -/
structure Report where
  code  : Nat
  defer : Bool := false
  addr  : W64 := 0
  addrh : Byte := 0
deriving DecidableEq, Repr

/-- The trap state of a split (R327, R328). `resume` is the point RTT resumes at while TRAPPC is not written. -/
structure TrapState where
  inHandler  : Bool := false
  code       : W32 := 0
  pc         : W32 := 0
  addr       : W64 := 0
  addrh      : W32 := 0
  written    : Bool := false
  savedQueue : List (SMap W64) := []
  resume     : Place := .word 0
  block      : Option Block := none
  cancelled  : Bool := false
deriving DecidableEq, Repr

/-- A split (R42, R58, R61). The queue is a list of at most 16 rows, youngest first: all lanes age together (R62).
`preds` holds p0 to p6 as masks (R79). `lastSlot` is the slot of its core at which it last issued or became ready (R54),
`issuedAt` the module's count of issues when it last issued (R44, R69). In JOIN_WAIT `mark` is its place in the order of
arrival (R438). -/
structure Split where
  id        : Nat
  mask      : Mask
  place     : Place
  block     : Option Block := none
  queue     : List (SMap W64) := []
  preds     : List Mask := [0, 0, 0, 0, 0, 0, 0]
  recon     : List Recon := []
  rstack    : List Nat := []
  state     : SplitState := .ready
  age       : Nat
  lastSlot  : Nat := 0
  issuedAt  : Nat := 0
  readyClk  : Nat := 0
  prioUp    : Nat := 0
  spilled   : Bool := false
  arrived   : BitVec 16 := 0
  mark      : Option Nat := none
  acq       : List Nat := []
  trap      : TrapState := {}
deriving DecidableEq, Repr

/-- The states of a crew (R57). -/
inductive CrewState | queued | running | saved | ended
deriving DecidableEq, Repr

/-- A lock a crew holds (R209), in order of acquisition. -/
structure HeldLock where
  vline : Nat
  pline : Nat
deriving DecidableEq, Repr

/-- A deferred report that waits for delivery (R325): the lanes of the split that issued the instruction. -/
structure Deferred where
  report : Report
  lanes  : Mask
deriving DecidableEq, Repr

/-- Who makes a tracked access (R356): the identity, and the number of the sync interval. -/
structure Ident where
  coh : W32 := 0
  int : BitVec 31 := 0
deriving DecidableEq, Repr

/-- A crew (R35, R57, R61). Register cells stand at key register·1024 + lane. `replay` are the entries of its operand log
that were resolved while it was saved (R330); `issuedAt` the module's count of issues when the crew last issued (R69). -/
structure Crew where
  cid      : Nat
  cohort   : Nat
  index    : Nat
  engine   : Engine
  w0       : Nat
  ctx      : Nat
  sib      : W32
  state    : CrewState := .queued
  wid      : SMap W64
  regs     : SMap RegCell := []
  rmap     : SMap RegPlace := []
  lastUse  : SMap Nat := []
  scalars  : List W32
  recs     : List RecordReg
  counters : List W32 := [0, 0, 0, 0, 0, 0, 0, 0]
  pendCnt  : List Nat := [0, 0, 0, 0, 0, 0, 0, 0]
  fpflags  : BitVec 7 := 0
  fpmode   : BitVec 2 := 0
  twmax    : List Nat := [0, 0, 0, 0, 0, 0, 0, 0]
  /-- the host link has acknowledged every write of the crew on the HOST path -/
  hostAck  : Bool := true
  drawKey  : W64 := 0
  drawIdx  : W32 := 0
  oplog    : List Nat := []
  replay   : List Nat := []
  storeQ   : List Nat := []
  deferred : List Deferred := []
  locks    : List HeldLock := []
  restore  : Nat := 0
  startOrd : Nat := 0
  runFrom  : Option Nat := none
  runClk   : Nat := 0
  issuedAt : Nat := 0
  splits   : List Split
  nextSplit : Nat := 1
  ignoreCancel : Bool := false
  /-- the crew has ended because all its lanes have exited (R49) -/
  exited   : Bool := false
deriving DecidableEq, Repr

/-- The engine kinds of EKIND (R314). -/
inductive EKind | core | control | matrix | copy | well | pump | service | sync
deriving DecidableEq, Repr

/-- The stamp times of a tile task (R368, R369), as DT readings. -/
structure TaskMarks where
  cii : Option Nat := none
  cic : Option Nat := none
  ows : Option Nat := none
  owe : Option Nat := none
  pfg : Option Nat := none
  plc : Option Nat := none
  coi : Option Nat := none
  coc : Option Nat := none
  passes : Nat := 0
  pre : Bool := false
  flt : Bool := false
  stp : Bool := false
deriving DecidableEq, Repr

/-- A cohort (R34, R40, R57). -/
structure Cohort where
  id        : Nat
  ctx       : Nat
  queue     : Nat
  cseq      : W32
  launch    : Nat
  index     : Nat
  coords    : List Nat
  core      : Nat
  control   : Bool := false
  slot      : Option Nat := none
  prio      : Nat := 0
  state     : CrewState := .queued
  staticReq : Nat := 0
  alloc     : Nat := 0
  tile      : Mem := []
  barPhase  : BitVec 16 := 0
  group     : Option Nat := none
  lanes     : Nat := 0
  kill      : Bool := false
  marks     : TaskMarks := {}
  relaunch  : Bool := false
deriving DecidableEq, Repr

/-- A pending SPGROW request (R144). -/
structure Spgrow where
  acc    : Nat
  cohort : Nat
  core   : Nat
  n      : Nat
deriving DecidableEq, Repr

/-- A cached line: its physical line number, its lease expiry (0 where the cache holds no leases) and its bytes. -/
structure CLine where
  line  : Nat
  exp   : Nat := 0
  bytes : List Byte
deriving DecidableEq, Repr

/-- A cached translation (R312): virtual page number at its size, physical base, and the leaf entry. -/
structure TlbEntry where
  ctx  : Nat
  size : Nat
  vpn  : Nat
  leaf : W64
deriving DecidableEq, Repr

/-- A cached code line (R186): context and virtual line number, with its bytes. -/
structure ILine where
  ctx   : Nat
  vline : Nat
  bytes : List Byte
deriving DecidableEq, Repr

/-- A pipe of a core (R37, R53): the splits, as crew and split, whose instruction it has taken last, and the passes of
that instruction that have not entered it yet. -/
structure Pipe where
  members : List (Nat × Nat) := []
  left    : Nat := 0
deriving DecidableEq, Repr

/-- A core or control core (R22, R28): caches most recently used first. `slots` counts its issue slots, two per clk, the
even ones pipe 0's (R54); `packs` are the packed groups in force, each the ids of its crews, oldest first (R38). Control
core c has key 256 + c, the service core 320. `passAt` is the slot at which a pass beyond the first of its instruction
last entered a pipe (R55). -/
structure CoreUnit where
  l1      : List CLine := []
  tlb     : List TlbEntry := []
  icache  : List ILine := []
  launchQ : List Nat := []
  slots   : Nat := 0
  pipe0   : Pipe := {}
  pipe1   : Pipe := {}
  packs   : List (List Nat) := []
  ageCtr  : Nat := 0
  passAt  : Nat := 0
  faultBuf : List Nat := []
  sampleCnt : SMap Nat := []
deriving DecidableEq, Repr

/-- What a line request of an access has reached. -/
inductive LineState
  /-- not yet translated -/
  | new
  /-- translated to a physical line -/
  | ready (pa : Nat)
  /-- waits for a page fault with this tag (R314) -/
  | faulted (tag : Nat)
  /-- sent to the home -/
  | sent (pa : Nat)
  /-- a write on the HOST path that the other side has not acknowledged (R178) -/
  | posted (pa : Nat)
  /-- performed (a store: its Tw acknowledged; a load: its bytes returned) -/
  | done (pa : Nat)
  /-- returned uncorrectable from the stack (R335) -/
  | failed (pa : Nat)
  /-- dropped (PREF: R527) or left unperformed by a violation (R319) -/
  | dropped
deriving DecidableEq, Repr

/-- One line request (R137): the virtual line number and the pass it belongs to, its state, the EPOCH and PHASE its home
was chosen under (R341) and the active stack set that mapped its region then (R345), the line's bytes once read, and the failed granules among those that the stack returned
for it. -/
structure LineReq where
  vline : Nat
  pass  : Nat := 0
  st    : LineState := .new
  epoch : Nat := 0
  phase : Nat := 0
  under : List Nat := [0, 1, 2, 3, 4, 5, 6, 7]
  bytes : List Byte := []
  got   : Option (List Nat) := none
deriving DecidableEq, Repr

/-- One active lane of an access: its virtual address, its data, and its result. -/
structure LaneReq where
  lane : Nat
  va   : Nat
  data : List Byte := []
  aux  : Nat := 0
  aux2 : Nat := 0
  done : Bool := false
  held : Bool := false
  res  : W64 := 0
deriving DecidableEq, Repr

/-- What an access does. -/
inductive AccKind
  | load (sz : Size) (acq : Bool)
  | gather (sz : Size)
  | store (n : Nat) (scatter : Bool)
  | record (b : Nat) (acq : Bool)
  | pref (t : PrefTarget)
  | accept (padhi v : Nat) (seq : Bool)
  | atom (op : AtomOp) (ty : AtomTy)
  | atomo (op : AtomOp) (ty : AtomTy)
  | reds (op : RedsOp) (ty : AtomTy)
  | combine (g : Nat)
  | lock (limit : Nat)
  | unlock (pline : Nat)
  | ballot (hash : Option W64)
  | ring (rh : Nat)
  | pin (base len fade : Nat)
  | spgrow
  | value
  | noise
  | stamp (q : Nat) (r : BitVec 512)
  | wread (well : Nat)
deriving DecidableEq, Repr

/-- A staging slot (R201, R202): elements as offset within the line and value. `home` is the slice at which its binding was
made, whose fold takes it wherever its line has moved (R204, R216). -/
structure Staging where
  ctx   : Nat
  home  : Nat
  grp   : Nat
  line  : Nat
  src   : Nat
  ty    : AtomTy
  op    : RedsOp
  owner : Nat
  elems : SMap W64
deriving DecidableEq, Repr

/-- What a destination register was in the lanes that an access marked empty: its entry of the register map and its
cells (R14). -/
structure Undo where
  reg   : Nat
  place : Option RegPlace
  cells : List (Nat × Option RegCell)
deriving DecidableEq, Repr

/-- An instruction's access in flight, or another long-latency result that is due (R73, R137, R317). `word` is the offset
of its instruction; `undo` and `undoRec` are what the destination of an instruction was whose trap may come when its
request has been sent (R207, R360, R364); `who` makes it, and `rep` holds while it is tracked and not checked (R359). -/
structure Access where
  id     : Nat
  crew   : Nat
  ctx    : Nat := 0
  who    : Ident := {}
  lanesM : Mask
  kind   : AccKind
  path   : Nat
  lanes  : List LaneReq := []
  lines  : List LineReq := []
  dest   : Option (Nat × Nat) := none
  result : SMap (BitVec 128) := []
  ready  : Bool := false
  logged : Bool := false
  word   : W64 := 0
  recBits : BitVec 128 := 0
  xlated : Bool := false
  dtIssue : Nat := 0
  flags  : BitVec 7 := 0
  rep    : Bool := false
  fold   : List Staging := []
  undo   : List Undo := []
  undoRec : Option (Nat × RecordReg) := none
deriving DecidableEq, Repr

/-- A rectangle side of a COPY (R442): the record of a global side, or the tile store with its swizzle. -/
inductive CopySide
  | global (rec : BitVec 128) (off stride : Nat)
  | tile (off stride xs : Nat)
  /-- the tile store of a cohort that has ended, as it stood then (R154) -/
  | kept (tile : Mem) (off stride xs : Nat)
deriving DecidableEq, Repr

/-- A copy in flight (R150, R284): of a crew (`crew` and counter) or of the pump (`queue`). -/
structure CopyOp where
  id    : Nat
  crew  : Option Nat
  cohort : Nat
  ctx   : Nat
  core  : Nat
  lanes : Mask
  kc    : Nat
  src   : CopySide
  dst   : CopySide
  rows  : Nat
  rb    : Nat
  moved : Nat := 0
  queue : Option Nat := none
  maxTw : Nat := 0
  fault : Option Nat := none
  who   : Ident := {}
  failed : Bool := false
  task  : Nat := 0
  pos   : Nat := 0
deriving DecidableEq, Repr

end Sys2Proof.Machine
end

