-- ==== Sys2Proof/Machine/StateUnits.lean ====
section
/-! DEFINITION. StateUnits.lean: the records of State that hold a matrix stream, a cluster, a well, a
synchronisation engine's contents and a stack (07_sync, 08_matrix, 09_wells, 12_stacks). -/
namespace Sys2Proof.Machine

/-- A command of a matrix stream (R221, R505), its operands read at issue. -/
inductive MCmd
  | mma (arow brow k0 : Nat) (ha hb k : Nat) (lastA lastB sparse : Bool)
  | mgrp (table : Nat) (k0 groups : Nat) (ha k : Nat) (lastA : Bool)
  | mzero
  | mdrain (stats : Nat) (key : W64) (pos seq : W32) (rnd : Rnd) (epi : Epi) (merge clr notile keyed : Bool) (hd : Nat)
  | mmask (addr : Nat) (off : Bool)
deriving DecidableEq, Repr

/-- A queued command with its command sequence number (R505) and its place in the issue order. -/
structure MQueued where
  seq : W32
  cmd : MCmd
  id  : Nat := 0
deriving DecidableEq, Repr

/-- The states of a stream (R222). `saved` keeps the state it was saved from. -/
inductive StreamRun | idle | active | faulted | stopped
deriving DecidableEq, Repr

/-- The mask parameter block of R239. -/
structure MaskBlock where
  mode   : Nat := 0
  qoff   : W32 := 0
  pfx    : W32 := 0
  nodes  : Nat := 0
  anc    : List W64 := []
  posn   : List (BitVec 16) := []
deriving DecidableEq, Repr

/-- The row progress register of R242, without its STATE, which is the stream's. -/
structure RowProg where
  cseq : W32 := 0
  pass : Nat := 0
  row  : Nat := 0
deriving DecidableEq, Repr

/-- A product of a running command: tile rows `first` to `first + n - 1` take rows `arow` and on of A against rows
`brow` and on of the B record `bh` (R228, R231). -/
structure MGroup where
  first : Nat
  n     : Nat
  arow  : Nat
  brow  : Nat
  bh    : Nat
  layB  : BitVec 512
deriving DecidableEq, Repr

/-- The reference product of R508: the key offset and row extent of the B record, or the groups of an MGRP as
(first tile row, rows, ROWS of BH). -/
inductive RefProduct
  | none
  | mma (brow rows : Nat)
  | mgrp (groups : List (Nat × Nat × Nat))
deriving DecidableEq, Repr

/-- A data error (R243): cause code, handle and row, and whether MWAIT has reported it. -/
structure StopCause where
  cause    : Nat
  handle   : Nat
  row      : Nat
  reported : Bool := false
deriving DecidableEq, Repr

/-- An entry of a reservation table (R232): `second` is CONSUMED for a post and READY for a drain, whose largest Tw is
`tw`. -/
structure Resv where
  drain  : Bool
  second : Bool
  gen    : Nat
  handle : Nat
  tw     : Nat := 0
deriving DecidableEq, Repr

/-- A matrix stream (R219 to R222). The tile lists the elements that differ from +0, at row·256 + column. `started`,
`recA` and `groups` are what the command at the head of the queue has read; `request` is the clk at which its next pass
became a request (R237); `doom` holds while a FAULTED stream's cohort is to be killed at the end of the running DT tick (R244); `drainTw` is the
largest Tw of a drain whose writes are all made; `inPass` holds from a pass's grant to its end, a page fault in it included
(R223), and `inDrain` while the drain at the head has taken its entry; `pend` are the marks of the
tasks whose drain has started and is not collected, and `last` says that commands were issued after the last MDRAIN (R366); `seen` are the lines that the pass, or what else of the command
at the head is being performed, has requested (R322); `resvSaved` are the reservation entries of its slot while it is saved
without one (R246). -/
structure Stream where
  cohort  : Nat
  run     : StreamRun := .idle
  saved   : Bool := false
  tile    : SMap W32 := []
  cmds    : List MQueued := []
  lastSeq : W32 := 0
  doneSeq : W32 := 0
  prog    : RowProg := {}
  stop    : Option StopCause := none
  mask    : MaskBlock := {}
  ref     : RefProduct := .none
  started : Bool := false
  recA    : BitVec 512 := 0
  groups  : List MGroup := []
  request : Option Nat := none
  prioUp  : Nat := 0
  granted : Bool := false
  inPass  : Bool := false
  inDrain : Bool := false
  faultTag : Option Nat := none
  faultDT : Nat := 0
  doom    : Bool := false
  drainTw : Option Nat := none
  drainMax : Nat := 0
  gens    : SMap Nat := []
  task    : Nat := 1
  marks   : TaskMarks := {}
  pend    : List TaskMarks := []
  last    : Bool := false
  seen    : List Nat := []
  resvSaved : SMap Resv := []
deriving DecidableEq, Repr

/-- A cluster (R22, R232, R237, R238, R185). `opTiles` are the tile-store entries as slot,
handle, generation, and the cohort's tile store as the cache holds it. -/
structure Cluster where
  resv    : SMap Resv := []
  layouts : SMap (List Byte) := []
  opLines : List CLine := []
  opTiles : List (Nat × Nat × Nat × Mem) := []
  sampleCnt : SMap Nat := []
deriving DecidableEq, Repr

/-- A cell of a well (R249). -/
structure Cell where
  cnt : W32 := 0
  h   : BitVec 16 := 0
  col : BitVec 3 := 0
  clv : Bool := false
  clf : Bool := false
  m   : Bool := false
deriving DecidableEq, Repr

/-- Where a well command reads its elements: a record's bytes or the tile store of a cohort. -/
inductive WellSrc
  | global (rec : BitVec 128) (off : Nat)
  | tile (cohort off xs : Nat)
  /-- the tile store of a cohort that has ended, as it stood then (R248) -/
  | kept (tile : Mem) (off xs : Nat)
deriving DecidableEq, Repr

/-- The work of a queued well command (R248), its operands read at issue. -/
inductive WellBody
  | load (kind : WloadKind) (src : WellSrc) (first count : Nat) (doneN : Nat)
  | bias (xs : List (Nat × BitVec 16))
  | clamp (xs : List (Nat × Bool × Bool))
  | key (k : W64)
  | phys
  | sweep (beta : BitVec 16) (n : Nat) (classes : List Nat) (phys : Bool) (src : Option (WellSrc × Nat))
  | read (kind : WreadKind) (xs : List (Nat × Nat)) (acc : Nat)
  | link (xs : List (Nat × W32)) (stale : Nat)
deriving DecidableEq, Repr

/-- A queued well command: its place in the issue order, its crew, the lanes that issued it, the counter it names, and
the race identity (R356), queue and CSEQ of its crew. -/
structure WellCmd where
  id    : Nat := 0
  crew  : Nat
  lanes : Mask
  kc    : Option Nat
  body  : WellBody
  core  : Nat
  who   : Ident := {}
  node  : Nat × W32 := (0, 0)
  fault : Option Nat := none
deriving DecidableEq, Repr

/-- The position within a sweep command (R256): sweeps still to complete and the index of the next class; the
boundary values fixed at the sweep's start (R268), once it has started. -/
structure SweepPos where
  left   : Nat
  cls    : Nat
  begun  : Bool := false
  bound  : SMap Bool := []
deriving DecidableEq, Repr

/-- A well (R247 to R273). `hist` keeps per slot the arrived states by tag (R267); `flight` the published states
that have not arrived. -/
structure Well where
  owner  : Option Nat := none
  cells  : SMap Cell := []
  dir    : SMap W32 := []
  coup   : SMap W32 := []
  scale  : BitVec 16 := 0x3C00
  beta   : BitVec 16 := 0x3C00
  keyed  : Bool := false
  key    : W64 := 0
  swp    : Nat := 0
  stale  : Nat := 0
  slots  : SMap W32 := []
  hist   : SMap (SMap Bool) := []
  flight : List (Nat × Nat × Bool) := []
  queue  : List WellCmd := []
  sweep  : Option SweepPos := none
  pnan   : Bool := false
  isat   : Bool := false
  cerr   : Bool := false
  linkerr : Bool := false
  subst  : Option W64 := none
  fails  : Nat := 0
  requal : Option Nat := none
  gated  : Bool := false
  saved  : Bool := false
  sampleCnt : SMap Nat := []
deriving DecidableEq, Repr

/-- A waiter of a line lock (R208, R214): its LLOCK access, whether it is absent and since which DT, its skips, and its
limit's remaining clk account; `inSump` the context in whose overflow its entry stands, where the table had no room (R207). `leaving` is the event that takes it out of the queue at the end of the running DT tick,
where no grant comes first (R215): 0 for none, 2 TIMEOUT, 3 DEADLOCK in a cycle of `cyc` crews, 4 CANCELLED, 5 the kill of
its crew. -/
structure Waiter where
  acc    : Nat
  crew   : Nat
  absent : Bool := false
  away   : Nat := 0
  leaving : Nat := 0
  cyc    : Nat := 0
  skips  : Nat := 0
  limit  : Nat := 0
  spent  : Nat := 0
  since  : Nat := 0
  enq    : Nat
  inSump : Option Nat := none
deriving DecidableEq, Repr

/-- The holder that left a line lock by its end (R183, R211): its crew, the largest Tw acknowledged to it, and the status
of the next grant, which waits for the holder's accesses: 0 where it was cancelled, 1 otherwise. -/
structure Broken where
  crew   : Nat
  tw     : Nat
  status : Nat := 1
deriving DecidableEq, Repr

/-- A line lock (R206 to R211) at its physical line: the holder, and the queue. `inSump` is the context in whose
overflow the holder's entry stands, where the table had no room (R207). -/
structure Lock where
  holder : Option Nat
  queue  : List Waiter := []
  broken : Option Broken := none
  inSump : Option Nat := none
deriving DecidableEq, Repr

/-- What a frame of a slice's line store holds (R193): a sync line, or a staging slot by its key in State.slots. -/
inductive SyncFrame
  | line (n : Nat)
  | slot (key : Nat)
deriving DecidableEq, Repr

/-- A slice of a synchronisation engine (R192, R193): its frames, most recently used first, and the victimised lines
whose tracking entries stand in a victim region. -/
structure SyncSlice where
  frames : List SyncFrame := []
  victims : List Nat := []
deriving DecidableEq, Repr

/-- When the interrupt of a store is raised as the store becomes visible (R184, R316, R390): always, or where the CONS of
its ring, in memory or in BAR0, is then the PROD that the store passes. -/
inductive NoticeIf
  | always
  | ring (cons prod : Nat)
  | bar (dbg : Bool) (prod : W32)
deriving DecidableEq, Repr

/-- An interrupt that a store's visibility raises. -/
structure Notice where
  vec   : Nat
  when_ : NoticeIf
deriving DecidableEq, Repr

/-- A store that is not yet visible (R169): its Tw, the crew and path it comes from (R172; 0 for other writers), the
bytes it writes as offsets in the line, and the interrupt that is raised once it is visible (R184, R316). -/
structure Pend where
  tw    : Nat
  src   : Nat
  bytes : List (Nat × Byte)
  vec   : Option Notice := none
deriving DecidableEq, Repr

/-- The home state of a line (R166, R167, R169). `pending` are the stores not yet visible, in arrival order. -/
structure Home where
  h     : Nat := 0
  tprev : Nat := 0
  pending : List Pend := []
deriving DecidableEq, Repr

/-- A tracking entry (R358); `ctx` is the context whose access it records last, in whose victim region it goes (R193). -/
structure Track where
  ctx   : Nat := 0
  wcoh  : W32 := 0
  rcoh  : W32 := 0
  int   : BitVec 31 := 0
  wv    : Bool := false
  rv    : Bool := false
  rmany : Bool := false
deriving DecidableEq, Repr

/-- A request at a base die (R332): its tag, its granule (physical address / 64), whether it is a masked write, the line
request that it serves, and the EPOCH and PHASE under which its home was chosen (R341); a read without a line request fills
its line for a fetch, a copy or another unit. `late` holds, once a later write has covered the whole granule, whether the
granule was on the failed-granule list before that write. -/
structure StackReq where
  tag     : Nat
  granule : Nat
  write   : Bool := false
  served  : Bool := false
  acc     : Option (Nat × Nat) := none
  epoch   : Nat := 0
  phase   : Nat := 0
  late    : Option Bool := none
deriving DecidableEq, Repr

/-- The states of a stack (R347). -/
inductive StackState | active | proposed | retiring | retired
deriving DecidableEq, Repr

/-- The training registers of a pseudo-channel (R351). `live` are the values in effect, which the written ones replace
when HOLD returns to 0 (R352): the read and write delays, the reference, and EN and LANE of the repair. -/
structure Train where
  rdly : List (BitVec 7)
  wdly : List (BitVec 7)
  vref : BitVec 7
  lrep : W32 := 0
  pat0 : W32 := 0
  pat1 : W32 := 0
  res  : W32 := 0
  hold : Bool := false
  live : List (BitVec 7) := []
deriving DecidableEq, Repr

/-- A stack and its base die (R332 to R351). `corrDT` are the DTs of a row's corrected reads, `spare` and `remap` the
tiers in use by bank and by pseudo-channel, `cistern` the lines of the base die's memory-side cache outside pinned
windows, most recent first (R157), `heldW` the granules of masked writes that wait for a tag, `unlisted` the granules of uncorrectable
reads that a full failed-granule list could not take, `sick` the local granules whose rows await repair, `bad` the local
offsets that no tier could repair, `scrubAt` the local granule that is scrubbed next. -/
structure Stack where
  state   : StackState := .active
  reqs    : List StackReq := []
  heldW   : List Nat := []
  cistern : List Nat := []
  failed  : List Nat := []
  unlisted : List Nat := []
  corrDT  : SMap (List Nat) := []
  spare   : SMap Nat := []
  remap   : SMap Nat := []
  spare2k : Nat := 0
  sick    : List Nat := []
  scrubAt : Nat := 0
  bad     : List Nat := []
  train   : SMap Train := []
  propose : Bool := false
deriving DecidableEq, Repr

end Sys2Proof.Machine
end

