-- ==== Sys2Proof/Machine/StateHost.lean ====
section
/-! DEFINITION. StateHost.lean: the records of State that hold a context, a queue and its graph, a launch, the
event rings, the quiesce scopes and the registers of BAR0 (10_generation, 11_faults, 13_repeatable, 14_observe,
15_host). -/
namespace Sys2Proof.Machine

/-- A ring that the device writes (R291, R316, R370): base, control block, log2 of its records, vector. -/
structure RingRef where
  base : Nat
  cb   : Nat
  log2 : Nat
  vec  : Option Nat
deriving DecidableEq, Repr

/-- A host ring binding (R291, R293): `c` records uncovered by an interrupt, `first` the DT at which the first of
them became visible, `queue` whose graph executed the RING node. -/
structure Binding where
  ring  : RingRef
  n     : Nat
  t     : Nat
  c     : Nat := 0
  first : Nat := 0
  queue : Nat
deriving DecidableEq, Repr

/-- A phase group (R289, R290): the queues that wait, each with whether its node is DRAFT or CHECK; the arrivals of skipped
nodes and whether one of them is; the count of the first arrival; the expected role, CHECK where true. -/
structure Phase where
  waiting  : List (Nat × Bool) := []
  skipped  : Nat := 0
  roled    : Bool := false
  pcnt     : Nat := 0
  expected : Bool := false
deriving DecidableEq, Repr

/-- The states of a sibling (R306). -/
inductive SibState | running | posted | cancelling | cancelled
deriving DecidableEq, Repr

/-- A sibling (R302 to R306): its group's DDT once decided, the DT of its post, and its accounts. `walk` is the
page-list entry the engine stands at while it releases pages, `fault` the page fault it waits for, and `refused` an
answer other than RESOLVED; `isOver` says that the walk has ended, and only CANC is to be written. -/
structure Sibling where
  state : SibState := .running
  ddt   : Nat := 0
  tok   : Nat := 0
  cyc   : Nat := 0
  post  : Nat := 0
  walk  : Option Nat := none
  isOver : Bool := false
  walkTw : Nat := 0
  fault : Option Nat := none
  refused : Bool := false
deriving DecidableEq, Repr

/-- A pinned window (R158, R159): virtual base and length, its physical 8 KiB pages, fade counter and reload,
whether a demand access reached it in the running interval, and whether it is to be released with reason REMAP at the end
of the running DT tick (R160). -/
structure Window where
  va      : Nat
  len     : Nat
  pages   : List Nat
  fade    : Nat
  reload  : Nat
  touched : Bool := false
  remap   : Bool := false
deriving DecidableEq, Repr

/-- An outstanding fault (R314): its 8 KiB page, whether its record has been posted, and its place in the order in which
the context's faults were raised. -/
structure FaultRec where
  page   : Nat
  record : BitVec 256
  posted : Bool
  ord    : Nat := 0
deriving DecidableEq, Repr

/-- The repeatable modes (R355). -/
inductive RepMode | off | free | record | replay
deriving DecidableEq, Repr

/-- A context error that has been raised and not yet performed (R395, R396): the CAUSE, QUEUE, CSEQ, EKIND and EID
of its record. -/
structure CtxErr where
  cause : Nat
  queue : Nat
  cseq  : W32
  ekind : Nat
  eid   : Nat
deriving DecidableEq, Repr

/-- A context (R393 and the rules that name what belongs to a context). `recAt` and `repAt` are the interval numbers at
which RECORD and REPLAY last took effect (R356, R362), `repFrom` the DT at which REPLAY did and `headClk` the DT at which
each matched record was matched (R364). `preempted` holds while its engines are stopped, since `stoppedAt`; `hostPre`
while the host's PREEMPT is in force (R329); `stallRecs` are the records for its event ring, or its sample ring, that stall on
a closed region (R344). -/
structure Context where
  priv    : Bool := false
  root    : Nat
  lease   : Nat := 512
  sumpBase : Nat
  sumpSize : Nat
  sumpUsed : Nat := 0
  vicBase : Nat := 0
  vicSize : Nat := 0
  saveBase : Nat := 0
  saveSize : Nat := 0
  layBase : Nat := 0
  gtBase  : Nat := 0
  trBase  : Nat := 0
  trSize  : Nat := 0
  fltRing : RingRef
  smpRing : RingRef
  evtRing : RingRef
  preempted : Bool := false
  hostPre : Bool := false
  stoppedAt : Nat := 0
  err     : Option CtxErr := none
  faults  : SMap FaultRec := []
  pendFlt : List Nat := []
  stallRecs : List (Bool × BitVec 256) := []
  rings   : SMap Binding := []
  phases  : SMap Phase := []
  sibs    : SMap Sibling := []
  windows : SMap Window := []
  mode    : RepMode := .off
  pendMode : Option RepMode := none
  valid   : Bool := false
  ovf     : Bool := false
  interval : Nat := 0
  trCount : Nat := 0
  recAt   : Nat := 0
  repAt   : Nat := 0
  matched : List Nat := []
  headClk : SMap Nat := []
  repFrom : Nat := 0
  hotEn   : Bool := false
  hotLogN : Nat := 10
  hotThresh : Nat := 64
deriving DecidableEq, Repr

/-- A frame of the pump's loop stack (R286): the LOOP node's address, record and CSEQ, and the iteration. -/
structure LoopFrame where
  node : Nat
  word : BitVec 512
  cseq : W32
  i    : Nat := 0
deriving DecidableEq, Repr

/-- Where a running graph stands. -/
inductive NodeRun
  /-- the node at the graph's address starts next -/
  | start
  /-- the node has started: its record has been read (R279) -/
  | begun
  /-- a LOOP node decides its next iteration -/
  | loopNext
  /-- an END, or a successor of 0, ends an iteration or the graph -/
  | ended
  /-- a KERNEL node's launch runs -/
  | kernel (launch : Nat)
  /-- a COPY node's copy runs -/
  | copy (id : Nat)
  /-- a WAIT node waits since a DT; `due` while an evaluation is to be made -/
  | waiting (since : Nat) (due : Bool)
  /-- a PHASE node waits for its barrier -/
  | phase (pg : Nat)
  /-- the node's work is done with a status; the pump continues at an address once its writes are visible -/
  | finishing (status : Nat) (next : Nat)
  /-- stopped at a breakpoint before the node (R367) -/
  | stopBefore
  /-- stopped at a breakpoint after the node -/
  | stopAfter (next : Nat)
deriving DecidableEq, Repr

/-- A running graph (R275): the running node's address, record and CSEQ, and the largest Tw of its writes. `irq` is the SIGNAL interrupt to raise once its write is visible (R287). -/
structure GraphRun where
  entry : Nat
  node  : Nat
  word  : BitVec 512 := 0
  run   : NodeRun := .start
  loops : List LoopFrame := []
  tw    : Nat := 0
  cseq  : W32 := 0
  fault : Option Nat := none
  irq   : Option Nat := none
  passed : Bool := false
deriving DecidableEq, Repr

/-- QSTATE (R388), but for RESETTING, which `Queue.resetting` holds. -/
inductive QState | idle | running | stopped | badDoorbell
deriving DecidableEq, Repr

/-- The states of a trace session (R375). -/
inductive SessState | closed | armed | capturing | frozen
deriving DecidableEq, Repr

/-- A trace session (R374, R375): the tail, oldest first. -/
structure Session where
  state : SessState := .closed
  ring  : Option RingRef := none
  tail  : List (BitVec 256) := []
  lost  : Nat := 0
  filter : Option W32 := none
deriving DecidableEq, Repr

/-- A work queue (R387, R388). -/
structure Queue where
  ctx   : Nat
  base  : Nat
  log2  : Nat
  doorbell : W32 := 0
  cons  : W32 := 0
  state : QState := .idle
  resetting : Bool := false
  resetTw : Nat := 0
  cseq  : W32 := 0
  graph : Option GraphRun := none
  breaks : List (W32 × Bool) := []
  stamp : Option RingRef := none
  sess  : Session := {}
deriving DecidableEq, Repr

/-- A launch (R281, R282). `next` is the linear index of the next cohort to place; `live` the cohorts placed and
not ended; `again` the cohorts to relaunch (R245). -/
structure Launch where
  queue : Nat
  ctx   : Nat
  node  : Nat
  cseq  : W32
  seg   : Nat
  seglen : Nat
  entry : Nat
  centry : Option Nat
  trapoff : Option Nat
  widths : List Nat
  ext   : List Nat
  scratch : Nat
  named : Nat
  prio  : Nat
  fused : Bool
  cores : Bool
  sib   : W32
  args  : List W32
  restart : Bool
  interval : Nat
  order : Nat
  next  : Nat := 0
  live  : Nat := 0
  again : List Nat := []
  error : Bool := false
  maxTw : Nat := 0
deriving DecidableEq, Repr

/-- An entry of the MSI-X table (R385, R390), with the reset values that PCIe gives it (log entry 113). -/
structure MsixEntry where
  addr : W64 := 0
  data : W32 := 0
  mask : Bool := true
deriving DecidableEq, Repr

/-- An event ring of BAR0 (R390, R396): the records held while it is full or disabled, and the Tw of written records that
are not visible yet. -/
structure DevRing where
  base : Nat := 0
  log2 : Nat := 0
  vec  : Nat := 0
  en   : Bool := false
  prod : W32 := 0
  cons : W32 := 0
  drop : W32 := 0
  held : List (BitVec 256) := []
  lost : Nat := 0
  soon : List Nat := []
deriving DecidableEq, Repr

/-- The states of a quiesced scope (R378). -/
inductive ScopeState | stopping | quiesced | imaging
deriving DecidableEq, Repr

/-- An image being written (R379 to R382): buffer address, length, signed, USED. -/
structure ImageJob where
  addr : Nat
  len  : Nat
  sign : Bool
  used : Nat
deriving DecidableEq, Repr

/-- A scope of QUIESCE (R377, R378): the contexts, or the whole device; `since` is the DT at which it began to stop, and
`flushed` holds once the tails of step 8 are flushed. -/
structure QScope where
  device : Bool
  ctxs   : List Nat
  state  : ScopeState := .stopping
  dtcut  : Nat := 0
  since  : Nat := 0
  flushed : Bool := false
  job    : Option ImageJob := none
deriving DecidableEq, Repr

/-- An invariant monitor (R372): its words 0 to 3 and its run count (R373). -/
structure Monitor where
  w0  : W32 := 0x00010000
  w1  : W32 := 0
  w2  : W32 := 0
  w3  : W32 := 0
  run : Nat := 0
deriving DecidableEq, Repr

/-- An entry of a die's counting table (R323). -/
inductive HotState | counting | pending | queued
deriving DecidableEq, Repr

/-- A counting-table entry (R323): key, count, state. -/
structure HotEntry where
  ctx   : Nat
  page  : Nat
  count : Nat
  state : HotState
deriving DecidableEq, Repr

/-- A die's shared units (R26, R312, R323, R397): skew of its copy of DT, which stays 0 on every die (log entry 3: DESIGN
CHOICE), its clk count in tenths of a clk, the DT
ticks its clk still stands, its P-level, the shared TLB, the walkers' cache and the counting table. -/
structure Die where
  skew   : Nat := 0
  clkT   : Nat := 0
  halt   : Nat := 0
  plevel : Nat := 0
  tlb    : List TlbEntry := []
  walkC  : List (Nat × Nat × W64) := []
  hot    : SMap HotEntry := []
deriving DecidableEq, Repr

/-- A brake in force (R398). -/
structure Brake where
  level : Nat
  since : Nat
deriving DecidableEq, Repr

/-- Power control (R397 to R399): refresh modes, cap and brake level, the brake in force, the margin plans applied. No rule
gives the cap and the brake level before the first POWER: the rating and level 0 (log entry 4: DESIGN CHOICE). -/
structure Power where
  refresh : List Bool := [false, false, false, false, false, false, false, false]
  capW    : Nat := 3000
  level   : Nat := 0
  brake   : Option Brake := none
  margins : Nat := 0
deriving DecidableEq, Repr

/-- The interleave and the migration (R333, R340 to R347). `old` is the active set before the running migration, `closing`
holds while the next region closes at the end of the running DT tick (R348), `found` are the granules that the next move's
reads will find uncorrectable (log entry 1), and `todo` are the stack events that wait for their region, or for the device
event ring to take their record: TYPE, page and stack (R348, R396). -/
structure Migration where
  act    : List Nat := [0, 1, 2, 3, 4, 5, 6, 7]
  old    : List Nat := [0, 1, 2, 3, 4, 5, 6, 7]
  capMiB : Nat := 0x70000
  mig    : Bool := false
  epoch  : Nat := 0
  phase  : Nat := 0
  stack  : Option Nat := none
  nreg   : Nat := 0
  closed : Option (Nat × Nat) := none
  paused : Bool := false
  closing : Bool := false
  found  : List Nat := []
  todo   : List (Nat × Nat × Nat) := []
deriving DecidableEq, Repr

/-- A retired or released page (R338, R346). -/
structure BadPage where
  stack   : Nat
  acked   : Bool
  release : Bool := false
deriving DecidableEq, Repr

/-- DEVSTAT.STATE (R390). -/
inductive DevState | boot | bootFail | ready | deviceError
deriving DecidableEq, Repr

/-- The command ring registers (R390). -/
structure CmdRegs where
  base : Nat := 0
  log2 : Nat := 0
  vec  : Nat := 0
  novec : Bool := true
  prod : W32 := 0
  cons : W32 := 0
deriving DecidableEq, Repr

/-- A reply to the last host or peer read, or the last register read with an effect of its own (R7, R184, R385). -/
inductive HostReply
  | bytes (bs : List Byte) (poison : Bool)
  | word (w : W64)
  | unsupported
deriving DecidableEq, Repr

/-- Package CSRs with a selector or thresholds (R168, R265, R324, R350, R355, R372). -/
structure PackageCsrs where
  leaseCtx : Nat := 0
  repCtx   : Nat := 0
  hotCtx   : Nat := 0
  requal   : Bool := false
  corrThr  : Nat := 512
  biasThr  : Nat := 1024
  moncfg   : BitVec 7 := 0
  trnaddr  : W32 := 0
deriving DecidableEq, Repr

/-- A move of the machine (log entry 1): DT ticks that pass first; what the host's own software then stores to its
memory, as addresses and bytes; a kernel that the module's firmware starts on the service core (R24); the granules that the
reads of a region's move find uncorrectable (R344); then an event, or a
move of the device's own choice where `ev` is none. -/
structure Cue where
  elapse : Nat
  host   : List (Nat × List Byte) := []
  service : Option Launch := none
  found  : List Nat := []
  ev     : Option Instr
deriving DecidableEq, Repr

/-- The split whose instruction is issued next (R53), and the splits of its packed group that issue it after (R38). -/
structure Focus where
  crew  : Nat
  split : Nat
  more  : List (Nat × Nat) := []
deriving DecidableEq, Repr

/-- What the payloads of a Cudric image hold (R381): the spec names it and gives it no layout (log entry 63). -/
structure ImageState where
  ctxs     : SMap Context := []
  queues   : SMap Queue := []
  launches : SMap Launch := []
  cohorts  : SMap Cohort := []
  crews    : SMap Crew := []
  accs     : SMap Access := []
  streams  : SMap Stream := []
  wells    : SMap Well := []
  locks    : SMap Lock := []
  slots    : SMap Staging := []
  sync     : List Nat := []
  spgrow   : List Spgrow := []
  coreCnt  : SMap (SMap Nat) := []
  clusterCnt : SMap (SMap Nat) := []
  failed   : List Nat := []
  pages    : List Nat := []
  track    : SMap Track := []
  monitors : SMap Monitor := []
deriving DecidableEq, Repr, Inhabited

end Sys2Proof.Machine
end

