-- ==== Sys2Proof/Machine/State.lean ====
section
/-! DEFINITION. State.lean: the state of the package, the reasons a step can stop, and the state after reset. -/
namespace Sys2Proof.Machine

/-- The faults of a step. -/
inductive Fault
  /-- raised by `step` on a module without power (R399): nothing on it is powered, so nothing happens. Safe. -/
  | noPower
deriving DecidableEq, Repr

/-- The refusals of a step. -/
inductive Refusal
  /-- answered by `exec`'s arm of an instruction that has no meaning yet, with its mnemonic. Safe. -/
  | notModelled (mnemonic : String)
  /-- answered by every instruction's meaning in a state whose focus names no live split: no split executes the
  instruction, so it has no effect to give. `step` never meets it. Safe. -/
  | noExecutingSplit
deriving DecidableEq, Repr

/-- The state of one Yarenos 480 module. The fields down to `images` are the model's own (log entries 1, 2
and 63), the last what each Cudric image that the module has written holds, by the image's sections; INVENTORY.md lists the rule that names each of the others. -/
structure State where
  agenda   : List Cue
  focus    : Option Focus
  fresh    : Nat
  issues   : Nat
  nextId   : Nat
  images   : List (List (Nat × Nat × List Byte) × ImageState)
  faded    : Nat
  powered  : Bool
  dt       : Nat
  dies     : List Die
  power    : Power
  devState : DevState
  devReason : Nat
  failedBoundary : Option Nat
  laneRepairs : List Nat
  peersDown : List Nat
  mem      : Mem
  touched  : List Nat
  homes    : SMap Home
  he       : SMap Nat
  l2       : SMap (List Nat)
  stalled  : List (Nat × Nat × List (Nat × Byte))
  hostMem  : Mem
  irqs     : List Nat
  msix     : SMap MsixEntry
  pba      : List Nat
  reply    : Option HostReply
  cores    : SMap CoreUnit
  clusters : SMap Cluster
  cohorts  : SMap Cohort
  crews    : SMap Crew
  service  : Option Launch
  accs     : SMap Access
  copies   : SMap CopyOp
  spgrow   : List Spgrow
  streams  : SMap Stream
  wells    : SMap Well
  sync     : SMap SyncSlice
  locks    : SMap Lock
  slots    : SMap Staging
  track    : SMap Track
  dramStacks   : SMap Stack
  mig      : Migration
  badPages : SMap BadPage
  ctxs     : SMap Context
  queues   : SMap Queue
  launches : SMap Launch
  csrs     : PackageCsrs
  monitors : SMap Monitor
  viols    : SMap W32
  cmd      : CmdRegs
  evt      : DevRing
  dbg      : DevRing
  scopes   : SMap QScope
deriving DecidableEq, Repr

/-- The byte an unlisted address reads as, in device and in host memory (log entry 5: DESIGN CHOICE). -/
def emptyByte : Byte := 0

/-- The canonical form of memory: rising addresses, and no byte listed that equals an unlisted one. -/
def Memory.wf (m : Mem) : Bool := SMap.rising m && m.all (fun p => p.2 != emptyByte)

/-- The training values boot firmware loads for a pseudo-channel without stored training (R351). -/
def Train.untrained : Train :=
  { rdly := List.replicate 17 64, wdly := List.replicate 17 64, vref := 40, live := List.replicate 34 64 ++ [40, 0] }

/-- The module right after a reset, in BOOT, whose boot ROM will find the firmware verified (R400, log entry 62): in BOOT
`devReason` holds the REASON of a boot that will fail, and 0 of one that will not. Training registers not listed read as
boot firmware loads them (R351). -/
def State.reset : State :=
  { agenda := [], focus := none, fresh := 0, issues := 0, nextId := 1, images := [], faded := 0, powered := true, dt := 0
    dies := [{}, {}, {}, {}], power := {}, devState := .boot, devReason := 0, failedBoundary := none
    laneRepairs := [0, 0, 0, 0], peersDown := [], mem := [], touched := [], homes := [], he := [], l2 := []
    stalled := [], hostMem := [], irqs := [], msix := [], pba := [], reply := none, cores := [], clusters := [], cohorts := [], crews := [], service := none, accs := []
    copies := [], spgrow := [], streams := [], wells := [], sync := [], locks := [], slots := [], track := []
    dramStacks := [], mig := {}, badPages := [], ctxs := [], queues := [], launches := [], csrs := {}, monitors := []
    viols := [], cmd := {}, evt := {}, dbg := {}, scopes := [] }

end Sys2Proof.Machine
end

