-- ==== Sys2Proof/Machine/Atomics.lean ====
section
/-! DEFINITION. Atomics.lean: the operations of ATOM, ATOMO and REDS on memory elements (R202, R413). -/
namespace Sys2Proof.Machine

/-- R412: the bytes of an element. -/
def atomBytes : AtomTy → Nat
  | .s64 | .n64 => 8
  | _ => 4

/-- The integer type of an atomic type. -/
def atomInt : AtomTy → IntTy
  | .n32 => .n32
  | .s64 => .s64
  | .n64 => .n64
  | _ => .s32

/-- An element of an integer atomic type as an integer. -/
def atomRead (ty : AtomTy) (x : Nat) : Int := readInt (atomInt ty) (BitVec.ofNat 64 x)

/-- R413: the new value of an element. -/
def atomNew (op : AtomOp) (ty : AtomTy) (old b c : Nat) : Nat :=
  match op with
  | .add => (old + b) % 2 ^ (8 * atomBytes ty)
  | .min => if atomRead ty b < atomRead ty old then b else old
  | .max => if atomRead ty old < atomRead ty b then b else old
  | .and => old &&& b
  | .or => old ||| b
  | .xor => old ^^^ b
  | .exch => b
  | .cas => if old = c then b else old
  | .fadd => ((fmtOf .f32).addV {} ((fmtOf .f32).decode old) ((fmtOf .f32).decode b)).1
  | .fmin => ((fmtOf .f32).minMax false false false old b).1
  | .fmax => ((fmtOf .f32).minMax true false false old b).1

/-- R413: whether an element is written: a failed .cas writes nothing. -/
def atomWrites (op : AtomOp) (old c : Nat) : Bool := op != .cas || old == c

/-- R202: the operation of a staging slot on two elements of a type. -/
def redsNew (op : RedsOp) (ty : AtomTy) (old b : Nat) : Nat :=
  match op, ty with
  | .add, .f32 => atomNew .fadd ty old b 0
  | .min, .f32 => atomNew .fmin ty old b 0
  | .max, .f32 => atomNew .fmax ty old b 0
  | .add, _ => atomNew .add ty old b 0
  | .min, _ => atomNew .min ty old b 0
  | .max, _ => atomNew .max ty old b 0

/-- R202: the first contribution to an element; a NaN becomes the canonical one. -/
def redsFirst (ty : AtomTy) (b : Nat) : Nat :=
  match ty with
  | .f32 => if ((fmtOf .f32).decode b).isNan then (fmtOf .f32).canon else b
  | _ => b

end Sys2Proof.Machine
end

