-- ==== Sys2Proof/Config.lean ====
section
/-! DEFINITION. Config.lean: what an implementation fixes and the free values (log entry 2). Nothing here but the
numbers of R17 to R28 has a value: an opaque constant is a value that the spec leaves open. -/
namespace Sys2Proof.Config

/-- Which of several enabled moves the device makes of its own choice, by the model's counter of free values. -/
opaque pick : Nat → Nat

/-- A free 32-bit word: a physical noise word of a well (R259). -/
opaque freeWord : Nat → W32

/-- A free choice between an old and a new value (R185, R187, R302). -/
opaque freeBit : Nat → Bool

/-- The DRAM row of a granule of a stack (R337): the spec gives no address map below the stack. -/
opaque dramRow : Nat → Nat

/-- The pseudo-channel of a granule of a stack (R350), with no address map given either. -/
opaque pchOf : Nat → Nat

/-- The bank of a row of a stack (R337), with no address map given either. -/
opaque bankOf : Nat → Nat

/-- The stored training of a pseudo-channel of a stack, where the module has one (R351): its read delays, write delays and
reference. -/
opaque storedTraining : Nat → Nat → Option (List (BitVec 7) × List (BitVec 7) × BitVec 7)

/-- Where in its context's sump the slot of a crew's register lies (R162): the spec gives the sump no layout. -/
opaque sumpSlot : Nat → Nat → Nat

/-- Where in its context's save area a crew's words lie (R330): the spec gives the area no layout. -/
opaque saveSlot : Nat → Nat

/-- The words of a crew in its context's save area (R330), but for its register map entries: of the crew, of its cohort with
its tile store and barriers, and of the cohort's pending SPGROW requests. -/
opaque saveBytes : Machine.Crew → Option Machine.Cohort → List Machine.Spgrow → List Byte

/-- Whose memory a physical page past the device's own is (R385, R386): the host's, or that of the module at a peer link,
with the page's number there. The spec does not say how an entry of a page table names it (log entry 60). -/
opaque remotePage : Nat → Option (Option Nat × Nat)

/-- A byte of a peer module's memory (R386). -/
opaque peerByte : Nat → Byte

/-- The module's serial number (R390). -/
opaque serial : W64

/-- A byte of the public identity key (R390). -/
opaque idKeyByte : Nat → Byte

/-- A Falcon-1024 signature by the identity key over a message (R382, R402). -/
opaque sign : List Byte → List Byte

/-- Whether a Falcon-1024 signature over a message verifies under a public key (R383). -/
opaque verify : List Byte → List Byte → List Byte → Bool

/-- The SHAKE256 measurements of the boot ROM, the firmware, the fuse map and the margin plan (R402). -/
opaque measurement : Nat → List Byte

/-- The payload of a section of a Cudric image, by its TYPE and UNIT, but for the bytes of memory (R381). -/
opaque imagePayload : Machine.ImageState → Nat → Nat → List Byte

/-- What the sections of a Cudric image, as TYPE, UNIT and payload, describe, with identifiers from a number on (R381,
R384). -/
opaque imageState : Nat → List (Nat × Nat × List Byte) → Machine.ImageState

/-- The number of clusters of the package (R22). -/
def nclusters : Nat := 64

/-- The number of cores of the package (R22). -/
def ncores : Nat := 256

/-- The number of wells of the package (R22). -/
def nwells : Nat := 512

/-- The core unit of a cluster's control core (R22). -/
def controlUnit (cluster : Nat) : Nat := 256 + cluster

/-- The core unit of the service core (R24). -/
def serviceUnit : Nat := 320

/-- The number that names no core unit. -/
def noUnit : Nat := 321

/-- The cluster of a core unit (R22); the service core belongs to none (R24), which 64 stands for. -/
def clusterOfUnit (u : Nat) : Nat := if u < 256 then u / 4 else if u < 320 then u - 256 else 64

/-- The die of a core unit (R22, R24). -/
def dieOfUnit (u : Nat) : Nat := if u < 256 then u / 64 else if u < 320 then (u - 256) / 16 else 0

/-- The queue number that names no queue, for a crew without one (R24, R288). -/
def noQueue : Nat := 4096

end Sys2Proof.Config
end

