-- ==== Sys2Proof/Machine/Operands.lean ====
section
/-! DEFINITION. Operands.lean: every operand form of R61 to R86: lanes and guards, the queue, named registers,
scalars, specials and constants. -/
namespace Sys2Proof

/-- The named registers that an operand of a width covers (R66, R73). -/
def coveredRegs (w : Width) (n : Nat) : List Nat :=
  match w with
  | .w32 => [n]
  | .w64 => [n, n + 1]
  | .w128 => [n, n + 1, n + 2, n + 3]

/-- The named registers of a source. -/
def SrcUse.regs (u : SrcUse) : List Nat :=
  match u.src with
  | .named n _ => coveredRegs u.width n.toNat
  | _ => []

/-- The T bit of a source (R74). -/
def SrcUse.traps (u : SrcUse) : Bool :=
  match u.src with
  | .named _ t => t
  | _ => false

/-- The named registers of a destination. -/
def DestUse.regs : DestUse → List Nat
  | .q (.named n) w => coveredRegs w n.toNat
  | .l (.named n) w => coveredRegs w n.toNat
  | _ => []

/-- The first named register and the number of registers of a named destination. -/
def DestUse.span (d : DestUse) : Option (Nat × Nat) :=
  match d.regs with
  | [] => Option.none
  | r :: rs => Option.some (r, rs.length + 1)

/-- R94: the bytes of an access size. -/
def Size.bytes : Size → Nat
  | .n8 | .s8 => 1
  | .n16 | .s16 => 2
  | .b32 => 4
  | .b64 => 8
  | .b128 => 16

end Sys2Proof

namespace Sys2Proof.Machine

/-- The lanes of a mask of a crew of w lanes, ascending (R11, R36). -/
def maskLanes (m : Mask) (w : Nat) : List Nat := (List.range w).filter (fun l => m.getLsbD l)

/-- The mask of a list of lanes. -/
def maskOf : List Nat → Mask
  | [] => 0
  | l :: ls => maskOf ls ||| BitVec.twoPow 1024 l

/-- The lanes of a crew (R35). -/
def Crew.width (cr : Crew) : Nat := 2 ^ cr.w0

/-- A predicate of a lane; p7 reads as 1 (R79). -/
def Split.pred (sp : Split) (p l : Nat) : Bool := p == 7 || (sp.preds.getD p 0).getLsbD l

/-- R91: the guard in a lane. -/
def Split.guarded (sp : Split) (g : Guard) (l : Nat) : Bool := sp.pred g.p.toNat l != g.neg

/-- The lanes of a split. -/
def Split.lanes (sp : Split) (w : Nat) : List Nat := maskLanes sp.mask w

/-- R91: the active lanes of an instruction. -/
def Split.active (sp : Split) (w : Nat) (g : Guard) : List Nat := (sp.lanes w).filter (sp.guarded g)

/-- The core unit a crew runs on (R22, R24, R219). -/
def unitOf (s : State) (cr : Crew) : Nat :=
  match cr.engine with
  | .service => Config.serviceUnit
  | .core => ((s.cohorts.find cr.cohort).map (·.core)).getD 0
  | .control => Config.controlUnit (((s.cohorts.find cr.cohort).map (·.core)).getD 0 / 4)

/-- A die's copy of DT (R26). -/
def dieDT (s : State) (d : Nat) : Nat := s.dt + ((s.dies[d]?).map (·.skew)).getD 0

/-- A die's clk count since device reset (R25, R82). -/
def dieClk (s : State) (d : Nat) : Nat := ((s.dies[d]?).map (·.clkT)).getD 0 / 10

/-- DT as a crew reads it. -/
def crewDT (s : State) (cr : Crew) : Nat := dieDT s (Config.dieOfUnit (unitOf s cr))

/-- clk as a crew reads it. -/
def crewClk (s : State) (cr : Crew) : Nat := dieClk s (Config.dieOfUnit (unitOf s cr))

/-- The key of a lane of a named register. -/
def regKey (r l : Nat) : Nat := r * 1024 + l

/-- The live cell of a lane of a named register. -/
def Crew.cell (cr : Crew) (r l : Nat) : Option RegCell := cr.regs.find (regKey r l)

/-- R68: the value of a lane of a named register; a dead one reads 0. -/
def Crew.named (cr : Crew) (r l : Nat) : W32 :=
  match cr.cell r l with
  | some c => c.val
  | none => 0

/-- R68, R73: whether a lane of a named register is full; a dead one is. -/
def Crew.isFull (cr : Crew) (r l : Nat) : Bool :=
  match cr.cell r l with
  | some c => c.full
  | none => true

/-- Two words as a pair (R66). -/
def pair (lo hi : W32) : W64 := hi ++ lo

/-- The low word. -/
def lo32 (x : W64) : W32 := x.setWidth 32

/-- The high word. -/
def hi32 (x : W64) : W32 := x.extractLsb' 32 32

/-- R78: a scalar. -/
def Crew.scalar (cr : Crew) (n : Nat) : W32 := cr.scalars.getD n 0

/-- R63: a queue entry of a lane; an entry that has not been written reads 0. -/
def Split.qread (sp : Split) (n l : Nat) : W64 := SMap.getD (sp.queue.getD n []) l 0

/-- R33: %cohort. -/
def cohortSpecial (s : State) (cr : Crew) (wid : W64) : W64 :=
  match (s.cohorts.find cr.cohort).bind (fun c => s.launches.find c.launch) with
  | some ln => wid >>> (ln.widths.getD 0 0 + ln.widths.getD 1 0)
  | none => 0

/-- R124: FPFLAGS as an instruction reads it: with the flags of instructions issued before whose results are due. -/
def seenFlags (s : State) (cr : Crew) : Flags :=
  s.accs.foldl (fun f p => if p.2.crew == cr.cid then f ||| p.2.flags else f) cr.fpflags

/-- The summary word of a mask (R36): bit j is 1 exactly where mask word j is not zero. -/
def Mask.summary (m : Mask) : W32 :=
  BitVec.ofNat 32 (sumOf ((List.range 32).map (fun j => if m.extractLsb' (32 * j) 32 = 0 then 0 else 2 ^ j)))

/-- R36: the passes of an instruction: one for each summary bit that is set. -/
def Mask.passes (m : Mask) : Nat := ((List.range 32).filter (fun j => m.summary.getLsbD j)).length

/-- R33, R82: the whole value of a special in a lane, the two words of a 64-bit one apart. -/
def special (s : State) (cr : Crew) (k : Special) (l : Nat) : W64 :=
  let wid := if cr.engine = .service then 0 else SMap.getD cr.wid l 0
  match k with
  | .wid => wid
  | .widHi => wid >>> 32
  | .cohort => cohortSpecial s cr wid
  | .cohortHi => cohortSpecial s cr wid >>> 32
  | .lane => BitVec.ofNat 64 l
  | .crew => if cr.engine = .service then 0 else BitVec.ofNat 64 cr.index
  | .clk => BitVec.ofNat 64 (crewClk s cr)
  | .clkHi => BitVec.ofNat 64 (crewClk s cr) >>> 32
  | .dt => BitVec.ofNat 64 (crewDT s cr)
  | .dtHi => BitVec.ofNat 64 (crewDT s cr) >>> 32
  | .fpflags => (seenFlags s cr).setWidth 64
  | .sib => cr.sib.setWidth 64

/-- How a small constant is converted to the operand's type (R85). -/
inductive Conv
  | int
  | flt (t : FTy)
  | packed (t : FTy)
deriving DecidableEq, Repr

/-- R85: a small constant. -/
def convConst (cv : Conv) (c : BitVec 7) : W64 :=
  match cv with
  | .int => c.signExtend 64
  | .flt t => BitVec.ofNat 64 ((fmtOf t).ofInt {} c.toInt).1
  | .packed t =>
    let h := ((fmtOf t).ofInt {} c.toInt).1
    BitVec.ofNat 64 (h + h * 2 ^ 16)

/-- A value cut to an operand's width. -/
def cutTo (w : Width) (x : W64) : W64 :=
  match w with
  | .w32 => (lo32 x).setWidth 64
  | _ => x

/-- R63, R66, R68, R78, R82, R85: a source of 32 or 64 bits in a lane. -/
def readSrc (s : State) (cr : Crew) (sp : Split) (cv : Conv) (w : Width) (a : Src) (l : Nat) : W64 :=
  match a with
  | .queue n => cutTo w (sp.qread n.toNat l)
  | .named n _ =>
    match w with
    | .w32 => (cr.named n.toNat l).setWidth 64
    | _ => pair (cr.named n.toNat l) (cr.named (n.toNat + 1) l)
  | .scalar n =>
    match w with
    | .w32 => (cr.scalar n.toNat).setWidth 64
    | _ => pair (cr.scalar n.toNat) (cr.scalar (n.toNat + 1))
  | .special k => cutTo w (special s cr k l)
  | .const c => cutTo w (convConst cv c)

/-- Little-endian bytes of a number. -/
def leBytes : Nat → Nat → List Byte
  | 0, _ => []
  | n + 1, x => BitVec.ofNat 8 x :: leBytes n (x / 256)

/-- The number of little-endian bytes. -/
def leNat : List Byte → Nat
  | [] => 0
  | b :: bs => b.toNat + 256 * leNat bs

/-- R554: the bytes of a store operand of n bytes in a lane: registers of a quad for 16 bytes. -/
def storeBytes (s : State) (cr : Crew) (sp : Split) (sz : Size) (n : Nat) (a : Src) (l : Nat) : List Byte :=
  match sz, a with
  | .b128, .named r _ =>
    (coveredRegs .w128 r.toNat).flatMap (fun k => leBytes 4 (cr.named k l).toNat)
  | _, _ => leBytes n (readSrc s cr sp .int (Size.operand sz) a l).toNat

end Sys2Proof.Machine
end

