-- ==== Sys2Proof/Machine/Mem.lean ====
section
/-! DEFINITION. Mem.lean: bytes of memory, the interleave (R333, R343), the home slices with their leases and
pending stores (R165 to R170), and the rings that the device writes (R316, R396). -/
namespace Sys2Proof.Machine

/-- The byte at an address. -/
def Memory.get (m : Mem) (a : Nat) : Byte := SMap.getD m a emptyByte

/-- Writes the byte at an address, keeping the canonical form. -/
def Memory.set (m : Mem) (a : Nat) (b : Byte) : Mem := if b = emptyByte then SMap.del m a else SMap.put m a b

/-- n bytes from an address. -/
def Memory.getN (m : Mem) (a n : Nat) : List Byte := (List.range n).map (fun i => Memory.get m (a + i))

/-- Writes bytes from an address. -/
def Memory.setN (m : Mem) : Nat → List Byte → Mem
  | _, [] => m
  | a, b :: bs => Memory.setN (Memory.set m a b) (a + 1) bs

/-- Writes bytes at listed addresses, in order. -/
def Memory.setAll (m : Mem) : List (Nat × Byte) → Mem
  | [] => m
  | p :: ps => Memory.setAll (Memory.set m p.1 p.2) ps

/-- Bytes numbered from an address. -/
def numbered : Nat → List Byte → List (Nat × Byte)
  | _, [] => []
  | a, b :: bs => (a, b) :: numbered (a + 1) bs

/-- The line of a physical address (R28). -/
def lineOf (pa : Nat) : Nat := pa / 128

/-- R333: the XOR of the 16-bit groups of a number of at most 46 bits. -/
def fold16 (x : Nat) : Nat := (x % 65536) ^^^ (x / 65536 % 65536) ^^^ (x / 4294967296 % 65536)

/-- R149: the XOR of the 5-bit groups of a number of at most 50 bits. -/
def fold5 (x : Nat) : Nat :=
  ((List.range 10).map (fun i => x / 2 ^ (5 * i) % 32)).foldl (fun a b => a ^^^ b) 0

/-- R333: the stack and local offset of a physical address under an active set. -/
def interleave (act : List Nat) (pa : Nat) : Nat × Nat :=
  let g := pa / 1024
  let n := act.length
  let row := g / n
  let slot := (g % n + fold16 row) % n
  (act.getD slot 0, row * 1024 + pa % 1024)

/-- R342: the number of regions of the running migration. -/
def Migration.nregions (m : Migration) : Nat := m.nreg

/-- R343: whether a physical address is mapped under the new active set. -/
def Migration.isNew (m : Migration) (phase pa : Nat) : Bool :=
  !m.mig || decide (m.nreg ≤ pa / 1048576 + phase)

/-- R25, R384: the DT ticks since a DT, which a restore may have rebased to before the module's reset, modulo 2^64. -/
def ticksSince (s : State) (t : Nat) : Nat := (s.dt + 2 ^ 128 - t) % 2 ^ 64

/-- R343: the active set that maps a physical address now. -/
def Migration.setOf (m : Migration) (pa : Nat) : List Nat := if m.isNew m.phase pa then m.act else m.old

/-- The stack and local offset of a physical address now. -/
def locate (s : State) (pa : Nat) : Nat × Nat := interleave (s.mig.setOf pa) pa

/-- R20: the home die of a physical address. -/
def homeDie (s : State) (pa : Nat) : Nat := (locate s pa).1 / 2

/-- R149: the home slice of a physical address, as die·32 + slice. -/
def homeSlice (s : State) (pa : Nat) : Nat := homeDie s pa * 32 + fold5 (pa / 128)

/-- R192: the synchronisation engine slice of a physical address, as die·16 + slice. -/
def syncSliceOf (s : State) (pa : Nat) : Nat := homeDie s pa * 16 + ((pa / 128 % 16) ^^^ (pa / 2048 % 16))

/-- Home DT of a line (R164). -/
def homeDT (s : State) (line : Nat) : Nat := dieDT s (homeDie s (line * 128))

/-- R344: whether a line's region is closed. -/
def isClosed (s : State) (pa : Nat) : Bool :=
  match s.mig.closed with
  | some (r, _) => pa / 1048576 == r
  | none => false

/-- R338, R340: whether a physical access is past the live capacity or on a retired page. -/
def badPhys (s : State) (pa : Nat) : Bool :=
  decide (s.mig.capMiB * 1048576 ≤ pa) || ((s.badPages.find (pa / 8192)).map (·.acked)).getD false

/-- The home state of a line. -/
def homeOf (s : State) (line : Nat) : Home := SMap.getD s.homes line {}

/-- Whether a line is in its home slice's L2 (R149). -/
def inL2 (s : State) (line : Nat) : Bool := (SMap.getD s.l2 (homeSlice s (line * 128)) []).contains line

/-- R167: the lease horizon of a line: its own in the L2, the slice's eviction horizon otherwise. -/
def horizon (s : State) (line : Nat) : Nat :=
  if inL2 s line then (homeOf s line).h else SMap.getD s.he (homeSlice s (line * 128)) 0

/-- R165: whether a synchronisation engine holds a line. -/
def inSync (s : State) (line : Nat) : Bool :=
  match s.sync.find (syncSliceOf s (line * 128)) with
  | some sl => sl.frames.contains (.line line)
  | none => false

/-- R334, R338: whether a granule is on the failed-granule list of its stack, or would be if the list had room (log entry
111). -/
def failedGranule (s : State) (pa : Nat) : Bool :=
  match s.dramStacks.find (locate s pa).1 with
  | some st => st.failed.contains (pa / 64) || st.unlisted.contains (pa / 64)
  | none => false

-- the cistern (R157, R158)

/-- R524: a window's share on each active stack, in bytes. -/
def pinShare (s : State) (len : Nat) : Nat := ((len / 1024 + s.mig.act.length - 1) / s.mig.act.length) * 1024

/-- R158: the windows of the package. -/
def allWindows (s : State) : List Window := s.ctxs.flatMap (fun p => p.2.windows.vals)

/-- R158: whether a line belongs to a pinned window, whose lines are resident in the cistern. -/
def pinned (s : State) (line : Nat) : Bool := (allWindows s).any (fun w => w.pages.contains (line / 64))

/-- R157, R334: whether the cistern of a line's stack holds it; every read below its home of a granule that is listed as
failed completes as UNCORRECTABLE. -/
def inCistern (s : State) (line : Nat) : Bool :=
  !failedGranule s (line * 128) && !failedGranule s (line * 128 + 64)
    && (pinned s line || ((s.dramStacks.find (locate s (line * 128)).1).any (fun st => st.cistern.contains line)))

/-- R28, R157: the lines that a cistern of 192 MiB has for lines outside pinned windows. -/
def cisternRoom (s : State) : Nat := 1572864 - sumOf ((allWindows s).map (fun w => pinShare s w.len / 128))

/-- R157: a line becomes the most recent of its stack's cistern, and the least recent ones leave it. -/
def cisternTouch (s : State) (line : Nat) : State :=
  if pinned s line then s
  else
    let k := (locate s (line * 128)).1
    let st := SMap.getD s.dramStacks k {}
    { s with dramStacks := s.dramStacks.put k { st with cistern :=
        (line :: st.cistern.filter (fun n => n != line && !pinned s n)).take (cisternRoom s) } }

/-- Whether a line's bytes can be had above the DRAM of its stack (R149, R157, R165). -/
def cached (s : State) (line : Nat) : Bool := inSync s line || inL2 s line || inCistern s line

/-- R160: a window's handle and slots are free, and its lines stay in the cisterns as ordinary cached lines. -/
def dropWindow (s : State) (ctx h : Nat) : State :=
  match (s.ctxs.find ctx).bind (fun c => c.windows.find h) with
  | none => s
  | some w =>
    let s := { s with ctxs := s.ctxs.change ctx (fun c => { c with windows := c.windows.del h }) }
    let lines := w.pages.flatMap (fun p => (List.range 64).map (fun i => p * 64 + i))
    s.mig.act.foldl (fun s k =>
      let mine := lines.filter (fun n => (locate s (n * 128)).1 == k && !pinned s n)
      let st := SMap.getD s.dramStacks k {}
      { s with dramStacks := s.dramStacks.put k { st with cistern :=
          (mine ++ st.cistern.filter (fun n => !w.pages.contains (n / 64))).take (cisternRoom s) } }) s

/-- R334: whether a granule's bytes are lost: it is on the failed-granule list, and no copy stands above the DRAM. -/
def lostGranule (s : State) (pa : Nat) : Bool := failedGranule s pa && !cached s (lineOf pa)

-- requests to the stacks (R332)

/-- R332: the port of a line's home slice on its compute die (log entry 59). -/
def portOf (s : State) (pa : Nat) : Nat := homeSlice s pa % 32 / 2

/-- R332: the lowest index that a port has free. -/
def freeStackTag (st : Stack) (port : Nat) : Nat → Nat → Option Nat
  | 0, _ => none
  | n + 1, t => if st.reqs.any (fun r => r.tag == port * 4096 + t) then freeStackTag st port n (t + 1) else some (port * 4096 + t)

/-- R332, R341: a home slice sends a granule request to its stack, which holds at most 4,096; a read goes after the writes
to its granule that wait for a tag. -/
def sendGranule (s : State) (pa : Nat) (write : Bool) (acc : Option (Nat × Nat)) : Option State :=
  let k := (locate s pa).1
  let st := SMap.getD s.dramStacks k {}
  if 4096 ≤ st.reqs.length || (!write && st.heldW.contains (pa / 64)) then none
  else
    (freeStackTag st (portOf s pa) 4096 0).map (fun t =>
      let r : StackReq :=
        { tag := t, granule := pa / 64, write := write, acc := acc, epoch := s.mig.epoch, phase := s.mig.phase }
      { s with dramStacks := s.dramStacks.put k { st with reqs := st.reqs ++ [r] } })

/-- Sends several granule reads for a line request. -/
def sendGranules (s : State) (acc : Option (Nat × Nat)) : List Nat → Option State
  | [] => some s
  | pa :: pas =>
    match sendGranule s pa false acc with
    | none => none
    | some s => sendGranules s acc pas

/-- R332: whether a line must be read from its stack before its bytes can be had: none of its copies stands above the
DRAM, and neither granule is known as failed. -/
def needsFill (s : State) (line : Nat) : Bool :=
  !cached s line && !failedGranule s (line * 128) && !failedGranule s (line * 128 + 64)

/-- R332: whether the reads that bring a line into the cistern are under way. -/
def fillSent (s : State) (line : Nat) : Bool :=
  s.dramStacks.any (fun p => p.2.reqs.any (fun r => r.granule / 2 == line && !r.write && r.acc.isNone))

/-- R332: whether the reads that bring a line into the cistern are not under way, and could be sent now. -/
def askFree (s : State) (line : Nat) : Bool :=
  !fillSent s line && (sendGranules s none [line * 128, line * 128 + 64]).isSome

/-- R332: the reads that bring a line into the cistern are sent, unless they are under way. -/
def askFill (s : State) (line : Nat) : State :=
  if fillSent s line then s else (sendGranules s none [line * 128, line * 128 + 64]).getD s

/-- R332, R334: a read that is outstanding when a write covers its whole granule was to be performed before it. -/
def StackReq.outrun (st : Stack) (hit : Nat → Bool) (r : StackReq) : StackReq :=
  if !r.write && r.late.isNone && hit r.granule then
    { r with late := some (st.failed.contains r.granule || st.unlisted.contains r.granule) }
  else r

/-- R334: a write that covers a whole granule takes it off the failed-granule list; a read of it that arrived earlier no
longer lists it. -/
def clearFailed (s : State) (line : Nat) (ws : List (Nat × Byte)) : State :=
  let offs := ws.map (·.1)
  let covered (g : Nat) : Bool := g / 2 == line && (List.range 64).all (fun i => offs.contains (64 * (g % 2) + i))
  { s with dramStacks := s.dramStacks.mapAll (fun _ st =>
      { st with failed := st.failed.filter (fun g => !covered g), unlisted := st.unlisted.filter (fun g => !covered g)
                reqs := st.reqs.map (StackReq.outrun st covered) }) }

/-- R332: a masked write is sent to its stack, or waits at its home slice for a tag. -/
def sendWrite (s : State) (g : Nat) : State :=
  let k := (locate s (g * 64)).1
  let st := SMap.getD s.dramStacks k {}
  let hold : State := { s with dramStacks := s.dramStacks.put k { st with heldW := st.heldW ++ [g] } }
  if st.heldW.isEmpty then (sendGranule s (g * 64) true none).getD hold else hold

/-- R332: the writes of a stack's home slices that wait for tags are sent as far as there are tags. -/
def sendHeld : Nat → State → Nat → State
  | 0, s, _ => s
  | n + 1, s, k =>
    match (SMap.getD s.dramStacks k {}).heldW with
    | [] => s
    | g :: gs =>
      match sendGranule s (g * 64) true none with
      | none => s
      | some t => sendHeld n { t with dramStacks := t.dramStacks.change k (fun x => { x with heldW := gs }) } k

/-- R332: the masked writes of a store, which its home slice sends at once (log entry 112). -/
def sendWrites (s : State) (line : Nat) (ws : List (Nat × Byte)) : State :=
  ([0, 1].filter (fun g => ws.any (fun p => p.1 / 64 == g))).foldl (fun s g => sendWrite s (2 * line + g)) s

/-- R170, R380: a store's bytes replace the line's bytes, and its 1 MiB region has been written. -/
def landBytes (s : State) (line : Nat) (ws : List (Nat × Byte)) : State :=
  let s := { s with mem := Memory.setAll s.mem (ws.map (fun p => (line * 128 + p.1, p.2)))
                    touched := if s.touched.contains (line / 8192) then s.touched else line / 8192 :: s.touched }
  clearFailed (sendWrites s line ws) line ws

/-- R385, R390: whether a vector of the MSI-X table is masked. -/
def vecMasked (s : State) (n : Nat) : Bool := (SMap.getD s.msix n {}).mask

/-- Raises an interrupt vector (R385); one that is masked sets its bit of the PBA, until it is unmasked (R390). -/
def raiseIrq (s : State) (v : Option Nat) : State :=
  match v with
  | some n => { s with irqs := s.irqs ++ [n], pba := if vecMasked s n && !s.pba.contains n then n :: s.pba else s.pba }
  | none => s

/-- R316, R390: whether the interrupt of a store that becomes visible is raised. -/
def NoticeIf.holds (n : NoticeIf) (s : State) : Bool :=
  match n with
  | .always => true
  | .ring cons prod => leNat (Memory.getN s.mem cons 4) == prod
  | .bar dbg prod => (if dbg then s.dbg.cons else s.evt.cons) == prod

/-- Raises the interrupt of a store that has become visible. -/
def raiseNotice (s : State) (v : Option Notice) : State :=
  raiseIrq s ((v.filter (fun n => n.when_.holds s)).map (·.vec))

/-- Lands the stores of a list whose Tw home DT has reached, in arrival order; the rest stay pending. -/
def landDue (s : State) (line dh : Nat) : List Pend → State × List Pend
  | [] => (s, [])
  | p :: ps =>
    if p.tw ≤ dh then landDue (raiseNotice (landBytes s line p.bytes) p.vec) line dh ps
    else (s, p :: ps)

/-- R170: every pending store of a line whose Tw home DT has reached becomes visible. -/
def settle (s : State) (line : Nat) : State :=
  let h := homeOf s line
  match h.pending with
  | [] => s
  | _ :: _ =>
    let (s', rest) := landDue s line (homeDT s line) h.pending
    { s' with homes := s'.homes.put line { h with pending := rest } }

/-- R169: a store to one line that arrives at its home no earlier than a DT, where it is assigned its Tw; once it is
visible an interrupt may be raised. -/
def arriveStoreFrom (s : State) (line src : Nat) (ws : List (Nat × Byte)) (from_ : Nat) (vec : Option Notice) : State × Nat :=
  let s := settle s line
  let h := homeOf s line
  let tw := Nat.max (Nat.max (homeDT s line) from_) (Nat.max (horizon s line) h.tprev)
  let p : Pend := { tw := tw, src := src, bytes := ws, vec := vec }
  let s := { s with homes := s.homes.put line { h with tprev := tw, pending := h.pending ++ [p] } }
  (settle s line, tw)

/-- R169: a store to one line arrives at its home. -/
def arriveStore (s : State) (line src : Nat) (ws : List (Nat × Byte)) : State × Nat := arriveStoreFrom s line src ws 0 none

/-- The number from which line requests on the HOST path to memory of the host or a peer count their addresses. -/
def remoteBase : Nat := 2 ^ 60

/-- R385, R386: the memory that an address of the HOST path names: the host's, or a peer link's, and the address there. -/
def remoteOf (pa : Nat) : Option (Option Nat × Nat) :=
  if pa < remoteBase then none
  else (Config.remotePage ((pa - remoteBase) / 8192)).map (fun x => (x.1, x.2 * 8192 + pa % 8192))

/-- R385, R386: whether a physical address past the 512 GiB of the stacks is one of the host's or a peer's memory. -/
def isRemote (pa : Nat) : Bool := decide (2 ^ 39 ≤ pa) && (Config.remotePage (pa / 8192)).isSome

/-- R165: n bytes at a physical address within one line, as they stand at the home now. -/
def readHome (s : State) (pa n : Nat) : List Byte := Memory.getN (settle s (lineOf pa)).mem pa n

/-- R165, R335: n bytes at a physical address, line by line. -/
def readPhys (s : State) (pa n : Nat) : List Byte :=
  (List.range n).map (fun i => (readHome s (pa + i) 1).getD 0 emptyByte)

/-- The bytes of a line as its latest store, visible or not, left them: what the writer of the line sees. -/
def readNewest (s : State) (pa n : Nat) : List Byte :=
  let h := homeOf s (lineOf pa)
  let m := Memory.setAll s.mem (h.pending.flatMap (fun p => p.bytes.map (fun q => (lineOf pa * 128 + q.1, q.2))))
  Memory.getN m pa n

/-- Groups bytes at physical addresses into stores of one line each, in order of address. -/
def splitLines : List (Nat × Byte) → SMap (List (Nat × Byte))
  | [] => []
  | p :: ps =>
    let m := splitLines ps
    m.put (lineOf p.1) ((p.1 % 128, p.2) :: m.getD (lineOf p.1) [])

/-- The stores of R555. -/
def AccKind.isStore : AccKind → Bool
  | .store _ _ => true
  | _ => false

/-- Whether a line request has been performed, or never will be. -/
def LineReq.isOver (l : LineReq) : Bool :=
  match l.st with
  | .done _ | .failed _ | .dropped => true
  | _ => false

/-- The physical address of a line request, once translated. -/
def LineReq.pa (l : LineReq) : Option Nat :=
  match l.st with
  | .ready p | .sent p | .posted p | .done p | .failed p => some p
  | _ => none

/-- The physical address of a lane of an access whose line is translated. -/
def Access.lanePA (a : Access) (q : LaneReq) : Option Nat :=
  (a.lines.find? (fun l => l.vline == q.va / 128)).bind (fun l => l.pa.map (· + q.va % 128))

/-- R183: a Tw acknowledged to a holder that has left its lock. -/
def Lock.ack (l : Lock) (cid tw : Nat) : Lock :=
  { l with broken := l.broken.map (fun b => if b.crew = cid then { b with tw := Nat.max b.tw tw } else b) }

/-- R171: a Tw acknowledged to a crew on a path. -/
def ackTw (s : State) (cid path tw : Nat) : State :=
  { s with crews := s.crews.change cid (fun cr => { cr with twmax := changeAt cr.twmax path (Nat.max tw) })
           locks := s.locks.mapAll (fun _ l => l.ack cid tw) }

/-- The line requests of an access whose every lane has been performed. -/
def doneLines (qs : List LaneReq) (ls : List LineReq) : List LineReq :=
  ls.map (fun l =>
    match l.st with
    | .ready pa => if (qs.filter (fun q => q.va / 128 == l.vline)).all (·.done) then { l with st := .done pa } else l
    | _ => l)

/-- R163: sump space of a context that an entry gives back. -/
def returnSump (s : State) (ctx n : Nat) : State :=
  { s with ctxs := s.ctxs.change ctx (fun c => { c with sumpUsed := c.sumpUsed - n }) }

/-- R198: an ordered request whose turn it is: VAL takes the operation, NEXT rises, and the lane has its result. -/
def orderedPerform (s : State) (acc : Nat) (a : Access) (q : LaneReq) (op : AtomOp) (ty : AtomTy) (pa : Nat) : State :=
  let val := leNat (readNewest s pa 4)
  let next := leNat (readNewest s (pa + 4) 4)
  let new := atomNew op ty val (leNat q.data) 0
  let bs := leBytes 4 new ++ leBytes 4 ((next + 1) % 4294967296)
  let (s, tw) := arriveStore s (lineOf pa) 0 (numbered (pa % 128) bs)
  let lanes := a.lanes.map (fun x =>
    if x.lane = q.lane then { x with done := true, held := false, res := BitVec.ofNat 64 (val + next * 4294967296) } else x)
  let s := { s with accs := s.accs.put acc { a with lanes := lanes, lines := doneLines lanes a.lines
                                                    ready := lanes.all (·.done) } }
  ackTw (if q.held && q.aux2 = 2 then returnSump s a.ctx 32 else s) a.crew 3 tw

/-- R198: the distance of a request from its cell's turn. -/
def seqDistance (sq next : Nat) : Int := (BitVec.ofNat 32 sq - BitVec.ofNat 32 next).toInt

/-- R198: a request that comes too late: its lane has its result, and nothing is written. -/
def stalePerform (s : State) (acc : Nat) (a : Access) (q : LaneReq) (pa : Nat) : State :=
  let val := leNat (readNewest s pa 4)
  let next := leNat (readNewest s (pa + 4) 4)
  let lanes := a.lanes.map (fun x =>
    if x.lane = q.lane then { x with done := true, held := false, res := BitVec.ofNat 64 (val + next * 4294967296) } else x)
  let s := { s with accs := s.accs.put acc { a with lanes := lanes, lines := doneLines lanes a.lines
                                                    ready := lanes.all (·.done) } }
  if q.held && q.aux2 = 2 then returnSump s a.ctx 32 else s

/-- A held request of a line: its access, its lane, its operation, and its cell. -/
structure HeldReq where
  acc : Nat
  a   : Access
  q   : LaneReq
  op  : AtomOp
  ty  : AtomTy
  pa  : Nat

/-- R199: the ordered requests of a line that are held. -/
def heldOn (s : State) (line : Nat) : List HeldReq :=
  s.accs.flatMap (fun p =>
    match p.2.kind with
    | .atomo op ty =>
      (p.2.lanes.filter (·.held)).filterMap (fun q =>
        (p.2.lanePA q).bind (fun pa =>
          if lineOf pa = line then some { acc := p.1, a := p.2, q := q, op := op, ty := ty, pa := pa } else none))
    | _ => [])

/-- R198: how far a held request is from its cell's turn. -/
def HeldReq.distance (h : HeldReq) (s : State) : Int := seqDistance h.q.aux (leNat (readNewest s (h.pa + 4) 4))

/-- R198, R200: held requests of a line are examined against NEXT, one after another: one whose turn has come is
performed, and one that a store has made late is stale. -/
def releaseHeld : Nat → State → Nat → State
  | 0, s, _ => s
  | n + 1, s, line =>
    match (heldOn s line).find? (fun h => h.distance s == 0) with
    | some h => releaseHeld n (orderedPerform s h.acc h.a h.q h.op h.ty h.pa) line
    | none =>
      match (heldOn s line).find? (fun h => decide (h.distance s < 0)) with
      | some h => releaseHeld n (stalePerform s h.acc h.a h.q h.pa) line
      | none => s

/-- R200: the held requests of a line are examined after a write to it. -/
def examineHeld (s : State) (line : Nat) : State := releaseHeld (heldOn s line).length s line

/-- R159: a demand access to a physical address reloads the fade counter of every window that holds its page. -/
def touchWindows (s : State) (pa : Nat) : State :=
  { s with ctxs := s.ctxs.mapAll (fun _ c =>
      { c with windows := c.windows.mapAll (fun _ w =>
          if w.pages.contains (pa / 8192) then { w with fade := w.reload, touched := true } else w) }) }

/-- R169, R200: a store to one line, after which its held ordered requests are examined. -/
def storeLine (s : State) (line src : Nat) (ws : List (Nat × Byte)) : State × Nat :=
  let (s, tw) := arriveStore (touchWindows s (line * 128)) line src ws
  (examineHeld s line, tw)

/-- R344: a store to one line, which stalls at its home while its region is closed. -/
def storeOrStall (s : State) (line src : Nat) (ws : List (Nat × Byte)) : State × Nat :=
  if isClosed s (line * 128) then ({ s with stalled := s.stalled ++ [(line, src, ws)] }, 0) else storeLine s line src ws

/-- Stores of several lines arrive at their homes from one source; the largest Tw is given. -/
def arriveAll (s : State) (src : Nat) : SMap (List (Nat × Byte)) → State × Nat
  | [] => (s, 0)
  | (line, ws) :: ls =>
    let (s1, t1) := storeOrStall s line src ws
    let (s2, t2) := arriveAll s1 src ls
    (s2, Nat.max t1 t2)

/-- A write of the device at a physical address (R169). -/
def devWrite (s : State) (pa : Nat) (bs : List Byte) : State × Nat :=
  arriveAll s 0 (splitLines (numbered pa bs))

/-- A write of the device within one line that follows another of its writes, complete at a DT, and whose visibility an
interrupt follows. -/
def devWriteAfter (s : State) (pa : Nat) (bs : List Byte) (from_ : Nat) (vec : Option Notice) : State × Nat :=
  let (s, tw) := arriveStoreFrom (touchWindows s pa) (lineOf pa) 0 (numbered (pa % 128) bs) from_ vec
  (examineHeld s (lineOf pa), tw)

/-- A record of 256 bits from fields given as lowest bit and value. -/
def record256 : List (Nat × Nat) → BitVec 256
  | [] => 0
  | (lo, v) :: fs => (BitVec.ofNat 256 v <<< lo) ||| record256 fs

/-- The bytes of a record of 256 bits. -/
def recordBytes (r : BitVec 256) : List Byte := leBytes 32 r.toNat

/-- R316: whether a ring has no room, from its control block. -/
def ringFull (s : State) (r : RingRef) : Bool :=
  let prod := leNat (readNewest s r.cb 4)
  let cons := leNat (readHome s (r.cb + 64) 4)
  (prod + 4294967296 - cons) % 4294967296 == 2 ^ r.log2

/-- R316: a record written to a ring of 32-byte records that has room; PROD rises once the write is complete, and the
vector is raised where PROD then stood at CONS. -/
def ringPost (s : State) (r : RingRef) (x : BitVec 256) : State :=
  let prod := leNat (readNewest s r.cb 4)
  let (s, tw) := devWrite s (r.base + 32 * (prod % 2 ^ r.log2)) (recordBytes x)
  (devWriteAfter s r.cb (leBytes 4 ((prod + 1) % 4294967296)) tw
    (r.vec.map (fun v => { vec := v, when_ := .ring (r.cb + 64) prod }))).1

/-- R316: the drop count of a ring rises by 1, saturating. -/
def ringDrop (s : State) (r : RingRef) : State :=
  let d := leNat (readNewest s (r.cb + 96) 4)
  (devWrite s (r.cb + 96) (leBytes 4 (if d < 4294967295 then d + 1 else d))).1

/-- R344: whether a post to a ring would reach a closed region. -/
def ringClosed (s : State) (r : RingRef) : Bool :=
  isClosed s r.cb || isClosed s (r.base + 32 * (leNat (readNewest s r.cb 4) % 2 ^ r.log2))

/-- R316: whether a post to a ring must wait, for room or for its region. -/
def ringBusy (s : State) (r : RingRef) : Bool := ringClosed s r || ringFull s r

/-- The sample ring, or the event ring, of a context. -/
def Context.ringOf (c : Context) (evt : Bool) : RingRef := if evt then c.evtRing else c.smpRing

/-- R316: a record for a ring that is open: dropped and counted where the ring is full. -/
def postOrDrop (s : State) (r : RingRef) (x : BitVec 256) : State :=
  if ringFull s r then ringDrop s r else ringPost s r x

/-- R316, R344: a record for a context's sample ring, or its event ring, which stalls while the ring's region is closed. -/
def ctxPost (s : State) (ctx : Nat) (evt : Bool) (x : BitVec 256) : State :=
  match s.ctxs.find ctx with
  | none => s
  | some c =>
    if ringClosed s (c.ringOf evt) then
      { s with ctxs := s.ctxs.put ctx { c with stallRecs := c.stallRecs ++ [(evt, x)] } }
    else postOrDrop s (c.ringOf evt) x

/-- R344: the stores and records that stalled on a region that has reopened go on, in order. -/
def postStalled (s : State) : State :=
  let s := s.stalled.foldl (fun s w => (storeLine s w.1 w.2.1 w.2.2).1) { s with stalled := [] }
  s.ctxs.keys.foldl (fun s k =>
    match s.ctxs.find k with
    | none => s
    | some c => c.stallRecs.foldl (fun s r => ctxPost s k r.1 r.2) { s with ctxs := s.ctxs.put k { c with stallRecs := [] } }) s

/-- Which ring of BAR0. -/
inductive BarRing | evt | dbg
deriving DecidableEq, Repr

/-- A BAR0 ring. -/
def BarRing.get (k : BarRing) (s : State) : DevRing :=
  match k with
  | .evt => s.evt
  | .dbg => s.dbg

/-- Replaces a BAR0 ring. -/
def BarRing.put (k : BarRing) (s : State) (r : DevRing) : State :=
  match k with
  | .evt => { s with evt := r }
  | .dbg => { s with dbg := r }

/-- R396: whether a BAR0 ring takes a record now. -/
def DevRing.room (r : DevRing) : Bool := r.en && decide (r.prod - r.cons ≠ BitVec.ofNat 32 (2 ^ r.log2))

/-- Where a BAR0 ring's next record goes. -/
def DevRing.nextPA (r : DevRing) : Nat := r.base + 32 * (r.prod.toNat % 2 ^ r.log2)

/-- R344, R396: whether a BAR0 ring takes a record now, in a region that is open. -/
def barRoom (s : State) (r : DevRing) : Bool := r.room && !isClosed s r.nextPA

/-- R184, R390: the producer index as the host reads it, which passes only records that are visible. -/
def DevRing.prodAt (r : DevRing) (dt : Nat) : W32 :=
  r.prod - BitVec.ofNat 32 (r.soon.dropWhile (fun t => decide (t ≤ dt))).length

/-- R184, R390, R396: writes a record to a BAR0 ring that has room; the vector is raised once it is visible. -/
def barWrite (k : BarRing) (s : State) (x : BitVec 256) : State :=
  let r := k.get s
  let (s, tw) := devWriteAfter s r.nextPA (recordBytes x) 0
    (some { vec := r.vec, when_ := .bar (k == .dbg) r.prod })
  k.put s { r with prod := r.prod + 1, soon := r.soon.dropWhile (fun t => decide (t ≤ s.dt)) ++ [tw] }

/-- The records the device event ring holds while it is full or disabled (R396). -/
def barHold : Nat := 4096

/-- R396: once a held record has gone, one EVENT_LOST for the dropped ones takes its place in the hold. -/
def DevRing.noteLost (r : DevRing) (dt : Nat) : DevRing :=
  if r.lost = 0 || decide (barHold ≤ r.held.length) then r
  else { r with lost := 0, held := r.held ++ [record256 [(192, dt), (8, r.lost % 2 ^ 24), (0, 0x59)]] }

/-- R396: posts held records of the device event ring, oldest first, while there is room. -/
def evtDrain : Nat → State → State
  | 0, s => s
  | n + 1, s =>
    match s.evt.held with
    | x :: xs =>
      if barRoom s s.evt then
        evtDrain n (barWrite .evt { s with evt := ({ s.evt with held := xs } : DevRing).noteLost s.dt } x)
      else s
    | [] => s

/-- Whether a record of a TYPE may be dropped when the hold is full (R396). -/
def droppable (ty : Nat) : Bool := ty == 0x55 || ty == 0x56 || ty == 0x57

/-- R390: the drop count of a ring rises by 1, saturating. -/
def DevRing.dropOne (r : DevRing) : DevRing :=
  { r with drop := if r.drop = BitVec.allOnes 32 then r.drop else r.drop + 1 }

/-- R396: whether the device event ring takes or holds a record now. -/
def evtTakes (s : State) : Bool := (barRoom s s.evt && s.evt.held.isEmpty) || decide (s.evt.held.length < barHold)

/-- R371, R396: posts a record. The device event ring holds it while there is no room, or drops one that may be
dropped once the hold is full; the debug event queue drops it, but while its region is closed. -/
def barPost (k : BarRing) (s : State) (x : BitVec 256) : State :=
  let r := k.get s
  if barRoom s r && r.held.isEmpty then barWrite k s x
  else
    match k with
    | .dbg => { s with dbg := if isClosed s r.nextPA then { r with held := r.held ++ [x] } else r.dropOne }
    | .evt =>
      if decide (r.held.length < barHold) || !droppable (x.toNat % 256) then { s with evt := { r with held := r.held ++ [x] } }
      else { s with evt := { r.dropOne with lost := r.lost + 1 } }

/-- R344: the records of the BAR0 rings that stalled on a closed region go on: those of the device event ring as far as
there is room. -/
def postHeld (s : State) : State :=
  let s := s.dbg.held.foldl (fun s x => barPost .dbg s x) { s with dbg := { s.dbg with held := [] } }
  evtDrain (s.evt.held.length + 2) s

end Sys2Proof.Machine
end

