-- ==== Sys2Proof/Machine/Translate.lean ====
section
/-! DEFINITION. Translate.lean: page walks, TLBs and the raising of page faults (R308 to R316). -/
namespace Sys2Proof.Machine

/-- The rights an access needs of a leaf (R310). -/
structure Need where
  r : Bool := false
  w : Bool := false
  x : Bool := false
  s : Bool := false
deriving DecidableEq, Repr

/-- What a walk returns (R310). -/
inductive WalkRes
  | leaf (lvl entryPA : Nat) (e : W64)
  | notPresent (lvl : Nat)
  | violation (lvl : Nat)
  /-- the entry at a physical address cannot be read yet (R332, R344) -/
  | stall (pa : Nat)
deriving DecidableEq, Repr

/-- What a translation answers; `bad` is a physical address past CAPLIVE or on a retired page (R338). -/
inductive Xlate
  | ok (pa : Nat)
  | notPresent (lvl : Nat)
  | violation
  | bad (pa : Nat)
  /-- the walk waits for an entry: its stack is reading it, or its region is closed -/
  | stall (pa : Nat)
deriving DecidableEq, Repr

/-- R308: the index of a virtual address at a level. -/
def vaIndex (va lvl : Nat) : Nat := if lvl = 5 then va / 2 ^ 63 % 512 else va / 2 ^ (13 + 10 * lvl) % 1024

/-- R309: PFN << 13 of an entry. -/
def ptePhys (e : W64) : Nat := (e.extractLsb' 13 43).toNat * 8192

/-- R309. -/
def pteV (e : W64) : Bool := e.getLsbD 0
/-- R309. -/
def pteLeaf (e : W64) : Bool := e.getLsbD 1
/-- R309, R310: a non-zero reserved field. -/
def pteReserved (e : W64) : Bool := e.extractLsb' 60 4 != 0 || e.extractLsb' 9 4 != 0

/-- R310: the bytes a leaf of a level maps, as a power of two. -/
def leafBits (lvl : Nat) : Nat := 13 + 10 * lvl

/-- R312: the key of a non-leaf entry in the walkers' cache. -/
def walkKey (va lvl : Nat) : Nat := va / 2 ^ (13 + 10 * lvl) * 8 + lvl

/-- The walkers' cached copy of a non-leaf entry (R312, R313). -/
def walkCached (d : Die) (ctx key : Nat) : Option W64 :=
  (d.walkC.find? (fun e => e.1 == ctx && e.2.1 == key)).map (·.2.2)

/-- What the read of an entry answers (R310, R332, R335). -/
inductive EntryRead
  | word (e : W64)
  /-- the stack cannot correct it, or it is past the live capacity -/
  | bad
  /-- its region is closed, or it must come from its stack first -/
  | stall
deriving DecidableEq, Repr

/-- R310, R311: the entry read at its home slice, as it stands there, or, once the walk has restarted, as its latest store
left it. -/
def readEntry (s : State) (again : Bool) (pa : Nat) : EntryRead :=
  if badPhys s pa then .bad
  else if isClosed s pa || needsFill s (lineOf pa) then .stall
  else if lostGranule s pa then .bad
  else .word (BitVec.ofNat 64 (leNat (if again then readNewest s pa 8 else readHome s pa 8)))

/-- R310: a walk from a table at a level, with the walkers' cache of a die; the non-leaf entries it read. -/
def walkFrom (s : State) (again : Bool) (d : Die) (ctx va : Nat) : Nat → Nat → WalkRes × List (Nat × W64)
  | t, 0 =>
    let pa := t + 8 * vaIndex va 0
    match readEntry s again pa with
    | .bad => (.violation 0, [])
    | .stall => (.stall pa, [])
    | .word e =>
      if !pteV e then (.notPresent 0, [])
      else if pteReserved e || !pteLeaf e then (.violation 0, [])
      else (.leaf 0 pa e, [])
  | t, lvl + 1 =>
    let pa := t + 8 * vaIndex va (lvl + 1)
    let key := walkKey va (lvl + 1)
    match (match walkCached d ctx key with | some e => EntryRead.word e | none => readEntry s again pa) with
    | .bad => (.violation (lvl + 1), [])
    | .stall => (.stall pa, [])
    | .word e =>
      if !pteV e then (.notPresent (lvl + 1), [])
      else if pteReserved e then (.violation (lvl + 1), [])
      else if pteLeaf e then
        if 2 < lvl + 1 || ptePhys e % 2 ^ leafBits (lvl + 1) != 0 then (.violation (lvl + 1), [])
        else (.leaf (lvl + 1) pa e, [])
      else
        let (r, es) := walkFrom s again d ctx va (ptePhys e) lvl
        (r, (key, e) :: es)

/-- R310: whether a leaf grants what an access needs. -/
def leafGrants (priv : Bool) (e : W64) (n : Need) : Bool :=
  (!n.r || e.getLsbD 2) && (!n.w || e.getLsbD 3) && (!n.x || e.getLsbD 4) && (!n.s || e.getLsbD 5)
    && (!e.getLsbD 6 || priv)

/-- A TLB entry that covers an address (R312). -/
def tlbFind (l : List TlbEntry) (ctx va : Nat) : Option TlbEntry :=
  l.find? (fun e => e.ctx == ctx && e.vpn == va / 2 ^ e.size)

/-- A list with an element brought to the front, cut to a capacity. -/
def pushFront {α : Type} (cap : Nat) (x : α) (l : List α) : List α := (x :: l).take cap

/-- R311: the bits of a leaf that A and D set, for an access that writes or not. -/
def adBits (w : Bool) : W64 := 0x80 ||| (if w then 0x100 else 0)

/-- R311: the leaf as it stands when the OR is performed, whose stores have all taken their Tw. -/
def entryAt (s : State) (pa : Nat) : W64 := BitVec.ofNat 64 (leNat (readNewest s pa 8))

/-- R311: whether the OR meets an entry without V, or with another PFN or other rights than the walk read. -/
def entryMoved (walked now : W64) : Bool := !pteV now || (walked ^^^ now) &&& ~~~(0x180 : W64) != 0

/-- R311: the atomic OR of A, and of D where the access writes, into a leaf at its home slice. -/
def setAD (s : State) (pa : Nat) (w : Bool) : State × W64 :=
  let e := entryAt s pa
  let e' := e ||| adBits w
  if e' = e then (s, e)
  else ((devWrite s pa ((leBytes 8 e'.toNat).take 2)).1, e')

/-- Changes a die. -/
def updDie (s : State) (d : Nat) (f : Die → Die) : State := { s with dies := changeAt s.dies d f }

/-- A core unit. -/
def coreUnit (s : State) (u : Nat) : CoreUnit := SMap.getD s.cores u {}

/-- Changes a core unit. -/
def updCore (s : State) (u : Nat) (f : CoreUnit → CoreUnit) : State :=
  { s with cores := s.cores.put u (f (coreUnit s u)) }

/-- R312: caches a translation in the unit's and the die's TLB. -/
def tlbFill (s : State) (u : Option Nat) (d : Nat) (t : TlbEntry) : State :=
  let drop (l : List TlbEntry) : List TlbEntry :=
    l.filter (fun e => !(e.ctx == t.ctx && e.size == t.size && e.vpn == t.vpn))
  let s := updDie s d (fun x => { x with tlb := pushFront 16384 t (drop x.tlb) })
  match u with
  | some c => updCore s c (fun x => { x with tlb := pushFront 128 t (drop x.tlb) })
  | none => s

/-- The physical address of a leaf (R310). -/
def leafPA (e : W64) (size va : Nat) : Nat := ptePhys e + va % 2 ^ size

/-- The answer for a physical address (R338). -/
def physAnswer (s : State) (pa : Nat) : Xlate := if badPhys s pa then .bad pa else .ok pa

/-- R310, R311: a walk from a context's root; for a demand access one whose leaf the OR finds changed is made again. -/
def walkOf (s : State) (d : Die) (ctx va root : Nat) (demand : Bool) : WalkRes × List (Nat × W64) :=
  match walkFrom s false d ctx va root 5 with
  | (.leaf lvl pa e, es) =>
    if demand && entryMoved e (entryAt s pa) then walkFrom s true { d with walkC := [] } ctx va root 5 else (.leaf lvl pa e, es)
  | r => r

/-- R310 to R313: translates a virtual address of a context for a unit of a die. A demand access sets A and D. -/
def translate (s : State) (u : Option Nat) (d ctx va : Nat) (need : Need) (demand : Bool) : Xlate × State :=
  match s.ctxs.find ctx with
  | none => (.violation, s)
  | some c =>
    let die := (s.dies[d]?).getD {}
    let hit := match (u.bind (fun k => tlbFind (coreUnit s k).tlb ctx va)) with
      | some e => some e
      | none => tlbFind die.tlb ctx va
    match hit.filter (fun e => !demand || e.leaf &&& adBits need.w == adBits need.w) with
    | some e =>
      if leafGrants c.priv e.leaf need then (physAnswer s (leafPA e.leaf e.size va), s) else (.violation, s)
    | none =>
      let (r, es) := walkOf s die ctx va c.root demand
      let s := updDie s d (fun x =>
        { x with walkC := es.foldl (fun l e =>
            pushFront 1024 (ctx, e.1, e.2) (l.filter (fun q => !(q.1 == ctx && q.2.1 == e.1)))) x.walkC })
      match r with
      | .notPresent lvl => (.notPresent lvl, s)
      | .violation _ => (.violation, s)
      | .stall pa => (.stall pa, if isClosed s pa then s else askFill s (lineOf pa))
      | .leaf lvl pa e =>
        if !leafGrants c.priv e need then (.violation, s)
        else
          let (s, e) := if demand then setAD s pa need.w else (s, e)
          let size := leafBits lvl
          let s := tlbFill s u d { ctx := ctx, size := size, vpn := va / 2 ^ size, leaf := e }
          (physAnswer s (leafPA e size va), s)

/-- A translation's answer without its effects, for checks made before an access (R356, R359). -/
def peek (s : State) (u : Option Nat) (d ctx va : Nat) : Option Nat :=
  match (translate s u d ctx va {} false).1 with
  | .ok pa => some pa
  | _ => none

/-- The requester's fields of a fault record (R314). -/
structure Requester where
  ekind : Nat
  eid   : Nat
  queue : Nat
  cseq  : W32
  path  : Nat
  acc   : Nat
deriving DecidableEq, Repr

/-- R314: EKIND codes. -/
def EKind.code : EKind → Nat
  | .core => 0 | .control => 1 | .matrix => 2 | .copy => 3 | .well => 4 | .pump => 5 | .service => 6 | .sync => 7

/-- R314: a fault record. -/
def faultRecord (s : State) (ctx va tag lvl : Nat) (q : Requester) : BitVec 256 :=
  record256 [(192, s.dt), (120, va), (108, ctx), (96, q.queue % 4096), (64, q.cseq.toNat), (60, q.ekind),
    (48, q.eid), (32, tag), (24, q.path), (20, q.acc), (16, lvl), (0, 0x41)]

/-- Changes a context. -/
def updCtx (s : State) (ctx : Nat) (f : Context → Context) : State := { s with ctxs := s.ctxs.change ctx f }

/-- R377: whether a context belongs to a scope that QUIESCE has stopped. -/
def quiesced (s : State) (ctx : Nat) : Bool := s.scopes.any (fun p => p.2.device || p.2.ctxs.contains ctx)

/-- R377: whether the cut of a scope that holds a context has been made. -/
def cutMade (s : State) (ctx : Nat) : Bool :=
  s.scopes.any (fun p => (p.2.device || p.2.ctxs.contains ctx) && p.2.state != .stopping)

/-- R162: the bytes of a context's sump that are free. -/
def sumpFree (c : Context) : Nat := c.sumpSize - c.sumpUsed

/-- R316: the oldest fault of a context that is neither posted nor in its pending-fault list. -/
def Context.unposted (c : Context) : Option Nat :=
  leastBy (fun t => ((c.faults.find t).map (·.ord)).getD 0)
    ((c.faults.filter (fun p => !p.2.posted && !c.pendFlt.contains p.1)).map (·.1))

/-- R316: posts a fault record, or holds it in the sump's pending-fault list, or leaves it unposted; an older one that is
unposted goes first. -/
def postFault (s : State) (ctx tag : Nat) : State :=
  match s.ctxs.find ctx with
  | none => s
  | some c =>
    match c.faults.find tag with
    | none => s
    | some f =>
      if c.unposted != some tag then s
      else if c.pendFlt.isEmpty && !ringBusy s c.fltRing then
        let s := ringPost s c.fltRing f.record
        updCtx s ctx (fun c => { c with faults := c.faults.put tag { f with posted := true } })
      else if 32 ≤ sumpFree c then
        updCtx s ctx (fun c => { c with pendFlt := c.pendFlt ++ [tag], sumpUsed := c.sumpUsed + 32 })
      else s

/-- The lowest fault tag that is free. -/
def freeTag (m : SMap FaultRec) : Nat → Nat → Option Nat
  | 0, _ => none
  | n + 1, t => if (m.find t).isNone then some t else freeTag m n (t + 1)

/-- R314, R316: a request that met a not-present page joins the outstanding fault of the page, or raises one; none
while no tag is free. -/
def joinFault (s : State) (ctx va lvl : Nat) (q : Requester) : Option Nat × State :=
  match s.ctxs.find ctx with
  | none => (none, s)
  | some c =>
    let page := va / 8192
    match c.faults.find? (fun p => p.2.page == page) with
    | some p => (some p.1, s)
    | none =>
      match freeTag c.faults (c.faults.length + 1) 0 with
      | some tag =>
        if 65536 ≤ tag then (none, s)
        else
          let f : FaultRec :=
            { page := page, record := faultRecord s ctx va tag lvl q, posted := false
              ord := maxOf (c.faults.vals.map (·.ord)) + 1 }
          let s := updCtx s ctx (fun c => { c with faults := c.faults.put tag f })
          (some tag, postFault s ctx tag)
      | none => (none, s)

end Sys2Proof.Machine
end

