-- ==== Sys2Proof/Machine/Regs.lean ====
section
/-! DEFINITION. Regs.lean: the named file with its rows and spills, the result queue, predicates, scalars and buffer
records (R61 to R80), and the updates of crews and splits that everything else is written with. -/
namespace Sys2Proof.Machine

/-- Changes a crew. -/
def updCrew (s : State) (cid : Nat) (f : Crew → Crew) : State := { s with crews := s.crews.change cid f }

/-- Changes a cohort. -/
def updCohort (s : State) (k : Nat) (f : Cohort → Cohort) : State := { s with cohorts := s.cohorts.change k f }

/-- Changes an access in flight. -/
def updAcc (s : State) (a : Nat) (f : Access → Access) : State := { s with accs := s.accs.change a f }

/-- A split of a crew. -/
def Crew.split (cr : Crew) (sid : Nat) : Option Split := cr.splits.find? (fun sp => sp.id == sid)

/-- Changes a split of a crew. -/
def Crew.updSplit (cr : Crew) (sid : Nat) (f : Split → Split) : Crew :=
  { cr with splits := cr.splits.map (fun sp => if sp.id = sid then f sp else sp) }

/-- Changes a split. -/
def updSplit (s : State) (cid sid : Nat) (f : Split → Split) : State := updCrew s cid (fun cr => cr.updSplit sid f)

/-- The rows of a register of a crew (R67). -/
def rowsOf (w0 : Nat) : Nat := (2 ^ w0 + 31) / 32

/-- The row intervals in use on a core unit (R67). -/
def usedRows (s : State) (u : Nat) : List (Nat × Nat) :=
  s.crews.vals.flatMap (fun cr =>
    if unitOf s cr == u && cr.state != .saved then
      cr.rmap.vals.filterMap (fun p => match p with
        | .resident row n => some (row, n)
        | .spilled _ _ _ _ => none)
    else [])

/-- The lowest run of n free rows (log entry 8). -/
def findRows (used : List (Nat × Nat)) (n : Nat) : Option Nat :=
  let free (r : Nat) : Bool := decide (r + n ≤ 4096) && used.all (fun p => decide (p.1 + p.2 ≤ r) || decide (r + n ≤ p.1))
  leastBy (fun r => r) ((0 :: used.map (fun p => p.1 + p.2)).filter free)

/-- R67: rows for a register that is not live; none while the core has too few. -/
def allocRow (s : State) (cid r : Nat) : Option State :=
  match s.crews.find cid with
  | none => none
  | some cr =>
    match cr.rmap.find r with
    | some _ => some s
    | none =>
      let n := rowsOf cr.w0
      match findRows (usedRows s (unitOf s cr)) n with
      | none => none
      | some row => some (updCrew s cid (fun cr => { cr with rmap := cr.rmap.put r (.resident row n) }))

/-- Rows for each of several registers. -/
def allocRows (s : State) (cid : Nat) : List Nat → Option State
  | [] => some s
  | r :: rs =>
    match allocRow s cid r with
    | none => none
    | some s => allocRows s cid rs

/-- Writes lanes of a named register: each becomes live and full (R67, R73). -/
def Crew.writeReg (cr : Crew) (r : Nat) : List (Nat × W32) → Crew
  | [] => cr
  | (l, v) :: vs =>
    Crew.writeReg { cr with regs := cr.regs.put (regKey r l) { val := v, full := true } } r vs

/-- Marks lanes of a named register empty for an access (R73). -/
def Crew.emptyReg (cr : Crew) (r acc : Nat) : List Nat → Crew
  | [] => cr
  | l :: ls =>
    Crew.emptyReg { cr with regs := cr.regs.put (regKey r l) { val := cr.named r l, full := false, pend := some acc } } r acc ls

/-- Marks lanes of several named registers empty for an access. -/
def Crew.emptyRegs (cr : Crew) (acc : Nat) (ls : List Nat) : List Nat → Crew
  | [] => cr
  | r :: rs => Crew.emptyRegs (cr.emptyReg r acc ls) acc ls rs

/-- Whether any lane of a register is live in the register file. -/
def Crew.hasCells (cr : Crew) (r : Nat) : Bool := cr.regs.any (fun p => p.1 / 1024 == r)

/-- R68: frees the registers that `keep` does not name, in some lanes. -/
def Crew.freeRegs (cr : Crew) (lanes : List Nat) (keep : Nat → Bool) : Crew :=
  let regs := cr.regs.filter (fun p => keep (p.1 / 1024) || !lanes.contains (p.1 % 1024))
  let m := maskOf lanes
  let cr := { cr with regs := regs }
  { cr with rmap := cr.rmap.filterMap (fun p =>
      match p.2 with
      | .resident _ _ => if cr.hasCells p.1 then some p else none
      | .spilled f live b fl =>
        let live' := if keep p.1 then live else live &&& ~~~m
        if live' = 0 then none else some (p.1, .spilled f live' b fl)) }

/-- R87: whether LIVE marks a register live-in. -/
def liveIn (live : BitVec 16) (r : Nat) : Bool := live.getLsbD (r / 4)

/-- The entry of a lane of a queue row, in the canonical form that lists no zero. -/
def qrow : List (Nat × W64) → SMap W64
  | [] => []
  | (l, v) :: vs => if v = 0 then qrow vs else (qrow vs).put l v

/-- R62: pushes one entry in every lane: the result where the guard is true, a copy of q0 elsewhere. -/
def Split.push (sp : Split) (lanes : List Nat) (vals : List (Nat × W64)) : Split :=
  let row := qrow (lanes.map (fun l =>
    (l, match vals.find? (fun p => p.1 == l) with
        | some p => p.2
        | none => sp.qread 0 l)))
  { sp with queue := (row :: sp.queue).take 16 }

/-- Replaces a scalar or a pair of scalars (R78). -/
def Crew.writeScalar (cr : Crew) (n : Nat) (w : Width) (v : W64) : Crew :=
  match w with
  | .w32 => { cr with scalars := setAt cr.scalars n (lo32 v) }
  | _ => { cr with scalars := setAt (setAt cr.scalars n (lo32 v)) (n + 1) (hi32 v) }

/-- R79: writes a predicate in some lanes; writes of p7 are ignored. -/
def Split.writePred (sp : Split) (p : Nat) (vals : List (Nat × Bool)) : Split :=
  if p = 7 then sp
  else
    let on := maskOf ((vals.filter (·.2)).map (·.1))
    let off := maskOf ((vals.filter (fun x => !x.2)).map (·.1))
    { sp with preds := changeAt sp.preds p (fun m => (m &&& ~~~off) ||| on) }

/-- R62, R66, R78: what an instruction of class Q writes: its destination and one entry of the queue. -/
def writeQ (s : State) (cid sid : Nat) (d : Dest) (w : Width) (lanes : List Nat) (vals : List (Nat × W64)) : State :=
  let vals := vals.map (fun p => (p.1, cutTo w p.2))
  match d with
  | .push => updSplit s cid sid (fun sp => sp.push lanes vals)
  | .named n =>
    updCrew s cid (fun cr =>
      let cr := cr.writeReg n.toNat (vals.map (fun p => (p.1, lo32 p.2)))
      let cr := if w = .w64 then cr.writeReg (n.toNat + 1) (vals.map (fun p => (p.1, hi32 p.2))) else cr
      cr.updSplit sid (fun sp => sp.push lanes vals))
  | .scalar n =>
    match vals with
    | [] => updSplit s cid sid (fun sp => sp.push lanes [])
    | (_, v) :: _ =>
      updCrew s cid (fun cr =>
        (cr.writeScalar n.toNat w v).updSplit sid (fun sp => sp.push lanes (vals.map (fun p => (p.1, v)))))

/-- R123: sets sticky flags of a crew. -/
def addFlags (s : State) (cid : Nat) (f : Flags) : State := updCrew s cid (fun cr => { cr with fpflags := cr.fpflags ||| f })

/-- A buffer record register of a crew. -/
def Crew.record (cr : Crew) (b : Nat) : RecordReg := cr.recs.getD b {}

-- spilling (R69 to R72)

/-- The live lanes of a resident register with their values. -/
def Crew.liveVals (cr : Crew) (r : Nat) : List (Nat × W32) :=
  cr.regs.filterMap (fun p => if p.1 / 1024 = r then some (p.1 % 1024, p.2.val) else none)

/-- The stride of an affine register: from two live lanes, some stride with v(l) = base + l·stride (R70). It is
sought among the strides that two lanes allow: the difference of their values divided by that of their indices,
modulo 2^32. -/
def affineFit (vs : List (Nat × W32)) : Option (W32 × W32) :=
  match vs with
  | [] => some (0, 0)
  | [(l, v)] => some (v - BitVec.ofNat 32 l * 0, 0)
  | (l0, v0) :: (l1, v1) :: _ =>
    -- l1 > l0: solve d·x = v1 - v0 modulo 2^32 with d = l1 - l0 = 2^k·odd
    let d := l1 - l0
    let k := (List.range 11).foldl (fun a i => if d % 2 ^ i = 0 then i else a) 0
    let odd := d / 2 ^ k
    -- the inverse of an odd number modulo 2^32 by five Newton steps
    let inv := (List.range 5).foldl (fun (x : Nat) _ => x * (2 * 2 ^ 32 + 2 - odd * x % 2 ^ 32) % 2 ^ 32) odd
    let diff := (v1 - v0).toNat
    if diff % 2 ^ k ≠ 0 then none
    else
      let base0 := diff / 2 ^ k * inv % 2 ^ (32 - k)
      let cand := (List.range (2 ^ k)).map (fun j => BitVec.ofNat 32 (base0 + j * 2 ^ (32 - k)))
      (cand.find? (fun st => vs.all (fun p => p.2 == v0 + (BitVec.ofNat 32 p.1 - BitVec.ofNat 32 l0) * st))).map
        (fun st => (v0 - BitVec.ofNat 32 l0 * st, st))

/-- R70: the first format that represents every live lane, with the bytes moved. -/
def packReg (w0 : Nat) (vs : List (Nat × W32)) : SpillFmt × List Byte :=
  let at_ (l : Nat) : W32 := match vs.find? (fun p => p.1 == l) with | some p => p.2 | none => 0
  let lanes := List.range (2 ^ w0)
  match vs with
  | [] => (.uniform, leBytes 4 0)
  | (_, v) :: _ =>
    if vs.all (fun p => p.2 == v) then (.uniform, leBytes 4 v.toNat)
    else
      match affineFit vs with
      | some (b, st) => (.affine, leBytes 4 b.toNat ++ leBytes 4 st.toNat)
      | none =>
        if vs.all (fun p => (p.2.setWidth 8).signExtend 32 == p.2) then
          (.narrow8, lanes.map (fun l => (at_ l).setWidth 8))
        else if vs.all (fun p => (p.2.setWidth 16).signExtend 32 == p.2) then
          (.narrow16, lanes.flatMap (fun l => leBytes 2 (at_ l).toNat))
        else (.raw, lanes.flatMap (fun l => leBytes 4 (at_ l).toNat))

/-- R70: the value of a lane of a packed register. -/
def unpackLane (f : SpillFmt) (bs : List Byte) (l : Nat) : W32 :=
  let word (i n : Nat) : Nat := leNat ((bs.drop i).take n)
  match f with
  | .uniform => BitVec.ofNat 32 (word 0 4)
  | .affine => BitVec.ofNat 32 (word 0 4) + BitVec.ofNat 32 l * BitVec.ofNat 32 (word 4 4)
  | .narrow8 => (BitVec.ofNat 8 (word l 1)).signExtend 32
  | .narrow16 => (BitVec.ofNat 16 (word (2 * l) 2)).signExtend 32
  | .raw => BitVec.ofNat 32 (word (4 * l) 4)

/-- R69: whether a register may be evicted: it has rows, and is full in every lane. -/
def Crew.spillable (cr : Crew) (r : Nat) : Bool :=
  (match cr.rmap.find r with | some (.resident _ _) => true | _ => false)
    && cr.regs.all (fun p => p.1 / 1024 != r || p.2.full)

/-- R70: a register moves to its sump slot; failed marks (R326) stay with their lanes. -/
def Crew.spillReg (cr : Crew) (r : Nat) : Crew :=
  let vs := cr.liveVals r
  let (f, bs) := packReg cr.w0 vs
  let fl := cr.regs.filterMap (fun p =>
    if p.1 / 1024 = r then p.2.failed.map (fun a => (p.1 % 1024, a)) else none)
  { cr with regs := cr.regs.filter (fun p => p.1 / 1024 != r)
            rmap := cr.rmap.put r (.spilled f (maskOf (vs.map (·.1))) bs fl) }

/-- Marks lanes of a register failed with physical addresses (R335). -/
def Crew.failReg (cr : Crew) (r : Nat) : List (Nat × Nat) → Crew
  | [] => cr
  | (l, a) :: ps =>
    Crew.failReg { cr with regs := cr.regs.change (regKey r l) (fun c => { c with failed := some a }) } r ps

/-- R72: a spilled register comes back into rows from `row`. -/
def Crew.fillReg (cr : Crew) (r row : Nat) : Crew :=
  match cr.rmap.find r with
  | some (.spilled f live bs fl) =>
    let cr := { cr with rmap := cr.rmap.put r (.resident row (rowsOf cr.w0)) }
    (cr.writeReg r ((maskLanes live (2 ^ cr.w0)).map (fun l => (l, unpackLane f bs l)))).failReg r fl
  | _ => cr

/-- Whether a register of a crew is spilled. -/
def Crew.isSpilled (cr : Crew) (r : Nat) : Bool :=
  match cr.rmap.find r with
  | some (.spilled _ _ _ _) => true
  | _ => false

/-- R72: whether a write of some lanes covers every live lane of a spilled register. -/
def Crew.covers (cr : Crew) (r : Nat) (lanes : List Nat) : Bool :=
  match cr.rmap.find r with
  | some (.spilled _ live _ _) => (maskLanes live (2 ^ cr.w0)).all (fun l => lanes.contains l)
  | _ => true

/-- R70: the code of a format in a 3-bit tag. -/
def SpillFmt.tag : SpillFmt → BitVec 3
  | .raw => 0b000
  | .uniform => 0b001
  | .affine => 0b010
  | .narrow8 => 0b011
  | .narrow16 => 0b100

/-- R71: the register map entry of a named register. -/
def Crew.mapEntry (cr : Crew) (r : Nat) : W32 :=
  let pend : BitVec 1 := if cr.regs.any (fun p => p.1 / 1024 == r && !p.2.full) then 1 else 0
  match cr.rmap.find r with
  | none => (0b00 : BitVec 2) ++ (0b111 : BitVec 3) ++ pend ++ (0 : BitVec 26)
  | some (.resident row n) =>
    (0b01 : BitVec 2) ++ (0b111 : BitVec 3) ++ pend ++ (0 : BitVec 2) ++ BitVec.ofNat 12 row ++ (0 : BitVec 1)
      ++ BitVec.ofNat 5 (n - 1) ++ (0 : BitVec 6)
  | some (.spilled f _ _ _) => (0b10 : BitVec 2) ++ f.tag ++ pend ++ (0 : BitVec 26)

/-- R161, R162: where a crew's slot for a register starts in its context's sump (log entry 52). -/
def Context.slotAddr (c : Context) (cr : Crew) (r : Nat) : Nat :=
  c.sumpBase + Config.sumpSlot cr.cid r % (c.sumpSize + 1 - 4 * cr.width)

/-- R330: where a crew's words start in its context's save area (log entry 52). -/
def Context.saveAddr (c : Context) (cr : Crew) : Nat := c.saveBase + Config.saveSlot cr.cid % Nat.max 1 (c.saveSize - 256)

/-- R70: the spill engine moves a register to its slot, whose bytes it writes. -/
def spillTo (s : State) (cid r : Nat) : State :=
  match s.crews.find cid with
  | none => s
  | some cr =>
    let s := match s.ctxs.find cr.ctx with
      | some c => (devWrite s (c.slotAddr cr r) (packReg cr.w0 (cr.liveVals r)).2).1
      | none => s
    updCrew s cid (fun c => c.spillReg r)

/-- R69, R330: every register of a crew that may be evicted goes to its sump slot. -/
def spillAll (s : State) (cid : Nat) : State :=
  match s.crews.find cid with
  | none => s
  | some cr => cr.rmap.keys.foldl (fun s r => if cr.spillable r then spillTo s cid r else s) s

/-- R71, R330: the words of a saved crew are written to its context's save area: its 64 register map entries, and what
the rest of R330's list comes to. -/
def writeSaveArea (s : State) (cid : Nat) : State :=
  match s.crews.find cid with
  | none => s
  | some cr =>
    match s.ctxs.find cr.ctx with
    | none => s
    | some c =>
      let bs := (List.range 64).flatMap (fun r => leBytes 4 (cr.mapEntry r).toNat)
        ++ Config.saveBytes cr (s.cohorts.find cr.cohort) (s.spgrow.filter (fun p => p.cohort == cr.cohort))
      (devWrite s (c.saveAddr cr) (bs.take (c.saveBase + c.saveSize - c.saveAddr cr))).1

/-- R70, R71, R76, R330: the registers of a saved crew go to their slots, and its words to the save area; a result that
arrives while it is saved is written there too. -/
def saveWords (s : State) (cid : Nat) : State := writeSaveArea (spillAll s cid) cid

/-- R335: whether a granule of physical memory that n bytes from an address touch is failed. -/
def rangeFailed (s : State) (pa n : Nat) : Bool :=
  (List.range ((pa % 64 + n + 63) / 64)).any (fun i => failedGranule s ((pa / 64 + i) * 64))

/-- R332: the lines of a range that must be read from their stacks before the range can be. -/
def rangeFills (s : State) (pa n : Nat) : List Nat :=
  ((List.range ((pa + n - 1) / 128 + 1 - pa / 128)).map (· + pa / 128)).filter (needsFill s)

/-- R332: the lines of a spilled register's slot that must be read from their stacks first. -/
def slotFills (s : State) (cr : Crew) (r : Nat) : List Nat :=
  match s.ctxs.find cr.ctx, cr.rmap.find r with
  | some c, some (.spilled _ _ bs _) => rangeFills s (c.slotAddr cr r) bs.length
  | _, _ => []

/-- R335: whether the spilled copy of a register lies in a failed granule. -/
def slotFailed (s : State) (cr : Crew) (r : Nat) : Bool :=
  match s.ctxs.find cr.ctx, cr.rmap.find r with
  | some c, some (.spilled _ _ bs _) => rangeFailed s (c.slotAddr cr r) bs.length
  | _, _ => false

/-- R72: a covering write discards the spilled copy. -/
def Crew.dropSpill (cr : Crew) (r : Nat) : Crew :=
  if cr.isSpilled r then { cr with rmap := cr.rmap.del r } else cr

/-- R69, R72: whether rows are free for registers of a crew that a write makes resident. -/
def rowsFree (s : State) (cid : Nat) (regs : List Nat) : Bool :=
  (allocRows (updCrew s cid (fun c => regs.foldl Crew.dropSpill c)) cid regs).isSome

end Sys2Proof.Machine
end

