-- ==== Sys2Proof/Machine/Caches.lean ====
section
/-! DEFINITION. Caches.lean: the L1 and fused L1 (R147, R148), the L2 slices with their lease horizons (R149, R167),
instruction caches (R186), and the dispatch trace of repeatable mode (R361 to R363). -/
namespace Sys2Proof.Machine

/-- The 12 most recent lines of a set, with one brought to the front; the other sets unchanged. Lines are listed
most recent first. -/
def setInsert {α : Type} (lineNo : α → Nat) (sets ways : Nat) (x : α) (l : List α) : List α :=
  let same (y : α) : Bool := lineNo y % sets == lineNo x % sets
  let others := l.filter (fun y => !same y)
  let mine := (l.filter (fun y => same y && lineNo y != lineNo x)).take (ways - 1)
  x :: (mine ++ others)

/-- R148: the core unit whose L1 holds a physical line for a crew. -/
def l1Unit (s : State) (cr : Crew) (pa : Nat) : Nat :=
  let u := unitOf s cr
  match (s.cohorts.find cr.cohort).bind (·.group) with
  | some _ => if u < 256 then u / 4 * 4 + ((pa / 128 % 4) ^^^ (pa / 2048 % 4)) else u
  | none => u

/-- A line held by a unit's L1. -/
def l1Find (s : State) (u line : Nat) : Option CLine := (coreUnit s u).l1.find? (fun e => e.line == line)

/-- R147: a line enters an L1 with its lease. -/
def l1Fill (s : State) (u : Nat) (e : CLine) : State :=
  updCore s u (fun c => { c with l1 := setInsert (·.line) 128 12 e c.l1 })

/-- R147: a store drops the core's copy of its line. -/
def l1Drop (s : State) (u line : Nat) : State :=
  updCore s u (fun c => { c with l1 := c.l1.filter (fun e => e.line != line) })

/-- R166: lease_ok(line, D + 2). -/
def leaseOk (e : CLine) (d : Nat) : Bool := decide (d + 2 < e.exp)

/-- R167: a line enters its slice's L2, or becomes its most recent; a line that leaves with a live lease raises the
slice's eviction horizon. -/
def l2Touch (s : State) (line : Nat) : State :=
  let sl := homeSlice s (line * 128)
  let l := SMap.getD s.l2 sl []
  let s := if l.contains line then s
    else { s with homes := s.homes.put line { homeOf s line with h := SMap.getD s.he sl 0 } }
  let l' := setInsert (fun x => x / 32) 2048 12 line l
  let gone := l.filter (fun x => !l'.contains x)
  let he := gone.foldl (fun (a : Nat) x => Nat.max a (homeOf s x).h) (SMap.getD s.he sl 0)
  { s with l2 := s.l2.put sl l', he := if gone.isEmpty then s.he else s.he.put sl he }

/-- R166: the home grants a lease on a line in its L2: the expiry, with the horizon raised. -/
def grantLease (s : State) (line len : Nat) : State × Nat :=
  let e := homeDT s line + len
  let h := homeOf s line
  ({ s with homes := s.homes.put line { h with h := Nat.max h.h e } }, e)

/-- R166: whether a store to a line is pending at its home. -/
def pendingAt (s : State) (line : Nat) : Bool := !(homeOf (settle s line) line).pending.isEmpty

/-- A line of an instruction cache. -/
def icFind (s : State) (u ctx vline : Nat) : Option ILine :=
  (coreUnit s u).icache.find? (fun e => e.ctx == ctx && e.vline == vline)

/-- The launch that a crew's code comes from. -/
def launchOf (s : State) (cr : Crew) : Option Launch :=
  match cr.engine with
  | .service => s.service
  | _ => (s.cohorts.find cr.cohort).bind (fun c => s.launches.find c.launch)

/-- R88: whether a split of a crew runs in a LOOP block that a code line belongs to. -/
def Crew.loopsIn (cr : Crew) (seg vline : Nat) : Bool :=
  cr.splits.any (fun sp =>
    match sp.block, sp.place with
    | some b, .word _ =>
      b.kind == .loop && decide ((seg + b.off) / 128 ≤ vline) && decide (vline ≤ (seg + b.off + 8 * b.len + 7) / 128)
    | _, _ => false)

/-- R88: whether a code line of a core unit stays resident for a split that runs in its LOOP block. -/
def loopHolds (s : State) (u : Nat) (x : ILine) : Bool :=
  s.crews.any (fun p => unitOf s p.2 == u && p.2.ctx == x.ctx
    && (launchOf s p.2).any (fun ln => p.2.loopsIn ln.seg x.vline))

/-- R28, R88: a line enters an instruction cache of 128 KiB; the lines of LOOP blocks that splits run in stay. -/
def icFill (s : State) (u : Nat) (e : ILine) : State :=
  updCore s u (fun c =>
    let l := c.icache.filter (fun x => !(x.ctx == e.ctx && x.vline == e.vline))
    let held := if l.length < 1024 then [] else (l.filter (loopHolds s u)).take 1023
    { c with icache := e :: ((l.filter (fun x => !held.contains x)).take (1023 - held.length) ++ held) })

-- the dispatch trace

/-- Whether a context runs in repeatable mode (R353). -/
def repeatable (s : State) (ctx : Nat) : Bool :=
  match s.ctxs.find ctx with
  | some c => c.mode != .off
  | none => false

/-- R361: records an event in RECORD; the record that fills the area sets OVF. -/
def traceEvent (s : State) (ctx : Nat) (fields : List (Nat × Nat)) : State :=
  match s.ctxs.find ctx with
  | none => s
  | some c =>
    if c.mode != .record || c.ovf then s
    else if c.trSize < 32 * (c.trCount + 1) then updCtx s ctx (fun c => { c with ovf := true })
    else
      let (s, _) := devWrite s (c.trBase + 32 * c.trCount) (recordBytes (record256 ((192, s.dt) :: fields)))
      updCtx s ctx (fun c => { c with trCount := c.trCount + 1, ovf := decide (c.trSize < 32 * (c.trCount + 2)) })

/-- A record of the trace area, by event index. -/
def traceRec (s : State) (c : Context) (i : Nat) : BitVec 256 :=
  BitVec.ofNat 256 (leNat (readPhys s (c.trBase + 32 * i) 32))

/-- A field of a record: `n` bits from `lo`. -/
def recField (r : BitVec 256) (lo n : Nat) : Nat := r.toNat / 2 ^ lo % 2 ^ n

/-- R363: the head of a stream of the trace: the first record not yet matched of those that satisfy a test. -/
def traceHead (s : State) (ctx : Nat) (p : BitVec 256 → Bool) : Option (Nat × BitVec 256) :=
  match s.ctxs.find ctx with
  | none => none
  | some c =>
    ((List.range c.trCount).map (fun i => (i, traceRec s c i))).find? (fun x =>
      !c.matched.contains x.1 && p x.2)

/-- R362, R363: whether a record names a node by its interval number, counted from where the recording and the replay
took effect (log entry 40). -/
def nodeNamed (s : State) (ctx : Nat) (r : BitVec 256) (interval : Nat) : Bool :=
  match s.ctxs.find ctx with
  | some c => (recField r 88 32 + c.repAt) % 2 ^ 32 == (interval + c.recAt) % 2 ^ 32
  | none => false

/-- R363, R364: a record has been matched. -/
def traceMatch (s : State) (ctx i : Nat) : State := 
  updCtx s ctx (fun c => { c with matched := i :: c.matched, headClk := c.headClk.put i s.dt })

/-- R363: whether a context's binding trace is in force. -/
def replaying (s : State) (ctx : Nat) : Bool :=
  match s.ctxs.find ctx with
  | some c => c.mode == .replay
  | none => false

end Sys2Proof.Machine
end

