-- ==== Sys2Proof/Machine/Crews.lean ====
section
/-! DEFINITION. Crews.lean: waking, counters, barriers, reconvergence, the split table, line locks and the end of
crews and cohorts (02_crews, 07_sync, R223, R366). -/
namespace Sys2Proof.Machine

-- waking

/-- A split that becomes READY (R54, R58). -/
def readied (s : State) (cr : Crew) (sp : Split) : Split :=
  { sp with state := .ready, readyClk := crewClk s cr, lastSlot := (coreUnit s (unitOf s cr)).slots }

/-- Readies the splits of a crew that satisfy a test. -/
def wakeSplits (s : State) (cid : Nat) (f : Split → Bool) : State :=
  match s.crews.find cid with
  | none => s
  | some cr => updCrew s cid (fun c => { c with splits := c.splits.map (fun sp => if f sp then readied s cr sp else sp) })

/-- R45, R74, R80, R181: whether the wait of a split of a crew for operands or acquires has ended. -/
def Crew.operandHere (cr : Crew) (sp : Split) : Bool :=
  match sp.state with
  | .waitOperand (.full rs bs m) =>
    rs.all (fun r => (maskLanes m cr.width).all (cr.isFull r)) && bs.all (fun b => (cr.record b).full)
  | .waitOperand .acquire => sp.acq.isEmpty
  | _ => false

/-- Readies the splits of a crew whose wait in WAIT_OPERAND has ended (R45, R58). -/
def wakeCrew (s : State) (cid : Nat) : State :=
  match s.crews.find cid with
  | none => s
  | some cr => wakeSplits s cid cr.operandHere

/-- Readies such splits of every crew. -/
def wakeAll (s : State) : State := s.crews.keys.foldl wakeCrew s

/-- Readies the splits that wait for rows on a core unit and whose rows are free now (R69). -/
def wakeRows (s : State) (u : Nat) : State :=
  s.crews.foldl (fun s p =>
    if unitOf s p.2 = u then
      wakeSplits s p.1 (fun sp => match sp.state with
        | .waitRows rs => rowsFree s p.1 rs
        | _ => false)
    else s) s

/-- Readies the splits whose waiting time has come (R178, R188). -/
def wakeTimes (s : State) : State :=
  s.crews.foldl (fun s p =>
    let d := crewDT s p.2
    wakeSplits s p.1 (fun sp => match sp.state with | .waitOperand (.untilDT t) => decide (t ≤ d) | _ => false)) s

-- counters (R47)

/-- R47: whether a counter has reached a target. -/
def reached (k t : W32) : Bool := !(k - t).msb

/-- R47, R48: readies the splits whose counted wait or yield is satisfied. -/
def countWakes (s : State) (cid k : Nat) : State :=
  match s.crews.find cid with
  | none => s
  | some cr =>
    let v := cr.counters.getD k 0
    updCrew s cid (fun c => { c with splits := c.splits.map (fun sp =>
      match sp.state with
      | .waitCount j t => if j = k && reached v t then readied s cr sp else sp
      | .waitYield j t hdr =>
        if j = k && reached v t then { readied s cr sp with place := .header hdr .resume, block := none } else sp
      | _ => sp) })

/-- R47: a completion adds 1 to a counter. An ended crew has no counters left (R154). -/
def addCount (s : State) (cid k : Nat) : State :=
  let s := updCrew s cid (fun cr => { cr with counters := changeAt cr.counters k (· + 1) })
  countWakes s cid k

-- cohorts

/-- The crews of a cohort, in order of crew id. -/
def crewsOf (s : State) (k : Nat) : List (Nat × Crew) := s.crews.filter (fun p => p.2.cohort == k)

/-- The cohorts that share barrier n of a cohort (R41). -/
def barrierScope (s : State) (k n : Nat) : List Nat :=
  match s.cohorts.find k with
  | none => []
  | some c =>
    match c.group with
    | some g =>
      if n < 12 then [k]
      else (s.cohorts.filter (fun p => p.2.launch == c.launch && p.2.group == some g && p.2.state != .ended)).map (·.1)
    | none => [k]

/-- R41, R46: the crews, not started yet, of placed cohorts that share a barrier. -/
def unstartedCrews (s : State) (ks : List Nat) : Nat :=
  sumOf (ks.map (fun k =>
    match s.cohorts.find k with
    | some c =>
      if c.state == .ended || s.crews.any (fun p => p.2.cohort == k) then 0
      else ((s.launches.find c.launch).map (fun ln => ln.ext.getD 0 1)).getD 0
    | none => 0))

/-- The crews that count for barriers and REFORM: cores only (R219), not ended. -/
def barrierCrews (s : State) (ks : List Nat) : List (Nat × Crew) :=
  s.crews.filter (fun p => ks.contains p.2.cohort && p.2.engine == .core && p.2.state != .ended)

/-- R46, R422: whether a split counts as waiting at barrier n. A split without lanes waits at every one (R50). -/
def Split.atBarrier (sp : Split) (n : Nat) : Bool :=
  sp.mask == 0 || sp.arrived.getLsbD n || (match sp.state with | .waitBar m => m == n | _ => false)

/-- R46: the arrived count of barrier n in a scope. -/
def arrivedCount (s : State) (ks : List Nat) (n : Nat) : Nat :=
  ((barrierCrews s ks).filter (fun p => p.2.splits.all (fun sp => sp.atBarrier n))).length

/-- R46: the phase of barrier n changes where every crew in scope has arrived. -/
def barrierCheck (s : State) (k n : Nat) : State :=
  let ks := barrierScope s k n
  let cs := barrierCrews s ks
  if cs.isEmpty || decide (arrivedCount s ks n < cs.length + unstartedCrews s ks)
    || !(cs.any (fun p => p.2.splits.any (fun sp => sp.mask != 0))) then s
  else
    let s := ks.foldl (fun s j => updCohort s j (fun c =>
      { c with barPhase := c.barPhase ^^^ BitVec.twoPow 16 n })) s
    cs.foldl (fun s p => updCrew s p.1 (fun c => { c with splits := c.splits.map (fun sp =>
      let sp := { sp with arrived := sp.arrived &&& ~~~(BitVec.twoPow 16 n) }
      match sp.state with
      | .waitBar m => if m = n then readied s p.2 sp else sp
      | _ => sp) })) s

/-- R46: every barrier of a cohort, where a crew's end or arrival may complete it. -/
def barriersCheck (s : State) (k : Nat) : State := (List.range 16).foldl (fun s n => barrierCheck s k n) s

-- blocks

/-- The header after a block (R87). -/
def Block.next (b : Block) : Nat := b.off + 8 * (b.len + 1)

/-- Whether a word of a block lies within it. -/
def Block.has (b : Block) (off : Nat) : Bool := decide (off < b.next)

/-- R87: where a split stands after an instruction of n words at an offset. -/
def afterWord (b : Option Block) (off n : Nat) : Place :=
  match b with
  | some b => if b.has (off + 8 * n) then .word (off + 8 * n) else .header b.next .fall
  | none => .header (off + 8 * n : Nat) .fall

-- the split table (R44)

/-- Whether a split waits (R44). -/
def Split.waits (sp : Split) : Bool := sp.state != .ready

/-- R44: one move of the split table: it spills a resident split beyond 16, or, where an entry is free, brings a spilled
one back: the one READY that has gone longest without issuing, else the one of all (log entry 54: DESIGN CHOICE, since
the spec does not say which returns). -/
def tableMove (sps : List Split) : Option (List Split) :=
  let setSp (i : Nat) (b : Bool) (l : List Split) : List Split :=
    l.map (fun sp => if sp.id = i then { sp with spilled := b } else sp)
  let first (l : List Split) (p : Split → Bool) : Option Split :=
    match leastBy (·.issuedAt) (l.filter p) with
    | some sp => some sp
    | none => leastBy (·.issuedAt) l
  let res := sps.filter (fun sp => !sp.spilled)
  if 16 < res.length then (first res Split.waits).map (fun v => setSp v.id true sps)
  else if res.length < 16 then
    (first (sps.filter (·.spilled)) (fun sp => !sp.waits)).map (fun b => setSp b.id false sps)
  else none

/-- R44: the split table settled. -/
def tableSettle : Nat → List Split → List Split
  | 0, sps => sps
  | n + 1, sps =>
    match tableMove sps with
    | some sps' => tableSettle n sps'
    | none => sps

/-- R162: the sump bytes of a spilled split. -/
def splitBytes (w0 : Nat) : Nat := 256 + 129 * 2 ^ w0

/-- The number of a crew's spilled splits. -/
def Crew.overflow (cr : Crew) : Nat := (cr.splits.filter (·.spilled)).length

/-- R44, R163: changes the splits of a crew, settles its split table, and takes or returns the sump space of its
spilled entries. -/
def updSplits (s : State) (cid : Nat) (f : Crew → Crew) : State :=
  match s.crews.find cid with
  | none => s
  | some cr =>
    let c := f cr
    let c := { c with splits := tableSettle 300 c.splits }
    updCtx { s with crews := s.crews.put cid c } cr.ctx (fun x =>
      { x with sumpUsed := x.sumpUsed + c.overflow * splitBytes cr.w0 - cr.overflow * splitBytes cr.w0 })

-- reconvergence (R43)

/-- The union of predicates of several splits, each in its own lanes. -/
def mergePreds (sps : List Split) : List Mask :=
  (List.range 7).map (fun i => sps.foldl (fun m sp => m ||| (sp.preds.getD i 0 &&& sp.mask)) 0)

/-- The union of masks. -/
def unionMask (sps : List Split) : Mask := sps.foldl (fun m sp => m ||| sp.mask) 0

/-- R43: whether every split that carries a reconvergence header has arrived at it. A split of a nested divergence that
carries an inner header carries the outer one under it, so it is waited for (log entry 55: DESIGN CHOICE). -/
def Crew.joined (cr : Crew) (r : Recon) : Bool :=
  (cr.splits.filter (fun sp => sp.recon.contains r)).all (fun sp =>
    sp.state == .joinWait && (match sp.recon with | x :: _ => x == r | [] => false))

/-- R438: a split arrives at a reconvergence header, after those that wait there. -/
def Crew.arrive (cr : Crew) (sp : Split) : Split :=
  { sp with state := .joinWait, mark := some (maxOf (cr.splits.map (fun x => x.mark.getD 0)) + 1) }

/-- Where a split stands that has merged at a header: it goes on in its block, or waits there, where the header it now
carries is the same one (R43). -/
def Crew.afterMerge (cr : Crew) (at_ : Nat) (sp : Split) : Split :=
  if sp.recon.head?.any (fun r => r.target == at_) then cr.arrive sp else sp

/-- R438: whether splits that wait at a header have equal return stacks. -/
def Crew.stacksAgree (cr : Crew) (r : Recon) : Bool :=
  match cr.splits.filter (fun sp => sp.state == .joinWait && sp.recon.head? == some r) with
  | [] => true
  | m :: ms => ms.all (fun x => x.rstack == m.rstack)

/-- R438: the last split to arrive at a header where the return stacks differ enters it again, to be refused. -/
def Crew.refuseJoin (cr : Crew) (r : Recon) : Crew :=
  match greatestBy (fun sp => sp.mark.getD 0) (cr.splits.filter (·.recon.contains r)) with
  | none => cr
  | some m => cr.updSplit m.id (fun sp => { sp with state := .ready, place := .header r.target .fall, mark := none })

/-- R43, R88: the splits that have arrived at a reconvergence header merge into one, which continues in the block
they arrived at with an empty queue. Of the splits' trap CSRs and trap state the first's go on (log entry 56: DESIGN
CHOICE; the same at a REFORM and a successor EXIT). -/
def Crew.merge (cr : Crew) (r : Recon) : Crew :=
  let ms := cr.splits.filter (fun sp => sp.recon.contains r)
  match ms with
  | [] => cr
  | m :: _ =>
    let sp : Split :=
      { m with id := cr.nextSplit, mask := unionMask ms, preds := mergePreds ms, queue := [], recon := m.recon.drop 1
               state := .ready, age := cr.nextSplit, spilled := false, mark := none
               arrived := ms.foldl (fun a x => a &&& x.arrived) (BitVec.allOnes 16)
               acq := ms.flatMap (·.acq) }
    let rest := { cr with splits := cr.splits.filter (fun x => !x.recon.contains r), nextSplit := cr.nextSplit + 1 }
    { rest with splits := rest.splits ++ [rest.afterMerge r.target sp] }

/-- The reconvergence header whose every carrier has arrived. -/
def Crew.complete (cr : Crew) : Option Recon :=
  (cr.splits.filterMap (fun sp => if sp.state = .joinWait then sp.recon.head? else none)).find? cr.joined

/-- R43: merges wherever every carrier has arrived, at most `fuel` times. -/
def joinLoop : Nat → State → Nat → State
  | 0, s, _ => s
  | fuel + 1, s, cid =>
    match s.crews.find cid with
    | none => s
    | some cr =>
      match cr.complete with
      | none => s
      | some r =>
        if cr.stacksAgree r then
          let n := cr.nextSplit
          let s := updSplits s cid (fun c => c.merge r)
          joinLoop fuel (wakeSplits s cid (fun sp => sp.id == n && sp.state == .ready)) cid
        else
          wakeSplits (updSplits s cid (fun c => c.refuseJoin r)) cid (fun sp =>
            sp.state == .ready && sp.place == .header r.target .fall)

/-- R43, R438: merges wherever every carrier has arrived; a crew holds at most 256 splits. -/
def joinCheck (s : State) (cid : Nat) : State := joinLoop 256 s cid

-- successor EXIT (R49, R458)

/-- The splits that have lanes (R50). -/
def Crew.live (cr : Crew) : List Split := cr.splits.filter (fun sp => sp.mask != 0)

/-- The EXIT that a split waits at. -/
def Split.exitAt (sp : Split) : Option (Int × W64 × Nat) :=
  match sp.state with
  | .exitWait t k f => some (t, k, f)
  | _ => none

/-- R49, R458: a crew whose every live split has reached a successor EXIT restarts as one split at the successor. -/
def exitCheck (s : State) (cid : Nat) : State :=
  match s.crews.find cid with
  | none => s
  | some cr =>
    match cr.live with
    | [] => s
    | m :: ms =>
      match m.exitAt with
      | none => s
      | some (t, k, _) =>
        if !ms.all (fun sp => sp.exitAt.isSome) then s
        else
          let n := cr.nextSplit
          let sp : Split :=
            { m with id := n, mask := unionMask cr.live, place := .header t (.successor k), block := none, queue := []
                     preds := mergePreds cr.live, recon := [], rstack := [], state := .ready, age := n
                     spilled := false, mark := none, acq := cr.live.flatMap (·.acq)
                     arrived := cr.live.foldl (fun a x => a &&& x.arrived) (BitVec.allOnes 16) }
          wakeSplits (updSplits s cid (fun c => { c with splits := [sp], nextSplit := n + 1 })) cid (fun x => x.id == n)

-- REFORM (R50, R538)

/-- The registers of a keep mask. -/
def maskRegs (keep : W64) : List Nat := (List.range 64).filter (fun r => keep.getLsbD r)

/-- The cell of a lane of a register, resident or spilled. -/
def Crew.anyCell (cr : Crew) (r l : Nat) : Option RegCell :=
  match cr.rmap.find r with
  | some (.spilled f live b fl) =>
    if live.getLsbD l then some { val := unpackLane f b l, full := true, failed := fl.find l } else none
  | _ => cr.cell r l

/-- A lane that moves: its crew's record and its position there. -/
structure Mover where
  crew : Crew
  lane : Nat

/-- The split of a crew that holds a lane. -/
def Crew.splitOf (cr : Crew) (l : Nat) : Option Split := cr.splits.find? (fun sp => sp.mask.getLsbD l)

/-- The predicate of a lane that moves. -/
def Mover.pred (m : Mover) (p : Nat) : Bool := (m.crew.splitOf m.lane).any (fun sp => sp.pred p m.lane)

/-- R50: the moving lanes in ascending (%crew, %lane) order. -/
def movers (cs : List Crew) : List Mover :=
  cs.flatMap (fun cr => (maskLanes (unionMask cr.splits) cr.width).map (fun l => { crew := cr, lane := l }))

/-- The REFORM that a split waits at. -/
def Split.reformAt (sp : Split) : Option (Nat × Nat × W64) :=
  match sp.state with
  | .reformWait a p k => some (a, p, k)
  | _ => none

/-- R50, R538: the crew that takes some lanes; the rows that it held of kept registers stay. -/
def Crew.dealt (cr : Crew) (ms : List Mover) (keep : W64) (place : Place) (block : Option Block) : Crew :=
  let put (m : SMap RegCell) (r : Nat) : SMap RegCell :=
    ms.zipIdx.foldl (fun m p =>
      match p.1.crew.anyCell r p.1.lane with
      | some c => m.put (regKey r p.2) c
      | none => m) m
  let preds := (List.range 7).map (fun i => maskOf ((ms.zipIdx.filter (fun p => p.1.pred i)).map (·.2)))
  let first := cr.splits.head?
  let sp : Split :=
    { id := cr.nextSplit, mask := maskOf (List.range ms.length), place := place, block := block, preds := preds
      age := cr.nextSplit, acq := cr.splits.flatMap (·.acq), trap := (first.map (·.trap)).getD {}
      arrived := cr.splits.foldl (fun a x => a &&& x.arrived) (BitVec.allOnes 16) }
  { cr with
    wid := ms.zipIdx.map (fun p => (p.2, SMap.getD p.1.crew.wid p.1.lane 0))
    regs := (maskRegs keep).foldl put []
    rmap := cr.rmap.filter (fun p => keep.getLsbD p.1 && (match p.2 with | .resident _ _ => true | _ => false))
    splits := [sp], nextSplit := cr.nextSplit + 1 }

/-- Rows for the kept registers that a crew holds after a REFORM; one that finds no rows is spilled (R69). -/
def dealRows (s : State) (cid : Nat) (keep : W64) : State :=
  (maskRegs keep).foldl (fun s r =>
    match s.crews.find cid with
    | none => s
    | some cr =>
      if !cr.hasCells r then updCrew s cid (fun c => { c with rmap := c.rmap.del r })
      else
        match allocRow s cid r with
        | some s => s
        | none => spillTo s cid r) s

/-- R50, R538: the lanes of a cohort's crews are dealt anew. -/
def reformPerform (s : State) (cs : List Crew) (ps : Nat) (keep : W64) (place : Place) (block : Option Block) : State :=
  let ms := movers cs
  let order := ms.filter (fun m => m.pred ps) ++ ms.filter (fun m => !m.pred ps)
  let s := cs.zipIdx.foldl (fun s p =>
    updSplits s p.1.cid (fun c => c.dealt ((order.drop (p.2 * c.width)).take c.width) keep place block)) s
  let s := cs.foldl (fun s cr => dealRows s cr.cid keep) s
  let s := cs.foldl (fun s cr => wakeSplits s cr.cid (fun _ => true)) s
  match cs with
  | [] => s
  | cr :: _ => wakeRows s (unitOf s cr)

/-- R50, R60: a REFORM is performed once every live split of every crew of the cohort that has not ended waits at
it, and the registers it moves are full. -/
def reformCheck (s : State) (k : Nat) : State :=
  let cs := sortBy (·.index) ((barrierCrews s [k]).map (·.2))
  let sps := cs.flatMap Crew.live
  match sps with
  | [] => s
  | sp :: _ =>
    match sp.reformAt with
    | none => s
    | some (_, ps, keep) =>
      if !sps.all (fun x => x.reformAt.isSome) then s
      else if !(movers cs).all (fun m => (maskRegs keep).all (fun r => m.crew.isFull r m.lane)) then s
      else reformPerform s cs ps keep sp.place sp.block

-- line locks (R206 to R215)

/-- The waiter-table entries and overflow of a lock. -/
def waiterBytes : Nat := 64

/-- The context of a crew. -/
def ctxOf (s : State) (cid : Nat) : Nat := ((s.crews.find cid).map (·.ctx)).getD 0

/-- R206: the status word. -/
def lockWord (status skips : Nat) : Nat := Nat.min skips 255 * 256 + status

/-- The virtual line that an LLOCK names. -/
def accVLine (s : State) (a : Nat) : Nat :=
  match s.accs.find a with
  | some x => (x.lines.head?.map (·.vline)).getD 0
  | none => 0

/-- R163: an entry of a waiter table is free; one in an overflow gives back its space. -/
def freeEntry (s : State) (inSump : Option Nat) : State :=
  match inSump with
  | some ctx => returnSump s ctx waiterBytes
  | none => s

/-- R206, R361: delivers a status to every active lane of an LLOCK; it is recorded in RECORD. -/
def lockAnswer (s : State) (w : Waiter) (status : Nat) : State :=
  let vline := accVLine s w.acc
  let ctx := ctxOf s w.crew
  let ch := (s.crews.find w.crew).bind (fun cr => s.cohorts.find cr.cohort)
  let node := (((s.crews.find w.crew).bind (fun cr => s.cohorts.find cr.cohort)).bind (fun c =>
    (s.launches.find c.launch).map (·.interval))).getD 0
  let s := traceEvent s ctx [(120, vline * 128), (88, node), (56, (ch.map (·.index)).getD 0 % 4294967296),
    (44, ((s.crews.find w.crew).map (·.index)).getD 0 % 4096), (8, status), (0, 0x62)]
  updAcc s w.acc (fun a =>
    { a with ready := true, result := a.lanes.map (fun l => (l.lane, BitVec.ofNat 128 (lockWord status w.skips))) })

/-- R206, R207: a waiter that leaves its queue has its status, and its entry is free. -/
def lockStatus (s : State) (w : Waiter) (status : Nat) : State := lockAnswer (freeEntry s w.inSump) w status

/-- Removes tracking entries of a line (R359). -/
def clearTrack (s : State) (line : Nat) : State :=
  { s with track := s.track.filter (fun p => p.1 / 16 != line) }

/-- R147: whether a store of a crew that reads a core's L1 is on its way to a line. -/
def coreStores (s : State) (u line : Nat) : Bool :=
  s.accs.any (fun p => p.2.kind.isStore && (s.crews.find p.2.crew).any (fun cr =>
    cr.engine == .core && l1Unit s cr (line * 128) == u && p.2.lines.any (fun l => !l.isOver && (match l.pa with
      | some pa => lineOf pa == line
      | none => (peek s (some (unitOf s cr)) (Config.dieOfUnit (unitOf s cr)) cr.ctx (l.vline * 128)).any (fun pa =>
          lineOf pa == line)))))

/-- R183, R208, R209: a waiter becomes the holder, and its entry the lock's. -/
def holdLock (s : State) (line : Nat) (w : Waiter) (status : Nat) : State :=
  let s := { s with locks := s.locks.change line (fun l =>
    { l with holder := some w.crew, broken := none, inSump := w.inSump
             queue := l.queue.filter (fun x => x.acc != w.acc) }) }
  let s := lockAnswer s w status
  let vline := accVLine s w.acc
  let s := updCrew s w.crew (fun cr => { cr with locks := cr.locks ++ [{ vline := vline, pline := line }] })
  let s := clearTrack s line
  let s := settle s line
  if (remoteOf (line * 128)).isSome || pendingAt s line || needsFill s line || lostGranule s (line * 128) || lostGranule s (line * 128 + 64) then s
  else
    match s.crews.find w.crew with
    | none => s
    | some cr =>
      let len := ((s.ctxs.find cr.ctx).map (·.lease)).getD 512
      let s := l2Touch s line
      let (s, e) := grantLease s line len
      let u := l1Unit s cr (line * 128)
      if coreStores s u line then s
      else l1Fill s u { line := line, exp := e, bytes := Memory.getN s.mem (line * 128) 128 }

/-- A lock with neither holder nor waiter is gone, but for one whose next grant waits for the stores of a cancelled
holder. -/
def dropIdleLocks (s : State) : State :=
  { s with locks := s.locks.keep (fun _ l => l.holder.isSome || !l.queue.isEmpty || l.broken.any (fun b => b.status == 0)) }

/-- R171: the largest Tw acknowledged to a crew. -/
def crewTw (s : State) (cid : Nat) : Nat := ((s.crews.find cid).map (fun cr => maxOf cr.twmax)).getD 0

/-- R215: a waiter is granted; one whose crew was killed in this tick ends holding the line (R211). -/
def grantLock (s : State) (line : Nat) (w : Waiter) (status : Nat) : State :=
  if w.leaving = 5 then
    let s := freeEntry s w.inSump
    dropIdleLocks { s with locks := s.locks.change line (fun l =>
      { l with broken := some { crew := w.crew, tw := crewTw s w.crew }
               queue := l.queue.filter (fun x => x.acc != w.acc) }) }
  else holdLock s line w status

/-- R363: the GRANT record that heads a line's stream for a waiter's context. -/
def grantHead (s : State) (w : Waiter) : Option (Nat × BitVec 256) :=
  let vline := accVLine s w.acc
  traceHead s (ctxOf s w.crew) (fun r => recField r 0 8 == 0x62 && recField r 120 72 == vline * 128)

/-- R356, R362: the interval number of the node that launched a crew's cohort. -/
def nodeInterval (s : State) (cr : Crew) : Nat :=
  (((s.cohorts.find cr.cohort).bind (fun c => s.launches.find c.launch)).map (·.interval)).getD 0

/-- R363: whether a GRANT record names a waiter. -/
def grantNames (s : State) (r : BitVec 256) (w : Waiter) : Bool :=
  match s.crews.find w.crew with
  | none => false
  | some cr =>
    let ci := ((s.cohorts.find cr.cohort).map (·.index)).getD 0
    nodeNamed s cr.ctx r (nodeInterval s cr) && recField r 56 32 == ci % 4294967296 && recField r 44 12 == cr.index % 4096

/-- R210, R215: whether a waiter is absent: one whose crew is pre-empted in this tick still takes a grant. -/
def Waiter.gone (w : Waiter) (dt : Nat) : Bool := w.absent && decide (w.away < dt)

/-- R210: moves absent waiters at the head to the tail, each with one more skip, until a present one heads. -/
def rotateWaiters (dt : Nat) : Nat → List Waiter → List Waiter
  | 0, q => q
  | _ + 1, [] => []
  | n + 1, w :: ws => if w.gone dt then rotateWaiters dt n (ws ++ [{ w with skips := w.skips + 1 }]) else w :: ws

/-- R363: in REPLAY a line's waiters receive what the heads of its stream name, one after the other: a grant where the
lock is `free`, another status also while it is held. -/
def replayLock : Nat → Bool → State → Nat → State
  | 0, _, s, _ => s
  | n + 1, free, s, line =>
    let q := ((s.locks.find line).map (·.queue)).getD []
    match q.head?.bind (grantHead s) with
    | none => s
    | some (i, r) =>
      match q.find? (fun w => grantNames s r w && !w.absent) with
      | none => s
      | some w =>
        let st := recField r 8 3
        let t := traceMatch s (ctxOf s w.crew) i
        if st ≤ 1 then if free then replayLock n false (grantLock t line w st) line else s
        else
          replayLock n free (lockStatus { t with locks := t.locks.change line (fun l =>
            { l with queue := l.queue.filter (fun x => x.acc != w.acc) }) } w st) line

/-- R363: whether the dispatch trace binds the line whose queue a waiter heads. -/
def lockBound (s : State) (l : Lock) : Bool := l.queue.head?.any (fun w => replaying s (ctxOf s w.crew))

/-- R210, R363: a free lock goes to its next waiter, with a status. Where the lock was left free because every waiter was
absent (`rotate` is false), the first one present takes it where it stands. -/
def serveLock (s : State) (line status : Nat) (rotate : Bool) : State :=
  match s.locks.find line with
  | none => s
  | some l =>
    if lockBound s l then dropIdleLocks (replayLock (l.queue.length + 1) l.holder.isNone s line)
    else
    match l.holder, l.queue with
    | some _, _ => s
    | none, [] => { s with locks := s.locks.del line }
    | none, _ :: _ =>
      if l.queue.all (·.gone s.dt) then s
      else if rotate then
        match rotateWaiters s.dt l.queue.length l.queue with
        | [] => s
        | w :: ws => grantLock { s with locks := s.locks.put line { l with queue := w :: ws } } line w status
      else
        match l.queue.find? (fun w => !w.gone s.dt) with
        | none => s
        | some w => grantLock s line w status

/-- R209: a crew's lock is released by its LUNLOCK. -/
def releaseLock (s : State) (cid line : Nat) : State :=
  let s := updCrew s cid (fun cr => { cr with locks := cr.locks.filter (fun h => h.pline != line) })
  match s.locks.find line with
  | none => s
  | some l =>
    if l.holder = some cid then
      serveLock { freeEntry s l.inSump with locks := s.locks.put line { l with holder := none, inSump := none } } line 0 true
    else s

/-- R183: the accesses whose writes are not visible until they are acknowledged. -/
def AccKind.writes : AccKind → Bool
  | .store _ _ | .atom _ _ | .atomo _ _ | .reds _ _ | .combine _ | .ballot _ | .ring _ | .stamp _ _ => true
  | _ => false

/-- R179: whether an access is one that a fence on its path waits for. -/
def AccKind.fenced : AccKind → Bool
  | .pref _ | .spgrow | .value | .noise | .wread _ => false
  | _ => true

/-- R179: the coupling loads of earlier well commands of a crew that have not arrived. -/
def wellPending (s : State) (cid mark : Nat) : Bool :=
  s.wells.any (fun p => p.2.queue.any (fun c => c.crew == cid && decide (c.id < mark) && (match c.body with
    | .load _ _ _ _ _ => true
    | .sweep _ _ _ _ (some _) => true
    | _ => false)))

/-- R183, R211: whether the next grant of a lock whose holder has ended may be made: the holder's stores are acknowledged,
and DT has reached the largest Tw + 2 at the home of the line; as after LUNLOCK's fence, where the holder was cancelled,
every access of it is complete. -/
def storesVisible (s : State) (b : Broken) (line : Nat) : Bool :=
  !s.accs.any (fun p => p.2.crew == b.crew && (if b.status = 0 then p.2.kind.fenced else p.2.kind.writes))
    && !s.copies.any (fun p => p.2.crew == some b.crew)
    && !(b.status == 0 && wellPending s b.crew s.nextId)
    && decide (Nat.max b.tw (crewTw s b.crew) + 2 ≤ homeDT s line)

/-- R183, R211, R214: a lock whose holder ended goes to its next waiter once that holder's stores are visible; while every
waiter is absent it stays free (`rotate` as for `serveLock`). -/
def serveBroken (s : State) (line : Nat) (rotate : Bool) : State :=
  match (s.locks.find line).bind (·.broken) with
  | some b =>
    if storesVisible s b line then serveLock s line b.status rotate
    else match s.locks.find line with
      | some l => if lockBound s l then replayLock (l.queue.length + 1) false s line else s
      | none => s
  | none => s

/-- R211: a crew that ends holding a lock leaves it for its next waiter: with GRANTED (status 0) where it is cancelled,
else with GRANTED_BROKEN. -/
def leaveLock (s : State) (cid status line : Nat) : State :=
  match s.locks.find line with
  | some l =>
    if l.holder ≠ some cid then s
    else
      let s := freeEntry s l.inSump
      if l.queue.isEmpty && status = 1 then { s with locks := s.locks.del line }
      else
        let b : Broken := { crew := cid, tw := crewTw s cid, status := status }
        serveBroken { s with locks := s.locks.put line { l with holder := none, inSump := none, broken := some b } } line true
  | none => s

/-- R210, R214: a free lock of a line goes to a waiter that has become present. -/
def serveFree (s : State) (line : Nat) : State :=
  match (s.locks.find line).bind (·.broken) with
  | some _ => serveBroken s line false
  | none => serveLock s line 0 false

/-- R215: an event takes a waiter out of its queue at the end of the running tick, unless it is granted first; of several
the first in R215's order decides. -/
def markLeaving (s : State) (acc ev cyc : Nat) : State :=
  { s with locks := s.locks.mapAll (fun _ l => { l with queue := l.queue.map (fun w =>
      if w.acc = acc && decide (w.leaving < ev) then { w with leaving := ev, cyc := cyc } else w) }) }

/-- R214: the kill of a crew takes its waiters out of every queue, with no status. -/
def dropWaiters (s : State) (cid : Nat) : State :=
  { s with locks := s.locks.mapAll (fun _ l => { l with queue := l.queue.map (fun w =>
      if w.crew = cid then { w with leaving := 5 } else w) }) }

/-- R213: the record of a broken deadlock. -/
def deadlockRecord (s : State) (w : Waiter) : BitVec 256 :=
  let va := match s.accs.find w.acc with
    | some a => (a.lanes.head?.map (·.va)).getD 0
    | none => 0
  match s.crews.find w.crew with
  | none => 0
  | some cr =>
    let ch : Option Cohort := s.cohorts.find cr.cohort
    record256 [(192, s.dt), (120, va), (112, Nat.min w.cyc 255), (100, cr.ctx), (88, (ch.map (·.queue)).getD 0 % 4096),
      (56, (match ch with | some c => c.cseq.toNat | none => 0)), (48, unitOf s cr % 256), (16, cr.index), (0, 0x21)]

/-- R214, R215: a waiter leaves its queue; a chosen waiter of a deadlock has its record. -/
def leaveQueue (s : State) (w : Waiter) : State :=
  let s := dropIdleLocks { s with locks := s.locks.mapAll (fun _ l =>
    { l with queue := l.queue.filter (fun x => x.acc != w.acc) }) }
  if w.leaving = 5 then freeEntry s w.inSump
  else
    let s := if w.leaving = 3 then barPost .dbg s (deadlockRecord s w) else s
    lockStatus s w w.leaving

/-- R215: the events of a tick that no grant came before take their waiters out of the queues. -/
def settleWaiters (s : State) : State :=
  ((s.locks.vals.flatMap (·.queue)).filter (fun w => w.leaving != 0)).foldl leaveQueue s

/-- R183: broken locks whose time has come go to their next waiters. -/
def serveBrokens (s : State) : State :=
  ((s.locks.filter (fun p => p.2.broken.isSome)).map (·.1)).foldl (fun s line => serveBroken s line true) s

/-- R207: the waiter-table entries of a slice that locks and waiters take. -/
def waiterEntries (s : State) (slice : Nat) : Nat :=
  sumOf (s.locks.map (fun p =>
    if syncSliceOf s (p.1 * 128) = slice then
      (p.2.queue.filter (·.inSump.isNone)).length + (if p.2.holder.isSome && p.2.inSump.isNone then 1 else 0)
    else 0))

/-- R207: the entries of a slice's table. -/
def waiterTable : Nat := 256

/-- R163, R207: an overflow entry of a line whose slice's table has room enters it, and gives back its space: the lock's
first, then its waiters in order of arrival. -/
def refillLine (s : State) (line : Nat) : State :=
  match s.locks.find line with
  | none => s
  | some l =>
    if waiterTable ≤ waiterEntries s (syncSliceOf s (line * 128)) then s
    else if l.inSump.isSome then
      { freeEntry s l.inSump with locks := s.locks.put line { l with inSump := none } }
    else
      match l.queue.find? (·.inSump.isSome) with
      | none => s
      | some w =>
        { freeEntry s w.inSump with locks := s.locks.put line { l with queue := l.queue.map (fun x =>
            if x.acc = w.acc then { x with inSump := none } else x) } }

/-- The lines that have entries in an overflow, that which has waited longest first. -/
def overflowLines (s : State) : List Nat :=
  (sortBy (·.2) (s.locks.filterMap (fun p =>
    if p.2.inSump.isSome then some (p.1, 0) else (p.2.queue.find? (·.inSump.isSome)).map (fun w => (p.1, 2 ^ 64 - ticksSince s w.enq))))).map (·.1)

/-- R163, R207: the overflow entries enter the tables of their slices as far as there is room. -/
def refillWaiters : Nat → State → State
  | 0, s => s
  | n + 1, s =>
    match (overflowLines s).find? (fun k => decide (waiterEntries s (syncSliceOf s (k * 128)) < waiterTable)) with
    | none => s
    | some k => refillWaiters n (refillLine s k)

/-- R163, R207: as many overflow entries enter their tables as find room. -/
def refillOverflow (s : State) : State := refillWaiters (sumOf (s.locks.map (fun p => p.2.queue.length + 1))) s

-- tile tasks (R365 to R369)

/-- R369: RET − t, where the event occurred. -/
def stampDiff (ret : Nat) (t : Option Nat) : Nat :=
  match t with
  | none => 0xFFFFFFFF
  | some x => Nat.min (ret - x) 0xFFFFFFFE

/-- A number of at most 512 bits from fields given as lowest bit and value. -/
def record512 : List (Nat × Nat) → BitVec 512
  | [] => 0
  | (lo, v) :: fs => (BitVec.ofNat 512 v <<< lo) ||| record512 fs

/-- R368: a TILE record. -/
def tileRecord (s : State) (c : Cohort) (ekind eid task : Nat) (m : TaskMarks) : BitVec 512 :=
  let ret := s.dt
  record512 [(448, ret), (416, stampDiff ret m.cii), (384, stampDiff ret m.cic), (352, stampDiff ret m.ows),
    (320, stampDiff ret m.owe), (288, stampDiff ret m.pfg), (256, stampDiff ret m.plc), (224, stampDiff ret m.coi),
    (192, stampDiff ret m.coc), (160, c.cseq.toNat), (148, c.queue % 4096), (136, c.ctx), (132, ekind), (120, eid),
    (104, Nat.min task 65535), (72, c.index % 4294967296), (40, Nat.min m.passes 4294967295),
    (35, if m.pre then 1 else 0), (34, if m.flt then 1 else 0), (33, if c.relaunch then 1 else 0),
    (32, if m.stp then 1 else 0), (0, 1)]

/-- R356: who makes the accesses of a cohort: its linear index modulo 2^32, in the sync interval of its node. -/
def cohortIdent (s : State) (k : Nat) : Ident :=
  match s.cohorts.find k with
  | some c => { coh := BitVec.ofNat 32 c.index, int := BitVec.ofNat 31 (((s.launches.find c.launch).map (·.interval)).getD 0) }
  | none => {}

/-- R356: who makes the accesses of a crew. -/
def crewIdent (s : State) (cid : Nat) : Ident := ((s.crews.find cid).map (fun cr => cohortIdent s cr.cohort)).getD {}

/-- A new access in flight, with its number. -/
def newAccess (s : State) (f : Nat → Access) : State × Nat :=
  let a := f s.nextId
  let a := { a with ctx := ctxOf s a.crew, who := crewIdent s a.crew }
  ({ s with nextId := s.nextId + 1, accs := s.accs.put s.nextId a }, s.nextId)

/-- R370: a stamp record goes to its queue's ring; with none bound it is discarded. -/
def postStamp (s : State) (cid q : Nat) (r : BitVec 512) : State :=
  match (s.queues.find q).bind (·.stamp) with
  | none => s
  | some _ =>
    (newAccess s (fun a =>
      { id := a, crew := cid, lanesM := 0, kind := .stamp q r, path := 3, lanes := [{ lane := 0, va := 0 }]
        dtIssue := s.dt })).1

/-- The key of a cohort's matrix stream: cluster·8 + slot (R219). -/
def streamKey (c : Cohort) : Option Nat := c.slot.map (fun sl => c.core / 4 * 8 + sl)

/-- The key under which the stream of a saved cohort is held. -/
def savedKey (k : Nat) : Nat := 4096 + k

/-- Whether a command is an MDRAIN. -/
def MCmd.isDrain : MCmd → Bool
  | .mdrain _ _ _ _ _ _ _ _ _ _ _ => true
  | _ => false

/-- R366: the tasks of a stream whose drain has not started: one for each MDRAIN that waits, and the final one of the
commands after the last. -/
def Stream.tasksLeft (st : Stream) : Nat :=
  (st.cmds.filter (·.cmd.isDrain)).length - (if st.inDrain then 1 else 0) + (if st.last then 1 else 0)

/-- R366: the tile tasks of a stream retire when it ends: those drained and not collected, then those left, of which the
first has what was marked since the last drain started. -/
def retireStream (s : State) (cid : Nat) (c : Cohort) (st : Stream) : State :=
  let left : List TaskMarks := (st.marks :: List.replicate st.tasksLeft {}).take st.tasksLeft
  ((st.pend ++ left).zipIdx st.task).foldl (fun s p => postStamp s cid c.queue (tileRecord s c 2 (c.core / 4) p.2 p.1)) s

/-- R368: marks the task whose commands a stream performs: while a drain runs, the drain's. -/
def Stream.mark (st : Stream) (f : TaskMarks → TaskMarks) : Stream :=
  if st.inDrain then { st with pend := changeAt st.pend (st.pend.length - 1) f } else { st with marks := f st.marks }

/-- R369: the number of the task that a COPY issued now belongs to. -/
def Stream.taskNow (st : Stream) : Nat := st.task + st.pend.length

/-- R369: a stream is pre-empted: every task that has begun and has not retired has PRE. -/
def Stream.markSaved (st : Stream) : Stream :=
  let pre (m : TaskMarks) : TaskMarks := { m with pre := true }
  { st with pend := st.pend.map pre
            marks := if st.tasksLeft = 0 && st.marks == {} then st.marks else pre st.marks }

/-- R366: a cohort without a stream is one tile task. -/
def retireCohort (s : State) (cid : Nat) (c : Cohort) : State :=
  postStamp s cid c.queue (tileRecord s c 0 c.core 1 c.marks)

-- sump space of a cohort (R162)

/-- R162: the register slots and operand log of one crew. -/
def crewSump (named w : Nat) : Nat := named * 4 * w + 8 * (64 + 24 * w)

/-- R162: the sump bytes reserved for one cohort of a launch. -/
def cohortSump (ln : Launch) : Nat :=
  ln.ext.getD 0 1 * crewSump ln.named (2 ^ ln.widths.getD 0 3)
    + (match ln.centry with | some _ => crewSump ln.named 1 | none => 0)

-- ends

/-- Changes a stream. -/
def updStream (s : State) (k : Nat) (f : Stream → Stream) : State := { s with streams := s.streams.change k f }

/-- Changes a cluster. -/
def updCluster (s : State) (cl : Nat) (f : Cluster → Cluster) : State :=
  { s with clusters := s.clusters.put cl (f (SMap.getD s.clusters cl {})) }

/-- Whether the command that a stream performs is a drain that has begun. -/
def Stream.draining (st : Stream) : Bool :=
  st.inDrain && (st.run == .active || st.run == .faulted)

/-- R223, R278: whether a cohort's stream has a pass in progress, be it FAULTED, or a drain that has begun, which complete
first. -/
def streamBusy (s : State) (c : Cohort) : Bool :=
  ((streamKey c).bind s.streams.find).any (fun st => !st.saved && (st.inPass || st.draining))

/-- R223, R278: a cohort's stream ends: its queue, reservation entries and tile are discarded; the Tw of its writes stays
with the launch. -/
def endStream (s : State) (c : Cohort) : State :=
  match c.slot with
  | none => { s with streams := s.streams.del (savedKey c.id) }
  | some sl =>
    let cl := c.core / 4
    let tw := ((s.streams.find (cl * 8 + sl)).map (fun st => Nat.max st.drainMax (st.drainTw.getD 0))).getD 0
    { s with
      launches := s.launches.change c.launch (fun l => { l with maxTw := Nat.max l.maxTw tw })
      streams := s.streams.del (cl * 8 + sl)
      clusters := s.clusters.change cl (fun x => { x with resv := x.resv.keep (fun e _ => e / 4 != sl) }) }

/-- R248: a command of a cohort that ends reads what the cohort's tile store holds then. -/
def WellSrc.keep (k : Nat) (tile : Mem) : WellSrc → WellSrc
  | .global r off => .global r off
  | .tile j off xs => if j = k then .kept tile off xs else .tile j off xs
  | .kept t off xs => .kept t off xs

/-- R248: a command of a cohort that ends. -/
def WellBody.keep (k : Nat) (tile : Mem) : WellBody → WellBody
  | .load kind src first count n => .load kind (src.keep k tile) first count n
  | .sweep beta n classes ph src => .sweep beta n classes ph (src.map (fun p => (p.1.keep k tile, p.2)))
  | b => b

/-- R154, R445: a side of a copy of a cohort that ends; the tile store that it still writes is discarded. -/
def CopySide.keep (tile : Mem) : CopySide → CopySide
  | .tile off stride xs => .kept tile off stride xs
  | x => x

/-- R154, R248, R445: the well commands and the copies of a cohort that ends, or is killed, still go on. -/
def keepTile (s : State) (k : Nat) (tile : Mem) : State :=
  { s with
    wells := s.wells.mapAll (fun _ x =>
      { x with queue := x.queue.map (fun c => { c with body := c.body.keep k tile }) })
    copies := s.copies.mapAll (fun _ c =>
      if c.cohort = k && c.queue.isNone then { c with src := c.src.keep tile, dst := c.dst.keep [] } else c) }

/-- R57, R142, R163, R223, R366: a cohort all of whose crews have ended. A task ended by a kill writes no record. -/
def endCohort (s : State) (k cid : Nat) (killed : Bool) : State :=
  match s.cohorts.find k with
  | none => s
  | some c =>
    if c.state = .ended then s
    else
      let s := if killed then s
        else
          match s.streams.find ((streamKey c).getD (savedKey k)) with
          | some st => retireStream s cid c st
          | none => retireCohort s cid c
      let s := keepTile (endStream s c) k c.tile
      let need := ((s.launches.find c.launch).map cohortSump).getD 0
      let s := updCtx s c.ctx (fun x => { x with sumpUsed := x.sumpUsed - need })
      let s := updCohort s k (fun c => { c with state := .ended, slot := none, alloc := 0, tile := [], kill := false })
      let s := updCore s c.core (fun u => { u with launchQ := u.launchQ.filter (· != k) })
      let s := { s with spgrow := s.spgrow.filter (fun p => p.cohort != k)
                        launches := s.launches.change c.launch (fun l => { l with live := l.live - 1 }) }
      wakeAll s

/-- R305: the clk that a crew spent RUNNING since its group's decision. -/
def runCycles (s : State) (cr : Crew) : Nat :=
  cr.runClk + (match cr.runFrom with | some t => crewClk s cr - t | none => 0)

/-- The key of a sibling: group·64 + index (R282). -/
def sibKey (cr : Crew) : Option Nat := if cr.sib = BitVec.allOnes 32 then none else some cr.sib.toNat

/-- R305: adds an ended crew's cycles to its sibling's account. -/
def chargeSibling (s : State) (cr : Crew) : State :=
  match sibKey cr with
  | none => s
  | some k => updCtx s cr.ctx (fun c =>
      { c with sibs := c.sibs.change k (fun x => { x with cyc := x.cyc + runCycles s cr }) })

/-- How a crew ends, for the locks it holds (R211). -/
inductive Ending
  /-- by EXIT: GRANTED_BROKEN -/
  | exited
  /-- by kill or context error: GRANTED_BROKEN -/
  | broken
  /-- cancelled at a SIBCHK or the RTT after one: as LUNLOCK -/
  | released
deriving DecidableEq, Repr

/-- The accesses that end with their crew: what a split waits for and no other effect depends on (R214). -/
def AccKind.endsWithCrew : AccKind → Bool
  | .lock _ | .spgrow => true
  | _ => false

/-- Drops the accesses that end with a crew. -/
def dropAccesses (s : State) (cid : Nat) : State :=
  let mine := s.accs.filter (fun p => p.2.crew == cid && p.2.kind.endsWithCrew)
  { s with accs := s.accs.keep (fun _ a => !(a.crew == cid && a.kind.endsWithCrew))
           spgrow := s.spgrow.filter (fun p => !mine.any (fun m => m.1 == p.acc)) }

/-- The choice that follows a chosen split's: the next member of its packed group (R38). -/
def Focus.next (f : Focus) : Option Focus :=
  match f.more with
  | [] => none
  | (c, k) :: ms => some { crew := c, split := k, more := ms }

/-- A crew that no longer runs is not chosen to issue. -/
def unfocusCrew (s : State) (cid : Nat) : State :=
  match s.focus with
  | some f => if f.crew = cid then { s with focus := f.next } else s
  | none => s

/-- R49, R211: a crew ends: its locks pass on, its waiters leave, its registers and splits are freed. Its accesses
in flight are still performed (R459). -/
def endCrewOnly (s : State) (cid : Nat) (how : Ending) : State :=
  match s.crews.find cid with
  | none => s
  | some cr =>
    if cr.state = .ended then s
    else
      let s := dropAccesses (dropWaiters s cid) cid
      let s := cr.locks.foldl (fun s h =>
        leaveLock s cid (match how with | .broken | .exited => 1 | .released => 0) h.pline) s
      let s := chargeSibling s cr
      let u := unitOf s cr
      let s := updCtx s cr.ctx (fun c => { c with sumpUsed := c.sumpUsed - cr.overflow * splitBytes cr.w0 })
      let s := updCrew s cid (fun c =>
        { c with state := .ended, splits := [], regs := [], rmap := [], lastUse := [], locks := [], deferred := []
                 runFrom := none, exited := how == .exited })
      let s := unfocusCrew s cid
      wakeRows (if cr.engine = .service then { s with service := none } else s) u

/-- Whether every crew of a cohort has ended. -/
def cohortDone (s : State) (k : Nat) : Bool := (crewsOf s k).all (fun p => p.2.state == .ended)

/-- R57, R223: a cohort whose crews have all ended ends, once its stream's pass or drain in progress is complete. -/
def endDone (s : State) (k cid : Nat) : State :=
  if cohortDone s k && !(s.cohorts.find k).any (streamBusy s) then endCohort s k cid false else s

/-- R50: crews that a REFORM left without lanes end with the last crew that has any (log entry 13). -/
def endIdle (s : State) (k : Nat) : State :=
  let cs := (crewsOf s k).filter (fun p => p.2.engine == .core && p.2.state != .ended)
  if cs.any (fun p => p.2.splits.any (fun sp => sp.mask != 0)) then s
  else cs.foldl (fun s p => endCrewOnly s p.1 .exited) s

/-- R314: the EKIND of a crew's engine. -/
def engineKind : Engine → Nat
  | .core => 0
  | .control => 1
  | .service => 6

/-- R314: the EID of a crew's engine. -/
def engineId (s : State) (cr : Crew) : Nat :=
  match cr.engine with
  | .core => unitOf s cr
  | .control => Config.clusterOfUnit (unitOf s cr)
  | .service => 0

/-- R395, R396: a context error is raised on behalf of a crew; the crew ends with it. -/
def raiseCtxError (s : State) (ctx cause : Nat) (cid : Option Nat) : State :=
  let cr := cid.bind s.crews.find
  let ch := cr.bind (fun c => s.cohorts.find c.cohort)
  let e : CtxErr :=
    { cause := cause
      queue := (ch.map (·.queue)).getD 0
      cseq := (ch.map (·.cseq)).getD 0
      ekind := (cr.map (fun c => engineKind c.engine)).getD 0
      eid := (cr.map (fun c => engineId s c)).getD 0 }
  let s := updCtx s ctx (fun c => if c.err.isNone then { c with err := some e } else c)
  match cid with
  | some k => endCrewOnly s k .broken
  | none => s

/-- The crew ends, and with it what its end completes: barriers (R46), a REFORM that waits for it (R60) and, with
the last crew, its cohort. -/
def endCrew (s : State) (cid : Nat) (how : Ending) : State :=
  match s.crews.find cid with
  | none => s
  | some cr =>
    let s := endCrewOnly s cid how
    -- R325: reports that wait find no live lane
    let s := if how == .exited && !cr.deferred.isEmpty then raiseCtxError s cr.ctx 0x20 (some cid) else s
    let s := endIdle s cr.cohort
    let s := reformCheck (barriersCheck s cr.cohort) cr.cohort
    endDone s cr.cohort cid

/-- A cohort is to be killed (R245): no crew of it issues any more. -/
def killCohort (s : State) (k : Nat) : State :=
  updCohort s k (fun c => if c.state = .ended then c else { c with kill := true })

/-- R335: what kills a crew's cohort; the service core's program, which belongs to none, ends with a context error. -/
def killCrew (s : State) (cr : Crew) : State :=
  if cr.engine = .service then raiseCtxError s cr.ctx 0x0F (some cr.cid) else killCohort s cr.cohort

/-- R325: a deferred report for the lanes of the split that issued the instruction; a fifth ends the crew, and one for a
crew whose lanes have all exited is a context error. -/
def deferReport (s : State) (cid : Nat) (lanes : Mask) (r : Report) : State :=
  match s.crews.find cid with
  | none => s
  | some cr =>
    if cr.state = .ended then (if cr.exited then raiseCtxError s cr.ctx 0x20 (some cid) else s)
    else if cr.deferred.length < 4 then
      updCrew s cid (fun c => { c with deferred := c.deferred ++ [{ report := { r with defer := true }, lanes := lanes }] })
    else raiseCtxError s cr.ctx 0x21 (some cid)

end Sys2Proof.Machine
end

