-- ==== Sys2Proof/Machine/Hot.lean ====
section
/-! DEFINITION. Hot.lean: hotness samples and the dies' counting tables (R322, R323). -/
namespace Sys2Proof.Machine

/-- R323: a PAGE_HOT record. -/
def hotRecord (s : State) (die ctx page count : Nat) : BitVec 256 :=
  record256 [(192, s.dt), (120, page * 8192), (108, ctx), (106, die), (16, count), (0, 0x82)]

/-- R323: tries to post the notification of a tracked page; the entry is QUEUED, or PENDING while the ring is full. -/
def hotNotify (s : State) (die i : Nat) (h : HotEntry) : State :=
  match s.ctxs.find h.ctx with
  | none => s
  | some c =>
    let full := ringBusy s c.evtRing
    let s := if full then s else ringPost s c.evtRing (hotRecord s die h.ctx h.page h.count)
    updDie s die (fun d => { d with hot := d.hot.put i { h with state := if full then .pending else .queued } })

/-- The lowest index of the counting table that is free (R323). -/
def freeIndex (m : SMap HotEntry) : Nat → Nat → Option Nat
  | 0, _ => none
  | n + 1, i => if (m.find i).isNone then some i else freeIndex m n (i + 1)

/-- R323: a sample of an untracked page. -/
def hotInsert (s : State) (die ctx page : Nat) : State :=
  let m := ((s.dies[die]?).map (·.hot)).getD []
  let e : HotEntry := { ctx := ctx, page := page, count := 1, state := .counting }
  let at_ (i : Nat) : State := updDie s die (fun d => { d with hot := d.hot.put i e })
  if m.length < 4096 then
    match freeIndex m 4096 0 with
    | some i => at_ i
    | none => s
  else
    match leastBy (fun p => p.2.count) (m.filter (fun p => p.2.state == .counting)) with
    | some p => at_ p.1
    | none =>
      -- the sample is dropped and counted
      match s.ctxs.find ctx with
      | some c => ringDrop s c.smpRing
      | none => s

/-- R323: a sample updates the die's counting table. -/
def hotTable (s : State) (die ctx page thresh : Nat) : State :=
  let m := ((s.dies[die]?).map (·.hot)).getD []
  let s' := match m.find? (fun p => p.2.ctx == ctx && p.2.page == page) with
    | none => hotInsert s die ctx page
    | some p => updDie s die (fun d => { d with hot := d.hot.put p.1 { p.2 with count := Nat.min (p.2.count + 1) 65535 } })
  match (((s'.dies[die]?).map (·.hot)).getD []).find? (fun p => p.2.ctx == ctx && p.2.page == page) with
  | none => s'
  | some p =>
    match p.2.state with
    | .counting => if thresh ≤ p.2.count then hotNotify s' die p.1 p.2 else s'
    | .pending => hotNotify s' die p.1 p.2
    | .queued => s'

/-- The engine that makes a demand request (R314, R322). -/
structure Requests where
  die   : Nat
  ekind : Nat
  eid   : Nat

/-- R322: a sample of an access at a virtual address. -/
def takeSample (s : State) (c : Context) (ctx va acc : Nat) (q : Requests) : State :=
  let r := record256 [(192, s.dt), (120, va / 128 * 128), (108, q.eid), (104, q.ekind), (100, acc)]
  let s := ctxPost s ctx false r
  hotTable s q.die ctx (va / 8192) c.hotThresh

/-- R322: the request after `n` others of an engine for a context; every 2^LOGN-th is sampled. -/
def sampleAt (s : State) (n ctx va acc : Nat) (q : Requests) : State :=
  match s.ctxs.find ctx with
  | none => s
  | some c => if c.hotEn && decide ((n + 1) % 2 ^ c.hotLogN = 0) then takeSample s c ctx va acc q else s

/-- R322: a demand line request of a core or control core. -/
def countCore (s : State) (cr : Crew) (va acc : Nat) : State :=
  let u := unitOf s cr
  let n := SMap.getD (coreUnit s u).sampleCnt (2 * cr.ctx) 0
  let s := updCore s u (fun x => { x with sampleCnt := x.sampleCnt.put (2 * cr.ctx) (n + 1) })
  sampleAt s n cr.ctx va acc { die := Config.dieOfUnit u, ekind := engineKind cr.engine, eid := engineId s cr }

/-- R322: a demand line request of a core's copy engine. -/
def countCopy (s : State) (u ctx va acc : Nat) : State :=
  let n := SMap.getD (coreUnit s u).sampleCnt (2 * ctx + 1) 0
  let s := updCore s u (fun x => { x with sampleCnt := x.sampleCnt.put (2 * ctx + 1) (n + 1) })
  sampleAt s n ctx va acc { die := Config.dieOfUnit u, ekind := 3, eid := u }

/-- R322: a demand line request of a matrix engine's load pipes. -/
def countMatrix (s : State) (cl ctx va acc : Nat) : State :=
  let n := SMap.getD (((s.clusters.find cl).map (·.sampleCnt)).getD []) ctx 0
  let s := { s with clusters := s.clusters.change cl (fun x => { x with sampleCnt := x.sampleCnt.put ctx (n + 1) }) }
  sampleAt s n ctx va acc { die := cl / 16, ekind := 2, eid := cl }

/-- R322: a demand line request of a well streamer. -/
def countWell (s : State) (w ctx va acc : Nat) : State :=
  let n := SMap.getD (((s.wells.find w).map (·.sampleCnt)).getD []) ctx 0
  let s := { s with wells := s.wells.change w (fun x => { x with sampleCnt := x.sampleCnt.put ctx (n + 1) }) }
  sampleAt s n ctx va acc { die := Config.dieOfUnit (w / 2), ekind := 4, eid := w }

end Sys2Proof.Machine
end

