-- ==== Sys2Proof/Machine/Ops.lean ====
section
/-! DEFINITION. Ops.lean: instruction fetch, block entry, taking a trap and returning from one, and the checks and
completion that every instruction of a split shares (R87 to R100, R325 to R328). -/
namespace Sys2Proof.Machine

-- fetch (R186, R187, R319)

/-- What a fetch answers. -/
inductive Fetched
  | word (w : W64)
  /-- waits for a page fault of this tag -/
  | fault (tag : Nat)
  /-- waits for its stack, a closed region or a fault tag -/
  | stall (va : Nat)
  | violation (va : Nat)
  /-- uncorrectable: the cohort is killed (R335) -/
  | kill
deriving DecidableEq, Repr

/-- The requester's fields of a crew's fault record (R314). -/
def crewRequester (s : State) (cr : Crew) (path acc : Nat) : Requester :=
  let ch := s.cohorts.find cr.cohort
  { ekind := engineKind cr.engine, eid := engineId s cr, queue := (ch.map (·.queue)).getD 0
    cseq := (ch.map (·.cseq)).getD 0, path := path, acc := acc }

/-- Fetches a code line into the crew's instruction cache (R186), a demand request (R159, R322); one that no cache above
the DRAM holds is read from its stack first. -/
def fetchLine (s : State) (cr : Crew) (vline : Nat) : Fetched × State :=
  let u := unitOf s cr
  match icFind s u cr.ctx vline with
  | some _ => (.word 0, s)
  | none =>
    let va := vline * 128
    let (x, s) := translate s (some u) (Config.dieOfUnit u) cr.ctx va { x := true } true
    match x with
    | .ok pa =>
      if isClosed s pa then (.stall va, s)
      else if needsFill s (lineOf pa) then (.stall va, askFill s (lineOf pa))
      else if lostGranule s pa || lostGranule s (pa + 64) then (.kill, s)
      else
        (.word 0, icFill (countCore (touchWindows s pa) cr va 2) u { ctx := cr.ctx, vline := vline, bytes := readHome s pa 128 })
    | .bad _ => (.violation va, s)
    | .violation => (.violation va, s)
    | .stall _ => (.stall va, s)
    | .notPresent lvl =>
      match joinFault s cr.ctx va lvl (crewRequester s cr 6 2) with
      | (some tag, s) => (.fault tag, s)
      | (none, s) => (.stall va, s)

/-- Fetches several code lines; the first that does not answer a word decides. -/
def fetchLines (s : State) (cr : Crew) : List Nat → Fetched × State
  | [] => (.word 0, s)
  | v :: vs =>
    match fetchLine s cr v with
    | (.word _, s) => fetchLines s cr vs
    | r => r

/-- The word at a virtual address, fetched. -/
def fetchWord (s : State) (cr : Crew) (va : Nat) : Fetched × State :=
  match fetchLine s cr (va / 128) with
  | (.word _, s) =>
    match icFind s (unitOf s cr) cr.ctx (va / 128) with
    | some e => (.word (BitVec.ofNat 64 (leNat ((e.bytes.drop (va % 128)).take 8))), s)
    | none => (.stall va, s)
  | r => r

-- traps (R325 to R328)

/-- R327: the byte offset in the code segment where a split stands. -/
def Place.offset : Place → Int
  | .word off => off
  | .header off _ => off

/-- R335, R327, R328: a trap that no handler takes ends the crew with CONTEXT_ERROR; UNCORRECTABLE kills the
cohort. -/
def trapUnhandled (s : State) (cid : Nat) (code : Nat) : State :=
  match s.crews.find cid with
  | none => s
  | some cr =>
    if code = 0x0F ∧ cr.engine ≠ .service then killCohort s cr.cohort else raiseCtxError s cr.ctx code (some cid)

/-- R327: a trap is delivered to a split: TRAPCODE, TRAPPC, TRAPADDR and TRAPADDRH take the report, the result queue
and the resume point are saved, and the split goes to the header at TRAPOFF with its mask unchanged. Without a
handler, or inside one, R327 and R328 apply. -/
def takeTrap (s : State) (cid sid : Nat) (resume : Place) (r : Report) : State :=
  match s.crews.find cid with
  | none => s
  | some cr =>
    match cr.split sid, (launchOf s cr).bind (·.trapoff) with
    | some sp, some off =>
      if sp.trap.inHandler then trapUnhandled s cid r.code
      else
        let s := if r.code = 0x15 then updCrew s cid (fun cr => { cr with ignoreCancel := true }) else s
        updSplit s cid sid (fun sp =>
          { sp with
            place := .header off .trapDelivery
            state := .ready
            mark := none
            trap := { inHandler := true
                      code := BitVec.ofNat 32 (r.code + (if r.defer then 256 else 0))
                      pc := BitVec.ofInt 32 resume.offset
                      addr := r.addr, addrh := r.addrh.setWidth 32
                      written := false, savedQueue := sp.queue, resume := resume, block := sp.block
                      cancelled := r.code = 0x15 && !r.defer } })
    | _, _ => trapUnhandled s cid r.code

/-- R328: the return from a trap handler: the saved queue comes back, and the split resumes at the resume point, or
enters the header at TRAPPC where the handler wrote it. After CANCELLED the crew ends (R302). -/
def returnFromTrap (s : State) (cid sid : Nat) : State :=
  match (s.crews.find cid).bind (fun cr => cr.split sid) with
  | none => s
  | some sp =>
    if sp.trap.cancelled then endCrew s cid .released
    else
      updSplit s cid sid (fun sp =>
        { sp with
          queue := sp.trap.savedQueue
          place := if sp.trap.written then .header sp.trap.pc.toNat .rtt else sp.trap.resume
          block := if sp.trap.written then none else sp.trap.block
          trap := { sp.trap with inHandler := false, savedQueue := [] } })

-- cancellation (R302, R549)

/-- R302: whether a decision at DDT is seen at a core DT: never before, always from 64 ticks after, either in
between. -/
def ddtSeen (s : State) (d ddt : Nat) : Bool × State :=
  if d < ddt then (false, s)
  else if ddt + 64 ≤ d then (true, s)
  else (Config.freeBit s.fresh, { s with fresh := s.fresh + 1 })

/-- R302: whether a crew has an ATOMO or REDS that is incomplete. -/
def orderedOut (s : State) (cid : Nat) : Bool :=
  s.accs.any (fun p => p.2.crew == cid && (match p.2.kind with
    | .atomo _ _ => true
    | .reds _ _ => true
    | _ => false))

/-- R302: whether a block header or a lock wait is a cancellation point of a crew, which cancels. `held` are the
locks that do not count. -/
def cancelsHere (s : State) (cr : Crew) : Bool × State :=
  match sibKey cr with
  | none => (false, s)
  | some k =>
    match (s.ctxs.find cr.ctx).bind (fun c => c.sibs.find k) with
    | some x =>
      if x.state = .cancelling && !cr.ignoreCancel && cr.locks.isEmpty && !orderedOut s cr.cid then
        ddtSeen s (crewDT s cr) x.ddt
      else (false, s)
    | none => (false, s)

-- block entry (R88, R89, R619)

/-- R87: the fields of a header word. -/
def hdrLen (w : W64) : Nat := (w.extractLsb' 56 8).toNat
/-- R87. -/
def hdrKind (w : W64) : Option HdrKind :=
  match (w.extractLsb' 8 8).toNat with
  | 0 => some .plain | 1 => some .join | 2 => some .loop | 3 => some .entry | 4 => some .cont | 5 => some .trap
  | _ => none
/-- R87. -/
def hdrMagic (w : W64) : Bool := w.extractLsb' 0 8 == 0xB5

/-- R87: the block of a header word at an offset. -/
def blockOf (w : W64) (off : Nat) (k : HdrKind) (how : Entering) : Block :=
  { off := off, len := hdrLen w, rcv := w.extractLsb' 40 16, live := w.extractLsb' 24 16
    pref := (w.extractLsb' 16 8).toNat, kind := k, how := how }

/-- R88: whether a KIND may be reached in a way. -/
def kindAllows (k : HdrKind) (how : Entering) : Bool :=
  match k, how with
  | .plain, .branch | .plain, .fall | .plain, .call | .plain, .ret | .plain, .rtt => true
  | .loop, .branch | .loop, .fall | .loop, .call | .loop, .ret | .loop, .rtt => true
  | .join, .branch | .join, .fall | .join, .rtt => true
  | .entry, .launch | .entry, .successor _ => true
  | .cont, .resume => true
  | .trap, .trapDelivery => true
  | _, _ => false

/-- R65, R88: whether a KIND clears the queue. -/
def kindClears : HdrKind → Bool
  | .plain | .loop => false
  | _ => true

/-- R138, R326: the address of a report, in two parts. -/
def reportVA (code va : Nat) : Report :=
  { code := code, addr := BitVec.ofNat 64 va, addrh := BitVec.ofNat 8 (va / 2 ^ 64) }

/-- Sets a split's state. -/
def setState (s : State) (cid sid : Nat) (st : SplitState) : State := updSplit s cid sid (fun sp => { sp with state := st })

/-- R49: the registers of a keep mask within LIVE. -/
def keptRegs (keep : W64) (live : BitVec 16) : List Nat :=
  (List.range 64).filter (fun r => keep.getLsbD r && liveIn live r)

/-- R49, R68, R88, R438: what a valid header does to the split that enters it. -/
def enterBlock (s : State) (cid sid : Nat) (b : Block) : State :=
  match s.crews.find cid with
  | none => s
  | some cr =>
    match cr.split sid with
    | none => s
    | some sp =>
      let lanes := sp.lanes cr.width
      let keep (r : Nat) : Bool :=
        match b.kind, b.how with
        | .trap, _ => true
        | .entry, .successor k => k.getLsbD r && liveIn b.live r
        | .entry, _ => true
        | _, _ => liveIn b.live r
      let kept := keptRegs (match b.how with | .successor k => k | _ => 0) b.live
      let joins := b.kind = .join && sp.recon.head?.any (fun r => r.target == b.off)
      let others := cr.splits.filter (fun x => x.id != sid && sp.recon.head?.any (fun r => x.recon.contains r))
      let refused := joins && others.all (fun x => x.state == .joinWait && x.recon.head? == sp.recon.head?)
        && others.any (fun x => x.rstack != sp.rstack)
      if !kept.all (fun r => lanes.all (cr.isFull r)) then
        setState s cid sid (.waitOperand (.full kept [] sp.mask))
      else if refused then takeTrap s cid sid (.header b.off b.how) { code := 0x02 }
      else
        let s := updCrew s cid (fun c => (c.freeRegs lanes keep).updSplit sid (fun sp =>
          { sp with place := .word (b.off + 8), block := some b
                    queue := if kindClears b.kind then [] else sp.queue }))
        let s := wakeRows s (unitOf s cr)
        if joins then joinCheck (updCrew s cid (fun c => c.updSplit sid c.arrive)) cid else s

/-- R89, R132, R282, R302, R619: a split enters the header at an offset of its code segment. -/
def enterHeader (s : State) (cid sid : Nat) (off : Int) (how : Entering) : State :=
  match s.crews.find cid with
  | none => s
  | some cr =>
    match launchOf s cr, cr.split sid with
    | some ln, some sp =>
      let (cancel, s) := cancelsHere s cr
      if cancel then endCrew s cid .broken
      else if off < 0 || (ln.seglen : Int) < off + 8 then
        takeTrap s cid sid (.header off how) { code := 0x06, addr := BitVec.ofInt 64 off }
      else if 2 ^ 72 < ln.seg + ln.seglen then
        takeTrap s cid sid (.header off how) (reportVA 0x09 (ln.seg + off.toNat))
      else
        let o := off.toNat
        match fetchWord s cr (ln.seg + o) with
        | (.stall va, s) => setState s cid sid (.waitOperand (.page va))
        | (.fault tag, s) => setState s cid sid (.waitOperand (.fetch tag))
        | (.violation _, s) => takeTrap s cid sid (.header off how) (reportVA 0x09 (ln.seg + o))
        | (.kill, s) => killCrew s cr
        | (.word w, s) =>
          match hdrKind w with
          | none => takeTrap s cid sid (.header off how) { code := 0x02 }
          | some k =>
            let joinBad := sp.recon.head?.any (fun r => r.target == o) && k != .join
            if !hdrMagic w || hdrLen w = 0 || !kindAllows k how || joinBad then
              takeTrap s cid sid (.header off how) { code := 0x02 }
            else
              let b := blockOf w o k how
              if ln.seglen < b.next then
                takeTrap s cid sid (.header off how) { code := 0x06, addr := BitVec.ofInt 64 off }
              else
                let first := (ln.seg + o) / 128
                let last := (ln.seg + b.next - 1) / 128
                match fetchLines s cr ((List.range (last - first + 1)).map (· + first)) with
                | (.word _, s) => enterBlock s cid sid b
                | (.stall va, s) => setState s cid sid (.waitOperand (.page va))
                | (.fault tag, s) => setState s cid sid (.waitOperand (.fetch tag))
                | (.violation va, s) => takeTrap s cid sid (.header off how) (reportVA 0x09 (Nat.max (ln.seg + o) va))
                | (.kill, s) => killCrew s cr
    | _, _ => s

-- deferred reports (R325)

/-- R325: whether a split stands at a boundary at which it takes deferred reports: its wait, if it had one, has
ended. -/
def Split.takes (sp : Split) : Bool := sp.state == .ready && !sp.trap.inHandler && sp.mask != 0

/-- R325: the split that holds the lowest-numbered of some lanes that is still live. -/
def Crew.holderOf (cr : Crew) (lanes : Mask) : Option Split :=
  match maskLanes (lanes &&& unionMask cr.splits) cr.width with
  | [] => none
  | l :: _ => cr.splits.find? (fun sp => sp.mask.getLsbD l)

/-- R325: whether a deferred report can be dealt with now. -/
def Crew.dueNow (cr : Crew) (d : Deferred) : Bool :=
  match cr.holderOf d.lanes with
  | none => true
  | some sp => sp.takes

/-- R325: whether a deferred report of a crew can be dealt with now. -/
def deferredDue (cr : Crew) : Bool := cr.deferred.any cr.dueNow

/-- R325: whether the first deferred report that can be dealt with is one for a split. -/
def deferredFor (cr : Crew) (sid : Nat) : Bool :=
  match cr.deferred.find? cr.dueNow with
  | some d => (cr.holderOf d.lanes).any (fun x => x.id == sid)
  | none => false

/-- R325: the first deferred report of a crew that can be dealt with is delivered to its split; with no live lane
left, the crew ends. -/
def deliverDeferred (s : State) (cid : Nat) : State :=
  match s.crews.find cid with
  | none => s
  | some cr =>
    match cr.deferred.find? cr.dueNow with
    | none => s
    | some d =>
      if cr.state != .running then s
      else
        match cr.holderOf d.lanes with
        | none => raiseCtxError s cr.ctx 0x20 (some cid)
        | some sp =>
          takeTrap (updCrew s cid (fun c => { c with deferred := c.deferred.erase d })) cid sp.id sp.place d.report

-- the shared checks and completion of an instruction (R100)

/-- The words of an instruction: 2 where it takes an extension word (R96). -/
def Instr.words : Instr → Nat
  | .exit _ | .exitSuccessor _ _ | .reform _ _ | .copy _ _ _ _ _ _ | .brmk _ _ _ _ _ _ _ _
  | .atom _ _ _ _ _ _ _ _ _ _ | .atomo _ _ _ _ _ _ _ _ _ _ | .reds _ _ _ _ _ _ _ _ | .combine _ _
  | .llock _ _ _ _ _ _ | .mma _ _ _ _ _ _ _ _ _ | .mmas _ _ _ _ _ _ _ _ _ | .mgrp _ _ _ _ _ _ _
  | .mdrain _ _ _ _ _ _ _ _ _ _ _ | .mmask _ _ _ | .tilepost _ _ | .tilewait _ _ _ _
  | .wload _ _ _ _ _ _ _ _ _ _ | .wsweep _ _ _ _ _ _ _ | .wkey _ _ _ _ _ | .wkeyPhys _ _ _ | .wkeyDraw _ _ _
  | .wlink _ _ _ _ _ _ | .accept _ _ _ _ _ _ _ _ _ | .ballot _ _ _ | .ringput _ _ _ _ _ => 2
  | _ => 1

/-- R181: whether an instruction makes an access, which an outstanding acquire of its split holds back. -/
def Instr.isAccess : Instr → Bool
  | .ld _ _ _ _ | .st _ _ _ _ | .lds _ _ _ | .sts _ _ _ | .gather _ _ _ | .scatter _ _ _ | .pref _ _ _
  | .copy _ _ _ _ _ _ | .brld _ _ _ _ _ _ | .pin _ _ _ _ _ _ | .atom _ _ _ _ _ _ _ _ _ _
  | .atomo _ _ _ _ _ _ _ _ _ _ | .reds _ _ _ _ _ _ _ _ | .combine _ _ | .llock _ _ _ _ _ _ | .lunlock _ _ _ _
  | .gsig _ _ | .mma _ _ _ _ _ _ _ _ _ | .mmas _ _ _ _ _ _ _ _ _ | .mgrp _ _ _ _ _ _ _ | .mzero _
  | .mdrain _ _ _ _ _ _ _ _ _ _ _ | .mmask _ _ _ | .tilepost _ _ | .tilewait _ _ _ _
  | .wload _ _ _ _ _ _ _ _ _ _ | .wsweep _ _ _ _ _ _ _ | .accept _ _ _ _ _ _ _ _ _ | .ballot _ _ _
  | .ringput _ _ _ _ _ | .stamp _ _ | .sibchk _ _ _ => true
  | _ => false

/-- The instruction being executed: its split, where it stands, and its active lanes. -/
structure Env where
  s     : State
  cid   : Nat
  sid   : Nat
  crew  : Crew
  split : Split
  off   : Nat
  words : Nat
  all   : List Nat
  lanes : List Nat

/-- What an instruction's own effect, or a check before it, answers. -/
inductive Eff
  /-- it is complete, and the split continues after it -/
  | next (s : State)
  /-- it has not begun; it issues again when the wait ends -/
  | hold (w : SplitState) (s : State)
  /-- it has been done, and the split continues after it when the wait ends -/
  | park (w : SplitState) (s : State)
  /-- it has moved or ended the split itself -/
  | go (s : State)
  /-- a precise trap: no effect (R325) -/
  | trap (r : Report)
  /-- a precise trap of which a unit outside the crew has taken note -/
  | trapNoted (r : Report) (s : State)
  /-- a trap that RTT resumes after (R326: SOFTWARE) -/
  | trapAfter (r : Report)

/-- Where a split continues after its instruction. -/
def Env.after (e : Env) : Place := afterWord e.split.block e.off e.words

/-- What an effect does to the split. -/
def Env.perform (e : Env) : Eff → State
  | .next s => updSplit s e.cid e.sid (fun sp => { sp with place := e.after, mark := none })
  | .hold w s => setState s e.cid e.sid w
  | .park w s => updSplit s e.cid e.sid (fun sp => { sp with place := e.after, mark := none, state := w })
  | .go s => s
  | .trap r => takeTrap e.s e.cid e.sid (.word e.off) r
  | .trapNoted r s => takeTrap s e.cid e.sid (.word e.off) r
  | .trapAfter r => takeTrap e.s e.cid e.sid e.after r

/-- R57: whether the splits of a crew may issue. The service core's belongs to no cohort (R24, R33). -/
def crewRuns (s : State) (cr : Crew) : Bool :=
  cr.state == .running
    && (cr.engine == .service
      || (match s.cohorts.find cr.cohort with | some c => !c.kill && c.state == .running | none => false))
    && (match s.ctxs.find cr.ctx with | some c => c.err.isNone && !c.preempted | none => false)

/-- The split whose instruction executes: the focus, at a word of its block. -/
def executing (s : State) : Option (Nat × Nat × Crew × Split × Nat) :=
  match s.focus with
  | none => none
  | some f =>
    match s.crews.find f.crew with
    | none => none
    | some cr =>
      match cr.split f.split with
      | none => none
      | some sp =>
        match sp.place with
        | .word off => if crewRuns s cr && sp.state == .ready then some (f.crew, f.split, cr, sp, off) else none
        | .header _ _ => none

/-- R74: the first source with T = 1 that is empty in an active lane: its register. -/
def emptyTrap (cr : Crew) (lanes : List Nat) : List SrcUse → Option Nat
  | [] => none
  | u :: us =>
    if u.traps && u.regs.any (fun r => lanes.any (fun l => !cr.isFull r l)) then u.regs.head?
    else emptyTrap cr lanes us

/-- R326: the first register of the sources that is marked failed in an active lane: its physical address. -/
def failedSource (cr : Crew) (lanes : List Nat) : List Nat → Option Nat
  | [] => none
  | r :: rs =>
    match lanes.findSome? (fun l => (cr.cell r l).bind (·.failed)) with
    | some a => some a
    | none => failedSource cr lanes rs

/-- The state with the register uses of an instruction noted (R69) and rows given to its destination (R67, R72). -/
def prepare (s : State) (cid : Nat) (used dest : List Nat) : Option State :=
  let s := updCrew s cid (fun c =>
    { (dest.foldl Crew.dropSpill c) with lastUse := used.foldl (fun m r => m.put r s.issues) c.lastUse })
  allocRows s cid dest

/-- What checks 3 to 6 of R100 answer. -/
inductive Vetted
  | idle
  | stop (e : Env) (f : Eff)
  | ok (e : Env)

/-- Checks 3 to 5 of R100 on an instruction of a crew. -/
def staticCheck (s : State) (cr : Crew) (i : Instr) : Option Report :=
  let g := i.sig
  let priv := ((s.ctxs.find cr.ctx).map (·.priv)).getD false
  if !g.eng.runsOn cr.engine then some { code := 0x10 }
  else
    match g.csr.filter (fun n => (0x400 ≤ n.toNat && !priv) || (n.toNat == 0x405 && cr.engine != .service)) with
    | some n => some { code := 0x04, addr := n.setWidth 64 }
    | none => if g.fieldsOk then none else some { code := 0x03 }

/-- R80: the buffer record that an instruction writes. -/
def destRecord (i : Instr) : List (BitVec 4) :=
  match i.sig.dest with
  | .record b => [b]
  | _ => []

/-- Check 6 of R100: the operand state in the active lanes (R72, R74, R75, R80); UNCORRECTABLE of a failed source (R326)
comes after the waits and fills, before rows are given (log entry 116: DESIGN CHOICE). -/
def operandCheck (e : Env) (i : Instr) : Vetted :=
  let g := i.sig
  let cr := e.crew
  let idle := e.lanes.isEmpty
  let srcRegs := if idle then [] else g.srcs.flatMap SrcUse.regs
  let destRegs := if idle then [] else g.dest.regs
  let recs := (g.recs ++ destRecord i).map (·.toNat)
  let notFull (r : Nat) : Bool := e.lanes.any (fun l => !cr.isFull r l)
  match emptyTrap cr e.lanes g.srcs with
  | some r => .stop e (.trap { code := 0x05, addr := BitVec.ofNat 64 r })
  | none =>
    if (srcRegs ++ destRegs).any notFull || recs.any (fun b => !(cr.record b).full) then
      .stop e (.hold (.waitOperand (.full (srcRegs ++ destRegs) recs (maskOf e.lanes))) e.s)
    else if Instr.isAccess i && !e.split.acq.isEmpty then .stop e (.hold (.waitOperand .acquire) e.s)
    else
      let spilled := srcRegs.filter cr.isSpilled ++ destRegs.filter (fun r => cr.isSpilled r && !cr.covers r e.lanes)
      if !spilled.isEmpty then .stop e (.hold (.waitFill spilled.eraseDups) e.s)
      else
        match failedSource cr e.lanes srcRegs with
        | some a => .stop e (.trap { code := 0x0F, addr := BitVec.ofNat 64 a })
        | none =>
          match g.recs.findSome? (fun b => (cr.record b.toNat).failed) with
          | some a => .stop e (.trap { code := 0x0F, addr := BitVec.ofNat 64 a })
          | none =>
            match prepare e.s e.cid (srcRegs ++ destRegs) destRegs with
            | none => .stop e (.hold (.waitRows destRegs) e.s)
            | some s =>
              match s.crews.find e.cid with
              | none => .idle
              | some cr => .ok { e with s := s, crew := cr }

/-- R318: whether a crew's access stands in its core's fault buffer. -/
def faultHeld (s : State) (cid u : Nat) : Bool :=
  (coreUnit s u).faultBuf.any (fun a => ((s.accs.find a).map (·.crew)) == some cid)

/-- R330: whether an entry of a restored crew's operand log, resolved while it was saved, is still to be replayed. -/
def replayOwed (s : State) (cr : Crew) : Bool :=
  cr.replay.any (fun a => (s.accs.find a).any (fun x => x.lines.all (fun l => match l.st with
    | .faulted _ => false
    | _ => true)))

/-- Checks 3 to 6 of R100 on the executing split's instruction; a restored crew issues nothing before its time
(R188), nor before the replay of its log entries (R330). -/
def vet (s : State) (i : Instr) : Vetted :=
  match executing s with
  | none => .idle
  | some (cid, sid, cr, sp, off) =>
    let e : Env :=
      { s := s, cid := cid, sid := sid, crew := cr, split := sp, off := off, words := Instr.words i
        all := sp.lanes cr.width, lanes := sp.active cr.width i.sig.guard }
    if crewDT s cr < cr.restore then .stop e (.hold (.waitOperand (.untilDT cr.restore)) s)
    else if faultHeld s cid (unitOf s cr) || replayOwed s cr then .stop e (.hold (.waitOperand .log) s)
    else
      match staticCheck s cr i with
      | some r => .stop e (.trap r)
      | none => operandCheck e i

/-- R14, R37, R67, R72: a crew's registers lie, in `t`, as they lay in `s`: no rows taken, no spilled copy discarded. -/
def unprepare (s t : State) (cid : Nat) : State :=
  match s.crews.find cid with
  | some cr => updCrew t cid (fun c => { c with rmap := cr.rmap, lastUse := cr.lastUse })
  | none => t

/-- R14: what the destination of an access was, before its instruction took rows or dropped a spilled copy for it. -/
def Crew.undoOf (cr : Crew) (a : Access) : List Undo :=
  match a.dest with
  | some (r, n) => (List.range n).map (fun k =>
      { reg := r + k, place := cr.rmap.find (r + k), cells := a.lanes.map (fun q => (q.lane, cr.anyCell (r + k) q.lane)) })
  | none => []

/-- Whether an access may end with a precise trap after its instruction has posted it (R207, R360, R364). -/
def Access.mayTrap (a : Access) : Bool :=
  a.rep || (match a.kind with
    | .lock _ => true
    | _ => false)

/-- An access with what its destination was to a crew, where it may still trap. -/
def Access.keepUndo (cr : Crew) (a : Access) : Access :=
  if a.mayTrap then
    { a with undo := cr.undoOf a
             undoRec := match a.kind with
               | .record b _ => some (b, cr.record b)
               | _ => none }
  else a

/-- R14: the access that an instruction in `s` has posted in `t` keeps what its destination was in `s`. -/
def keepUndo (s t : State) (cid : Nat) : State :=
  match s.crews.find cid, s.accs.find s.nextId with
  | some cr, none => updAcc t s.nextId (Access.keepUndo cr)
  | _, _ => t

/-- R14, R37: what an instruction that passed the checks in `s` does. One that traps, or has not begun, leaves its crew's
registers as they stood. -/
def Env.settle (e : Env) (s : State) (f : Eff) : State :=
  match f with
  | .trap r => takeTrap s e.cid e.sid (.word e.off) r
  | .trapAfter r => takeTrap s e.cid e.sid e.after r
  | .trapNoted r t => takeTrap (unprepare s t e.cid) e.cid e.sid (.word e.off) r
  | .hold w t => setState (unprepare s t e.cid) e.cid e.sid w
  | .park w t => e.perform (.park w (keepUndo s t e.cid))
  | f => e.perform f

/-- Issues an instruction: the checks of R100, then its own effect. -/
def issue (s : State) (i : Instr) (body : Env → Eff) : Host.Outcome State Fault Refusal :=
  match vet s i with
  | .idle => .refused .noExecutingSplit
  | .stop e f => .next (e.perform f)
  | .ok e => .next (e.settle s (body e))

-- operands of the executing instruction

/-- An integer or logic source of a lane. -/
def Env.int (e : Env) (w : Width) (a : Src) (l : Nat) : W64 := readSrc e.s e.crew e.split .int w a l

/-- A 32-bit source of a lane. -/
def Env.int32 (e : Env) (a : Src) (l : Nat) : W32 := lo32 (e.int .w32 a l)

/-- A floating source of a lane, as an encoding of its type. -/
def Env.flt (e : Env) (ty : FTy) (a : Src) (l : Nat) : Nat :=
  (readSrc e.s e.crew e.split (.flt ty) .w32 a l).toNat % 2 ^ (fmtOf ty).width

/-- The leading lane (R404): the lowest-numbered active lane. -/
def Env.lead (e : Env) : Nat := e.lanes.headD 0

/-- R62, R78: an instruction of class Q is complete with a value for each active lane and flags. -/
def Env.result (e : Env) (d : Dest) (w : Width) (vals : List (Nat × W64)) (fl : Flags) : Eff :=
  .next (addFlags (writeQ e.s e.cid e.sid d w e.all vals) e.cid fl)

/-- A lane-wise instruction of class Q. -/
def Env.lanewise (e : Env) (d : Dest) (w : Width) (f : Nat → Res) : Eff :=
  let rs := e.lanes.map (fun l => (l, f l))
  e.result d w (rs.map (fun p => (p.1, p.2.bits))) (rs.foldl (fun a p => a ||| p.2.flags) 0)

end Sys2Proof.Machine
end

