-- ==== Sys2Proof/Machine/IntOps.lean ====
section
/-! DEFINITION. IntOps.lean: the integer instructions (R484 to R492, R517, R518, R545) and CVT (R450 to R453) but for
its noise. -/
namespace Sys2Proof.Machine

/-- R485: an integer instruction of two sources, from its exact value. -/
def Env.intBin (e : Env) (d : Dest) (ty : IntTy) (sat : Bool) (a b : Src) (f : Int → Int → Int) : Eff :=
  e.lanewise d ty.operand (fun l =>
    finishInt ty sat (f (readInt ty (e.int ty.operand a l)) (readInt ty (e.int ty.operand b l))))

/-- R485: an integer instruction of one source. -/
def Env.intUn (e : Env) (d : Dest) (ty : IntTy) (sat : Bool) (a : Src) (f : Int → Int) : Eff :=
  e.lanewise d ty.operand (fun l => finishInt ty sat (f (readInt ty (e.int ty.operand a l))))

/-- R484. -/
def execIadd (g : Guard) (d : Dest) (ty : IntTy) (sat : Bool) (a b : Src) (s : State) :
    Host.Outcome State Fault Refusal :=
  issue s (.iadd g d ty sat a b) (fun e => e.intBin d ty sat a b (fun x y => x + y))

/-- R484. -/
def execIsub (g : Guard) (d : Dest) (ty : IntTy) (sat : Bool) (a b : Src) (s : State) :
    Host.Outcome State Fault Refusal :=
  issue s (.isub g d ty sat a b) (fun e => e.intBin d ty sat a b (fun x y => x - y))

/-- R484. -/
def execImul (g : Guard) (d : Dest) (ty : IntTy) (sat : Bool) (a b : Src) (s : State) :
    Host.Outcome State Fault Refusal :=
  issue s (.imul g d ty sat a b) (fun e => e.intBin d ty sat a b (fun x y => x * y))

/-- R484, R485: the high half of the exact product. -/
def mulHigh (ty : IntTy) (x y : Int) : Int := x * y / (2 ^ intWidth ty : Nat)

/-- R484. -/
def execImulh (g : Guard) (d : Dest) (ty : IntTy) (a b : Src) (s : State) : Host.Outcome State Fault Refusal :=
  issue s (.imulh g d ty a b) (fun e => e.intBin d ty false a b (mulHigh ty))

/-- R484, R485: the product is not truncated before c is added. -/
def execImad (g : Guard) (d : Dest) (ty : IntTy) (sat : Bool) (a b c : Src) (s : State) :
    Host.Outcome State Fault Refusal :=
  issue s (.imad g d ty sat a b c) (fun e => e.lanewise d ty.operand (fun l =>
    finishInt ty sat (readInt ty (e.int ty.operand a l) * readInt ty (e.int ty.operand b l)
      + readInt ty (e.int ty.operand c l))))

/-- R491: quotient or remainder of one lane, with its flags; the value is reduced modulo 2^W. -/
def divide (ty : IntTy) (sat rem : Bool) (a b : Int) : Res :=
  let w := intWidth ty
  let q : Int := if b = 0 then (2 ^ w : Nat) - 1 else a.tdiv b
  let r : Int := if b = 0 then a else a - q * b
  let isOver := intSigned ty && decide (b ≠ 0) && decide (q = (2 ^ (w - 1) : Nat)) && sat
  let q := if isOver then q - 1 else q
  let v := if rem then r else q
  { bits := BitVec.ofInt 64 (v % (2 ^ w : Nat))
    flags := Flags.when (decide (b = 0)) Flags.dz ||| Flags.when (isOver && !rem) Flags.sat }

/-- R73: an instruction of class L with results that are due: its destination is marked empty, and the results
arrive as one access. With no active lane it does nothing (R404). -/
def Env.due (e : Env) (dest : DestUse) (kind : AccKind) (ready : Bool) (res : List (Nat × BitVec 128)) (fl : Flags)
    (park : Option SplitState) : Eff :=
  if e.lanes.isEmpty then .next e.s
  else
    let (s, id) := newAccess e.s (fun id =>
      { id := id, crew := e.cid, lanesM := e.split.mask, kind := kind, path := 0, dest := dest.span
        result := res, ready := ready, flags := fl, dtIssue := crewDT e.s e.crew
        lanes := e.lanes.map (fun l => { lane := l, va := 0 }) })
    let s := updCrew s e.cid (fun cr => cr.emptyRegs id e.lanes dest.regs)
    match park with
    | some w => .park w s
    | none => .next s

/-- R490, R491. -/
def execIdiv (g : Guard) (d : Dest) (ty : IntTy) (sat z rem : Bool) (a b : Src) (s : State) :
    Host.Outcome State Fault Refusal :=
  issue s (.idiv g d ty sat z rem a b) (fun e =>
    let num (x : Src) (l : Nat) : Int := readInt ty (e.int ty.operand x l)
    if !z && e.lanes.any (fun l => num b l == 0) then .trap { code := 0x03 }
    else
      let rs := e.lanes.map (fun l => (l, divide ty sat rem (num a l) (num b l)))
      e.due (.l d ty.operand) .value true (rs.map (fun p => (p.1, p.2.bits.setWidth 128)))
        (rs.foldl (fun f p => f ||| p.2.flags) 0) none)

/-- R484. -/
def execImin (g : Guard) (d : Dest) (ty : IntTy) (a b : Src) (s : State) : Host.Outcome State Fault Refusal :=
  issue s (.imin g d ty a b) (fun e => e.intBin d ty false a b (fun x y => if y < x then y else x))

/-- R484. -/
def execImax (g : Guard) (d : Dest) (ty : IntTy) (a b : Src) (s : State) : Host.Outcome State Fault Refusal :=
  issue s (.imax g d ty a b) (fun e => e.intBin d ty false a b (fun x y => if x < y then y else x))

/-- R484. -/
def execIabs (g : Guard) (d : Dest) (ty : IntTy) (sat : Bool) (a : Src) (s : State) :
    Host.Outcome State Fault Refusal :=
  issue s (.iabs g d ty sat a) (fun e => e.intUn d ty sat a (fun x => if x < 0 then -x else x))

/-- R484. -/
def execIneg (g : Guard) (d : Dest) (ty : IntTy) (sat : Bool) (a : Src) (s : State) :
    Host.Outcome State Fault Refusal :=
  issue s (.ineg g d ty sat a) (fun e => e.intUn d ty sat a (fun x => -x))

/-- R487: a condition of ICMP on the operands as integers and as bits. -/
def intCond (c : ICond) (x y : Int) (a b : W64) : Bool :=
  match c with
  | .eq => x == y
  | .ne => x != y
  | .lt => decide (x < y)
  | .le => decide (x ≤ y)
  | .gt => decide (y < x)
  | .ge => decide (y ≤ x)
  | .tst => a &&& b != 0

/-- A value of one bit per lane, written to D and, where PW names one, to a predicate (R79). -/
def Env.bitResult (e : Env) (d : Dest) (pw : Option (BitVec 3)) (bits : List (Nat × Bool)) (fl : Flags) : Eff :=
  let s := writeQ e.s e.cid e.sid d .w32 e.all (bits.map (fun p => (p.1, if p.2 then 1 else 0)))
  let s := match pw with
    | some p => updSplit s e.cid e.sid (fun sp => sp.writePred p.toNat bits)
    | none => s
  .next (addFlags s e.cid fl)

/-- R485: the W bits of an operand that an integer instruction reads. -/
def intBits (ty : IntTy) (x : W64) : W64 := BitVec.ofNat 64 (x.toNat % 2 ^ intWidth ty)

/-- R487. -/
def execIcmp (g : Guard) (d : Dest) (ty : IntTy) (cond : ICond) (pw : Option (BitVec 3)) (a b : Src) (s : State) :
    Host.Outcome State Fault Refusal :=
  issue s (.icmp g d ty cond pw a b) (fun e =>
    e.bitResult d pw (e.lanes.map (fun l =>
      let x := e.int ty.operand a l
      let y := e.int ty.operand b l
      (l, intCond cond (readInt ty x) (readInt ty y) (intBits ty x) (intBits ty y)))) 0)

/-- R492: element i of an operand. -/
def dpElem (ty : NumTy) (x i : Nat) : Int :=
  match ty with
  | .int .s8 => sextNat (x / 256 ^ i) 8
  | .nib .s4 => sextNat (x / 16 ^ i) 4
  | .nib .n4 => ((x / 16 ^ i % 16 : Nat) : Int)
  | _ => ((x / 256 ^ i % 256 : Nat) : Int)

/-- R492: the sum of products of elements. -/
def dotProduct (aty bty : NumTy) (x y : Nat) : Nat → Int
  | 0 => 0
  | n + 1 => dotProduct aty bty x y n + dpElem aty x n * dpElem bty y n

/-- R492. -/
def execIdp4 (g : Guard) (d : Dest) (aty bty : NumTy) (sat : Bool) (a b c : Src) (s : State) :
    Host.Outcome State Fault Refusal :=
  issue s (.idp4 g d aty bty sat a b c) (fun e => e.lanewise d .w32 (fun l =>
    finishInt .s32 sat (readInt .s32 (e.int .w32 c l)
      + dotProduct aty bty (e.int .w32 a l).toNat (e.int .w32 b l).toNat (if idp4Bits aty = 8 then 4 else 8))))

/-- The operand width of a .64 modifier. -/
def widthOf (w64 : Bool) : Width := if w64 then .w64 else .w32

/-- R545. -/
def execSel (g : Guard) (d : Dest) (w64 neg : Bool) (p : BitVec 3) (a b : Src) (s : State) :
    Host.Outcome State Fault Refusal :=
  issue s (.sel g d w64 neg p a b) (fun e => e.lanewise d (widthOf w64) (fun l =>
    { bits := e.int (widthOf w64) (if e.split.pred p.toNat l != neg then a else b) l }))

/-- R517. -/
def execMov (g : Guard) (d : Dest) (w64 : Bool) (a : Src) (s : State) : Host.Outcome State Fault Refusal :=
  issue s (.mov g d w64 a) (fun e => e.lanewise d (widthOf w64) (fun l => { bits := e.int (widthOf w64) a l }))

/-- R518. -/
def execMovi (g : Guard) (d : Dest) (form : MoviForm) (a : Src) (imm : W32) (s : State) :
    Host.Outcome State Fault Refusal :=
  issue s (.movi g d form a imm) (fun e =>
    match form with
    | .plain => e.lanewise d .w32 (fun _ => { bits := imm.setWidth 64 })
    | .sx64 => e.lanewise d .w64 (fun _ => { bits := imm.signExtend 64 })
    | .hi => e.lanewise d .w64 (fun l => { bits := pair (e.int32 a l) imm }))

end Sys2Proof.Machine
end

