-- ==== Sys2Proof/Machine/Access.lean ====
section
/-! DEFINITION. Access.lean: buffer records and the checks of an access (R131 to R141), its line requests (R137), race
tracking (R356 to R360), the store queue's entry (R174) and fences (R178 to R180). -/
namespace Sys2Proof.Machine

-- buffer records (R131, R132)

/-- R131. -/
def recBase (r : BitVec 128) : Nat := (r.extractLsb' 0 72).toNat
/-- R131. -/
def recStride (r : BitVec 128) : Nat := (r.extractLsb' 72 16).toNat
/-- R131. -/
def recExtent (r : BitVec 128) : Nat := (r.extractLsb' 88 32).toNat
/-- R131. -/
def recSwz (r : BitVec 128) : Nat := (r.extractLsb' 120 3).toNat
/-- R131: the R right. -/
def recR (r : BitVec 128) : Bool := r.getLsbD 123
/-- R131: the W right. -/
def recW (r : BitVec 128) : Bool := r.getLsbD 124
/-- R131: the S right. -/
def recS (r : BitVec 128) : Bool := r.getLsbD 125
/-- R131: the X right. -/
def recX (r : BitVec 128) : Bool := r.getLsbD 126
/-- R131: whether accesses take part in race tracking. -/
def recRep (r : BitVec 128) : Bool := r.getLsbD 127
/-- R131. -/
def recSpan (r : BitVec 128) : Nat := recExtent r * recStride r

/-- R132. -/
def recMalformed (r : BitVec 128) : Bool :=
  decide (recStride r = 0) || decide (2 ^ 72 < recBase r + recSpan r)
    || (decide (recSwz r ≠ 0) && (decide (recBase r % 128 ≠ 0) || decide (recSpan r % 128 ≠ 0)))

/-- R136: the swizzle. -/
def swz (o m : Nat) : Nat := o ^^^ ((o / 128 &&& m) * 16)

/-- R134: the address of an offset through a record. -/
def recAddr (r : BitVec 128) (o : Nat) : Nat := recBase r + swz o (recSwz r)

/-- R133, R310: the rights an access needs of its record, as of its page. -/
def recGrants (r : BitVec 128) (n : Need) : Bool :=
  (!n.r || recR r) && (!n.w || recW r) && (!n.x || recX r) && (!n.s || recS r)

/-- R135: the report of the first check of an access that fails: its record `b` with bits `r`, size and alignment,
and the offsets of its active lanes in ascending order. -/
def checkLanes (r : BitVec 128) (b : Nat) (n : Need) (size al : Nat) (os : List Int) : Option Report :=
  if os.isEmpty then none
  else if recMalformed r || !recGrants r n then some { code := 0x09, addr := BitVec.ofNat 64 b }
  else
    match os.find? (fun o => decide (o < 0) || decide ((recSpan r : Int) < o + size)) with
    | some o => some { code := 0x06, addr := BitVec.ofInt 64 o }
    | none =>
      match os.find? (fun o => recAddr r o.toNat % al != 0) with
      | some o => some { code := 0x07, addr := BitVec.ofInt 64 o }
      | none => none

/-- R134: the offset of a lane. -/
def Env.offset (e : Env) (r : BitVec 128) (a : Src) (disp : Int) (l : Nat) : Int :=
  ((e.int32 a l).toNat : Int) * (recStride r : Int) + disp

/-- The bits of a record that an instruction names. -/
def Env.recBits (e : Env) (b : BitVec 4) : BitVec 128 := (e.crew.record b.toNat).bits

-- line requests (R137)

/-- The line requests of some lanes: for each pass, each distinct line. -/
def coalesce : List LaneReq → List LineReq
  | [] => []
  | q :: qs =>
    let l : LineReq := { vline := q.va / 128, pass := q.lane / 32 }
    l :: (coalesce qs).filter (fun x => !(x.vline == l.vline && x.pass == l.pass))

/-- The line requests of a SYNC-path access: each distinct line once (R195). -/
def syncLines : List LaneReq → List LineReq
  | [] => []
  | q :: qs => { vline := q.va / 128 } :: (syncLines qs).filter (fun x => x.vline != q.va / 128)

/-- The engine's L1, where it has one (R147, R494). -/
def Env.hasL1 (e : Env) : Bool := e.crew.engine == .core

/-- R147: a store drops its core's copies of the lines it writes. -/
def dropL1 (s : State) (cr : Crew) (vas : List Nat) : State :=
  let u := unitOf s cr
  vas.foldl (fun s va =>
    match peek s (some u) (Config.dieOfUnit u) cr.ctx va with
    | some pa => l1Drop s (l1Unit s cr pa) (lineOf pa)
    | none => s) s

-- ACCEPT (R294, R295, R407)

/-- R407: the bytes of an accept block. -/
def acceptBytes : Nat := 640

/-- The 16-byte pieces of an accept block at an offset of a record, which the swizzle may part. -/
def acceptPieces (r : BitVec 128) (o : Nat) : List Nat := (List.range 40).map (fun k => recAddr r (o + 16 * k))

/-- The line requests of the accept blocks of some lanes, whose offsets stand in `res`. -/
def acceptLines (r : BitVec 128) (qs : List LaneReq) : List LineReq :=
  coalesce (qs.flatMap (fun q => (acceptPieces r q.res.toNat).map (fun va => { q with va := va })))

/-- R407: a 32-bit number of an accept block. -/
def blockWord (bs : List Byte) (i : Nat) : Nat := leNat ((bs.drop i).take 4)

/-- The walk of R295: what is known of the nodes so far. -/
structure AcceptWalk where
  acc   : List Nat := []
  taken : List Int := []
  dep   : List (Int × Nat) := [(-1, 0)]
  oov   : Bool := false
  badp  : Bool := false
  last  : Int := -1

/-- The depth of a node of the walk. -/
def AcceptWalk.depth (w : AcceptWalk) (p : Int) : Nat :=
  match w.dep.find? (fun x => x.1 == p) with
  | some x => x.2
  | none => 0

/-- R295: one draft node. -/
def AcceptWalk.node (bs : List Byte) (seq : Bool) (v padlo padhi : Nat) (w : AcceptWalk) (i : Nat) : AcceptWalk :=
  let p : Int := if seq then (i : Int) - 1 else
    let b := ((bs.drop (256 + i)).headD 0).toNat
    if b = 0xFF then -1 else b
  if 0 ≤ p && decide ((i : Int) ≤ p) then { w with badp := true }
  else if p = -1 || w.acc.contains p.toNat then
    let d := blockWord bs (4 * i)
    if v ≤ d || (decide (padlo ≤ d) && decide (d < padhi)) then { w with oov := true }
    else if d = blockWord bs (320 + 4 * (p + 1).toNat) && !w.taken.contains p then
      let dep := w.depth p + 1
      { w with acc := i :: w.acc, taken := p :: w.taken, dep := ((i : Int), dep) :: w.dep
               last := if w.depth w.last < dep then i else w.last }
    else w
  else w

/-- R295: the result pair of an accept block. -/
def acceptResult (bs : List Byte) (n padlo padhi v : Nat) (seq : Bool) : BitVec 128 :=
  let w := (List.range n).foldl (AcceptWalk.node bs seq v padlo padhi) {}
  let bonus := blockWord bs (320 + 4 * (w.last + 1).toNat) % 2 ^ 24
  let lo := w.depth w.last * 2 ^ 24 + bonus
  let hi := (if w.oov then 2 ^ 31 else 0) + (if w.badp then 2 ^ 30 else 0) + (if w.last < 0 then 0xFF else w.last.toNat)
  BitVec.ofNat 128 (lo + hi * 2 ^ 32)

-- race tracking (R356 to R360)

/-- R359: an entry as the check of an interval sees it. -/
def Track.at_ (e : Track) (n : BitVec 31) : Track := if e.int = n then e else { int := n }

/-- R359: whether an access of an identity conflicts with an entry. -/
def Track.conflicts (e : Track) (c : W32) (r w : Bool) : Bool :=
  (w && ((e.wv && e.wcoh != c) || (e.rv && (e.rmany || e.rcoh != c)))) || (r && e.wv && e.wcoh != c)

/-- R359: the entry after an access that does not conflict. -/
def Track.after (e : Track) (c : W32) (r w : Bool) : Track :=
  let e := if w then { e with wv := true, wcoh := c } else e
  if r then (if e.rv && e.rcoh != c then { e with rmany := true } else { e with rv := true, rcoh := c }) else e

/-- R358: the entry of a granule of 8 bytes. -/
def trackOf (s : State) (g : Nat) : Track := SMap.getD s.track g {}

/-- R359: checks bytes of an access against their granules, each as (physical address, virtual address); the virtual
address of the first conflict. -/
def raceConflict (s : State) (i : Ident) (r w : Bool) (ps : List (Nat × Nat)) : Option Nat :=
  (ps.find? (fun p => ((trackOf s (p.1 / 8)).at_ i.int).conflicts i.coh r w)).map (fun p => p.2 / 8 * 8)

/-- R359: records an access of a context in the entries of its granules. -/
def raceRecord (s : State) (ctx : Nat) (i : Ident) (r w : Bool) (ps : List (Nat × Nat)) : State :=
  ps.foldl (fun s p =>
    { s with track := s.track.put (p.1 / 8) { ((trackOf s (p.1 / 8)).at_ i.int).after i.coh r w with ctx := ctx } }) s

/-- R359, R360: the check of an access of a context against bytes, as physical and virtual addresses; the virtual address
of the first conflict, at which no entry changes. -/
def raceAccess (s : State) (ctx : Nat) (i : Ident) (r w : Bool) (ps : List (Nat × Nat)) : Except Nat State :=
  match raceConflict s i r w ps with
  | some va => .error va
  | none => .ok (raceRecord s ctx i r w ps)

/-- R212: whether a crew other than the holder stores to a locked line. -/
def lockedFor (s : State) (cid line : Nat) : Bool :=
  match s.locks.find line with
  | some l => (match l.holder with
    | some h => h != cid
    | none => false)
  | none => false

/-- The bytes of a lane of an access. -/
def AccKind.bytes : AccKind → Nat
  | .load sz _ => sz.bytes
  | .gather sz => sz.bytes
  | .store n _ => n
  | .record _ _ => 16
  | .atom _ ty => atomBytes ty
  | _ => 1

/-- R357: the bytes that an access names, as ranges of virtual addresses. -/
def Access.spans (a : Access) : List (Nat × Nat) :=
  a.lanes.flatMap (fun q => match a.kind with
    | .accept _ _ _ => (acceptPieces a.recBits q.res.toNat).map (fun va => (va, 16))
    | _ => [(q.va, a.kind.bytes)])

/-- R359: the granules that an access touches, as physical and virtual addresses, once its lines are translated. -/
def Access.granules (a : Access) : List (Nat × Nat) :=
  a.spans.flatMap (fun v => (List.range ((v.1 % 8 + v.2 + 7) / 8)).filterMap (fun i =>
    let va := v.1 / 8 * 8 + 8 * i
    (a.lines.find? (fun l => l.vline == va / 128)).bind (fun l => l.pa.map (fun pa => (pa + va % 128, va)))))

/-- R357: what an access does to the granules it touches, as whether it reads and whether it writes them. -/
def AccKind.readsWrites : AccKind → Bool × Bool
  | .store _ _ => (false, true)
  | .atom _ _ => (true, true)
  | _ => (true, false)

/-- R212, R359, R360: the checks of an access whose every line is translated, made before any of it is performed. -/
def raceCheck (s : State) (a : Access) : Except Report State :=
  let ps := a.granules
  match (if a.kind.isStore then ps.find? (fun p => lockedFor s a.crew (lineOf p.1)) else none) with
  | some p => .error (reportVA 0x0A p.2)
  | none =>
    match raceAccess s a.ctx a.who a.kind.readsWrites.1 a.kind.readsWrites.2 ps with
    | .error va => .error (reportVA 0x0A va)
    | .ok s => .ok s


-- accesses in flight

/-- Creates the access of an instruction, with its destination marked empty in the active lanes (R73). -/
def Env.post (e : Env) (s : State) (dest : DestUse) (f : Nat → Access) : State × Nat :=
  let (s, id) := newAccess s (fun id =>
    { f id with dest := dest.span })
  let s := updCrew s e.cid (fun cr =>
    let cr := cr.emptyRegs id e.lanes dest.regs
    match dest with
    | .record b => { cr with recs := changeAt cr.recs b.toNat (fun r => { r with full := false, pend := some id }) }
    | _ => cr)
  (s, id)

/-- The access of an instruction over some lanes. -/
def Env.access (e : Env) (kind : AccKind) (path : Nat) (rec : BitVec 128) (qs : List LaneReq) (id : Nat) : Access :=
  { id := id, crew := e.cid, lanesM := e.split.mask, kind := kind, path := path, lanes := qs, lines := coalesce qs
    recBits := rec, dtIssue := crewDT e.s e.crew, word := BitVec.ofNat 64 e.off }

/-- R181: a later access of the split begins only after an acquire has returned. -/
def Env.acquire (e : Env) (s : State) (id : Nat) : State :=
  updSplit s e.cid e.sid (fun sp => { sp with acq := id :: sp.acq })

/-- R174: the store queue's length. -/
def storeQueueSize : Nat := 32

/-- R174: an access enters its crew's store queue. -/
def enqueue (s : State) (cid id : Nat) : State := updCrew s cid (fun cr => { cr with storeQ := cr.storeQ ++ [id] })

/-- R174: a store waits to issue while its crew's store queue is full. -/
def Env.queueing (e : Env) (k : Eff) : Eff :=
  if storeQueueSize ≤ e.crew.storeQ.length then .hold (.waitOperand .storeRoom) e.s else k

/-- R174: whether an access waits in its crew's store queue. -/
def inStoreQ (s : State) (acc : Nat) (a : Access) : Bool := (s.crews.find a.crew).any (fun cr => cr.storeQ.contains acc)

-- fences (R178 to R180)

/-- R94, R180: whether a scope is CREW. -/
def scopeIsCrew : Scope → Bool
  | .crew => true
  | _ => false

/-- R179: the drains that a TILEWAIT of a crew collects before they are written hold MTX incomplete: the TILEWAIT
itself waits for the drain to be ready, so none remains. On a control core the stream's commands do. -/
def mtxPending (s : State) (cr : Crew) (mark : Nat) : Bool :=
  match cr.engine with
  | .control =>
    match (s.cohorts.find cr.cohort).bind streamKey with
    | some k =>
      match s.streams.find k with
      | some st => st.cmds.any (fun c => decide (c.id < mark)) || st.drainTw.isSome
      | none => false
    | none => false
  | _ => false

/-- R179: whether a line request on the HOST path is, as far as fences but FENCE.SYS go, complete. -/
def LineState.isPosted : LineState → Bool
  | .posted _ => true
  | _ => false

/-- R176, R385, R386: the physical address of a line request, where it is the host's or a peer's. -/
def LineReq.remote (l : LineReq) : Bool :=
  match l.st with
  | .ready p | .sent p | .posted p | .done p => (remoteOf p).isSome
  | _ => false

/-- R176, R179: whether an access in flight is incomplete on a path of a mask: on the path that its instruction names,
but for line requests to the host's or a peer's memory, which are on HOST. One that is not walked may be on either. -/
def Access.openOn (a : Access) (paths : BitVec 8) : Bool :=
  let here := paths.getLsbD a.path
  let host := paths.getLsbD 7
  if a.lines.isEmpty then here
  else if !a.xlated then here || host
  else (here && a.lines.any (fun l => !l.remote)) || (host && a.lines.any (fun l => l.remote && !l.st.isPosted))

/-- R179: whether an access of a crew issued before a mark on a path of a mask is incomplete. -/
def incomplete (s : State) (cr : Crew) (mark : Nat) (paths : BitVec 8) : Bool :=
  s.accs.any (fun p => p.2.crew == cr.cid && decide (p.1 < mark) && p.2.kind.fenced && p.2.openOn paths)
    || (paths.getLsbD 1 && s.copies.any (fun p => p.2.crew == some cr.cid && decide (p.1 < mark)))
    || (paths.getLsbD 2 && mtxPending s cr mark)
    || (paths.getLsbD 4 && wellPending s cr.cid mark)

/-- R178, R180: the largest TWMAX of the paths of a mask. -/
def twmaxOf (cr : Crew) (paths : BitVec 8) : Nat :=
  maxOf ((List.range 8).map (fun p => if paths.getLsbD p then cr.twmax.getD p 0 else 0))

/-- R185: the clusters whose engines a fence of a scope reaches. -/
def layoutScope (s : State) (cr : Crew) (scope : Scope) : List Nat :=
  let cl := Config.clusterOfUnit (unitOf s cr)
  match scope with
  | .crew | .cohort | .cluster => [cl]
  | .die => (List.range 16).map (· + Config.dieOfUnit (unitOf s cr) * 16)
  | .pkg | .sys => List.range 64

/-- R185: invalidates the layout caches of some clusters. -/
def dropLayouts (s : State) (cls : List Nat) : State :=
  { s with clusters := s.clusters.mapAll (fun k c => if cls.contains k then { c with layouts := [] } else c) }

/-- What a fence answers: it holds the split, or it is done. -/
inductive Fenced
  | wait (w : SplitState) (s : State)
  | done (s : State)

/-- R178: a fence of the executing split. Its mark is set where it first issues, so that "before" is the core's issue
order. -/
def Env.fence (e : Env) (scope : Scope) (src dst : BitVec 8) : Fenced :=
  let mark := e.split.mark.getD e.s.nextId
  let s := updSplit e.s e.cid e.sid (fun sp => { sp with mark := some mark })
  if incomplete s e.crew mark src then .wait (.waitOperand (.fence mark src)) s
  else
    let t := twmaxOf e.crew src + 2
    if !scopeIsCrew scope && decide (crewDT s e.crew < t) then .wait (.waitOperand (.untilDT t)) s
    else if scope == .sys && src.getLsbD 7 && !e.crew.hostAck then .wait (.waitOperand .linkAck) s
    else .done (if dst.getLsbD 5 then dropLayouts s (layoutScope s e.crew scope) else s)

/-- A body that runs once a fence is done. -/
def Env.fenced (e : Env) (scope : Scope) (src dst : BitVec 8) (k : Env → Eff) : Eff :=
  match e.fence scope src dst with
  | .wait w s => .hold w s
  | .done s => k { e with s := s }

/-- R180: every path. -/
def allPaths : BitVec 8 := 0xFF

end Sys2Proof.Machine
end

