-- ==== Sys2Proof/Machine/MemOps.lean ====
section
/-! DEFINITION. MemOps.lean: the instructions that reach global memory and the tile store, but for SPFREE (R432 to
R436, R441 to R445, R468 to R473, R479 to R481, R488, R489, R493 to R498, R523 to R527, R544, R551, R554 to R556, R558,
R565). -/
namespace Sys2Proof.Machine

/-- R94: the value of an access size, extended to its register width. -/
def loadValue (sz : Size) (bs : List Byte) : BitVec 128 :=
  let x := leNat bs
  match sz with
  | .s8 => ((BitVec.ofNat 8 x).signExtend 32).setWidth 128
  | .s16 => ((BitVec.ofNat 16 x).signExtend 32).setWidth 128
  | _ => BitVec.ofNat 128 x

/-- R94: the displacement of a format M access. -/
def memDisp (sz : Size) (off : BitVec 11) : Int := off.toInt * (sz.bytes : Int)

/-- The offsets of the active lanes of a format M access. -/
def Env.memOffsets (e : Env) (m : MemRef) : List (Nat × Int) :=
  e.lanes.map (fun l => (l, e.offset (e.recBits m.br) m.a (memDisp m.sz m.off) l))

/-- R135: the checks of a format M access on every active lane. -/
def Env.memCheck (e : Env) (m : MemRef) (n : Need) : Option Report :=
  checkLanes (e.recBits m.br) m.br.toNat n m.sz.bytes m.sz.bytes ((e.memOffsets m).map (·.2))

/-- The lanes of a format M access that passed its checks, with their addresses and data. -/
def Env.memLanes (e : Env) (m : MemRef) (data : Nat → List Byte) : List LaneReq :=
  (e.memOffsets m).map (fun p => { lane := p.1, va := recAddr (e.recBits m.br) p.2.toNat, data := data p.1 })

/-- R357, R359, R360: the access that an instruction has made is tracked in repeatable mode: its checks come before any of
it is performed and a conflict is precise, so its split waits for them. -/
def Env.tracked (e : Env) (tracked : Bool) (f : Eff) : Eff :=
  match f with
  | .next s =>
    if tracked && repeatable s e.crew.ctx then
      .park (.waitOperand (.walk e.s.nextId)) (updAcc s e.s.nextId (fun a => { a with rep := true }))
    else f
  | f => f

/-- A load of the active lanes: LD (R494) or GATHER (R480). -/
def Env.loads (e : Env) (d : Dest) (m : MemRef) (kind : AccKind) (acq : Bool) : Eff :=
  match e.memCheck m { r := true } with
  | some t => .trap t
  | none =>
    let rec' := e.recBits m.br
    let qs := e.memLanes m (fun _ => [])
    if qs.isEmpty then .next e.s
    else
      let (s, id) := e.post e.s (.l d m.sz.operand) (e.access kind 0 rec' qs)
      e.tracked (recRep rec') (.next (if acq then e.acquire s id else s))

/-- R493 to R496. -/
def execLd (g : Guard) (d : Dest) (m : MemRef) (acq : Option Scope) (s : State) : Host.Outcome State Fault Refusal :=
  issue s (.ld g d m acq) (fun e => e.loads d m (.load m.sz acq.isSome) acq.isSome)

/-- R479 to R481. -/
def execGather (g : Guard) (d : Dest) (m : MemRef) (s : State) : Host.Outcome State Fault Refusal :=
  issue s (.gather g d m) (fun e => e.loads d m (.gather m.sz) false)

/-- R174, R555: the lanes of a store enter the crew's store queue; the core's copies of their lines are dropped. -/
def Env.enqueueStore (e : Env) (s : State) (kind : AccKind) (rec : BitVec 128) (qs : List LaneReq) : Eff :=
  let s := if e.hasL1 then dropL1 s e.crew (qs.map (·.va)) else s
  let (s, id) := e.post s .none (e.access kind 0 rec qs)
  .next (enqueue s e.cid id)

/-- ST (R555) or SCATTER (R544): the checks, the fence of a release, and the store. -/
def Env.stores (e : Env) (m : MemRef) (data : Src) (rel : Option Scope) (scatter : Bool) : Eff :=
  match e.memCheck m { w := true } with
  | some t => .trap t
  | none =>
    if e.lanes.isEmpty then .next e.s
    else
      let rec' := e.recBits m.br
      let qs := e.memLanes m (storeBytes e.s e.crew e.split m.sz m.sz.bytes data)
      let body (e : Env) : Eff :=
        e.tracked (recRep rec') (e.enqueueStore e.s (.store m.sz.bytes scatter) rec' qs)
      e.queueing (match rel with
        | some sc => e.fenced sc allPaths 1 body
        | none => body e)

/-- R554 to R556. -/
def execSt (g : Guard) (m : MemRef) (data : Src) (rel : Option Scope) (s : State) : Host.Outcome State Fault Refusal :=
  issue s (.st g m data rel) (fun e => e.stores m data rel false)

/-- R544. -/
def execScatter (g : Guard) (m : MemRef) (data : Src) (s : State) : Host.Outcome State Fault Refusal :=
  issue s (.scatter g m data) (fun e => e.stores m data none true)

-- the tile store (R141)

/-- The executing cohort's record. -/
def Env.cohort (e : Env) : Option Cohort := e.s.cohorts.find e.crew.cohort

/-- The executing cohort's allocation (R142). -/
def Env.alloc (e : Env) : Nat := (e.cohort.map (·.alloc)).getD 0

/-- R141: the unswizzled address of a lane. -/
def Env.tileOffset (e : Env) (m : SpadRef) (l : Nat) : Int := ((e.int32 m.a l).toNat : Int) + memDisp m.sz m.off

/-- R141: the checks of LDS and STS. -/
def Env.tileCheck (e : Env) (m : SpadRef) : Option Report :=
  let os := e.lanes.map (e.tileOffset m)
  match os.find? (fun o => decide (o < 0) || decide ((e.alloc : Int) < o + m.sz.bytes)) with
  | some o => some { code := 0x06, addr := BitVec.ofInt 64 o }
  | none =>
    match os.find? (fun o => swz o.toNat m.xs.toNat % m.sz.bytes != 0) with
    | some o => some { code := 0x07, addr := BitVec.ofInt 64 o }
    | none => none

/-- R141: the address of a lane in the cohort's allocation. -/
def Env.tileAddr (e : Env) (m : SpadRef) (l : Nat) : Nat := swz (e.tileOffset m l).toNat m.xs.toNat

/-- R497, R498: the bytes are those that stand at issue. -/
def execLds (g : Guard) (d : Dest) (m : SpadRef) (s : State) : Host.Outcome State Fault Refusal :=
  issue s (.lds g d m) (fun e =>
    match e.tileCheck m with
    | some t => .trap t
    | none =>
      let tile := (e.cohort.map (·.tile)).getD []
      e.due (.l d m.sz.operand) (.load m.sz false) true
        (e.lanes.map (fun l => (l, loadValue m.sz (Memory.getN tile (e.tileAddr m l) m.sz.bytes)))) 0 none)

/-- R558: bytes written by several lanes take the highest lane's value. -/
def execSts (g : Guard) (m : SpadRef) (data : Src) (s : State) : Host.Outcome State Fault Refusal :=
  issue s (.sts g m data) (fun e =>
    match e.tileCheck m with
    | some t => .trap t
    | none =>
      let bytes := storeBytes e.s e.crew e.split m.sz m.sz.bytes data
      .next (updCohort e.s e.crew.cohort (fun c =>
        { c with tile := e.lanes.foldl (fun t l => Memory.setN t (e.tileAddr m l) (bytes l)) c.tile })))

/-- R143, R551, R552: the request joins its core's pending ones. -/
def execSpgrow (g : Guard) (d : Dest) (n : Src) (s : State) : Host.Outcome State Fault Refusal :=
  issue s (.spgrow g d n) (fun e =>
    if e.lanes.isEmpty then .next e.s
    else
      let k := (e.int32 n e.lead).toNat
      if k % 128 ≠ 0 || k < 128 || 262144 < k then .trap { code := 0x06, addr := BitVec.ofNat 64 k }
      else
        let (s, id) := e.post e.s (.l d .w32)
          (e.access .spgrow 0 0 (e.lanes.map (fun l => { lane := l, va := 0 })))
        let p : Spgrow := { acc := id, cohort := e.crew.cohort, core := unitOf e.s e.crew, n := k }
        .next { updAcc s id (fun a => { a with lines := [], xlated := true }) with spgrow := s.spgrow ++ [p] })

-- PREF, FENCE, ICSYNC (R468 to R473, R488, R489, R526, R527)

/-- R526, R527: a lane that fails a check is dropped. -/
def execPref (g : Guard) (m : MemRef) (target : PrefTarget) (s : State) : Host.Outcome State Fault Refusal :=
  issue s (.pref g m target) (fun e =>
    let rec' := e.recBits m.br
    let need : Need := match target with
      | .icache => { x := true }
      | _ => { r := true }
    let ok := (e.memOffsets m).filter (fun p => (checkLanes rec' 0 need m.sz.bytes m.sz.bytes [p.2]).isNone)
    if ok.isEmpty then .next e.s
    else
      let qs := ok.map (fun p => { lane := p.1, va := recAddr rec' p.2.toNat : LaneReq })
      .next (e.post e.s .none (e.access (.pref target) (match target with | .icache => 6 | _ => 0) rec' qs)).1)

/-- R470: drops the tile-store entries of a cluster's operand cache that come from a core's tile store. -/
def dropTileEntries (s : State) (u : Nat) : State :=
  let slots := (s.cohorts.filter (fun p => p.2.core == u)).filterMap (fun p => p.2.slot)
  { s with clusters := s.clusters.change (u / 4) (fun c =>
      { c with opTiles := c.opTiles.filter (fun t => !slots.contains t.1) }) }

/-- R468 to R473. -/
def execFence (g : Guard) (smask dmask : BitVec 8) (scope : Scope) (spadw : Bool) (s : State) :
    Host.Outcome State Fault Refusal :=
  issue s (.fence g smask dmask scope spadw) (fun e =>
    if spadw && e.crew.engine != .core then .trap { code := 0x03 }
    else if e.lanes.isEmpty then .next e.s
    else e.fenced scope smask dmask (fun e =>
      .next (if spadw then dropTileEntries e.s (unitOf e.s e.crew) else e.s)))

/-- R489: removes the code lines of a context in a range of virtual addresses from every instruction cache. -/
def dropCode (s : State) (ctx lo hi : Nat) : State :=
  { s with cores := s.cores.mapAll (fun _ c => { c with icache := c.icache.filter (fun l =>
      !(l.ctx == ctx && decide (lo / 128 ≤ l.vline) && decide (l.vline ≤ hi / 128))) }) }

/-- R488, R489. -/
def execIcsync (g : Guard) (br : BitVec 4) (a len : Src) (s : State) : Host.Outcome State Fault Refusal :=
  issue s (.icsync g br a len) (fun e =>
    let rec' := e.recBits br
    let o := (e.int32 a e.lead).toNat
    let n := (e.int32 len e.lead).toNat
    if e.lanes.isEmpty || n = 0 then .next e.s
    else if recMalformed rec' || !(recX rec' || recW rec') then .trap { code := 0x09, addr := br.setWidth 64 }
    else if recSpan rec' < o + n then .trap { code := 0x06, addr := BitVec.ofNat 64 o }
    else .next (dropCode e.s e.crew.ctx (recBase rec' + o) (recBase rec' + o + n - 1)))

-- buffer records (R432 to R436)

/-- R432 to R434. -/
def execBrld (g : Guard) (bd : BitVec 4) (a : Src) (br : BitVec 4) (off : BitVec 11) (acq : Option Scope) (s : State) :
    Host.Outcome State Fault Refusal :=
  issue s (.brld g bd a br off acq) (fun e =>
    if e.lanes.isEmpty then .next e.s
    else
      let rec' := e.recBits br
      let o := e.offset rec' a (memDisp .b128 off) e.lead
      match checkLanes rec' br.toNat { r := true } 16 16 [o] with
      | some t => .trap t
      | none =>
        let va := recAddr rec' o.toNat
        let (s, id) := e.post e.s (.record bd)
          (e.access (.record bd.toNat acq.isSome) 0 rec' [{ lane := e.lead, va := va }])
        e.tracked (recRep rec') (.next (if acq.isSome then e.acquire s id else s)))

/-- R435, R436. -/
def execBrmk (g : Guard) (bd : BitVec 4) (base extent : Src) (baseHi : BitVec 8) (stride : BitVec 16)
    (rights : BitVec 5) (sw : BitVec 3) (s : State) : Host.Outcome State Fault Refusal :=
  issue s (.brmk g bd base extent baseHi stride rights sw) (fun e =>
    if e.lanes.isEmpty then .next e.s
    else
      let bits : BitVec 128 := rights ++ sw ++ e.int32 extent e.lead ++ stride ++ baseHi ++ e.int .w64 base e.lead
      if recMalformed bits then .trap { code := 0x03 }
      else .next (updCrew e.s e.cid (fun cr => { cr with recs := setAt cr.recs bd.toNat { bits := bits } })))

-- windows (R158, R523 to R525, R565)

/-- R523, R524: the pages of the range are translated as one access. -/
def execPin (g : Guard) (d : Dest) (br : BitVec 4) (fade : BitVec 8) (a n : Src) (s : State) :
    Host.Outcome State Fault Refusal :=
  issue s (.pin g d br fade a n) (fun e =>
    if e.lanes.isEmpty then .next e.s
    else
      let rec' := e.recBits br
      let o := (e.int .w64 a e.lead).toNat
      let len := (e.int32 n e.lead).toNat * 2 ^ 21
      let base := recBase rec' + o
      if fade = 0 || len = 0 then .trap { code := 0x03 }
      else if recMalformed rec' || !recR rec' then .trap { code := 0x09, addr := br.setWidth 64 }
      else if recSpan rec' < o + len then .trap { code := 0x06, addr := BitVec.ofNat 64 o }
      else if base % 2 ^ 21 ≠ 0 then .trap { code := 0x07, addr := BitVec.ofNat 64 o }
      else
        let acc := e.access (.pin base len fade.toNat) 0 rec' (e.lanes.map (fun l => { lane := l, va := base }))
        let pages : List LineReq := (List.range (len / 8192)).map (fun i => { vline := base / 128 + 64 * i })
        .next (e.post e.s (.l d .w32) (fun id => { acc id with lines := pages })).1)

/-- R160, R565: UNPIN posts no record. -/
def execUnpin (g : Guard) (h : Src) (s : State) : Host.Outcome State Fault Refusal :=
  issue s (.unpin g h) (fun e =>
    if e.lanes.isEmpty then .next e.s
    else .next (dropWindow e.s e.crew.ctx (e.int32 h e.lead).toNat))

-- COPY (R150 to R154, R441 to R445)

/-- R442: a side of a COPY from its pair of offset and row stride. -/
structure CopyRect where
  off    : Nat
  stride : Nat
  rows   : Nat
  rb     : Nat

/-- Whether a rectangle holds a byte offset. -/
def CopyRect.has (c : CopyRect) (x : Nat) : Bool :=
  if x < c.off then false
  else if c.stride = 0 then decide (x - c.off < c.rb)
  else
    -- the rows that start at or before x, and of these the last that the rectangle has
    let r := Nat.min ((x - c.off) / c.stride) (c.rows - 1)
    decide (x - c.off - r * c.stride < c.rb)

/-- R151: the lowest offset of a rectangle that is not below a limit. -/
def CopyRect.firstFrom (c : CopyRect) (lim : Nat) : Option Nat :=
  if lim < c.off + c.rb then some (Nat.max lim c.off)
  else if c.stride = 0 then none
  else
    let r := (lim - c.off - c.rb) / c.stride + 1
    if r < c.rows then some (Nat.max lim (c.off + r * c.stride)) else none

/-- R151: the offset of the first byte out of range, in ascending address order: within its line, the swizzle `m`
decides. -/
def CopyRect.outside (c : CopyRect) (lim m : Nat) : Option Nat :=
  match c.firstFrom lim with
  | none => none
  | some x =>
    leastBy (fun y => swz y m)
      (((List.range 128).map (· + x / 128 * 128)).filter (fun y => decide (lim ≤ y) && c.has y))

/-- R151: the checks of a global side. -/
def Env.copyGlobal (e : Env) (br : BitVec 4) (n : Need) (c : CopyRect) : Option Report :=
  let rec' := e.recBits br
  if recMalformed rec' || !recGrants rec' n then some { code := 0x09, addr := br.setWidth 64 }
  else (c.outside (recSpan rec') (recSwz rec')).map (fun x => { code := 0x06, addr := BitVec.ofNat 64 x })

/-- R151: the check of a tile store side. -/
def Env.copyTile (e : Env) (xs : BitVec 3) (c : CopyRect) : Option Report :=
  (c.outside e.alloc xs.toNat).map (fun x => { code := 0x06, addr := BitVec.ofNat 64 x })

/-- R150: the entries of a core's copy engine. -/
def copyEntries : Nat := 64

/-- The copies of crews on a core. -/
def copiesOn (s : State) (u : Nat) : Nat :=
  (s.copies.filter (fun p => p.2.core == u && p.2.crew.isSome)).length

/-- R443: the number of the crew's commands that name a counter and have not counted. -/
def Crew.outstanding (cr : Crew) (k : Nat) : Nat := cr.pendCnt.getD k 0

/-- R443: the split yields on a counter until every outstanding command of it has counted. -/
def Env.yieldOn (e : Env) (s : State) (k pend : Nat) (h : Int) : Eff :=
  let t := e.crew.counters.getD k 0 + BitVec.ofNat 32 pend
  if pend = 0 then
    .go (updSplit s e.cid e.sid (fun sp => { sp with place := .header h .resume, mark := none }))
  else .park (.waitYield k t h) s

/-- R369: the first copy-in of a task, and in a cohort without a stream the first copy-out. -/
def noteCopy (s : State) (k : Nat) (src dst : CopySide) : State :=
  let first (x : Option Nat) : Option Nat := if x.isSome then x else some s.dt
  match src, dst with
  | .global _ _ _, .tile _ _ _ =>
    match ((s.cohorts.find k).bind streamKey).bind (fun j => (s.streams.find j).map (fun st => (j, st))) with
    | some (j, st) => { s with streams := s.streams.put j { st with marks := { st.marks with cii := first st.marks.cii } } }
    | none => updCohort s k (fun h => { h with marks := { h.marks with cii := first h.marks.cii } })
  | .tile _ _ _, .global _ _ _ =>
    updCohort s k (fun h => { h with marks := { h.marks with coi := first h.marks.coi } })
  | _, _ => s

/-- R442: the COPY enters the core's copy engine. -/
def Env.startCopy (e : Env) (src dst : CopySide) (rows rb kc : Nat) : State :=
  let op : CopyOp :=
    { id := e.s.nextId, crew := some e.cid, cohort := e.crew.cohort, ctx := e.crew.ctx, core := unitOf e.s e.crew
      lanes := e.split.mask, kc := kc, src := src, dst := dst, rows := rows, rb := rb
      who := crewIdent e.s e.cid
      task := (((e.s.cohorts.find e.crew.cohort).bind streamKey).bind e.s.streams.find).elim 0 Stream.taskNow }
  let s := { e.s with copies := e.s.copies.put e.s.nextId op, nextId := e.s.nextId + 1 }
  let s := noteCopy s e.crew.cohort src dst
  updCrew s e.cid (fun cr => { cr with pendCnt := changeAt cr.pendCnt kc (· + 1) })

/-- R441 to R445. -/
def execCopy (g : Guard) (dir : CopyDir) (src dst shape : Src) (x : CopyExt) (s : State) :
    Host.Outcome State Fault Refusal :=
  issue s (.copy g dir src dst shape x) (fun e =>
    let kc := x.kc.toNat
    let hdr : Option Int := x.cont.map (fun off => (e.off : Int) + 8 * off.toInt)
    let outside : Bool := match hdr, launchOf e.s e.crew with
      | some h, some ln => decide (h < 0) || decide ((ln.seglen : Int) < h + 8)
      | _, _ => false
    if outside then .trap { code := 0x06, addr := BitVec.ofInt 64 (hdr.getD 0) }
    else if e.lanes.isEmpty then
      match hdr with
      | some h => e.yieldOn e.s kc (e.crew.outstanding kc) h
      | none => .next e.s
    else
      let a := e.int .w64 src e.lead
      let b := e.int .w64 dst e.lead
      let c := (e.int32 shape e.lead).toNat
      let rows := c / 65536
      let rb := c % 65536
      if rows = 0 || rb = 0 then .trap { code := 0x03 }
      else
        let sr : CopyRect := { off := (lo32 a).toNat, stride := (hi32 a).toNat, rows := rows, rb := rb }
        let dr : CopyRect := { off := (lo32 b).toNat, stride := (hi32 b).toNat, rows := rows, rb := rb }
        let sGlob : CopySide := .global (e.recBits x.brs) sr.off sr.stride
        let dGlob : CopySide := .global (e.recBits x.brd) dr.off dr.stride
        let sTile : CopySide := .tile sr.off sr.stride x.xs.toNat
        let dTile : CopySide := .tile dr.off dr.stride x.xs.toNat
        let sCheck := match dir with
          | .s2g => e.copyTile x.xs sr
          | _ => e.copyGlobal x.brs { r := true } sr
        let dCheck := match dir with
          | .g2s => e.copyTile x.xs dr
          | _ => e.copyGlobal x.brd { w := true } dr
        match sCheck, dCheck with
        | some t, _ => .trap t
        | none, some t => .trap t
        | none, none =>
          if copyEntries ≤ copiesOn e.s (unitOf e.s e.crew) then .hold (.waitOperand .copyRoom) e.s
          else
            let (cs, cd) : CopySide × CopySide := match dir with
              | .g2s => (sGlob, dTile)
              | .s2g => (sTile, dGlob)
              | .g2g => (sGlob, dGlob)
            let s := e.startCopy cs cd rows rb kc
            match hdr with
            | some h => e.yieldOn s kc (e.crew.outstanding kc + 1) h
            | none => .next s)

end Sys2Proof.Machine
end

