-- ==== Sys2Proof/Machine/MemSys.lean ====
section
/-! DEFINITION. MemSys.lean: what the memory system does with an access in flight: translation and the operand log
(R310 to R320), line requests at their homes (R165 to R174), results (R73), and spills and fills (R69 to R72). -/
namespace Sys2Proof.Machine

-- kinds of access

/-- R174: the accesses that count as loads. -/
def AccKind.isLoad : AccKind → Bool
  | .load _ _ | .gather _ | .record _ _ | .accept _ _ _ | .atom _ _ | .atomo _ _ => true
  | _ => false

/-- The accesses that read lines at their homes. -/
def AccKind.readsLines : AccKind → Bool
  | .load _ _ | .gather _ | .record _ _ | .accept _ _ _ | .pref _ => true
  | _ => false

/-- R133, R310: the rights an access needs of its pages. -/
def AccKind.need : AccKind → Need
  | .store _ _ => { w := true }
  | .pref .icache => { x := true }
  | .atom _ _ | .atomo _ _ | .ballot _ => { r := true, w := true, s := true }
  | .reds _ _ => { w := true, s := true }
  | .lock _ => { s := true }
  | _ => { r := true }

/-- R314: ACC of a fault record. -/
def AccKind.acc : AccKind → Nat
  | .store _ _ | .reds _ _ => 1
  | .pref .icache => 2
  | .atom _ _ | .atomo _ _ | .ballot _ => 3
  | _ => 0

/-- R176, R386: the accesses that may reach memory of the host or a peer, on the HOST path. -/
def AccKind.mayRemote : AccKind → Bool
  | .load _ _ | .gather _ | .store _ _ | .record _ _ | .accept _ _ _ | .atom _ _ | .atomo _ _ | .reds _ _ | .lock _ => true
  | _ => false

/-- Changes a line request of an access. -/
def updLine (s : State) (acc i : Nat) (f : LineReq → LineReq) : State :=
  updAcc s acc (fun a => { a with lines := changeAt a.lines i f })

-- the end of an access

/-- R317, R318: an access that a full operand log left in the core's fault buffer takes an entry that has freed. -/
def logAdmit (s : State) (cid : Nat) : State :=
  match s.crews.find cid with
  | none => s
  | some cr =>
    let u := unitOf s cr
    match (coreUnit s u).faultBuf.find? (fun a => ((s.accs.find a).map (·.crew)) == some cid) with
    | none => s
    | some a =>
      if cr.oplog.length < 8 then
        let s := updCore s u (fun c => { c with faultBuf := c.faultBuf.filter (· != a) })
        let s := updCrew s cid (fun c => { c with oplog := c.oplog ++ [a] })
        updAcc s a (fun x => { x with logged := true })
      else s

/-- An access has come to its end: nothing waits for it any more. -/
def endAccess (s : State) (acc : Nat) : State :=
  match s.accs.find acc with
  | none => s
  | some a =>
    let s := { s with accs := s.accs.del acc }
    let s := { s with cores := s.cores.mapAll (fun _ c => { c with faultBuf := c.faultBuf.filter (· != acc) }) }
    let s := updCrew s a.crew (fun cr =>
      { cr with
        storeQ := cr.storeQ.filter (· != acc)
        oplog := cr.oplog.filter (· != acc)
        replay := cr.replay.filter (· != acc)
        splits := cr.splits.map (fun sp => { sp with acq := sp.acq.filter (· != acc) }) })
    wakeCrew (logAdmit s a.crew) a.crew

/-- R14: a destination register of an access that is withdrawn is as it was, with its copy in its sump slot where it had
one. -/
def Crew.undoReg (a : Access) (cr : Crew) (u : Undo) : Crew :=
    let mine := u.cells.filter (fun p => (cr.cell u.reg p.1).any (fun c => c.pend == some a.id))
    let del (m : SMap RegCell) (p : Nat × Option RegCell) : SMap RegCell := m.del (regKey u.reg p.1)
    let bare := { cr with regs := mine.foldl del cr.regs }
    let put (m : SMap RegCell) (p : Nat × Option RegCell) : SMap RegCell := match p.2 with
      | some c => m.put (regKey u.reg p.1) c
      | none => m
    let back := { cr with regs := mine.foldl put bare.regs }
    match bare.hasCells u.reg, u.place with
    | false, some (.spilled f live bs fl) => { bare with rmap := bare.rmap.put u.reg (.spilled f live bs fl) }
    | false, none => { bare with rmap := bare.rmap.del u.reg }
    | _, _ => back

/-- R14: the destination of an access that is withdrawn is as it was. -/
def Crew.undoDest (cr : Crew) (a : Access) : Crew :=
  let cr := a.undo.foldl (Crew.undoReg a) cr
  match a.undoRec with
  | some (b, r) => { cr with recs := changeAt cr.recs b (fun x => if x.pend = some a.id then r else x) }
  | none => cr

/-- R73, R335: results for the lanes of a destination that an access still owns: each is full, and failed where a
physical address is given. -/
def Crew.fillDest (cr : Crew) (acc r0 n : Nat) (vals : List (Nat × BitVec 128 × Option Nat)) : Crew :=
  (List.range n).foldl (fun cr k =>
    vals.foldl (fun cr v =>
      match cr.cell (r0 + k) v.1 with
      | some c =>
        let c' : RegCell := { val := v.2.1.extractLsb' (32 * k) 32, full := true, failed := v.2.2 }
        if c.pend = some acc then { cr with regs := cr.regs.put (regKey (r0 + k) v.1) c' } else cr
      | none => cr) cr) cr

/-- R80, R434: the record that a load fills. -/
def Crew.fillRecord (cr : Crew) (acc b : Nat) (bits : BitVec 128) (failed : Option Nat) : Crew :=
  { cr with recs := changeAt cr.recs b (fun r =>
      if r.pend = some acc then { bits := bits, full := true, failed := failed } else r) }

/-- The results of an access reach its destination, and it ends; an ended crew's are discarded (R49). A split that
waits in LLOCK becomes READY (R45). -/
def returnValues (s : State) (acc : Nat) (vals : List (Nat × BitVec 128 × Option Nat)) : State :=
  match s.accs.find acc with
  | none => s
  | some a =>
    let s := updCrew s a.crew (fun cr =>
      if cr.state = .ended then cr
      else
        let cr := match a.dest with
          | some (r, n) => cr.fillDest acc r n vals
          | none => cr
        let cr := match a.kind, vals with
          | .record b _, v :: _ => cr.fillRecord acc b v.2.1 v.2.2
          | _, _ => cr
        { cr with fpflags := cr.fpflags ||| a.flags })
    let s := if (s.crews.find a.crew).any (fun cr => cr.state == .saved) then saveWords s a.crew else s
    let s := wakeSplits s a.crew (fun sp => sp.state == .waitLock acc)
    let s := endAccess s acc
    match s.crews.find a.crew with
    | some cr => reformCheck s cr.cohort
    | none => s

/-- What a violated access writes to its destination (R319, R320, R501, R525). -/
def AccKind.violated : AccKind → BitVec 128
  | .pin _ _ _ => 0xF0000000
  | .lock _ => 2
  | _ => 0

/-- R319, R320: an access ends with a deferred report; the lines it has performed stand. -/
def violate (s : State) (acc : Nat) (r : Report) : State :=
  match s.accs.find acc with
  | none => s
  | some a =>
    let s := returnValues s acc (a.lanes.map (fun q => (q.lane, a.kind.violated, none)))
    deferReport s a.crew a.lanesM r

-- translation (R310 to R319)

/-- A line request's translation; memory of the host or a peer is numbered from `remoteBase`. -/
def xlateLine (s : State) (cr : Crew) (a : Access) (demand : Bool) (l : LineReq) : Xlate × State :=
  let u := unitOf s cr
  match translate s (some u) (Config.dieOfUnit u) cr.ctx (l.vline * 128) a.kind.need demand with
  | (.bad pa, s) => (if a.kind.mayRemote && isRemote pa then .ok (remoteBase + pa) else .bad pa, s)
  | r => r

/-- The lowest-numbered lane's address on a line. -/
def Access.vaOn (a : Access) (l : LineReq) : Nat :=
  match a.lanes.find? (fun q => q.va / 128 == l.vline) with
  | some q => q.va
  | none => l.vline * 128

/-- What the walks of an access's lines answer before any of it is done. -/
inductive Walks
  /-- every line is translated, or its page is not present -/
  | done
  /-- a walk waits for an entry -/
  | stall (s : State)
  /-- a line meets a violation or a bad physical address -/
  | report (r : Report)

/-- R319, R338: the walks of an access's lines, of which the first violation or bad physical address decides. -/
def walkLines (s : State) (cr : Crew) (a : Access) : List LineReq → Walks
  | [] => .done
  | l :: ls =>
    match l.st with
    | .new =>
      match xlateLine s cr a true l, walkLines s cr a ls with
      | (.violation, _), _ => .report (reportVA 0x09 (a.vaOn l))
      | (.bad _, _), _ => .report (reportVA 0x14 (a.vaOn l))
      | _, .report r => .report r
      | (.stall _, s), _ => .stall s
      | _, w => w
    | _ => walkLines s cr a ls

/-- R341: a line request whose address is translated chooses its home under the EPOCH and PHASE of now. -/
def LineReq.chosen (s : State) (pa : Nat) (l : LineReq) : LineReq :=
  { l with st := .ready pa, epoch := s.mig.epoch, phase := s.mig.phase, under := s.mig.setOf pa }

/-- Translates the lines that are not yet translated; a not-present page raises or joins a fault (R316). -/
def xlateLines (s : State) (cr : Crew) (a : Access) : List LineReq → List LineReq × State
  | [] => ([], s)
  | l :: ls =>
    let (l', s) : LineReq × State :=
      match l.st with
      | .new =>
        match xlateLine s cr a true l with
        | (.ok pa, s) => (l.chosen s pa, s)
        | (.notPresent lvl, s) =>
          match joinFault s cr.ctx (a.vaOn l) lvl (crewRequester s cr a.path a.kind.acc) with
          | (some tag, s) => ({ l with st := .faulted tag }, s)
          | (none, s) => (l, s)
        | (_, s) => (l, s)
      | _ => (l, s)
    let (ls', s) := xlateLines s cr a ls
    (l' :: ls', s)

/-- PREF (R321, R527): no fault, no A or D; a line that does not translate is dropped. -/
def prefLines (s : State) (cr : Crew) (a : Access) : List LineReq → List LineReq × State
  | [] => ([], s)
  | l :: ls =>
    let (x, s) := if l.st == .new then xlateLine s cr a false l else (.stall 0, s)
    let l' : LineReq := match x with
      | .ok pa => l.chosen s pa
      | .stall _ => l
      | _ => { l with st := .dropped }
    let (ls', s) := prefLines s cr a ls
    (l' :: ls', s)

/-- R317: an access that met a not-present page takes an entry of the crew's operand log, or the core's fault
buffer while all eight are in use (R318). -/
def logAccess (s : State) (acc : Nat) (a : Access) (cr : Crew) : State :=
  if a.logged then s
  else if cr.oplog.length < 8 then
    updAcc (updCrew s cr.cid (fun c => { c with oplog := c.oplog ++ [acc] })) acc (fun x => { x with logged := true })
  else updCore s (unitOf s cr) (fun c => { c with faultBuf := c.faultBuf ++ [acc] })

/-- The accesses that hold a window's status back while its pages are walked, and their outcome, are PIN's (R158). -/
def pinCapacity : Nat := 128 * 1048576

/-- The lowest window handle that a context has free, of 64. -/
def freeHandle (m : SMap Window) : Nat → Nat → Option Nat
  | 0, _ => none
  | n + 1, i => if (m.find i).isNone then some i else freeHandle m n (i + 1)

/-- R158, R524: the outcome of a PIN whose pages are all translated. Where several statuses apply, OVERLAP comes before
NO_WINDOW, and NO_WINDOW before NO_SPACE (log entry 58: DESIGN CHOICE). -/
def pinOutcome (s : State) (ctx base len fade : Nat) (pages : List Nat) : BitVec 128 × State :=
  match s.ctxs.find ctx with
  | none => (0, s)
  | some c =>
    let overlap := c.windows.any (fun p => decide (p.2.va < base + len) && decide (base < p.2.va + p.2.len))
    let used := sumOf ((allWindows s).map (fun w => pinShare s w.len))
    if overlap then (0x30000000, s)
    else if 64 ≤ (allWindows s).length then (0x10000000, s)
    else if pinCapacity < used + pinShare s len then (0x20000000, s)
    else
      match freeHandle c.windows 64 0 with
      | none => (0x10000000, s)
      | some h =>
        let w : Window := { va := base, len := len, pages := pages, fade := fade, reload := fade }
        (BitVec.ofNat 128 h, updCtx s ctx (fun c => { c with windows := c.windows.put h w }))

/-- R158: a PIN whose every page is translated is performed. -/
def pinPerform (s : State) (acc : Nat) : State :=
  match s.accs.find acc with
  | none => s
  | some a =>
    match a.kind with
    | .pin base len fade =>
      if a.ready || a.lines.any (fun l => l.pa.isNone) then s
      else
        let s := match s.crews.find a.crew with
          | some cr => a.lines.foldl (fun s l => countCore s cr (l.vline * 128) 0) s
          | none => s
        let (v, s) := pinOutcome s (ctxOf s a.crew) base len fade (a.lines.filterMap (fun l => l.pa.map (· / 8192)))
        updAcc s acc (fun a =>
          { a with ready := true, lines := [], result := a.lanes.map (fun q => (q.lane, v)) })
    | _ => s

/-- R14: an instruction whose access is withdrawn takes a precise trap: its destination is as it was, and the split that
waits for the access goes to its handler. -/
def withdraw (s : State) (acc : Nat) (a : Access) (r : Report) : State :=
  let waits (sp : Split) : Bool := sp.state == .waitLock acc || sp.state == .waitOperand (.walk acc)
  match ((s.crews.find a.crew).map (·.splits)).bind (fun sps => sps.find? waits) with
  | none => endAccess s acc
  | some sp =>
    let off := a.word.toNat
    let s := endAccess (updCrew s a.crew (fun c => c.undoDest a)) acc
    takeTrap (updSplit s a.crew sp.id (fun x => { x with place := .word off, state := .ready })) a.crew sp.id (.word off) r

/-- R317, R359: the line requests of a tracked access are checked once all are translated, and only then performed. -/
def raceWalk (s : State) (acc : Nat) : State :=
  match s.accs.find acc with
  | none => s
  | some a =>
    if !a.rep || a.lines.any (fun l => l.pa.isNone) then s
    else
      match raceCheck s a with
      | .error r => withdraw s acc a r
      | .ok s => updAcc s acc (fun a => { a with rep := false, xlated := true })

/-- R318: whether an access has its place in its crew's operand log, or waits for one. -/
def inLog (s : State) (acc : Nat) (a : Access) : Bool :=
  a.logged || s.cores.any (fun p => p.2.faultBuf.contains acc)

/-- R147: the core's copies of the lines that a store has translated are dropped. -/
def dropStored (s : State) (cr : Crew) (a : Access) (ls : List LineReq) : State :=
  if a.kind.isStore && cr.engine == .core then
    (ls.filterMap (·.pa)).foldl (fun s pa => l1Drop s (l1Unit s cr pa) (lineOf pa)) s
  else s

/-- R310, R317: every line request of an access is translated before any is performed. -/
def execPageWalk (req : Nat) (s : State) : Host.Outcome State Fault Refusal :=
  match s.accs.find req with
  | none => .next s
  | some a =>
    match s.crews.find a.crew with
    | none => .next s
    | some cr =>
      if a.xlated || inLog s req a then .next s
      else
        match a.kind with
        | .pref _ =>
          let (ls, s) := prefLines s cr a a.lines
          .next (updAcc s req (fun a => { a with lines := ls, xlated := ls.all (fun l => l.st != .new) }))
        | _ =>
          match walkLines s cr a a.lines with
          | .report r => .next (violate s req r)
          | .stall s => .next s
          | .done =>
            let (ls, s) := xlateLines s cr a a.lines
            let s := updAcc s req (fun a => { a with lines := ls, xlated := !a.rep })
            let s := if ls.any (fun l => l.pa.isNone) then logAccess s req a cr else s
            .next (raceWalk (pinPerform (dropStored s cr a ls) req) req)

/-- R317, R318: the oldest entry of a crew's operand log whose faults are all answered RESOLVED is walked again. -/
def execOperandLogReplay (crew : Nat) (s : State) : Host.Outcome State Fault Refusal :=
  match s.crews.find crew with
  | none => .next s
  | some cr =>
    match cr.oplog with
    | [] => .next s
    | acc :: _ =>
      match s.accs.find acc with
      | none => .next (updCrew s crew (fun c => { c with oplog := c.oplog.filter (· != acc) }))
      | some a =>
        let waits := a.lines.any (fun l => match l.st with | .faulted _ => true | _ => false)
        let todo := a.lines.any (fun l => match l.st with | .new => true | _ => false)
        if cr.state != .running && cr.state != .ended || waits || !todo then .next s
        else
          match walkLines s cr a a.lines with
          | .report r => .next (violate s acc r)
          | .stall s => .next s
          | .done =>
            let (ls, s) := xlateLines s cr a a.lines
            let s := updAcc (dropStored s cr a ls) acc (fun a => { a with lines := ls })
            .next (wakeCrew (raceWalk (pinPerform s acc) acc) crew)

/-- R316: the oldest fault record in a context's pending-fault list is posted once its ring has room; the oldest fault that
found no sump space is posted, or takes its place in the list, once it can. -/
def execPendingFaultPost (ctx : Nat) (s : State) : Host.Outcome State Fault Refusal :=
  match s.ctxs.find ctx with
  | none => .next s
  | some c =>
    let takeIn (s : State) : State := match c.unposted with
      | some tag => postFault s ctx tag
      | none => s
    match c.pendFlt with
    | [] => .next (takeIn s)
    | tag :: tags =>
      if ringBusy s c.fltRing then .next (takeIn s)
      else
        let s := match c.faults.find tag with
          | some f => ringPost s c.fltRing f.record
          | none => s
        .next (updCtx s ctx (fun c =>
          { c with pendFlt := tags, sumpUsed := c.sumpUsed - 32
                   faults := c.faults.change tag (fun f => { f with posted := true }) }))

/-- Whether a virtual line of a context is a physical line, as its page stands now. -/
def isLine (s : State) (ctx vline line : Nat) : Bool := (peek s none 0 ctx (vline * 128)).any (fun pa => lineOf pa == line)

/-- Whether an earlier line request of a context names the line of another, by its virtual or its physical line. -/
def sameLine (s : State) (ctx : Nat) (x y : LineReq) : Bool :=
  x.vline == y.vline || (match y.pa with
    | none => false
    | some q => match x.pa with
      | some p => p == q
      | none => isLine s ctx x.vline (lineOf q))

/-- R318: the entries of the crew's operand log that are replayed before an access: those logged before it, or, where it is
not logged, those of earlier accesses. -/
def logBefore (s : State) (acc : Nat) (a : Access) : List Nat :=
  let log := ((s.crews.find a.crew).map (·.oplog)).getD []
  if log.contains acc then log.takeWhile (· != acc) else log.filter (fun k => decide (k < acc))

/-- R318: an entry of the crew's operand log that goes first names the page and has not been replayed. -/
def logBlocks (s : State) (acc : Nat) (a : Access) (l : LineReq) : Bool :=
  (logBefore s acc a).any (fun k => (s.accs.find k).any (fun x =>
    x.lines.any (fun y => y.vline / 64 == l.vline / 64 && !y.isOver)))

/-- R172: an earlier access of the crew of some kind, on the LANE path, to the line that is not over; one that is not
walked yet may name any line. -/
def lineBehind (s : State) (acc : Nat) (a : Access) (l : LineReq) (f : AccKind → Bool) : Bool :=
  s.accs.any (fun p =>
    decide (p.1 < acc) && p.2.crew == a.crew && p.2.path == 0 && f p.2.kind
      && (!p.2.xlated || p.2.lines.any (fun x => !x.isOver && sameLine s a.ctx x l)))

/-- The source of a crew's stores on a path, for R172. -/
def storeSrc (cid path : Nat) : Nat := cid * 8 + path

/-- R172: a store of the crew to the line is pending at its home. -/
def ownPending (s : State) (cid line : Nat) : Bool :=
  (homeOf (settle s line) line).pending.any (fun p => p.src == storeSrc cid 0)

/-- R345: whether a request's home was chosen under an EPOCH and PHASE that map its region otherwise. -/
def stalePhase (s : State) (l : LineReq) (pa : Nat) : Bool :=
  (remoteOf pa).isNone && l.under != s.mig.setOf pa

-- reads at the home

/-- A line request is served with bytes. -/
def serve (s : State) (acc i pa : Nat) (a : Access) (cr : Crew) (l : LineReq) (bs : List Byte) : State :=
  let s := updLine s acc i (fun l => { l with st := .done pa, bytes := bs })
  match a.kind with
  | .pref _ => s
  | _ => countCore (touchWindows s pa) cr (l.vline * 128) a.kind.acc

/-- Whether an access may hit and fill the L1 (R147, R155, R494). -/
def AccKind.fillsL1 : AccKind → Bool
  | .load _ _ | .record _ _ | .accept _ _ _ | .pref .l1 => true
  | _ => false

/-- R181: whether an access never hits the L1. -/
def AccKind.acquires : AccKind → Bool
  | .load _ q => q
  | .record _ q => q
  | _ => false

/-- R166: the home serves a line request, with a lease where it may. -/
def serveHome (s : State) (acc i pa : Nat) (a : Access) (cr : Crew) (l : LineReq) : State :=
  let line := lineOf pa
  let s := settle s line
  let bs := Memory.getN s.mem pa 128
  let lease := a.kind.fillsL1 && cr.engine == .core && !inSync s line && !pendingAt s line && inL2 s line
    && !coreStores s (l1Unit s cr pa) line
  match a.kind with
  | .pref .icache =>
    serve (icFill s (unitOf s cr) { ctx := cr.ctx, vline := l.vline, bytes := bs }) acc i pa a cr l bs
  | _ =>
    if lease then
      let (s, e) := grantLease (l2Touch s line) line (((s.ctxs.find cr.ctx).map (·.lease)).getD 512)
      serve (l1Fill s (l1Unit s cr pa) { line := line, exp := e, bytes := bs }) acc i pa a cr l bs
    else serve (if inL2 s line then l2Touch s line else s) acc i pa a cr l bs

/-- The L1's copy of a line that a load may use (R166, R494). -/
def l1Hit (s : State) (a : Access) (cr : Crew) (pa : Nat) : Option CLine :=
  if a.kind.fillsL1 && !a.kind.acquires && cr.engine == .core then
    (l1Find s (l1Unit s cr pa) (lineOf pa)).filter (fun e => leaseOk e (crewDT s cr))
  else none

/-- R138: the line requests of an access's passes that name one line are served together, with the same bytes. -/
def servePasses (s : State) (acc pa : Nat) (a : Access) (cr : Crew) : State :=
  a.lines.zipIdx.foldl (fun s p => if p.1.st == .ready pa then serveHome s acc p.2 pa a cr p.1 else s) s

/-- The line requests of an access that name a physical line and stand at it. -/
def Access.readyAt (a : Access) (pa : Nat) : List LineReq := a.lines.filter (fun l => l.st == .ready pa)

/-- Whether an access is a GATHER, each of whose passes has a packet of its own (R155). -/
def AccKind.isGather : AccKind → Bool
  | .gather _ => true
  | _ => false

/-- R138, R149, R155, R332: a line that neither its home nor its cistern holds is requested from its stack, once for all
the passes that name it; a gather's goes to the base die in a packet for each pass, unless a store to it is pending. -/
def requestLine (s : State) (acc i pa : Nat) (a : Access) : State :=
  let sent (l : LineReq) : LineReq := { l with st := .sent pa, got := none }
  if a.kind.isGather && !pendingAt s (lineOf pa) then updLine s acc i sent
  else
    match sendGranules s (some (acc, i)) [pa, pa + 64] with
    | some s =>
      if a.kind.isGather then updLine s acc i sent
      else updAcc s acc (fun a => { a with lines := a.lines.map (fun l => if l.st == .ready pa then sent l else l) })
    | none => s

/-- R386: whether the link to a memory of the HOST path is up. -/
def remoteUp (s : State) (k : Option Nat) : Bool :=
  match k with
  | some l => decide (l < 24) && !s.peersDown.contains l
  | none => true

/-- R184, R386: bytes of the host's memory, or of a peer's, which are free values (log entry 2). -/
def remoteRead (s : State) (k : Option Nat) (addr n : Nat) : List Byte × State :=
  match k with
  | none => (Memory.getN s.hostMem addr n, s)
  | some _ => ((List.range n).map (fun j => Config.peerByte (s.fresh + j)), { s with fresh := s.fresh + n })

/-- R184, R386: bytes written to the host's memory, or to a peer's. -/
def remoteWrite (s : State) (k : Option Nat) (addr : Nat) (bs : List Byte) : State :=
  match k with
  | none => { s with hostMem := Memory.setN s.hostMem addr bs }
  | some _ => s

/-- R138, R184, R385, R386: a load's line requests on the HOST path for one line are decided by the host, or by the peer;
over a link that has failed the load ends as a violation. -/
def serveRemote (s : State) (acc pa : Nat) (a : Access) (cr : Crew) (l : LineReq) (k : Option Nat) (addr : Nat) : State :=
  if !remoteUp s k then violate s acc (reportVA 0x09 (a.vaOn l))
  else
    let (bs, s) := remoteRead s k addr 128
    updAcc (countCore s cr (l.vline * 128) a.kind.acc) acc (fun a =>
      { a with lines := a.lines.map (fun l => if l.st == .ready pa then { l with st := .done pa, bytes := bs } else l) })

/-- R165, R166, R172, R318, R344: a line request of a load reaches the L1 or its home, or leaves on the HOST path. -/
def execLineRequestHome (acc line : Nat) (s : State) : Host.Outcome State Fault Refusal :=
  match s.accs.find acc with
  | none => .next s
  | some a =>
    match s.crews.find a.crew, a.lines[line]? with
    | some cr, some l =>
      match l.st with
      | .ready pa =>
        if !a.xlated || !a.kind.readsLines || logBlocks s acc a l || stalePhase s l pa || isClosed s pa
            || a.lines.any (fun x => x.st == .sent pa) then .next s
        else if a.path == 0 && (match a.kind with | .pref _ => false | _ => true)
            && (lineBehind s acc a l AccKind.isLoad || lineBehind s acc a l AccKind.isStore
              || ownPending s a.crew (lineOf pa)) then .next s
        else
          match remoteOf pa, l1Hit s a cr pa with
          | some (k, addr), _ => .next (serveRemote s acc pa a cr l k addr)
          | none, some e =>
            .next (a.lines.zipIdx.foldl (fun s p =>
              if p.1.st == .ready pa then serve s acc p.2 pa a cr p.1 e.bytes else s) (l1Fill s (l1Unit s cr pa) e))
          | none, none =>
            let ln := lineOf pa
            if (match a.kind with | .pref .l1 => pendingAt s ln | _ => false) then
              .next (updLine s acc line (fun l => { l with st := .dropped }))
            else if inSync s ln || inL2 s ln then .next (servePasses s acc pa a cr)
            else if inCistern s ln then
              .next (servePasses (cisternTouch (if a.kind.isGather then s else l2Touch s ln) ln) acc pa a cr)
            else if l.got.isNone then .next (requestLine s acc line pa a)
            else if (a.readyAt pa).any (fun x => x.got.isNone) then .next s
            else
              let good := (a.readyAt pa).all (fun x => x.got == some []) && !a.kind.isGather
              .next (servePasses (if good then cisternTouch (l2Touch s ln) ln else s) acc pa a cr)
      | _ => .next s
    | _, _ => .next s

/-- R156: the granules of a line that hold requested bytes of a gather. -/
def gatherGranules (a : Access) (l : LineReq) (pa sz : Nat) : List Nat :=
  ([pa, pa + 64]).filter (fun g => a.lanes.any (fun q =>
    q.va / 128 == l.vline && q.lane / 32 == l.pass
      && decide (q.va % 128 / 64 = (g - pa) / 64 || (q.va % 128 + sz - 1) / 64 = (g - pa) / 64)))

/-- R155, R156: a base die splits the packets of a gather that lie in its stack into granule reads. -/
def execGatherExpand (acc stack : Nat) (s : State) : Host.Outcome State Fault Refusal :=
  match s.accs.find acc with
  | none => .next s
  | some a =>
    match a.kind with
    | .gather sz =>
      .next (a.lines.zipIdx.foldl (fun s p =>
        match p.1.st with
        | .sent pa =>
          let open_ := s.dramStacks.any (fun k => k.2.reqs.any (fun r => r.acc == some (acc, p.2)))
          if open_ || (locate s pa).1 != stack || isClosed s pa then s
          else (sendGranules s (some (acc, p.2)) (gatherGranules a p.1 pa sz.bytes)).getD s
        | _ => s) s)
    | _ => .next s

-- results

/-- The bytes of a lane from an address, out of the line requests of its pass. -/
def Access.laneBytes (a : Access) (q : LaneReq) (n : Nat) (addr : Nat → Nat) : List Byte :=
  (List.range n).map (fun k =>
    let va := addr k
    match a.lines.find? (fun l => l.vline == va / 128 && (l.pass == q.lane / 32 || a.path == 3)) with
    | some l => l.bytes.getD (va % 128) 0
    | none => 0)

/-- R335: the failed granule that holds bytes of a lane, as a physical address. -/
def Access.laneFailed (a : Access) (q : LaneReq) (n : Nat) (addr : Nat → Nat) : Option Nat :=
  (List.range n).findSome? (fun k =>
    let va := addr k
    match a.lines.find? (fun l => l.vline == va / 128 && (l.pass == q.lane / 32 || a.path == 3)) with
    | some l =>
      match l.pa, l.got with
      | some pa, some bad => if bad.contains ((pa + va % 128) / 64) then some ((pa + va % 128) / 64 * 64) else none
      | _, _ => none
    | none => none)

/-- The results of an access that has them all, by lane. -/
def Access.values (a : Access) : List (Nat × BitVec 128 × Option Nat) :=
  match a.kind with
  | .load sz _ | .gather sz =>
    if a.lines.isEmpty then a.result.map (fun p => (p.1, p.2, none))
    else a.lanes.map (fun q =>
      (q.lane, loadValue sz (a.laneBytes q sz.bytes (q.va + ·)), a.laneFailed q sz.bytes (q.va + ·)))
  | .record _ _ =>
    a.lanes.map (fun q => (q.lane, loadValue .b128 (a.laneBytes q 16 (q.va + ·)), a.laneFailed q 16 (q.va + ·)))
  | .atom _ ty =>
    a.lanes.map (fun q => (q.lane, q.res.setWidth 128, a.laneFailed q (atomBytes ty) (q.va + ·)))
  | .atomo _ _ => a.lanes.map (fun q => (q.lane, q.res.setWidth 128, a.laneFailed q 8 (q.va + ·)))
  | .accept padhi v seq =>
    a.lanes.map (fun q =>
      let at_ (k : Nat) : Nat := recAddr a.recBits (q.res.toNat + k)
      (q.lane, acceptResult (a.laneBytes q acceptBytes at_) q.aux q.aux2 padhi v seq, a.laneFailed q acceptBytes at_))
  | .ballot _ => a.result.map (fun p => (p.1, p.2, a.lanes.head?.bind (fun q => a.laneFailed q 1 (q.va + ·))))
  | _ => a.result.map (fun p => (p.1, p.2, none))

/-- Whether an access has all its results. -/
def Access.arrived (a : Access) : Bool :=
  a.ready || (a.kind.readsLines && a.xlated && a.lines.all LineReq.isOver)

/-- Whether a result that is due waits for something of its own kind before it arrives. -/
def Access.returns (a : Access) : Bool :=
  match a.kind with
  | .store _ _ | .reds _ _ | .combine _ | .unlock _ | .ring _ | .stamp _ _ => false
  | _ => a.arrived

/-- R211, R302: whether a CANCELLED wait in LLOCK is a cancellation point of its crew, which cancels. -/
def waitCancels (s : State) (a : Access) (cr : Crew) : Bool × State :=
  match a.kind, a.result with
  | .lock _, (_, v) :: _ => if v.toNat % 8 = 4 then cancelsHere s cr else (false, s)
  | _, _ => (false, s)

/-- R73, R76: a long-latency result arrives and marks its destination full, also in the saved state of a crew that is
pre-empted. A running crew whose LLOCK ends with CANCELLED ends where the wait is a cancellation point (R211). -/
def execResultArrive (acc : Nat) (s : State) : Host.Outcome State Fault Refusal :=
  match s.accs.find acc with
  | none => .next s
  | some a =>
    if !a.returns then .next s
    else
      match s.crews.find a.crew with
      | none => .next (endAccess s acc)
      | some cr =>
        let (cancel, s) := waitCancels s a cr
        if cancel then .next (if cr.state == .saved then s else endCrew (endAccess s acc) a.crew .broken)
        else .next (returnValues s acc a.values)

-- stores

/-- R174: whether every earlier load of a crew has returned its value. -/
def loadsReturned (s : State) (cid before : Nat) : Bool :=
  !s.accs.any (fun p => p.2.crew == cid && decide (p.1 < before) && p.2.kind.isLoad)

/-- R318: whether a store names a page of an earlier entry of its crew's operand log that has not been replayed. The line
requests of a COMBINE name slices. -/
def storeHeld (s : State) (acc : Nat) (a : Access) : Bool :=
  match a.kind with
  | .combine _ => false
  | _ => a.lines.any (logBlocks s acc a)

/-- R174, R188, R318: the store of a queue that may be sent: its first, once it is walked, every earlier load has returned,
and no log entry holds it. -/
def sendableOf (s : State) (cid : Nat) : List Nat → Option Nat
  | [] => none
  | k :: ks =>
    match s.accs.find k with
    | none => sendableOf s cid ks
    | some a => if !a.xlated || !loadsReturned s cid k || storeHeld s k a then none else some k

/-- R174: the store of a crew's queue that may be sent. -/
def sendable (s : State) (cr : Crew) : Option Nat := sendableOf s cr.cid cr.storeQ

/-- R174, R188: a queued store is sent to its homes; a SAVED crew's stores wait for its restore. -/
def execStoreQueueSend (crew : Nat) (s : State) : Host.Outcome State Fault Refusal :=
  match s.crews.find crew with
  | none => .next s
  | some cr =>
    if cr.state == .saved then .next s
    else
      match sendable s cr with
      | none => .next s
      | some k =>
        let s := updAcc s k (fun a => if a.kind.isStore then
            { a with lines := a.lines.map (fun l => match l.st with
              | .ready pa => { l with st := .sent pa }
              | _ => l) }
          else a)
        .next (wakeCrew (updCrew s crew (fun c => { c with storeQ := c.storeQ.filter (· != k) })) crew)

/-- Whether a lane of a store writes to a physical line by a line request that has been performed, or has not. -/
def Access.storesOn (a : Access) (pa : Nat) (performed : Bool) (q : LaneReq) : Bool :=
  a.lines.any (fun l => q.va / 128 == l.vline && l.pa == some pa && l.isOver == performed)

/-- R138, R139: the bytes that a store writes to a physical line, of all its passes, the highest lane's last: those of the
line requests not yet performed, without the bytes that a higher lane has written. -/
def Access.storeBytesOn (a : Access) (pa : Nat) : List (Nat × Byte) :=
  let above (q : LaneReq) (b : Nat) : Bool := a.lanes.any (fun h =>
    decide (q.lane < h.lane) && decide (h.va % 128 ≤ b) && decide (b < h.va % 128 + h.data.length) && a.storesOn pa true h)
  (a.lanes.filter (a.storesOn pa false)).flatMap (fun q =>
    (numbered (q.va % 128) q.data).filter (fun p => !above q p.1))

/-- The physical address of a store's line that has been sent. -/
def sentPA (cr : Crew) (acc : Nat) (l : LineReq) : Option Nat :=
  match l.st with
  | .sent pa | .posted pa => some pa
  | .ready pa => if cr.storeQ.contains acc then none else some pa
  | _ => none

/-- Marks the line requests of an access that name one line. -/
def markLines (s : State) (acc pa : Nat) (a : Access) (st : LineState) : State :=
  a.lines.zipIdx.foldl (fun s p => if p.1.pa == some pa then updLine s acc p.2 (fun l => { l with st := st }) else s) s

/-- R178: whether a write of a crew on the HOST path is not acknowledged. -/
def remoteOut (s : State) (cid : Nat) : Bool :=
  s.accs.any (fun p => p.2.crew == cid && p.2.lines.any (fun l => match l.st with
    | .posted _ => true
    | _ => false))

/-- R174, R178, R385, R386: a store's line request on the HOST path is written by the host or the peer, and then
acknowledged by the link; over a link that has failed it ends as a violation. -/
def storeRemote (s : State) (acc pa : Nat) (a : Access) (cr : Crew) (l : LineReq) (k : Option Nat) (addr : Nat) : State :=
  if !remoteUp s k then
    let s := violate s acc (reportVA 0x09 (a.vaOn l))
    updCrew s a.crew (fun c => { c with hostAck := !remoteOut s a.crew })
  else
    match l.st with
    | .posted _ =>
      let s := markLines s acc pa a (.done pa)
      let s := updCrew s a.crew (fun c => { c with hostAck := !remoteOut s a.crew })
      if ((s.accs.find acc).map (fun a => a.lines.all LineReq.isOver)).getD false then endAccess s acc else wakeCrew s a.crew
    | _ =>
      let s := markLines (countCore s cr (l.vline * 128) 1) acc pa a (.posted pa)
      let s := updCrew s a.crew (fun c => { c with hostAck := false })
      let s := match k with
        | none => { s with hostMem := Memory.setAll s.hostMem ((a.storeBytesOn pa).map (fun p => (addr + p.1, p.2))) }
        | some _ => s
      wakeCrew s a.crew

/-- R169, R172, R318, R344: a store's line request arrives at its home and takes its Tw, with those of its other passes
for the same line (R138). -/
def execStoreArrive (acc line : Nat) (s : State) : Host.Outcome State Fault Refusal :=
  match s.accs.find acc with
  | none => .next s
  | some a =>
    match s.crews.find a.crew, a.lines[line]? with
    | some cr, some l =>
      match sentPA cr acc l with
      | none => .next s
      | some pa =>
        if !a.kind.isStore || logBlocks s acc a l || stalePhase s l pa || isClosed s pa
            || lineBehind s acc a l AccKind.isStore then
          .next s
        else if let some (k, addr) := remoteOf pa then .next (storeRemote s acc pa a cr l k addr)
        else
          let (s, tw) := storeLine s (lineOf pa) (storeSrc a.crew a.path) (a.storeBytesOn pa)
          let s := ackTw s a.crew a.path tw
          let s := a.lines.zipIdx.foldl (fun s p =>
            if sentPA cr acc p.1 == some pa then
              updLine (countCore s cr (p.1.vline * 128) 1) acc p.2 (fun l => { l with st := .done pa })
            else s) s
          .next (if ((s.accs.find acc).map (fun a => a.lines.all LineReq.isOver)).getD false then endAccess s acc else s)
    | _, _ => .next s

/-- R170: the stores of a line whose Tw home DT has reached become visible. -/
def execStoreLand (line : Nat) (s : State) : Host.Outcome State Fault Refusal := .next (settle s line)

/-- R345: a request with a stale phase is reissued under the current one. -/
def execStaleRequest (acc line : Nat) (s : State) : Host.Outcome State Fault Refusal :=
  match (s.accs.find acc).bind (fun a => a.lines[line]?) with
  | some l =>
    match l.pa with
    | some pa =>
      if stalePhase s l pa && !l.isOver then .next (updLine s acc line (fun l =>
        { l with epoch := s.mig.epoch, phase := s.mig.phase, under := s.mig.setOf pa }))
      else .next s
    | none => .next s
  | none => .next s

-- spills and fills (R69 to R72)

/-- R69, R72: the registers of a crew for which a split wants rows. -/
def Crew.rowWants (cr : Crew) : List (List Nat) :=
  cr.splits.filterMap (fun sp => match sp.state with
    | .waitRows rs => some rs
    | .waitFill rs => ((rs.filter cr.isSpilled).head?).map (fun r => [r])
    | _ => none)

/-- R69: the candidate registers of a crew with the time of their last use. -/
def Crew.candidates (cr : Crew) : List (Nat × Nat) :=
  (cr.rmap.keys.filter cr.spillable).map (fun r => (r, SMap.getD cr.lastUse r 0))

/-- R69: the victim for a request of a crew, as crew and register. -/
def spillVictim (s : State) (u req : Nat) : Option (Nat × Nat) :=
  let on := s.crews.filter (fun p => unitOf s p.2 == u && p.2.state == .running && !p.2.candidates.isEmpty)
  let idle := on.filter (fun p => p.2.splits.all (fun sp => sp.state != .ready))
  match leastBy (fun x => x.2.2) (idle.flatMap (fun p => p.2.candidates.map (fun c => (p.1, c)))) with
  | some x => some (x.1, x.2.1)
  | none =>
    match leastBy (fun p => p.2.issuedAt) (on.filter (fun p => p.1 != req)) with
    | some p => (leastBy (·.2) p.2.candidates).map (fun c => (p.1, c.1))
    | none => none

/-- R69: a crew of a core with registers for which it wants rows that are not free. -/
def rowRequest (s : State) (core : Nat) : Option (Nat × List Nat) :=
  s.crews.findSome? (fun p =>
    if unitOf s p.2 == core && p.2.state == .running then
      (p.2.rowWants.find? (fun rs => !rowsFree s p.1 rs)).map (fun rs => (p.1, rs))
    else none)

/-- R69, R70: the spill engine of a core evicts one register while a split wants rows that are not free. -/
def execSpillEvict (core : Nat) (s : State) : Host.Outcome State Fault Refusal :=
  match rowRequest s core with
  | none => .next (wakeRows s core)
  | some (cid, _) =>
    match spillVictim s core cid with
    | none => .next s
    | some (v, r) => .next (wakeRows (spillTo s v r) core)

/-- R45, R72: readies the splits of a crew that wait in WAIT_FILL for registers none of which is spilled any more. -/
def wakeFills (s : State) (cid : Nat) : State :=
  match s.crews.find cid with
  | none => s
  | some cr => wakeSplits s cid (fun sp => match sp.state with
      | .waitFill rs => !rs.any cr.isSpilled
      | _ => false)

/-- R72, R335: a spilled register is filled into free rows; one whose slot is uncorrectable kills its cohort. -/
def execRegisterFill (crew reg : Nat) (s : State) : Host.Outcome State Fault Refusal :=
  match s.crews.find crew with
  | none => .next s
  | some cr =>
    if cr.state != .running then .next s
    else if !cr.isSpilled reg then .next (wakeFills s crew)
    else if !(slotFills s cr reg).isEmpty then .next ((slotFills s cr reg).foldl askFill s)
    else if slotFailed s cr reg then .next (killCrew s cr)
    else
      match findRows (usedRows s (unitOf s cr)) (rowsOf cr.w0) with
      | none => .next s
      | some row => .next (wakeFills (updCrew s crew (fun c => c.fillReg reg row)) crew)

end Sys2Proof.Machine
end

