-- ==== Sys2Proof/Machine/Sync.lean ====
section
/-! DEFINITION. Sync.lean: the synchronisation instructions and engines (R182, R183, R192 to R217, R412 to R416, R440,
R499 to R504, R534 to R536). -/
namespace Sys2Proof.Machine

-- the line store (R193)

/-- R192: the frames of a slice's line store. -/
def syncFrames : Nat := 3584

/-- R193: whether a request in flight, a lock or a held request names a line. -/
def syncBusy (s : State) (line : Nat) : Bool :=
  (s.locks.find line).isSome
    || s.accs.any (fun p => p.2.path == 3 && p.2.lines.any (fun l => !l.isOver && l.pa == some (line * 128)))

/-- The key of a staging slot: its line, context, group and source index (R201). -/
def slotKey (line ctx grp src : Nat) : Nat := line * 2 ^ 32 + ctx % 4096 * 2 ^ 20 + grp % 4096 * 2 ^ 8 + src % 256

/-- R193: whether a request in flight names a staging slot. -/
def slotBusy (s : State) (key : Nat) : Bool :=
  s.accs.any (fun p => match p.2.kind with
    | .reds _ _ => p.2.lanes.any (fun q => !q.done
        && (p.2.lanePA q).any (fun pa => slotKey (lineOf pa) p.2.ctx q.aux q.aux2 == key))
    | _ => false)

/-- The context of a staging slot, by its key. -/
def slotCtx (s : State) (key : Nat) : Nat := ((s.slots.find key).map (·.ctx)).getD 0

/-- Whether a staging slot has its frame. -/
def slotResident (s : State) (key : Nat) : Bool := s.sync.any (fun p => p.2.frames.contains (.slot key))

/-- R358: the context whose access a line's first tracking entry records; none where the line has no entry. -/
def trackCtx (s : State) (line : Nat) : Option Nat :=
  ((s.track.filter (fun p => p.1 / 16 == line)).head?).map (·.2.ctx)

/-- R162, R193: whether a context's victim region takes an entry more. -/
def victimRoom (s : State) (ctx : Nat) : Bool :=
  let slots := (s.slots.filter (fun p => p.2.ctx == ctx && !slotResident s p.1)).length
  let lines := ((s.sync.vals.flatMap (·.victims)).filter (fun l => trackCtx s l == some ctx)).length
  decide (128 * (slots + lines + 1) ≤ ((s.ctxs.find ctx).map (·.vicSize)).getD 0)

/-- R193: whether a frame may be victimised. -/
def frameVictim (s : State) (f : SyncFrame) : Bool :=
  match f with
  | .line l => !syncBusy s l && (match trackCtx s l with
    | some ctx => victimRoom s ctx
    | none => true)
  | .slot k => !slotBusy s k && victimRoom s (slotCtx s k)

/-- R193: a frame leaves its slice; the tracking entries of a line go to the victim region. -/
def SyncSlice.evict (x : SyncSlice) (s : State) (f : SyncFrame) : SyncSlice :=
  { frames := x.frames.filter (· != f)
    victims := match f with
      | .line l => if (trackCtx s l).isSome then l :: x.victims else x.victims
      | .slot _ => x.victims }

/-- R193: a victim leaves its slice; a line's bytes stand in its home slice of the L2. -/
def victimise (s : State) (k : Nat) (f : SyncFrame) : State :=
  let s := { s with sync := s.sync.put k ((SMap.getD s.sync k {}).evict s f) }
  match f with
  | .line l => l2Touch s l
  | .slot _ => s

/-- R193: a free frame of a slice: where none is free, the least recently used that may go is victimised. -/
def makeFrame (s : State) (k : Nat) : Option State :=
  let x := SMap.getD s.sync k {}
  if x.frames.length < syncFrames then some s else (x.frames.reverse.find? (frameVictim s)).map (victimise s k)

/-- R193: a frame becomes the most recent of its slice; one that was victimised comes back. -/
def SyncSlice.touch (x : SyncSlice) (f : SyncFrame) : SyncSlice :=
  { frames := f :: x.frames.filter (· != f)
    victims := match f with
      | .line l => x.victims.filter (· != l)
      | .slot _ => x.victims }

/-- R193: a frame becomes the most recent of its slice, and enters it where it is not there. -/
def touchFrame (s : State) (k : Nat) (f : SyncFrame) : Option State :=
  let enter (s : State) : State := { s with sync := s.sync.put k ((SMap.getD s.sync k {}).touch f) }
  if (SMap.getD s.sync k {}).frames.contains f then some (enter s) else (makeFrame s k).map enter

/-- The line that a frame of an engine holds. -/
def frameLine (s : State) (f : SyncFrame) : Option Nat :=
  match f with
  | .line n => some n
  | .slot k => (s.slots.find k).map (·.line)

/-- R193, R216, R217: frames enter the slices of their lines' homes, as far as there is room. -/
def enterFrames (s : State) (fs : List SyncFrame) : State :=
  fs.foldl (fun s f =>
    match frameLine s f with
    | some n => (touchFrame s (syncSliceOf s (n * 128)) f).getD s
    | none => s) s

/-- R193: the victim entries of some lines are fetched back. -/
def fetchVictims (s : State) (p : Nat → Bool) : State :=
  let slots := s.slots.filter (fun x => p x.2.line && !slotResident s x.1)
  let s := { s with sync := s.sync.mapAll (fun _ x => { x with victims := x.victims.filter (fun l => !p l) }) }
  enterFrames s (slots.map (fun x => .slot x.1))

/-- R182: whether an engine may act on a line now: no lease outstanding, and no store pending. -/
def syncOpen (s : State) (line : Nat) : Bool :=
  !pendingAt s line && decide (horizon (settle s line) line ≤ homeDT s line) && !isClosed s (line * 128)

/-- R182, R193: an engine takes a line. -/
def syncTake (s : State) (line : Nat) : Option State :=
  if syncOpen s line then
    (touchFrame (settle s line) (syncSliceOf s (line * 128)) (.line line)).map (fun s => l2Touch s line)
  else none

-- SYNC-path accesses to the host's or a peer's memory (R385, R386)

/-- R182, R385: an engine takes the line of a SYNC-path access; memory of the host or a peer has no engine, and its line is
the host's or the peer's to take. -/
def engineTake (s : State) (pa : Nat) : Option State := if (remoteOf pa).isSome then some s else syncTake s (lineOf pa)

/-- R386: whether a line request names memory behind a link that has failed. -/
def linkLost (s : State) (pa : Nat) : Bool := (remoteOf pa).any (fun x => !remoteUp s x.1)

/-- R182, R184: n bytes at a physical address, as the engine that performs a SYNC-path access sees them, or as the host or
the peer decides them. -/
def cellRead (s : State) (pa n : Nat) : Nat × State :=
  match remoteOf pa with
  | some (k, addr) =>
    let (bs, s) := remoteRead s k addr n
    (leNat bs, s)
  | none => (leNat (readNewest s pa n), s)

/-- R182, R184: a SYNC-path access of a crew writes bytes within one line, at one instant, which is their Tw. -/
def cellWrite (s : State) (cid pa : Nat) (bs : List Byte) : State :=
  match remoteOf pa with
  | some (k, addr) => remoteWrite s k addr bs
  | none =>
    let (s, tw) := arriveStore s (lineOf pa) 0 (numbered (pa % 128) bs)
    ackTw s cid 3 tw

-- order of SYNC-path accesses

/-- Whether a lane's request has reached its slice. -/
def LaneReq.reached (q : LaneReq) : Bool := q.done || q.held

/-- R291, R370: the virtual lines that the next n appends to a ring of records of some size write. -/
def RingRef.nextLines (s : State) (ctx : Nat) (r : RingRef) (size n : Nat) : List Nat :=
  let prod := ((peek s none 0 ctx r.cb).map (fun pa => leNat (readNewest s pa 4))).getD 0
  r.cb / 128 :: (List.range n).map (fun i => (r.base + size * ((prod + i) % 2 ^ r.log2)) / 128)

/-- R291, R370: whether a line is one that the next n appends to a ring write, by its virtual or its physical line. -/
def RingRef.names (s : State) (ctx : Nat) (r : RingRef) (size n : Nat) (l : LineReq) : Bool :=
  (r.nextLines s ctx size n).any (fun v => v == l.vline || l.pa.any (fun pa => isLine s ctx v (lineOf pa)))

/-- R182: whether a SYNC-path access may still be performed on a line: one of its line requests names it and has a lane
that has not reached its slice, or its ring does. -/
def Access.syncNames (s : State) (a : Access) (l : LineReq) : Bool :=
  match a.kind with
  | .combine _ => true
  | .ring rh => ((s.ctxs.find a.ctx).bind (fun c => c.rings.find rh)).any (fun b => b.ring.names s a.ctx 8 a.lanes.length l)
  | .stamp q _ => ((s.queues.find q).bind (·.stamp)).any (fun r => r.names s a.ctx 64 1 l)
  | _ => a.lines.any (fun x => !x.isOver && sameLine s a.ctx x l
      && (a.lanes.filter (fun q => q.va / 128 == x.vline)).any (fun q => !q.reached))

/-- R182: an earlier SYNC-path access of the crew to a line that has not reached its slice. -/
def syncBehind (s : State) (acc : Nat) (a : Access) (l : LineReq) : Bool :=
  s.accs.any (fun p => decide (p.1 < acc) && p.2.crew == a.crew && p.2.path == 3 && p.2.syncNames s l)

/-- Whether a line request of a SYNC-path access must still wait. -/
def syncBlocked (s : State) (acc : Nat) (a : Access) (l : LineReq) (pa : Nat) : Bool :=
  !a.xlated || logBlocks s acc a l || stalePhase s l pa || isClosed s pa || syncBehind s acc a l

/-- What the engine's need of a line's bytes answers (R335). -/
inductive SyncFill
  | filled
  | waits (s : State)

/-- R332, R335: the bytes of a line that neither the engine, the L2 nor the cistern holds come from its stack; those of the
host's or a peer's memory do not. -/
def syncFill (s : State) (acc i pa : Nat) (l : LineReq) : SyncFill :=
  if (remoteOf pa).isSome || cached s (lineOf pa) || l.got.isSome then .filled
  else
    match sendGranules s (some (acc, i)) [pa, pa + 64] with
    | some s => .waits (updLine s acc i (fun l => { l with st := .sent pa }))
    | none => .waits s

/-- R317, R318: an access with no line request left to send frees its operand-log entry. -/
def logDone (s : State) (acc : Nat) : State :=
  match s.accs.find acc with
  | none => s
  | some a =>
    if a.logged && a.lanes.all LaneReq.reached then
      let s := updAcc s acc (fun a => { a with logged := false })
      let s := updCrew s a.crew (fun cr => { cr with oplog := cr.oplog.filter (· != acc) })
      wakeCrew (logAdmit s a.crew) a.crew
    else s

/-- Sets a lane of an access. -/
def updLane (s : State) (acc lane : Nat) (f : LaneReq → LaneReq) : State :=
  updAcc s acc (fun a => { a with lanes := a.lanes.map (fun q => if q.lane = lane then f q else q) })

/-- The line requests whose lanes are all performed are over, and with all of them the access has its results. -/
def settleLanes (s : State) (acc : Nat) : State :=
  logDone (updAcc s acc (fun a =>
    { a with lines := doneLines a.lanes a.lines, ready := a.lanes.all (·.done) })) acc

-- ATOM (R195, R412 to R416)

/-- The element offsets of an atomic access, and the first check that fails (R135). -/
def Env.atomCheck (e : Env) (br : BitVec 4) (off : BitVec 11) (a : Src) (n : Need) (size : Nat) : Option Report :=
  checkLanes (e.recBits br) br.toNat n size size
    (e.lanes.map (e.offset (e.recBits br) a (off.toInt * (size : Int))))

/-- The lanes of an atomic access that passed its checks. -/
def Env.atomLanes (e : Env) (br : BitVec 4) (off : BitVec 11) (a : Src) (size : Nat) (f : LaneReq → LaneReq) :
    List LaneReq :=
  e.lanes.map (fun l =>
    f { lane := l, va := recAddr (e.recBits br) (e.offset (e.recBits br) a (off.toInt * (size : Int)) l).toNat })

/-- The operand of an atomic type in a lane (R85, R412). -/
def Env.atomInt (e : Env) (ty : AtomTy) (b : Src) (l : Nat) : Nat :=
  match ty with
  | .f32 => e.flt .f32 b l
  | _ => (e.int ty.operand b l).toNat

/-- Posts a SYNC-path access; one with a scope is an acquire (R416). -/
def Env.postSync (e : Env) (s : State) (d : DestUse) (kind : AccKind) (br : BitVec 4) (qs : List LaneReq)
    (acq : Bool) : State × Nat :=
  let (s, id) := e.post s d (fun id => { e.access kind 3 (e.recBits br) qs id with lines := syncLines qs })
  (if acq then e.acquire s id else s, id)

/-- R416: the fence part of an atomic with a scope. -/
def Env.atomFence (e : Env) (scope : Option Scope) (k : Env → Eff) : Eff :=
  match scope with
  | some sc => e.fenced sc allPaths 8 k
  | none => k e

/-- R412 to R416. -/
def execAtom (g : Guard) (d : Dest) (op : AtomOp) (ty : AtomTy) (br : BitVec 4) (off : BitVec 11)
    (scope : Option Scope) (a b c : Src) (s : State) : Host.Outcome State Fault Refusal :=
  issue s (.atom g d op ty br off scope a b c) (fun e =>
    let n := atomBytes ty
    match e.atomCheck br off a { r := true, w := true, s := true } n with
    | some t => .trap t
    | none =>
      if e.lanes.isEmpty then .next e.s
      else
        let qs := e.atomLanes br off a n (fun q =>
          { q with data := leBytes n (e.atomInt ty b q.lane), aux := e.atomInt ty c q.lane })
        e.atomFence scope (fun e =>
          e.tracked true (.next (e.postSync e.s (.l d ty.operand) (.atom op ty) br qs scope.isSome).1)))

/-- R414: one lane of an ATOM on a line that its engine holds. -/
def atomLane (s : State) (acc pa : Nat) (a : Access) (op : AtomOp) (ty : AtomTy) (q : LaneReq) : State :=
  let n := atomBytes ty
  let (old, s) := cellRead s pa n
  let s := if atomWrites op old q.aux then cellWrite s a.crew pa (leBytes n (atomNew op ty old (leNat q.data) q.aux)) else s
  updLane s acc q.lane (fun q => { q with done := true, res := BitVec.ofNat 64 old })

/-- Whether a lane of an access names a physical line. -/
def Access.laneOn (a : Access) (q : LaneReq) (line : Nat) : Bool := (a.lanePA q).any (fun p => lineOf p == line)

/-- R195, R335, R414: the lanes of an ATOM on one line, in ascending order; a lane whose granule is uncorrectable is
not performed. The failed granules that came back for the line are those of each of its line requests. -/
def atomPerform (s : State) (acc pa : Nat) (a : Access) (l : LineReq) (op : AtomOp) (ty : AtomTy) : State :=
  let qs := sortBy (·.lane) (a.lanes.filter (fun q => a.laneOn q (lineOf pa) && !q.done))
  let s := updAcc (touchWindows s pa) acc (fun a =>
    { a with lines := a.lines.map (fun x => if x.pa == some pa then { x with got := l.got } else x) })
  let s := qs.foldl (fun s q =>
    if (l.got.getD []).contains ((pa + q.va % 128) / 64) then updLane s acc q.lane (fun q => { q with done := true })
    else atomLane s acc (pa + q.va % 128) a op ty q) s
  examineHeld s (lineOf pa)

-- COMBINE (R204, R440)

/-- R440: the fold begins at each of the 64 slices. -/
def execCombine (g : Guard) (grp : BitVec 12) (s : State) : Host.Outcome State Fault Refusal :=
  issue s (.combine g grp) (fun e =>
    if e.lanes.isEmpty then .next e.s
    else
      let slices : List LineReq := (List.range 64).map (fun i => { vline := i })
      e.queueing (
        let (s, id) := e.post e.s .none (fun id =>
          { e.access (.combine grp.toNat) 3 0 [] id with lines := slices, xlated := true })
        .next (enqueue s e.cid id)))

/-- R204: the slots of a group that a slice folds: those bound there. -/
def slotsAt (s : State) (ctx grp slice : Nat) : List (Nat × Staging) :=
  s.slots.filter (fun p => p.2.ctx == ctx && p.2.grp == grp && p.2.home == slice)

/-- R204: the slice that a lane's request belongs to: for a REDS whose slot is bound, that of its slot. -/
def laneSlice (s : State) (a : Access) (q : LaneReq) (pa : Nat) : Nat :=
  match a.kind with
  | .reds _ _ => ((s.slots.find (slotKey (lineOf pa) a.ctx q.aux q.aux2)).map (·.home)).getD (syncSliceOf s pa)
  | _ => syncSliceOf s pa

/-- R182: whether a lane of an access may still have to reach a slice; one that is not translated may. -/
def Access.awaits (s : State) (a : Access) (slice : Nat) : Bool :=
  a.lanes.any (fun q => !q.reached && (match a.lanePA q with
    | some pa => laneSlice s a q pa == slice
    | none => true))

/-- R440: whether an access is a COMBINE of a group that is folding slots of a slice. -/
def Access.foldsAt (a : Access) (ctx grp slice : Nat) : Bool :=
  (match a.kind with
    | .combine g => g == grp
    | _ => false) && a.ctx == ctx
    && a.fold.any (fun st => st.home == slice && a.lines.any (fun l => !l.isOver && l.pa == some (st.line * 128)))

/-- R182, R440: whether an earlier SYNC access of the crew has not reached a slice, or a fold of the group is in progress
there. -/
def foldBehind (s : State) (acc : Nat) (a : Access) (grp slice : Nat) : Bool :=
  s.accs.any (fun p => p.2.foldsAt a.ctx grp slice
    || (decide (p.1 < acc) && p.2.crew == a.crew && p.2.path == 3 && (match p.2.kind with
      | .combine _ => p.2.lines.any (fun l => l.vline == slice && !l.isOver && l.pa.isNone)
      | _ => p.2.awaits s slice)))

/-- R204, R205: the fold of a group begins at a slice: its slots leave the group. -/
def foldBegin (s : State) (acc i slice : Nat) (a : Access) (grp : Nat) : State :=
  let ctx := a.ctx
  if inStoreQ s acc a || foldBehind s acc a grp slice then s
  else
    let xs := slotsAt s ctx grp slice
    let keys := xs.map (·.1)
    let lines := nubNat (xs.map (·.2.line))
    let s := { s with slots := s.slots.keep (fun k _ => !keys.contains k)
                      sync := s.sync.mapAll (fun _ sl => { sl with frames := sl.frames.filter (fun f => match f with
                        | .slot k => !keys.contains k
                        | .line _ => true) }) }
    updAcc s acc (fun a =>
      { a with fold := a.fold ++ xs.map (·.2)
               lines := changeAt a.lines i (fun l => { l with st := .done 0 })
                 ++ lines.map (fun ln => { vline := 64, st := .ready (ln * 128) }) })

/-- R204: an element of a fold, from its slots in ascending source index, each by its own type and operation. -/
def foldElement (bytes : Nat) (xs : List Staging) (off : Nat) (old : Nat) : Nat :=
  xs.foldl (fun x st =>
    match st.elems.find off with
    | some v => redsNew st.op st.ty x v.toNat % 2 ^ (8 * bytes)
    | none => x) old

/-- R204: the elements of `n` bytes of a line's slots, each written once. An element in an uncorrectable granule starts
from a free value (log entry 2). -/
def foldSized (pa : Nat) (a : Access) (l : LineReq) (all : List Staging) (s : State) (n : Nat) : State :=
  let xs := all.filter (fun st => atomBytes st.ty == n)
  let offs := sortBy (fun o => o) (nubNat (xs.flatMap (fun st => st.elems.keys)))
  offs.foldl (fun s o =>
    let bad := (l.got.getD []).contains ((pa + o) / 64)
    let (old, s) := if bad then
        ((Config.freeWord s.fresh).toNat + 2 ^ 32 * (Config.freeWord (s.fresh + 1)).toNat, { s with fresh := s.fresh + 2 })
      else cellRead s (pa + o) n
    cellWrite s a.crew (pa + o) (leBytes n (foldElement n xs o (old % 2 ^ (8 * n))))) s

/-- R204: the fold of a line's slots into memory: each element with a written slot element is written once. Where slots
name elements of different sizes, those of 4 bytes come first (log entry 61). -/
def foldLine (s : State) (pa : Nat) (a : Access) (l : LineReq) : State :=
  let xs := sortBy (·.src) (a.fold.filter (fun st => st.line == lineOf pa))
  examineHeld ([4, 8].foldl (foldSized pa a l xs) (touchWindows s pa)) (lineOf pa)

/-- R179, R204: a COMBINE whose every slice and line is folded is complete. -/
def combineEnd (s : State) (acc : Nat) : State :=
  if ((s.accs.find acc).map (fun a => a.lines.all LineReq.isOver)).getD false then endAccess s acc else s

/-- R182: a slice performs a SYNC-path access at one instant: the lanes of an ATOM on a line, or a COMBINE's fold of a
slice's slots or of a line. -/
def execSyncAccess (acc line : Nat) (s : State) : Host.Outcome State Fault Refusal :=
  match s.accs.find acc with
  | none => .next s
  | some a =>
    match a.lines[line]? with
    | none => .next s
    | some l =>
      match a.kind, l.st with
      | .combine grp, .new => .next (combineEnd (foldBegin s acc line l.vline a grp) acc)
      | .combine _, .ready pa =>
        if isClosed s pa then .next s
        else if linkLost s pa then
          .next (combineEnd (deferReport (updLine s acc line (fun l => { l with st := .dropped })) a.crew a.lanesM
            (reportVA 0x09 (l.vline * 128))) acc)
        else
          match syncFill s acc line pa l with
          | .waits s => .next s
          | .filled =>
            match engineTake s pa with
            | none => .next s
            | some s =>
              let s := foldLine s pa a l
              .next (combineEnd (updLine s acc line (fun l => { l with st := .done pa })) acc)
      | .atom op ty, .ready pa =>
        if syncBlocked s acc a l pa then .next s
        else if linkLost s pa then .next (violate s acc (reportVA 0x09 (a.vaOn l)))
        else
          match syncFill s acc line pa l with
          | .waits s => .next s
          | .filled =>
            match engineTake s pa, s.crews.find a.crew with
            | some s, some cr =>
              .next (settleLanes (countCore (atomPerform s acc pa a l op ty) cr (l.vline * 128) a.kind.acc) acc)
            | _, _ => .next s
      | _, _ => .next s

-- ATOMO (R197 to R200)

/-- R412 to R416. -/
def execAtomo (g : Guard) (d : Dest) (op : AtomOp) (ty : AtomTy) (br : BitVec 4) (off : BitVec 11)
    (scope : Option Scope) (a b sq : Src) (s : State) : Host.Outcome State Fault Refusal :=
  issue s (.atomo g d op ty br off scope a b sq) (fun e =>
    match e.atomCheck br off a { r := true, w := true, s := true } 8 with
    | some t => .trap t
    | none =>
      if e.lanes.isEmpty then .next e.s
      else
        let qs := e.atomLanes br off a 8 (fun q =>
          { q with data := leBytes 4 (e.atomInt ty b q.lane), aux := (e.int32 sq q.lane).toNat })
        e.atomFence scope (fun e =>
          .next (e.postSync e.s (.l d .w64) (.atomo op ty) br qs scope.isSome).1))

/-- R199: the ordered requests that a slice's reorder buffer holds, but for those in a sump. -/
def reorderUsed (s : State) (slice : Nat) : Nat :=
  sumOf (s.accs.map (fun p => match p.2.kind with
    | .atomo _ _ => (p.2.lanes.filter (fun q => q.held && q.aux2 != 2
        && (p.2.lanePA q).any (fun pa => syncSliceOf s pa == slice))).length
    | _ => 0))

/-- R199: a request that is early is held: in the reorder buffer, else in the sump; else it is refused. -/
def holdOrdered (s : State) (acc lane pa ctx : Nat) : State :=
  if reorderUsed s (syncSliceOf s pa) < 63 then updLane s acc lane (fun q => { q with held := true, aux2 := 0 })
  else if 32 ≤ ((s.ctxs.find ctx).map sumpFree).getD 0 then
    updLane (updCtx s ctx (fun c => { c with sumpUsed := c.sumpUsed + 32 })) acc lane
      (fun q => { q with held := true, aux2 := 2 })
  else updLane s acc lane (fun q => { q with aux2 := 1 })

/-- R198, R385, R386: a request at a cell of the host's or a peer's memory, which no engine can hold: one that is early is
refused, and sent again. -/
def orderedRemote (s : State) (acc pa : Nat) (a : Access) (q : LaneReq) (op : AtomOp) (ty : AtomTy) : State :=
  let (c, s) := cellRead s pa 8
  let val := c % 2 ^ 32
  let next := c / 2 ^ 32
  let d := seqDistance q.aux next
  let answer (s : State) : State := updLane s acc q.lane (fun q => { q with done := true, res := BitVec.ofNat 64 c })
  if d = 0 then answer (cellWrite s a.crew pa (leBytes 4 (atomNew op ty val (leNat q.data) 0) ++ leBytes 4 ((next + 1) % 2 ^ 32)))
  else if 0 < d then updLane s acc q.lane (fun q => { q with aux2 := 1 })
  else answer s

/-- R198: a request at a cell that its engine holds. -/
def orderedAt (s : State) (acc pa ctx : Nat) (a : Access) (q : LaneReq) (op : AtomOp) (ty : AtomTy) : State :=
  let d := seqDistance q.aux (leNat (readNewest s (pa + 4) 4))
  if d = 0 then examineHeld (orderedPerform s acc a q op ty pa) (lineOf pa)
  else if 0 < d then holdOrdered s acc q.lane pa ctx
  else stalePerform s acc a q pa

/-- R198, R199: a lane's ordered request reaches its cell's slice, after the lower lanes that name its line. -/
def execAtomoRequest (acc lane : Nat) (s : State) : Host.Outcome State Fault Refusal :=
  match s.accs.find acc with
  | none => .next s
  | some a =>
    match a.kind, a.lanes.find? (fun q => q.lane == lane), s.crews.find a.crew with
    | .atomo op ty, some q, some cr =>
      match a.lines.zipIdx.find? (fun p => p.1.vline == q.va / 128) with
      | none => .next s
      | some (l, i) =>
        match l.st with
        | .ready pa =>
          let lower := a.lanes.any (fun x => decide (x.lane < lane) && a.laneOn x (lineOf pa) && !x.reached && x.aux2 == 0)
          if q.reached || q.aux2 = 1 || lower || syncBlocked s acc a l pa then .next s
          else if linkLost s pa then .next (violate s acc (reportVA 0x09 q.va))
          else
            match syncFill s acc i pa l with
            | .waits s => .next s
            | .filled =>
              match engineTake s pa with
              | none => .next s
              | some s =>
                let s := touchWindows s pa
                let s := if (a.laneFailed q 8 (q.va + ·)).isSome then updLane s acc lane (fun q => { q with done := true })
                  else if (remoteOf pa).isSome then orderedRemote s acc (pa + q.va % 128) a q op ty
                  else orderedAt s acc (pa + q.va % 128) cr.ctx a q op ty
                .next (settleLanes (countCore s cr q.va a.kind.acc) acc)
        | _ => .next s
    | _, _, _ => .next s

/-- R199: a refused request is sent again. -/
def execAtomoResend (acc lane : Nat) (s : State) : Host.Outcome State Fault Refusal :=
  match s.accs.find acc with
  | none => .next s
  | some a =>
    match a.kind with
    | .atomo _ _ => .next (updLane s acc lane (fun q => if q.aux2 = 1 && !q.held then { q with aux2 := 3 } else q))
    | _ => .next s

-- REDS (R201 to R205, R534 to R536)

/-- R534 to R536. -/
def execReds (g : Guard) (op : RedsOp) (ty : AtomTy) (br : BitVec 4) (off : BitVec 11) (a b c : Src) (s : State) :
    Host.Outcome State Fault Refusal :=
  issue s (.reds g op ty br off a b c) (fun e =>
    let n := atomBytes ty
    match e.atomCheck br off a { w := true, s := true } n with
    | some t => .trap t
    | none =>
      if e.lanes.isEmpty then .next e.s
      else
        let qs := e.atomLanes br off a n (fun q =>
          let sel := (e.int32 c q.lane).toNat
          { q with data := leBytes n (e.atomInt ty b q.lane), aux := sel % 4096, aux2 := sel / 4096 % 256 })
        e.queueing (
          let (s, id) := e.postSync e.s .none (.reds op ty) br qs false
          .next (enqueue s e.cid id)))

/-- R202: a contribution is combined into a slot. -/
def Staging.combine (st : Staging) (off v : Nat) : Staging :=
  let x := match st.elems.find off with
    | some old => redsNew st.op st.ty old.toNat v
    | none => redsFirst st.ty v
  { st with elems := st.elems.put off (BitVec.ofNat 64 x) }

/-- R203: one report for a REDS of which lanes were discarded, once it is over. -/
def redsEnd (s : State) (acc : Nat) : State :=
  match s.accs.find acc with
  | none => s
  | some a =>
    if !a.lanes.all (·.done) then s
    else
      let s' := endAccess s acc
      match leastBy (·.lane) (a.lanes.filter (·.held)) with
      | some q => deferReport s' a.crew a.lanesM (reportVA 0x03 q.va)
      | none => s'

/-- R159, R322: a REDS is a demand request of the line where the first of its lanes reaches it. -/
def redsDemand (s : State) (a : Access) (pa : Nat) (l : LineReq) : State :=
  if a.lanes.any (fun x => a.laneOn x (lineOf pa) && x.done) then s
  else
    let s := touchWindows s pa
    match s.crews.find a.crew with
    | some cr => countCore s cr (l.vline * 128) a.kind.acc
    | none => s

/-- R201 to R203: a lane's contribution reaches its slot's slice. A discarded lane is marked held. -/
def execRedsContribution (acc lane : Nat) (s : State) : Host.Outcome State Fault Refusal :=
  match s.accs.find acc with
  | none => .next s
  | some a =>
    match a.kind, a.lanes.find? (fun q => q.lane == lane) with
    | .reds op ty, some q =>
      match a.lines.find? (fun l => l.vline == q.va / 128) with
      | none => .next s
      | some l =>
        match l.st with
        | .ready pa =>
          let lower := a.lanes.any (fun x => decide (x.lane < lane) && a.laneOn x (lineOf pa) && !x.done)
          if q.done || lower || inStoreQ s acc a || syncBlocked s acc a l pa then .next s
          else if linkLost s pa then .next (violate s acc (reportVA 0x09 q.va))
          else
            let key := slotKey (lineOf pa) a.ctx q.aux q.aux2
            let k := syncSliceOf s pa
            let reach (s : State) : State := redsDemand s a pa l
            let over_ (s : State) (held : Bool) : State :=
              redsEnd (settleLanes (updLane s acc lane (fun q => { q with done := true, held := held })) acc) acc
            let combine (s : State) (st : Staging) : State :=
              over_ { s with slots := s.slots.put key (st.combine (q.va % 128) (leNat q.data)) } false
            match s.slots.find key, touchFrame (reach s) k (.slot key) with
            | some st, t =>
              if st.owner != a.crew || st.ty != ty || st.op != op then .next (over_ (reach s) true)
              else .next ((t.map (fun s => combine s st)).getD s)
            | none, some s =>
              .next (combine s { ctx := a.ctx, home := k, grp := q.aux, line := lineOf pa, src := q.aux2, ty := ty, op := op
                                 owner := a.crew, elems := [] })
            | none, none => .next s
        | _ => .next s
    | _, _ => .next s

-- line locks (R206 to R215, R499 to R504)

/-- R207: whether a slice, or the sump of a context, takes an entry more. -/
def waiterRoom (s : State) (ctx pa : Nat) : Bool :=
  decide (waiterEntries s (syncSliceOf s pa) < waiterTable) || decide (waiterBytes ≤ ((s.ctxs.find ctx).map sumpFree).getD 0)

/-- R207: the lock requests of a crew that are not answered. -/
def lockRequests (s : State) (cid : Nat) : Nat :=
  (s.accs.filter (fun p => p.2.crew == cid && !p.2.ready && (match p.2.kind with
    | .lock _ => true
    | _ => false))).length

/-- R134, R404: the offset of the leading lane. -/
def Env.leadOffset (e : Env) (br : BitVec 4) (disp : Int) (a : Src) : Int := e.offset (e.recBits br) a disp e.lead

/-- R364: whether the dispatch trace of a context in REPLAY holds no further GRANT of a virtual line. -/
def noGrantLeft (s : State) (ctx vline : Nat) : Bool :=
  replaying s ctx
    && (traceHead s ctx (fun r => recField r 0 8 == 0x62 && recField r 120 72 == vline * 128)).isNone

/-- R499 to R502. -/
def execLlock (g : Guard) (d : Dest) (br : BitVec 4) (off : BitVec 11) (limit : W32) (a : Src) (s : State) :
    Host.Outcome State Fault Refusal :=
  issue s (.llock g d br off limit a) (fun e =>
    if e.lanes.isEmpty then .next e.s
    else
      let rec' := e.recBits br
      let o := e.leadOffset br off.toInt a
      match checkLanes rec' br.toNat { s := true } 1 1 [o] with
      | some t => .trap t
      | none =>
        let va := recAddr rec' o.toNat
        let qs := e.lanes.map (fun l => { lane := l, va := va : LaneReq })
        let acc : Nat → Access := fun id => { e.access (.lock limit.toNat) 3 rec' qs id with lines := syncLines qs }
        let u := unitOf e.s e.crew
        let full := match peek e.s (some u) (Config.dieOfUnit u) e.crew.ctx va with
          | some pa => !waiterRoom e.s e.crew.ctx pa
          | none => false
        if e.crew.locks.any (fun h => h.vline == va / 128) then
          let (s, id) := e.post e.s (.l d .w32) (fun id =>
            { acc id with ready := true, xlated := true, lines := [], result := qs.map (fun q => (q.lane, 3)) })
          .park (.waitLock id) s
        else if 4 ≤ e.crew.locks.length + lockRequests e.s e.cid then .trap (reportVA 0x12 va)
        else if noGrantLeft e.s e.crew.ctx (va / 128) then
          .trap { code := 0x0E, addr := BitVec.ofNat 64 (((e.s.ctxs.find e.crew.ctx).map (·.trCount)).getD 0) }
        else if full then .trap (reportVA 0x14 va)
        else
          let (s, id) := e.post e.s (.l d .w32) acc
          .park (.waitLock id) s)

/-- R364: the LLOCK of a waiter is undone, and its split takes REPLAY_DIVERGE there. -/
def divergeLock (s : State) (w : Waiter) (i : Nat) : State :=
  match s.accs.find w.acc with
  | some a =>
    let s := freeEntry s w.inSump
    let s := { s with locks := s.locks.mapAll (fun _ l => { l with queue := l.queue.filter (fun x => x.acc != w.acc) }) }
    withdraw (dropIdleLocks s) w.acc a { code := 0x0E, addr := BitVec.ofNat 64 i }
  | none => s

/-- R364: the waiters of a context in REPLAY whose line's stream holds no further record diverge. -/
def divergeSpent (s : State) : State :=
  ((s.locks.vals.flatMap (·.queue)).filter (fun w =>
    !w.absent && noGrantLeft s (ctxOf s w.crew) (accVLine s w.acc))).foldl (fun s w =>
      divergeLock s w (((s.ctxs.find (ctxOf s w.crew)).map (·.trCount)).getD 0)) s

/-- R183, R209, R503, R504. -/
def execLunlock (g : Guard) (br : BitVec 4) (off : BitVec 10) (a : Src) (s : State) :
    Host.Outcome State Fault Refusal :=
  issue s (.lunlock g br off a) (fun e =>
    if e.lanes.isEmpty then .next e.s
    else
      let rec' := e.recBits br
      let o := e.leadOffset br off.toInt a
      match checkLanes rec' br.toNat { s := true } 1 1 [o] with
      | some t => .trap t
      | none =>
        match e.crew.locks.find? (fun h => h.vline == recAddr rec' o.toNat / 128) with
        | none => .trap { code := 0x03 }
        | some h =>
          e.fenced .pkg allPaths 8 (fun e =>
            if isClosed e.s (h.pline * 128) then .hold (.waitOperand (.region (h.pline * 128))) e.s
            else .next (releaseLock e.s e.cid h.pline)))

/-- R302, R306: whether a crew's sibling is CANCELLING. -/
def siblingCancelling (s : State) (cr : Crew) : Bool :=
  match sibKey cr with
  | none => false
  | some k => (((s.ctxs.find cr.ctx).bind (fun c => c.sibs.find k)).map (fun x => x.state == .cancelling)).getD false

/-- R207, R208: a lock request joins its line's queue, and is granted at once where the line is free. -/
def enqueueLock (s : State) (acc pa : Nat) (a : Access) (cr : Crew) (limit : Nat) : State :=
  let line := lineOf pa
  let isOver := decide (waiterTable ≤ waiterEntries s (syncSliceOf s pa))
  let w : Waiter :=
    { acc := acc, crew := a.crew, absent := cr.state == .saved, limit := limit, since := crewClk s cr, enq := s.dt
      inSump := if isOver then some cr.ctx else none }
  let s := if isOver then updCtx s cr.ctx (fun c => { c with sumpUsed := c.sumpUsed + waiterBytes }) else s
  let l : Lock := (s.locks.find line).getD { holder := none, queue := [] }
  let s := { s with locks := s.locks.put line { l with queue := l.queue ++ [w] } }
  let s := updAcc s acc (fun a => { a with lanes := a.lanes.map (fun q => { q with held := true }) })
  logDone (serveFree s line) acc

/-- R162, R207: a lock request that finds no room raises CAPACITY at its LLOCK, and nothing is queued. -/
def refuseLock (s : State) (acc : Nat) (a : Access) : State :=
  withdraw s acc a (reportVA 0x14 ((a.lanes.head?.map (·.va)).getD 0))

/-- R207: an LLOCK of a line that its crew holds returns DEADLOCK; it queues nothing. -/
def holdsAlready (s : State) (acc : Nat) : State :=
  logDone (updAcc s acc (fun a =>
    { a with ready := true, lanes := a.lanes.map (fun q => { q with held := true })
             result := a.lanes.map (fun q => (q.lane, 3)) })) acc

/-- R182, R206, R208, R211: an LLOCK reaches its line's slice, which takes the line where nobody holds it or waits for it. A crew whose sibling is CANCELLING and that must wait leaves
the queue with CANCELLED. -/
def execLockRequest (acc : Nat) (s : State) : Host.Outcome State Fault Refusal :=
  match s.accs.find acc with
  | none => .next s
  | some a =>
    match a.kind, a.lines, s.crews.find a.crew with
    | .lock limit, l :: _, some cr =>
      match l.st with
      | .ready pa =>
        let queued := (s.locks.find (lineOf pa)).any (fun x => x.holder.isSome || !x.queue.isEmpty)
        if a.ready || a.lanes.any (·.held) || syncBlocked s acc a l pa then .next s
        else if linkLost s pa then .next (violate s acc (reportVA 0x09 (a.vaOn l)))
        else if (s.locks.find (lineOf pa)).any (fun x => x.holder == some a.crew) then .next (holdsAlready s acc)
        else if !waiterRoom s cr.ctx pa then .next (refuseLock s acc a)
        else
          match (if queued then some s else engineTake s pa) with
          | none => .next s
          | some s =>
            let s := enqueueLock (countCore (touchWindows s pa) cr (l.vline * 128) a.kind.acc) acc pa a cr limit
            .next (if siblingCancelling s cr && !replaying s cr.ctx then markLeaving s acc 4 0 else s)
      | _ => .next s
    | _, _, _ => .next s

/-- R208: the clk that a waiter's crew has spent RUNNING since it was queued. -/
def waited (s : State) (w : Waiter) : Nat :=
  match s.crews.find w.crew with
  | none => 0
  | some cr => w.spent + (if w.absent then 0 else crewClk s cr - w.since)

/-- Whether a waiter's cycle limit has passed. -/
def limitPassed (s : State) (w : Waiter) : Bool := w.limit != 0 && !w.absent && decide (w.limit ≤ waited s w)

/-- R208, R215, R363: the waiters of a crew whose cycle limit has passed leave with TIMEOUT. -/
def execLockTimeout (crew : Nat) (s : State) : Host.Outcome State Fault Refusal :=
  if replaying s (ctxOf s crew) then .next s
  else
    let ws := (s.locks.vals.flatMap (·.queue)).filter (fun w => w.crew == crew && limitPassed s w)
    .next (ws.foldl (fun s w => markLeaving s w.acc 2 0) s)

/-- A wait-for edge (R213): a waiter, its crew, and the holder of its line. -/
structure WaitEdge where
  w      : Waiter
  holder : Nat

/-- R213: the wait-for edges of the package, but for those of waiters that are being taken out of a cycle, cancelled or
killed; those of a context in REPLAY deliver nothing (R363). -/
def waitEdges (s : State) : List WaitEdge :=
  s.locks.vals.flatMap (fun l =>
    match l.holder with
    | some h => (l.queue.filter (fun w => decide (w.leaving < 3) && !replaying s (ctxOf s w.crew))).map (fun w =>
        { w := w, holder := h })
    | none => [])

/-- A path of edges from a crew to another, visiting no crew twice. -/
def waitPath (es : List WaitEdge) : Nat → Nat → Nat → List Nat → Option (List WaitEdge)
  | 0, _, _, _ => none
  | n + 1, from_, to_, seen =>
    if from_ = to_ then some []
    else
      es.findSome? (fun e =>
        if e.w.crew = from_ && !seen.contains e.holder then
          (waitPath es n e.holder to_ (e.holder :: seen)).map (e :: ·)
        else none)

/-- A cycle of wait-for edges. -/
def waitCycle (es : List WaitEdge) : Option (List WaitEdge) :=
  es.findSome? (fun e => (waitPath es (es.length + 1) e.holder e.w.crew [e.holder]).map (e :: ·))

/-- R213: the order by which the youngest waiter of a cycle is chosen. -/
def youth (s : State) (w : Waiter) : Nat :=
  match s.crews.find w.crew with
  | none => 0
  | some cr => (2 ^ 64 - ticksSince s w.enq) * 2 ^ 64 + unitOf s cr * 2 ^ 32 + cr.index

/-- R213: chooses the waiter that leaves each wait-for cycle, one cycle after another. -/
def breakCycles : Nat → State → State
  | 0, s => s
  | n + 1, s =>
    match waitCycle (waitEdges s) with
    | none => s
    | some c =>
      match greatestBy (fun e => youth s e.w) c with
      | none => s
      | some e =>
        breakCycles n (markLeaving s e.w.acc 3 (nubNat (c.map (·.w.crew))).length)

/-- R213: the scan of every 2^16 DT ticks. -/
def execDeadlockScan (s : State) : Host.Outcome State Fault Refusal :=
  if s.dt % 2 ^ 16 = 0 then .next (breakCycles ((waitEdges s).length + 1) s) else .next s

end Sys2Proof.Machine
end

