-- ==== Sys2Proof/Machine/Session.lean ====
section
/-! DEFINITION. Session.lean: rings at virtual addresses, trace sessions (R374 to R376) and the debug events of the
pump (R367, R371). -/
namespace Sys2Proof.Machine

/-- The pump's fields of a fault record (R314). -/
def pumpRequester (q : Nat) (cseq : W32) (acc : Nat) : Requester :=
  { ekind := 5, eid := 0, queue := q, cseq := cseq, path := 3, acc := acc }

/-- What an access at virtual addresses of a context, by the pump or an engine of die 0, answers. -/
inductive Virt (α : Type)
  | ok (a : α) (s : State)
  /-- the page of an address is not present, at a level -/
  | absent (va lvl : Nat) (s : State)
  /-- it waits: a region is closed (R344), or a stack is reading (R332) -/
  | wait (s : State)
  | bad

/-- What follows an access at virtual addresses. -/
def Virt.andThen {α β : Type} (r : Virt α) (f : α → State → Virt β) : Virt β :=
  match r with
  | .ok a s => f a s
  | .absent va lvl s => .absent va lvl s
  | .wait s => .wait s
  | .bad => .bad

/-- The physical addresses of bytes at virtual addresses. -/
def virtBytes (s : State) (ctx : Nat) (need : Need) : List (Nat × Byte) → Virt (List (Nat × Byte))
  | [] => .ok [] s
  | p :: ps =>
    match translate s none 0 ctx p.1 need true with
    | (.ok pa, s) =>
      if isClosed s pa then .wait s
      else (virtBytes s ctx need ps).andThen (fun r s => .ok ((pa, p.2) :: r) s)
    | (.notPresent lvl, s) => .absent p.1 lvl s
    | (.stall _, s) => .wait s
    | _ => .bad

/-- Writes bytes at a virtual address of a context: the largest Tw. -/
def virtWrite (s : State) (ctx va : Nat) (bs : List Byte) : Virt Nat :=
  (virtBytes s ctx { w := true } (numbered va bs)).andThen (fun r s =>
    let (s, tw) := arriveAll s 0 (splitLines r)
    .ok tw s)

/-- Reads bytes at a virtual address of a context. -/
def virtRead (s : State) (ctx va n : Nat) : Virt (List Byte) :=
  (virtBytes s ctx { r := true } (numbered va (List.replicate n 0))).andThen (fun r s =>
    match r.find? (fun p => needsFill s (lineOf p.1)) with
    | some p => .wait (askFill s (lineOf p.1))
    | none => if r.any (fun p => lostGranule s p.1) then .bad
      else .ok (r.map (fun p => (readNewest s p.1 1).getD 0 emptyByte)) s)

/-- What a record that is offered to a ring at virtual addresses meets (R374). -/
inductive Offered
  | written (s : State) (tw : Nat)
  | full
  /-- it waits for a stack or a closed region; the state holds what the attempt has asked for -/
  | waits (s : State)
  /-- its page is not present, and a fault is raised -/
  | absent (s : State)
  | untranslated

/-- R374: a record of 32 bytes written to a session's buffer at a value of PROD, which then rises. -/
def sessionPut (s : State) (ctx : Nat) (r : RingRef) (x : BitVec 256) (prod : Nat) : Virt Nat :=
  (virtWrite s ctx (r.base + 32 * (prod % 2 ^ r.log2)) (recordBytes x)).andThen (fun tw s =>
    (virtBytes s ctx { w := true } [(r.cb, 0)]).andThen (fun l s =>
      let (s, t) := devWriteAfter s ((l.head?.map (·.1)).getD 0) (leBytes 4 ((prod + 1) % 4294967296)) tw none
      .ok t s))

/-- R314, R319, R374: a record of 32 bytes offered to the buffer of a queue's session; PROD rises once the record is
visible. A page that is not present raises a fault of the pump. -/
def sessionWrite (s : State) (ctx q : Nat) (cseq : W32) (r : RingRef) (x : BitVec 256) : Offered :=
  let pages : Virt (Nat × Nat) := (virtRead s ctx r.cb 4).andThen (fun p s =>
    (virtRead s ctx (r.cb + 64) 4).andThen (fun c s => .ok (leNat p, leNat c) s))
  let put : Virt (Option Nat) := pages.andThen (fun pc s =>
    if (pc.1 + 4294967296 - pc.2) % 4294967296 = 2 ^ r.log2 then .ok none s
    else (sessionPut s ctx r x pc.1).andThen (fun t s => .ok (some t) s))
  match put with
  | .ok (some t) s => .written s t
  | .ok none _ => .full
  | .absent va lvl s => .absent (joinFault s ctx va lvl (pumpRequester q cseq 1)).2
  | .wait s => .waits s
  | .bad => .untranslated

/-- Changes a queue. -/
def updQueue (s : State) (q : Nat) (f : Queue → Queue) : State := { s with queues := s.queues.change q f }

/-- R374: a trace record. -/
def traceRecord (s : State) (q : Nat) (cseq : W32) (ty data ekind eid : Nat) : BitVec 256 :=
  record256 [(192, s.dt), (128, data % 2 ^ 64), (116, q % 4096), (84, cseq.toNat), (80, ekind), (68, eid), (0, ty)]

/-- R365, R375: the CSEQ of a queue: of the node that its pump started last. -/
def Queue.lastCseq (x : Queue) : W32 :=
  if x.cseq = 0 && !x.graph.any (fun g => g.run != .start) then 0 else x.cseq - 1

/-- R374, R375: flushes the records of a tail, oldest first; a record that finds the buffer full is dropped and
counted. A record whose page cannot be had stays in the tail (log entry 31). -/
def flushTail (ctx q : Nat) (r : RingRef) : List (BitVec 256) → State → State
  | [], s => updQueue s q (fun x => { x with sess := { x.sess with tail := [] } })
  | x :: xs, s =>
    let keep (s : State) : State := updQueue s q (fun y => { y with sess := { y.sess with tail := x :: xs } })
    match sessionWrite s ctx q (((s.queues.find q).map (·.lastCseq)).getD 0) r x with
    | .written s tw => flushTail ctx q r xs (updQueue s q (fun x => { x with resetTw := tw + 2 }))
    | .full => flushTail ctx q r xs (updQueue s q (fun x => { x with sess := { x.sess with lost := x.sess.lost + 1 } }))
    | .waits s | .absent s => keep s
    | .untranslated => keep s

/-- R374: the count of dropped records goes first, as one LOST record. -/
def flushLost (s : State) (q : Nat) (x : Queue) (r : RingRef) : State :=
  if x.sess.lost = 0 then s
  else
    match sessionWrite s x.ctx q x.lastCseq r (traceRecord s q x.lastCseq 5 x.sess.lost 5 0) with
    | .written s _ => updQueue s q (fun x => { x with sess := { x.sess with lost := 0 } })
    | _ => s

/-- R375: flushes a session's tail. -/
def flushSession (s : State) (q : Nat) : State :=
  match s.queues.find q with
  | none => s
  | some x =>
    match x.sess.ring with
    | none => s
    | some r => if x.sess.tail.isEmpty && x.sess.lost == 0 then s else flushTail x.ctx q r x.sess.tail (flushLost s q x r)

/-- What the next record of a session's tail, or its LOST record, would meet. -/
def sessionNext (s : State) (q : Nat) : Option Offered :=
  match s.queues.find q with
  | none => none
  | some x =>
    match x.sess.ring, x.sess.tail with
    | some r, y :: _ => some (sessionWrite s x.ctx q x.lastCseq r y)
    | some r, [] => if x.sess.lost = 0 then none else some (sessionWrite s x.ctx q x.lastCseq r 0)
    | none, _ => none

/-- R377: whether a session's tail waits for a stack or a closed region. -/
def sessionFills (s : State) (q : Nat) : Bool :=
  match sessionNext s q with
  | some (.waits _) => true
  | _ => false

/-- R376: whether a session's tail waits for memory. -/
def sessionWaits (s : State) (q : Nat) : Bool :=
  match sessionNext s q with
  | some (.waits _) | some (.absent _) => true
  | _ => false

/-- R375: the records that a tail holds. -/
def tailSize : Nat := 64

/-- R375: a record for a queue's session, which takes it while it is CAPTURING; a full tail is flushed, and a record that
finds it still full is dropped and counted. -/
def sessionAppend (s : State) (q : Nat) (x : BitVec 256) : State :=
  match s.queues.find q with
  | none => s
  | some qu =>
    if qu.sess.state != .capturing then s
    else if tailSize ≤ qu.sess.tail.length then
      updQueue s q (fun y => { y with sess := { y.sess with lost := y.sess.lost + 1 } })
    else
      let s := updQueue s q (fun y => { y with sess := { y.sess with tail := y.sess.tail ++ [x] } })
      if qu.sess.tail.length + 1 = tailSize then flushSession s q else s

/-- R375: a record of an event for a queue's session, whose filter keeps only its CSEQ. -/
def sessionTake (s : State) (q : Nat) (cseq : W32) (x : BitVec 256) : State :=
  if (s.queues.find q).any (fun qu => qu.sess.filter.any (fun c => c != cseq)) then s else sessionAppend s q x

/-- R374: a record of the pump for a queue's session: NODE_START (2) or NODE_END (3). -/
def sessionNode (s : State) (q : Nat) (cseq : W32) (ty node : Nat) : State :=
  sessionTake s q cseq (traceRecord s q cseq ty node 5 0)

/-- R371: a STOP_HIT record. -/
def stopHit (s : State) (q : Nat) (cseq : W32) (after : Bool) : State :=
  barPost .dbg s (record256 [(192, s.dt), (108, q), (64, cseq.toNat), (8, if after then 1 else 0), (0, 0x72)])

end Sys2Proof.Machine
end

