-- ==== Sys2Proof/Machine/Pump.lean ====
section
/-! DEFINITION. Pump.lean: work queues and the pump's walk of command graphs (R275 to R293, R302, R365, R367, R387,
R388) and GSIG. -/
namespace Sys2Proof.Machine

-- the pump's reads and writes (R279)

/-- What a read or write of the pump answers. -/
inductive PumpAns (α : Type)
  | ok (x : α) (s : State)
  /-- it waits: for a page fault, a free tag or a closed region -/
  | wait (s : State)
  /-- a violation, or an uncorrectable granule -/
  | bad (s : State)

/-- The running graph of a queue. -/
def graphOf (s : State) (q : Nat) : Option (Queue × GraphRun) :=
  (s.queues.find q).bind (fun x => x.graph.map (fun g => (x, g)))

/-- Changes the running graph of a queue. -/
def updGraph (s : State) (q : Nat) (f : GraphRun → GraphRun) : State :=
  updQueue s q (fun x => { x with graph := x.graph.map f })

/-- R314: the CSEQ of the node for which a graph's pump makes an access: of the node being started, of the LOOP whose words
are read, or of the running node. -/
def pumpCseq (s : State) (q : Nat) (g : GraphRun) : W32 :=
  match g.run with
  | .start => ((s.queues.find q).map (·.cseq)).getD 0
  | .loopNext => (g.loops.head?.map (·.cseq)).getD g.cseq
  | _ => g.cseq

/-- The physical address of an access of the pump, which lies within one page. -/
def pumpXlate (s : State) (ctx q va : Nat) (g : GraphRun) (w : Bool) : PumpAns Nat :=
  match translate s none 0 ctx va { r := !w, w := w } true with
  | (.ok pa, s) => if isClosed s pa then .wait s else .ok pa s
  | (.notPresent lvl, s) =>
    match joinFault s ctx va lvl (pumpRequester q (pumpCseq s q g) (if w then 1 else 0)) with
    | (some tag, s) => .wait (updGraph s q (fun g => { g with fault := some tag }))
    | (none, s) => .wait s
  | (.stall _, s) => .wait s
  | (_, s) => .bad s

/-- Reads n aligned bytes for a graph. -/
def pumpRead (s : State) (ctx q va n : Nat) (g : GraphRun) : PumpAns (List Byte) :=
  match pumpXlate s ctx q va g false with
  | .ok pa s =>
    if needsFill s (lineOf pa) then .wait (askFill s (lineOf pa))
    else if lostGranule s pa then .bad s
    else .ok (readHome s pa n) (touchWindows s pa)
  | .wait s => .wait s
  | .bad s => .bad s

/-- Writes aligned bytes for a graph, whose largest Tw grows. -/
def pumpWrite (s : State) (ctx q va : Nat) (bs : List Byte) (g : GraphRun) : PumpAns Unit :=
  match pumpXlate s ctx q va g true with
  | .ok pa s =>
    match syncTake s (lineOf pa) with
    | none => .wait s
    | some s =>
      let (s, tw) := storeLine s (lineOf pa) 0 (numbered (pa % 128) bs)
      .ok () (updGraph s q (fun g => { g with tw := Nat.max g.tw tw }))
  | .wait s => .wait s
  | .bad s => .bad s

-- node records (R276, R277, R281, R283)

/-- A field of a node record. -/
def nodeField (w : BitVec 512) (hi lo : Nat) : Nat := (w.extractLsb' lo (hi - lo + 1)).toNat

/-- R276. -/
def nodeKind (w : BitVec 512) : Nat := nodeField w 7 0
/-- R276. -/
def nodeNext (w : BitVec 512) : Nat := nodeField w 127 56

/-- The fields of a kind beyond the common ones (R281, R283). -/
def kindFields : Nat → List (Nat × Nat)
  | 1 => [(503, 128)]
  | 2 => [(511, 328)]
  | 3 => [(511, 224)]
  | 4 => [(511, 264)]
  | 5 => [(149, 128)]
  | 6 => [(511, 344)]
  | 7 => [(511, 363)]
  | 8 => [(511, 314)]
  | _ => []

/-- R276, R277: whether every bit that must be 0 is. -/
def nodeReservedOk (w : BitVec 512) : Bool :=
  let fields := [(127, 37), (31, 16), (9, 0)] ++ kindFields (nodeKind w)
  (List.range 512).all (fun i => !w.getLsbD i || fields.any (fun f => decide (f.2 ≤ i) && decide (i ≤ f.1)))

/-- R277, R281, R283: the limits of a node's fields. -/
def nodeLimitsOk (w : BitVec 512) : Bool :=
  let f := nodeField w
  nodeNext w % 64 == 0 &&
    match nodeKind w with
    | 1 => f 503 432 % 128 == 0 && decide (8 ≤ f 431 400)
    | 2 => decide (1 ≤ f 367 328)
    | 3 => f 511 440 % 4 == 0 && f 439 368 % 64 == 0 && f 367 296 % 64 == 0 && f 295 224 % 64 == 0
    | 4 => f 511 440 % 64 == 0 && f 439 368 % 4 == 0 && f 367 296 % 4 == 0
    | 5 => f 149 148 != 3 && decide (1 ≤ f 147 136)
    | 6 => f 511 440 % 8 == 0
    | 7 => f 511 440 % 8 == 0
    | 8 => decide (3 ≤ f 324 320) && decide (f 324 320 ≤ 20) && decide (1 ≤ f 367 352) && f 439 368 % 128 == 0
        && f 511 440 % (8 * 2 ^ f 324 320) == 0
    | 9 => true
    | _ => false

/-- R277: a node that is not malformed. -/
def nodeOk (w : BitVec 512) : Bool := nodeReservedOk w && nodeLimitsOk w

/-- R276, R302: the sibling key of a tagged node. -/
def nodeSib (w : BitVec 512) : Option Nat := if w.getLsbD 55 then some (nodeField w 48 37 * 64 + nodeField w 54 49) else none

/-- R297: the virtual address of a group's record. -/
def groupVA (s : State) (ctx g : Nat) : Nat := ((s.ctxs.find ctx).map (·.gtBase)).getD 0 + 4096 * g

/-- A field of bytes of a group's record, from its physical address. -/
def groupField (s : State) (pa off n : Nat) : Nat := leNat (readNewest s (pa + off) n)

/-- R299: the address of a sibling's entry. -/
def sibEntry (pa k : Nat) : Nat := pa + 128 + 32 * k

/-- R297, R299: whether the program has opened a sibling's group again: CANC of its entry is clear. -/
def sibReopened (s : State) (ctx k : Nat) : Bool :=
  match peek s none 0 ctx (groupVA s ctx (k / 64)) with
  | some pa => groupField s (sibEntry pa (k % 64)) 8 4 / 2 ^ 29 % 2 == 0
  | none => false

/-- R302: whether a node is skipped. -/
def nodeSkipped (s : State) (ctx : Nat) (w : BitVec 512) : Bool :=
  match nodeSib w with
  | none => false
  | some k =>
    match (s.ctxs.find ctx).bind (fun c => c.sibs.find k) with
    | some x => x.state == .cancelling || (x.state == .cancelled && !sibReopened s ctx k)
    | none => false

-- phases (R289, R290)

/-- R277: the node's work is done with a status; the graph goes on at an address. -/
def finishNode (s : State) (q status next : Nat) : State :=
  updGraph s q (fun g => { g with run := .finishing status next, fault := none })

/-- R289, R290: an arrival at a PHASE node; whether it counts, and the state after it. A skipped node's role is held to
nothing. A release completes the PHASE node of every waiting graph. -/
def phaseArrive (s : State) (ctx q : Nat) (w : BitVec 512) (skipped : Bool) : Bool × State :=
  match s.ctxs.find ctx with
  | none => (false, s)
  | some c =>
    let pg := nodeField w 135 128
    let role := nodeField w 149 148
    let p : Phase := (c.phases.find pg).getD {}
    let check : Bool := role == 2
    if !skipped && role != 0 && check != p.expected then (false, s)
    else
      let first := p.waiting.isEmpty && p.skipped == 0
      let p := { p with pcnt := if first then nodeField w 147 136 else p.pcnt
                        waiting := if skipped then p.waiting else p.waiting ++ [(q, role != 0)]
                        skipped := if skipped then p.skipped + 1 else p.skipped
                        roled := p.roled || (skipped && role != 0) }
      if p.waiting.length + p.skipped < p.pcnt then
        let s := updCtx s ctx (fun c => { c with phases := c.phases.put pg p })
        (true, if skipped then s else updGraph s q (fun g => { g with run := .phase pg }))
      else
        let p' : Phase := { expected := if p.roled || p.waiting.any (·.2) then !p.expected else p.expected }
        let s := updCtx s ctx (fun c => { c with phases := c.phases.put pg p' })
        (true, p.waiting.foldl (fun s j =>
          match graphOf s j.1 with
          | some (_, g) => finishNode s j.1 1 (nodeNext g.word)
          | none => s) s)

/-- R289: the arrival of a graph that stops is withdrawn. -/
def phaseWithdraw (s : State) (ctx q : Nat) : State :=
  updCtx s ctx (fun c => { c with phases := c.phases.mapAll (fun _ p => { p with waiting := p.waiting.filter (·.1 != q) }) })

-- the end of a graph

/-- R293: raises the interrupt of a binding with uncovered records. -/
def ringInterrupt (s : State) (ctx rh : Nat) : State :=
  match (s.ctxs.find ctx).bind (fun c => c.rings.find rh) with
  | none => s
  | some b =>
    if b.c = 0 then s
    else raiseIrq (updCtx s ctx (fun c => { c with rings := c.rings.put rh { b with c := 0, first := 0 } })) b.ring.vec

/-- R289, R293: a queue's graph ends: its bindings raise their interrupts, and its arrival is withdrawn. -/
def endGraph (s : State) (q : Nat) : State :=
  match s.queues.find q with
  | none => s
  | some x =>
    match s.ctxs.find x.ctx with
    | none => s
    | some c =>
      let mine := (c.rings.filter (fun p => p.2.queue == q)).map (·.1)
      let s := mine.foldl (fun s rh => ringInterrupt s x.ctx rh) s
      let s := updCtx s x.ctx (fun c => { c with rings := c.rings.mapAll (fun _ b =>
        if b.queue = q then { b with queue := Config.noQueue } else b) })
      updQueue (phaseWithdraw s x.ctx q) q (fun x => { x with graph := none })

/-- R387, R388: the running entry of a queue completes with a status and a node address. -/
def completeEntry (s : State) (q status node : Nat) : State :=
  match s.queues.find q with
  | none => s
  | some x =>
    let e := x.base + 64 * (x.cons.toNat % 2 ^ x.log2)
    let (s, _) := devWrite s (e + 16) (leBytes 2 status)
    let (s, _) := devWrite s (e + 24) (leBytes 9 node)
    let s := endGraph s q
    updQueue s q (fun x =>
      let cons := x.cons + 1
      { x with cons := cons
               state := if x.state = .badDoorbell then .badDoorbell
                 else if status != 1 && status != 14 then .stopped
                 else if cons = x.doorbell then .idle else .running })

/-- R329, R377: whether a context's pump moves. -/
def pumpRuns (s : State) (ctx : Nat) : Bool :=
  match s.ctxs.find ctx with
  | some c => c.err.isNone && !c.preempted
  | none => false

/-- R355: whether a written mode is to take effect: no graph of the context runs. -/
def modeDue (s : State) (ctx : Nat) : Bool :=
  match s.ctxs.find ctx with
  | some c => c.pendMode.isSome && s.queues.all (fun p => p.2.ctx != ctx || p.2.graph.isNone)
  | none => false

/-- R275, R387: the pump starts the graph of the next queue entry. -/
def execQueueEntryStart (queue : Nat) (s : State) : Host.Outcome State Fault Refusal :=
  match s.queues.find queue with
  | none => .next s
  | some x =>
    if x.graph.isSome || x.cons = x.doorbell || !(x.state == .idle || x.state == .running) || !pumpRuns s x.ctx
        || x.resetting || modeDue s x.ctx then .next s
    else
      let e := x.base + 64 * (x.cons.toNat % 2 ^ x.log2)
      let addr := leNat (readPhys s e 9)
      let s := updQueue s queue (fun x => { x with state := .running, graph := some { entry := x.cons.toNat, node := addr } })
      .next (if addr % 64 = 0 then s else completeEntry s queue 3 addr)

-- starting a node (R275, R276, R277, R302, R365, R367)

/-- What the start of a node answers. -/
inductive Begun
  /-- nothing can start -/
  | blocked
  /-- it waits, stops at a breakpoint, or has come to its end -/
  | isOver (s : State)
  /-- it has started -/
  | begun (s : State) (x : Queue) (g : GraphRun)

/-- R279: whether the pump may start the next node. -/
def nodeDue (s : State) (x : Queue) (g : GraphRun) : Bool :=
  g.fault.isNone && pumpRuns s x.ctx && (g.tw == 0 || decide (g.tw + 2 ≤ s.dt)) && !x.resetting

/-- Starts the node a graph stands at. -/
def startNode (s : State) (q : Nat) : Begun :=
  match graphOf s q with
  | none => .blocked
  | some (x, g) =>
    if !nodeDue s x g then .blocked
    else
      match g.run with
      | .begun => .begun s x g
      | .start =>
        if x.breaks.contains (x.cseq, false) && !g.passed then
          .isOver (stopHit (updGraph s q (fun g => { g with run := .stopBefore })) q x.cseq false)
        else
          match pumpRead s x.ctx q g.node 64 g with
          | .wait s => .isOver s
          | ans =>
            let (w, ok, s) : BitVec 512 × Bool × State := match ans with
              | .ok bs s => (BitVec.ofNat 512 (leNat bs), true, s)
              | .wait s => (0, false, s)
              | .bad s => (0, false, s)
            let s := updQueue s q (fun y => { y with
              cseq := y.cseq + 1
              graph := y.graph.map (fun g =>
                { g with word := w, cseq := x.cseq, tw := 0, passed := false, fault := none, run := .begun }) })
            let s := sessionNode s q x.cseq 2 g.node
            if !ok then .isOver (finishNode s q 10 0)
            else if !nodeOk w then .isOver (finishNode s q 3 0)
            else if nodeSkipped s x.ctx w then
              let s := if nodeKind w = 5 then (phaseArrive s x.ctx q w true).2 else s
              .isOver (finishNode s q 2 (nodeNext w))
            else
              match graphOf s q with
              | some (x, g) => .begun s x g
              | none => .isOver s
      | _ => .blocked

/-- A node of a kind: where the graph stands at one that has not begun, it is started; a node of another kind is not
this event's. -/
def nodeEvent (s : State) (q kind : Nat) (body : State → Queue → GraphRun → State) : Host.Outcome State Fault Refusal :=
  match startNode s q with
  | .blocked => .next s
  | .isOver s => .next s
  | .begun s' x g => if nodeKind g.word = kind then .next (body s' x g) else .next s

-- KERNEL nodes (R32, R56, R281, R282)

/-- R281: an offset field, in bytes, where it names a header. -/
def headerField (w : BitVec 512) (hi lo : Nat) : Option Nat :=
  let o := nodeField w hi lo
  if o = 0xFFFFFF then none else some (8 * o)

/-- The launch that a KERNEL node describes, with its scalars. -/
def launchOfNode (s : State) (x : Queue) (q : Nat) (g : GraphRun) (args : List W32) : Launch :=
  let w := g.word
  let f := nodeField w
  { queue := q, ctx := x.ctx, node := g.node, cseq := g.cseq, seg := f 503 432, seglen := f 431 400
    entry := 8 * f 399 376, centry := headerField w 375 352, trapoff := headerField w 351 328
    widths := (List.range 6).map (fun k => f 327 292 / 2 ^ (6 * k) % 64)
    ext := [f 291 280, f 183 152, f 215 184, f 247 216, f 279 248]
    scratch := 128 * f 151 140, named := f 139 133, prio := f 132 131, fused := w.getLsbD 130, cores := w.getLsbD 129
    sib := match nodeSib w with
      | some k => BitVec.ofNat 32 k
      | none => BitVec.allOnes 32
    args := args, restart := w.getLsbD 9, interval := ((s.ctxs.find x.ctx).map (·.interval)).getD 0, order := s.nextId }

/-- R34: the number of cohorts of a launch. -/
def Launch.total (l : Launch) : Nat := (l.ext.drop 1).foldl (· * ·) 1

/-- R32: the lanes of a cohort. -/
def Launch.lanes (l : Launch) : Nat := 2 ^ l.widths.getD 0 3 * l.ext.getD 0 1

/-- R282: the checks that give MALFORMED. -/
def launchMalformed (s : State) (l : Launch) (rept : Bool) : Bool :=
  let offs := [some l.entry, l.centry, l.trapoff].filterMap id
  offs.any (fun o => decide (l.seglen / 8 * 8 ≤ o)) || decide (l.named = 0) || decide (64 < l.named)
    || (rept && !repeatable s l.ctx)

/-- R32: the widths and extents. -/
def launchWidthsOk (l : Launch) : Bool :=
  let w (k : Nat) : Nat := l.widths.getD k 0
  decide (3 ≤ w 0) && decide (w 0 ≤ 10) && (l.widths.drop 1).all (fun v => decide (v ≤ 32)) && decide (sumOf l.widths ≤ 64)
    && decide (1 ≤ l.ext.getD 0 0) && decide (l.ext.getD 0 0 ≤ 2 ^ w 1)
    && [2, 3, 4, 5].all (fun k =>
      decide (1 ≤ l.ext.getD (k - 1) 0) && decide (l.ext.getD (k - 1) 0 ≤ Nat.min (2 ^ w k) (2 ^ 32 - 1)))

/-- R56: whether the cohorts of a launch can all be resident at once on an empty package. -/
def coresidentFits (l : Launch) : Bool :=
  let perCore := Nat.min (8192 / l.lanes) (if l.scratch = 0 then 8 else 262144 / l.scratch)
  if l.fused then decide ((l.total + 3) / 4 ≤ 64 * Nat.min perCore 2)
  else decide (l.total ≤ 64 * Nat.min 8 (4 * perCore))

/-- R32, R282: the status of the first launch check that fails. -/
def launchCheck (s : State) (l : Launch) (rept : Bool) : Option Nat :=
  if launchMalformed s l rept then some 3
  else if !launchWidthsOk l then some 4
  else if 4096 < l.lanes then some 5
  else if 262144 < l.scratch then some 6
  else if ((s.ctxs.find l.ctx).map (·.sumpSize)).getD 0 < cohortSump l then some 8
  else if l.cores && !coresidentFits l then some 7
  else none

/-- R356: the context counts the start of a KERNEL or COPY node, or a loop iteration. -/
def nextInterval (s : State) (ctx : Nat) : State := updCtx s ctx (fun c => { c with interval := (c.interval + 1) % 2 ^ 32 })

/-- R282: a KERNEL node whose checks pass goes to dispatch. -/
def kernelStart (s : State) (q : Nat) (x : Queue) (g : GraphRun) : State :=
  let rept := g.word.getLsbD 128
  match launchCheck s (launchOfNode s x q g []) rept with
  | some st => finishNode s q st 0
  | none =>
    let send (s : State) (args : List W32) : State :=
      let s := nextInterval s x.ctx
      let l := launchOfNode s x q g args
      updGraph { s with launches := s.launches.put s.nextId l, nextId := s.nextId + 1 } q
        (fun g => { g with run := .kernel l.order })
    if g.word.getLsbD 8 then
      match pumpRead s x.ctx q (g.node + 64) 64 g with
      | .wait s => s
      | .bad s => finishNode s q 10 0
      | .ok bs s => send s ((List.range 16).map (fun i => BitVec.ofNat 32 (leNat ((bs.drop (4 * i)).take 4))))
    else send s []

/-- R282. -/
def execKernelNodeStart (queue : Nat) (s : State) : Host.Outcome State Fault Refusal :=
  nodeEvent s queue 1 (fun s x g => kernelStart s queue x g)

/-- R278: the crews of a launch. -/
def launchCrews (s : State) (l : Nat) : List (Nat × Crew) :=
  s.crews.filter (fun p => ((s.cohorts.find p.2.cohort).map (·.launch)) == some l)

/-- Whether an access of a crew still holds its KERNEL node (R278): every one, but for ordered requests that are held
(R200) and reads of a well, which a well performs for nobody (R248). -/
def holdsNode (a : Access) : Bool :=
  match a.kind with
  | .atomo _ _ => !a.lanes.all LaneReq.reached
  | .wread _ => false
  | _ => true

/-- R278: whether a launch is complete but for the visibility of its stores. -/
def launchEnded (s : State) (id : Nat) (l : Launch) : Bool :=
  let crews := launchCrews s id
  let has (c : Nat) : Bool := crews.any (fun p => p.1 == c)
  l.next == l.total && l.live == 0 && l.again.isEmpty && crews.all (fun p => p.2.state == .ended)
    && !s.accs.any (fun p => has p.2.crew && holdsNode p.2)
    && !s.copies.any (fun p => p.2.crew.any has)

/-- R278: the largest Tw of a launch. -/
def launchTw (s : State) (id : Nat) (l : Launch) : Nat :=
  Nat.max l.maxTw (maxOf ((launchCrews s id).map (fun p => maxOf p.2.twmax)))

/-- The records of a completed launch are removed. -/
def dropLaunch (s : State) (id : Nat) : State :=
  let crews := (launchCrews s id).map (·.1)
  { s with launches := s.launches.del id
           accs := s.accs.keep (fun _ a => !(crews.contains a.crew && (match a.kind with
             | .wread _ => true
             | _ => false)))
           cohorts := s.cohorts.keep (fun _ c => c.launch != id)
           crews := s.crews.keep (fun k _ => !crews.contains k) }

-- COPY, COND, LOOP, PHASE, WAIT, SIGNAL, RING, END (R283 to R291)

/-- R131: a record that names an address, for a COPY node, whose accesses are tracked (R356). -/
def flatRecord (addr : Nat) : BitVec 128 := BitVec.ofNat 128 (addr + 2 ^ 72 + 2 ^ 127)

/-- R284: the pump's copy engine takes a COPY node. -/
def execCopyNode (queue : Nat) (s : State) : Host.Outcome State Fault Refusal :=
  nodeEvent s queue 2 (fun s x g =>
    let f := nodeField g.word
    let s := nextInterval s x.ctx
    let op : CopyOp :=
      { id := s.nextId, crew := none, cohort := 0, ctx := x.ctx, core := Config.serviceUnit, lanes := 0, kc := 0
        src := .global (flatRecord (f 511 440)) 0 0, dst := .global (flatRecord (f 439 368)) 0 0
        rows := 1, rb := f 367 328, queue := some queue
        who := { coh := BitVec.allOnes 32, int := BitVec.ofNat 31 (((s.ctxs.find x.ctx).map (·.interval)).getD 0) } }
    let id := s.nextId
    updGraph { s with copies := s.copies.put id op, nextId := id + 1 } queue (fun g => { g with run := .copy id }))

/-- R285. -/
def execCondNode (queue : Nat) (s : State) : Host.Outcome State Fault Refusal :=
  nodeEvent s queue 3 (fun s x g =>
    let f := nodeField g.word
    match pumpRead s x.ctx queue (f 511 440) 4 g with
    | .wait s => s
    | .bad s => finishNode s queue 10 0
    | .ok bs s =>
      let next := match leNat bs with
        | 0 => f 439 368
        | 1 => f 367 296
        | 2 => f 295 224
        | _ => nodeNext g.word
      finishNode s queue 1 next)

/-- Where a graph goes after a node: to an address, or to the end of its body or of the graph (R276). -/
def goTo (s : State) (q addr : Nat) : State :=
  updGraph s q (fun g => if addr = 0 then { g with run := .ended } else { g with node := addr, run := .start })

/-- R286: a LOOP leaves its stack entry with a status. -/
def loopExit (s : State) (q status : Nat) (fr : LoopFrame) : State :=
  finishNode (updGraph s q (fun g =>
    { g with loops := g.loops.drop 1, node := fr.node, word := fr.word, cseq := fr.cseq })) q status (nodeNext fr.word)

/-- R286: the decision before an iteration. -/
def loopDecide (s : State) (q : Nat) (x : Queue) (g : GraphRun) (fr : LoopFrame) : State :=
  let f := nodeField fr.word
  let fail (s : State) : State :=
    finishNode (updGraph s q (fun g =>
      { g with loops := g.loops.drop 1, node := fr.node, word := fr.word, cseq := fr.cseq })) q 10 0
  match pumpRead s x.ctx q (f 439 368) 4 g with
  | .wait s => s
  | .bad s => fail s
  | .ok bs s =>
    if leNat bs = 0 then loopExit s q 1 fr
    else if fr.i = f 295 264 then loopExit s q (if f 295 264 = 0 then 1 else 14) fr
    else
      let go (s : State) : State :=
        goTo (updGraph (nextInterval s x.ctx) q (fun g => { g with loops := { fr with i := fr.i } :: g.loops.drop 1 })) q
          (f 511 440)
      if f 367 296 = 0 then go s
      else
        match pumpWrite s x.ctx q (f 367 296) (leBytes 4 fr.i) g with
        | .ok _ s => go s
        | .wait s => s
        | .bad s => fail s

/-- R286: a LOOP node, or the next iteration of the innermost loop. -/
def execLoopIteration (queue : Nat) (s : State) : Host.Outcome State Fault Refusal :=
  match graphOf s queue with
  | some (x, g) =>
    match g.run, g.loops with
    | .loopNext, fr :: _ => if nodeDue s x g then .next (loopDecide s queue x g fr) else .next s
    | _, _ =>
      nodeEvent s queue 4 (fun s x g =>
        if 8 ≤ g.loops.length then finishNode s queue 13 0
        else
          let fr : LoopFrame := { node := g.node, word := g.word, cseq := g.cseq }
          let s := updGraph s queue (fun g => { g with loops := fr :: g.loops, run := .loopNext })
          loopDecide s queue x g fr)
  | none => .next s

/-- R286: an END node, or the end of a body or of the graph. -/
def execEndNode (queue : Nat) (s : State) : Host.Outcome State Fault Refusal :=
  match graphOf s queue with
  | some (x, g) =>
    match g.run with
    | .ended =>
      if !nodeDue s x g then .next s
      else
        match g.loops with
        | [] => .next (completeEntry s queue 1 0)
        | fr :: frs =>
          .next (updGraph s queue (fun g => { g with loops := { fr with i := fr.i + 1 } :: frs, run := .loopNext }))
    | _ => nodeEvent s queue 9 (fun s _ _ => finishNode s queue 1 0)
  | none => .next s

/-- R289, R290. -/
def execPhaseArrive (queue : Nat) (s : State) : Host.Outcome State Fault Refusal :=
  nodeEvent s queue 5 (fun s x g =>
    match phaseArrive s x.ctx queue g.word false with
    | (true, s) => s
    | (false, s) => finishNode s queue 11 0)

/-- R287: an evaluation of the wait word of a graph's WAIT node. -/
def evaluateWait (s : State) (q : Nat) (x : Queue) (g : GraphRun) (since : Nat) : State :=
  let f := nodeField g.word
  match pumpRead s x.ctx q (f 511 440) 8 g with
  | .wait s => s
  | .bad s => finishNode s q 10 0
  | .ok bs s =>
    if f 439 376 ≤ leNat bs then finishNode s q 1 (nodeNext g.word)
    else updGraph s q (fun g => { g with run := .waiting since false })

/-- R287: the node's start, or an evaluation that is due. -/
def execWaitEvaluate (queue : Nat) (s : State) : Host.Outcome State Fault Refusal :=
  match graphOf s queue with
  | some (x, g) =>
    match g.run with
    | .waiting since true =>
      if g.fault.isSome || !pumpRuns s x.ctx then .next s else .next (evaluateWait s queue x g since)
    | .waiting _ false => .next s
    | _ =>
      nodeEvent s queue 6 (fun s x g =>
        evaluateWait (updGraph s queue (fun g => { g with run := .waiting s.dt true })) queue x g s.dt)
  | none => .next s

/-- Marks an evaluation of a queue's running WAIT node as due (R287, R288). -/
def wakeWait (s : State) (q : Nat) : State :=
  updGraph s q (fun g => match g.run with
    | .waiting since _ => { g with run := .waiting since true }
    | _ => g)

/-- Marks an evaluation due for the queues of a context. -/
def wakeWaits (s : State) (ctx : Nat) : State :=
  (s.queues.filter (fun p => p.2.ctx == ctx)).foldl (fun s p => wakeWait s p.1) s

/-- R287: at DT[11:0] = 0. -/
def execWaitTick (s : State) : Host.Outcome State Fault Refusal :=
  if s.dt % 4096 = 0 then .next (s.queues.keys.foldl wakeWait s) else .next s

/-- R287: whether the limit of a WAIT node has passed. -/
def waitExpired (s : State) (g : GraphRun) : Bool :=
  match g.run with
  | .waiting since _ =>
    let tmo := nodeField g.word 375 344
    tmo != 0 && decide (since + 1000 * tmo ≤ s.dt)
  | _ => false

/-- R287. -/
def execWaitTimeout (queue : Nat) (s : State) : Host.Outcome State Fault Refusal :=
  match graphOf s queue with
  | some (x, g) => if waitExpired s g && pumpRuns s x.ctx then .next (finishNode s queue 12 0) else .next s
  | none => .next s

/-- R287: a SET or ADD as a single SYNC-path write. -/
def execSignalNode (queue : Nat) (s : State) : Host.Outcome State Fault Refusal :=
  nodeEvent s queue 7 (fun s x g =>
    let f := nodeField g.word
    match pumpXlate s x.ctx queue (f 511 440) g true with
    | .wait s => s
    | .bad s => finishNode s queue 10 0
    | .ok pa s =>
      match syncTake s (lineOf pa) with
      | none => s
      | some s =>
        let old := leNat (readNewest s pa 8)
        let v := if g.word.getLsbD 375 then (old + f 439 376) % 2 ^ 64 else f 439 376
        let (s, tw) := storeLine s (lineOf pa) 0 (numbered (pa % 128) (leBytes 8 v))
        let s := updGraph s queue (fun g =>
          { g with tw := Nat.max g.tw tw, irq := if g.word.getLsbD 374 then some (f 373 363) else none })
        wakeWaits (finishNode s queue 1 (nodeNext g.word)) x.ctx)

/-- R291: the previous binding of the handle raises its interrupt; then PROD is 0 and the handle is bound. -/
def execRingNode (queue : Nat) (s : State) : Host.Outcome State Fault Refusal :=
  nodeEvent s queue 8 (fun s x g =>
    let f := nodeField g.word
    let rh := f 319 314
    match pumpWrite s x.ctx queue (f 439 368) (leBytes 4 0) g with
    | .wait s => s
    | .bad s => finishNode s queue 10 0
    | .ok _ s =>
      let s := ringInterrupt s x.ctx rh
      let b : Binding :=
        { ring := { base := f 511 440, cb := f 439 368, log2 := f 324 320, vec := some (f 335 325) }
          n := f 367 352, t := f 351 336, queue := queue }
      finishNode (updCtx s x.ctx (fun c => { c with rings := c.rings.put rh b })) queue 1 (nodeNext g.word))

-- completion (R278, R280)

/-- R277: whether the graph goes on after a status. -/
def goesOn (status : Nat) : Bool := status == 1 || status == 2 || status == 14

/-- R278: the end of a KERNEL node whose launch has ended. -/
def kernelDone (s : State) (q id : Nat) (g : GraphRun) : State :=
  match s.launches.find id with
  | none => s
  | some l =>
    if !launchEnded s id l then s
    else
      let t := launchTw s id l
      if s.dt < t + 2 then s
      else finishNode (dropLaunch s id) q 1 (nodeNext g.word)

/-- R278, R280, R367: a node that is done has its STATUS written, once the writes it waits for are visible; the graph
goes on, stops at a breakpoint, or ends. -/
def nodeDone (s : State) (q : Nat) (x : Queue) (g : GraphRun) (status next : Nat) : State :=
  if !(g.tw == 0 || decide (g.tw + 2 ≤ s.dt)) then s
  else
    let s := updGraph (raiseIrq s g.irq) q (fun g => { g with irq := none })
    match pumpWrite s x.ctx q (g.node + 2) (leBytes 2 status) { g with irq := none } with
    | .wait s => s
    | .bad s => completeEntry (sessionNode s q g.cseq 3 g.node) q 10 g.node
    | .ok _ s =>
      let s := sessionNode s q g.cseq 3 g.node
      if !goesOn status then completeEntry s q status g.node
      else if x.breaks.contains (g.cseq, true) then
        stopHit (updGraph s q (fun g => { g with run := .stopAfter next })) q g.cseq true
      else goTo s q next

/-- R278, R280. -/
def execNodeComplete (queue : Nat) (s : State) : Host.Outcome State Fault Refusal :=
  match graphOf s queue with
  | none => .next s
  | some (x, g) =>
    if g.fault.isSome || !pumpRuns s x.ctx || x.resetting then .next s
    else
      match g.run with
      | .kernel id => .next (kernelDone s queue id g)
      | .finishing status next => .next (nodeDone s queue x g status next)
      | .start =>
        -- a node whose record cannot be read, or is malformed, has no kind of its own
        match startNode s queue with
        | .isOver s => .next s
        | _ => .next s
      | _ => .next s

-- GSIG (R288, R482)

/-- R288, R482: the fence, and a wake of the queue's pump. -/
def execGsig (g : Guard) (a : Src) (s : State) : Host.Outcome State Fault Refusal :=
  issue s (.gsig g a) (fun e =>
    if e.lanes.isEmpty then .next e.s
    else
      let v := (e.int32 a e.lead).toNat
      let own := ((e.s.cohorts.find e.crew.cohort).map (·.queue))
      let q : Option Nat := if v = 0xFFFFFFFF then own else some v
      let owned := v = 0xFFFFFFFF || ((e.s.queues.find v).map (·.ctx)) == some e.crew.ctx
      if !owned then .trap { code := 0x09, addr := BitVec.ofNat 64 v }
      else
        e.fenced .sys allPaths 8 (fun e => .next (match q with
          | some q => wakeWait e.s q
          | none => e.s)))

end Sys2Proof.Machine
end

