-- ==== Sys2Proof/Machine/Copies.lean ====
section
/-! DEFINITION. Copies.lean: the copy engines' work on a copy in flight (R151 to R154, R284, R360). -/
namespace Sys2Proof.Machine

/-- The address of row r, byte b of a side: a virtual address, or an address in the cohort's allocation (R442). -/
def CopySide.at_ (c : CopySide) (r b : Nat) : Nat :=
  match c with
  | .global rec off stride => recAddr rec (off + r * stride + b)
  | .tile off stride xs | .kept _ off stride xs => swz (off + r * stride + b) xs

/-- Whether a side is in global memory. -/
def CopySide.isGlobal : CopySide → Bool
  | .global _ _ _ => true
  | .tile _ _ _ | .kept _ _ _ _ => false

/-- R357: whether a side's accesses are tracked. -/
def CopySide.tracked : CopySide → Bool
  | .global rec _ _ => recRep rec
  | .tile _ _ _ | .kept _ _ _ _ => false

/-- The bytes of a copy. -/
def CopyOp.total (c : CopyOp) : Nat := c.rows * c.rb

/-- The line of virtual addresses that a byte of a side lies in. -/
def CopySide.lineAt (c : CopySide) (r b : Nat) : Nat := c.at_ r b / 128

/-- R172: whether a side, from row r on, still touches a virtual line. -/
def CopySide.touches (c : CopySide) (rows rb r vline : Nat) : Bool :=
  match c with
  | .tile _ _ _ | .kept _ _ _ _ => false
  | .global rec off stride =>
    -- the offsets that lie on the line: the swizzle moves bytes within a line only
    let hi := vline * 128 + 127
    if hi < recBase rec + off then false
    else
      let top := hi - recBase rec
      let lo := top + 1 - Nat.min (top + 1) 128
      if stride = 0 then decide (off ≤ top) && decide (lo < off + rb) && decide (r < rows)
      else
        let last := Nat.min ((top - off) / stride) (rows - 1)
        decide (r ≤ last) && decide (r < rows) && decide (lo < off + last * stride + rb)

/-- The virtual lines that a side, from row r on, still touches. -/
def CopySide.lines (c : CopySide) (rows rb r : Nat) : List Nat :=
  match c with
  | .tile _ _ _ | .kept _ _ _ _ => []
  | .global rec off stride =>
    (List.range (rows - r)).flatMap (fun i =>
      let a := recBase rec + off + (r + i) * stride
      (List.range ((a + rb - 1) / 128 + 1 - a / 128)).map (· + a / 128))

/-- R172: whether a side, from row r on, still touches a line, by its virtual or its physical line. -/
def CopySide.names (s : State) (ctx : Nat) (c : CopySide) (rows rb r vline line : Nat) : Bool :=
  c.touches rows rb r vline || (c.lines rows rb r).any (fun v => isLine s ctx v line)

/-- R172: whether an earlier copy of the same crew has still to reach a line with its writes or its reads. -/
def copyBehind (s : State) (c : CopyOp) (vline pa : Nat) : Bool :=
  c.crew.isSome && s.copies.any (fun p =>
    let r := p.2.moved / Nat.max p.2.rb 1
    decide (p.1 < c.id) && p.2.crew == c.crew
      && (p.2.src.names s c.ctx p.2.rows p.2.rb r vline (lineOf pa) || p.2.dst.names s c.ctx p.2.rows p.2.rb r vline (lineOf pa)))

/-- R314: the engine of a copy in a fault record. -/
def copyRequester (s : State) (c : CopyOp) (acc : Nat) : Requester :=
  match c.queue with
  | some q => { pumpRequester q (((graphOf s q).map (fun x => x.2.cseq)).getD 0) acc with path := 1 }
  | none =>
    let ch := s.cohorts.find c.cohort
    { ekind := 3, eid := c.core, queue := (ch.map (·.queue)).getD 0, cseq := (ch.map (·.cseq)).getD 0, path := 1
      acc := acc }

/-- What a step of a copy answers. -/
inductive CopyGo
  | ok (pa : Nat) (s : State)
  | wait (s : State)
  | violation (va : Nat) (s : State)

/-- Changes a copy in flight. -/
def updCopy (s : State) (id : Nat) (f : CopyOp → CopyOp) : State := { s with copies := s.copies.change id f }

/-- R154: a translation of the copy engine. -/
def copyXlate (s : State) (c : CopyOp) (va : Nat) (w : Bool) : CopyGo :=
  match translate s none (Config.dieOfUnit c.core) c.ctx va { r := !w, w := w } true with
  | (.ok pa, s) => if isClosed s pa then .wait s else .ok pa s
  | (.bad pa, s) => match remoteOf (remoteBase + pa) with
    | some (k, _) => if isRemote pa && remoteUp s k then .ok (remoteBase + pa) s else .violation va s
    | none => .violation va s
  | (.notPresent lvl, s) =>
    match joinFault s c.ctx va lvl (copyRequester s c (if w then 1 else 0)) with
    | (some tag, s) => .wait (updCopy s c.id (fun c => { c with fault := some tag, pos := va }))
    | (none, s) => .wait s
  | (.stall _, s) => .wait s
  | (_, s) => .violation va s

/-- How a copy ends. -/
inductive CopyEnd
  /-- every byte is written -/
  | complete
  /-- an access violation at a virtual address (R154) -/
  | access (va : Nat)
  /-- a race conflict at a virtual address (R360) -/
  | race (va : Nat)
  /-- a read that the stack could not correct (R335) -/
  | uncorrectable

/-- R47, R152, R154, R284, R335, R360: a copy ends. A failed copy of a crew does not count, and is outstanding no
more. -/
def endCopy (s : State) (c : CopyOp) (how : CopyEnd) : State :=
  let s := { s with copies := s.copies.del c.id }
  match c.queue with
  | some q =>
    let next := ((graphOf s q).map (fun x => nodeNext x.2.word)).getD 0
    match how with
    | .complete => finishNode (updGraph s q (fun g => { g with tw := Nat.max g.tw c.maxTw })) q 1 next
    | _ => finishNode (updGraph s q (fun g => { g with tw := Nat.max g.tw c.maxTw })) q 10 0
  | none =>
    match c.crew with
    | none => s
    | some cid =>
      let s := updCrew s cid (fun cr => { cr with pendCnt := changeAt cr.pendCnt c.kc (· - 1) })
      let s := match how with
        | .complete => addCount s cid c.kc
        | .access va => deferReport s cid c.lanes (reportVA 0x09 va)
        | .race va => deferReport s cid c.lanes (reportVA 0x0A va)
        | .uncorrectable => killCohort s c.cohort
      wakeAll s

/-- R369: the completion of a copy-in of a task of a stream, unless the task has retired. -/
def copyInDone (t : Nat) (task : Nat) (st : Stream) : Stream :=
  let done (m : TaskMarks) : TaskMarks := { m with cic := some t }
  if task < st.task then st
  else if task < st.taskNow then { st with pend := changeAt st.pend (task - st.task) done }
  else { st with marks := done st.marks }

/-- The task marks of R369 that a crew's copy sets as it ends. -/
def copyMarks (s : State) (c : CopyOp) : State :=
  if c.queue.isSome || c.src.isGlobal == c.dst.isGlobal then s
  else
    match (s.cohorts.find c.cohort).bind streamKey with
    | none => s
    | some k =>
      match s.streams.find k with
      | some st => if c.src.isGlobal then { s with streams := s.streams.put k (copyInDone s.dt c.task st) } else s
      | none =>
        updCohort s c.cohort (fun h =>
          { h with marks := if c.src.isGlobal then { h.marks with cic := some s.dt } else { h.marks with coc := some s.dt } })

/-- What one piece of a copy answers. -/
inductive Piece
  | moved (n : Nat) (s : State)
  | wait (s : State)
  | ended (s : State)

/-- R442: the bytes that move together: of one row, within 16 bytes of both sides, so that neither swizzle parts
them. -/
def pieceLen (c : CopyOp) (n : Nat) : Nat :=
  let r := c.moved / c.rb
  let b := c.moved % c.rb
  Nat.min n (Nat.min (c.rb - b) (Nat.min (16 - c.src.at_ r b % 16) (16 - c.dst.at_ r b % 16)))

/-- R151, R154: the physical address of the piece of a side. -/
def pieceAddr (s : State) (c : CopyOp) (sd : CopySide) (r b : Nat) (w : Bool) : CopyGo :=
  if sd.isGlobal then copyXlate s c (sd.at_ r b) w else .ok (sd.at_ r b) s

/-- R357, R359: the race check of a piece. -/
def pieceRace (s : State) (c : CopyOp) (sd : CopySide) (pa r b n : Nat) (w : Bool) : Except Nat State :=
  if !sd.tracked || !repeatable s c.ctx then .ok s
  else
    let ps := (List.range n).map (fun i => (pa + i, sd.at_ r b + i))
    raceAccess s c.ctx c.who (!w) w ps

/-- R172: whether the crew's own earlier store on the COPY path to a line is pending. -/
def copyPending (s : State) (c : CopyOp) (line : Nat) : Bool :=
  match c.crew with
  | some cid => (homeOf (settle s line) line).pending.any (fun p => p.src == storeSrc cid 1)
  | none => false

/-- R322: a line request of a copy is counted where it reaches a line. -/
def copyDemand (s : State) (c : CopyOp) (sd : CopySide) (r b acc : Nat) : State :=
  if c.queue.isNone && sd.isGlobal && (b = 0 || sd.at_ r b % 128 = 0) then countCopy s c.core c.ctx (sd.at_ r b) acc else s

/-- The bytes of a piece's source, at its physical address or in the tile store (R154, R385, R386). -/
def pieceRead (s : State) (c : CopyOp) (spa n : Nat) : List Byte × State :=
  match c.src with
  | .global _ _ _ => match remoteOf spa with
    | some (k, addr) => remoteRead s k addr n
    | none => (readHome s spa n, touchWindows s spa)
  | .tile _ _ _ => (Memory.getN (((s.cohorts.find c.cohort).map (·.tile)).getD []) spa n, s)
  | .kept tile _ _ _ => (Memory.getN tile spa n, s)

/-- R147: the core's copy of a line that a COPY of a crew writes is dropped. -/
def copyDrop (s : State) (c : CopyOp) (pa : Nat) : State :=
  match c.crew.bind s.crews.find with
  | some cr => if cr.engine == .core then l1Drop s (l1Unit s cr pa) (lineOf pa) else s
  | none => s

/-- The write of a piece's destination; the largest Tw of its copy, and of its crew, grows. -/
def pieceWrite (s : State) (c : CopyOp) (dpa n : Nat) (bs : List Byte) : State :=
  let put (s : State) (tw : Nat) : State := updCopy s c.id (fun c => { c with moved := c.moved + n, maxTw := Nat.max c.maxTw tw })
  match c.dst with
  | .global _ _ _ => match remoteOf dpa with
    | some (k, addr) => put (remoteWrite s k addr bs) 0
    | none =>
      let (s, tw) := storeLine (copyDrop s c dpa) (lineOf dpa) (match c.crew with | some cid => storeSrc cid 1 | none => 0)
        (numbered (dpa % 128) bs)
      put (match c.crew with
        | some cid => ackTw s cid 1 tw
        | none => s) tw
  | .tile _ _ _ =>
    put (updCohort s c.cohort (fun h => if h.state = .ended then h else { h with tile := Memory.setN h.tile dpa bs })) 0
  | .kept _ _ _ _ => put s 0

/-- A piece of a copy is read and written. -/
def pieceMove (s : State) (c : CopyOp) (spa dpa r b n : Nat) : State :=
  let (bs, s) := pieceRead s c spa n
  pieceWrite (copyDemand (copyDemand s c c.src r b 0) c c.dst r b 1) c dpa n bs

/-- R360: both race checks of a piece; the virtual address of the first conflict. -/
def pieceRaces (s : State) (c : CopyOp) (spa dpa r b n : Nat) : Except Nat State :=
  match pieceRace s c c.src spa r b n false with
  | .error va => .error va
  | .ok s => pieceRace s c c.dst dpa r b n true

/-- R174: whether a copy that writes memory waits for a load of its crew. -/
def copyEarly (s : State) (c : CopyOp) : Bool :=
  match c.crew with
  | some cid => c.dst.isGlobal && !loadsReturned s cid c.id
  | none => false

/-- R172: whether a piece waits for earlier accesses of its crew on the COPY path to its lines. -/
def pieceBehind (s : State) (c : CopyOp) (spa dpa r b : Nat) : Bool :=
  (c.src.isGlobal && (copyBehind s c (c.src.lineAt r b) spa || copyPending s c (lineOf spa)))
    || (c.dst.isGlobal && copyBehind s c (c.dst.lineAt r b) dpa)

/-- One piece of a copy (R153, R154, R174, R344). -/
def copyPiece (s : State) (c : CopyOp) (n : Nat) : Piece :=
  let r := c.moved / c.rb
  let b := c.moved % c.rb
  let n := pieceLen c n
  if copyEarly s c then .wait s
  else
    match pieceAddr s c c.src r b false with
    | .wait s => .wait s
    | .violation va s => .ended (endCopy s c (.access va))
    | .ok spa s =>
      match pieceAddr s c c.dst r b true with
      | .wait s => .wait s
      | .violation va s => .ended (endCopy s c (.access va))
      | .ok dpa s =>
        let inner := c.src.isGlobal && (remoteOf spa).isNone
        if pieceBehind s c spa dpa r b then .wait s
        else if inner && needsFill s (lineOf spa) then .wait (askFill s (lineOf spa))
        else
          match pieceRaces s c spa dpa r b n with
          | .error va => .ended (endCopy s c (.race (va / 8 * 8)))
          | .ok s =>
            if inner && lostGranule s spa then .ended (endCopy s c .uncorrectable)
            else .moved n (pieceMove s c spa dpa r b n)

/-- Moves at most n bytes of a copy, in at most `fuel` pieces. -/
def copyMove : Nat → State → Nat → Nat → State
  | 0, s, _, _ => s
  | fuel + 1, s, id, n =>
    match s.copies.find id with
    | none => s
    | some c =>
      if c.fault.isSome || c.failed || n = 0 || c.total ≤ c.moved then s
      else
        match copyPiece s c n with
        | .moved k s => copyMove fuel s id (n - k)
        | .wait s => s
        | .ended s => s

/-- R152: the next n bytes of a copy move, in row-major order; with the last, it completes and adds 1 to its
counter. -/
def execCopyComplete (id n : Nat) (s : State) : Host.Outcome State Fault Refusal :=
  let s := copyMove n s id n
  match s.copies.find id with
  | none => .next s
  | some c => .next (if c.moved = c.total then endCopy (copyMarks s c) c .complete else s)

/-- R154, R315, R319: a copy whose page fault was answered VIOLATION or DELIVER stops with a deferred ACCESS. -/
def execCopyViolation (id : Nat) (s : State) : Host.Outcome State Fault Refusal :=
  match s.copies.find id with
  | none => .next s
  | some c => if c.failed then .next (endCopy s c (.access c.pos)) else .next s

end Sys2Proof.Machine
end

