-- ==== Sys2Proof/Machine/Csr.lean ====
section
/-! DEFINITION. Csr.lean: the control and status registers (R446 to R449), and the events in which one of them acts:
leases, repeatable mode, monitors, well thresholds, hotness and channel training. -/
namespace Sys2Proof.Machine

/-- Bits lo to lo + n - 1 of a word, as a number. -/
def fieldOf (v : W32) (lo n : Nat) : Nat := v.toNat / 2 ^ lo % 2 ^ n

/-- Changes the package's CSRs with a selector. -/
def updCsrs (s : State) (f : PackageCsrs → PackageCsrs) : State := { s with csrs := f s.csrs }

-- leases (R168)

/-- R168: LEN written: below 64 it is 64, above 8,192 it is 8,192. -/
def leaseLen (n : Nat) : Nat := Nat.min (Nat.max n 64) 8192

/-- R168: a write of LEASESET. -/
def writeLeaseset (s : State) (v : W32) : State :=
  let ctx := fieldOf v 16 12
  updCtx (updCsrs s (fun c => { c with leaseCtx := ctx })) ctx (fun c => { c with lease := leaseLen (fieldOf v 0 14) })

/-- R168: LEASESET as it reads; a context that is not held reads the reset value. -/
def readLeaseset (s : State) : W32 :=
  let k := s.csrs.leaseCtx
  BitVec.ofNat 32 (k * 2 ^ 16 + (((s.ctxs.find k).map (·.lease)).getD 512))

/-- LEASESET_WRITE (R168). -/
def execLeasesetWrite (v : W32) (s : State) : Host.Outcome State Fault Refusal := .next (writeLeaseset s v)

-- repeatable mode (R355)

/-- R355: MODE by its code. -/
def modeOf : Nat → RepMode
  | 0 => .off
  | 1 => .free
  | 2 => .record
  | _ => .replay

/-- R355: the code of a mode. -/
def RepMode.code : RepMode → Nat
  | .off => 0 | .free => 1 | .record => 2 | .replay => 3

/-- R355: a write of REPMODE: the mode is requested; REPLAY without a complete trace requests FREE. -/
def writeRepmode (s : State) (v : W32) : State :=
  let ctx := fieldOf v 16 12
  updCtx (updCsrs s (fun c => { c with repCtx := ctx })) ctx (fun c =>
    let m := modeOf (fieldOf v 0 2)
    { c with pendMode := some (if m = .replay && !c.valid then .free else m) })

/-- R355: REPMODE as it reads: the mode last written. -/
def readRepmode (s : State) : W32 :=
  let k := s.csrs.repCtx
  match s.ctxs.find k with
  | some c =>
    BitVec.ofNat 32 (k * 2 ^ 16 + (if c.ovf then 8 else 0) + (if c.valid then 4 else 0) + (c.pendMode.getD c.mode).code)
  | none => BitVec.ofNat 32 (k * 2 ^ 16)

/-- R355, R364: a mode takes effect in a context. A recording starts with an empty trace; a replay with none of its
records matched, whose heads wait from `now`. -/
def Context.setMode (c : Context) (m : RepMode) (now : Nat) : Context :=
  let c := if c.mode = .record && m != .record then { c with valid := !c.ovf } else c
  let c := { c with mode := m, pendMode := none }
  match m with
  | .record => { c with ovf := false, valid := false, trCount := 0, recAt := c.interval }
  | .replay => { c with matched := [], headClk := [], repAt := c.interval, repFrom := now }
  | _ => c

/-- REPMODE_WRITE (R355). -/
def execRepmodeWrite (v : W32) (s : State) : Host.Outcome State Fault Refusal := .next (writeRepmode s v)

/-- REPMODE_TAKE_EFFECT (R355). -/
def execRepmodeTakeEffect (ctx : Nat) (s : State) : Host.Outcome State Fault Refusal :=
  match (s.ctxs.find ctx).bind (·.pendMode) with
  | some m => if modeDue s ctx then .next (updCtx s ctx (fun c => c.setMode m s.dt)) else .next s
  | none => .next s

-- invariant monitors (R372)

/-- A monitor of the package. -/
def monitorOf (s : State) (k : Nat) : Monitor := (s.monitors.find k).getD {}

/-- R372: the word 0 a write leaves: [15:12] read 0, a reserved ACT reads as NONE, and PER 0 writes 1. -/
def monWord0 (v : W32) : W32 :=
  let v := v &&& (if 4 < fieldOf v 28 3 then 0x8FFF0FFF else 0xFFFF0FFF)
  if fieldOf v 16 8 = 0 then v ||| 0x00010000 else v

/-- R372: the word 3 a write leaves: FIRED is cleared by writing 1, COUNT is written. -/
def monWord3 (old v : W32) : W32 := (old &&& ~~~v &&& 0x80000000) ||| (v &&& 0xFFFF)

/-- R372, R373: a write of MONDATA: words 0 to 2 clear the run count. -/
def writeMondata (s : State) (v : W32) : State :=
  let k := s.csrs.moncfg.toNat % 32
  let m := monitorOf s k
  let m := match s.csrs.moncfg.toNat / 32 with
    | 0 => { m with w0 := monWord0 v, run := 0 }
    | 1 => { m with w1 := v, run := 0 }
    | 2 => { m with w2 := v, run := 0 }
    | _ => { m with w3 := monWord3 m.w3 v }
  { s with monitors := s.monitors.put k m }

/-- R372: MONDATA as it reads. -/
def readMondata (s : State) : W32 :=
  let m := monitorOf s (s.csrs.moncfg.toNat % 32)
  match s.csrs.moncfg.toNat / 32 with
  | 0 => m.w0
  | 1 => m.w1
  | 2 => m.w2
  | _ => m.w3

/-- MONDATA_WRITE (R372). -/
def execMondataWrite (v : W32) (s : State) : Host.Outcome State Fault Refusal := .next (writeMondata s v)

-- well thresholds (R265)

/-- R265: REQUAL: every substituted well starts its four windows, unless a requalification runs. -/
def startRequal (s : State) : State :=
  if s.csrs.requal then s
  else
    let wells := s.wells.map (fun p => if p.2.subst.isSome then (p.1, { p.2 with requal := some 0 }) else p)
    { s with wells := wells, csrs := { s.csrs with requal := wells.any (fun p => p.2.requal.isSome) } }

/-- R265: a write of WELLTHR. -/
def writeWellthr (s : State) (v : W32) : State :=
  let s := updCsrs s (fun c => { c with corrThr := fieldOf v 16 12, biasThr := fieldOf v 0 16 })
  if v.getLsbD 31 then startRequal s else s

/-- R265: WELLTHR as it reads. -/
def readWellthr (s : State) : W32 :=
  BitVec.ofNat 32 ((if s.csrs.requal then 2 ^ 31 else 0) + s.csrs.corrThr * 2 ^ 16 + s.csrs.biasThr)

/-- REQUALIFY (R265): a write of WELLTHR. -/
def execRequalify (v : W32) (s : State) : Host.Outcome State Fault Refusal := .next (writeWellthr s v)

-- hotness (R324)

/-- R324: a write of HOTCFG. -/
def writeHotcfg (s : State) (v : W32) : State :=
  let ctx := fieldOf v 16 12
  updCtx (updCsrs s (fun c => { c with hotCtx := ctx })) ctx (fun c =>
    { c with hotEn := v.getLsbD 15, hotLogN := Nat.min (Nat.max (fieldOf v 10 5) 6) 20
             hotThresh := Nat.max (fieldOf v 0 10) 1 })

/-- R324: HOTCFG as it reads; a context that is not held reads the reset values. -/
def readHotcfg (s : State) : W32 :=
  let k := s.csrs.hotCtx
  match s.ctxs.find k with
  | some c => BitVec.ofNat 32 (k * 2 ^ 16 + (if c.hotEn then 2 ^ 15 else 0) + c.hotLogN * 2 ^ 10 + c.hotThresh)
  | none => BitVec.ofNat 32 (k * 2 ^ 16 + 10 * 2 ^ 10 + 64)

/-- HOTCFG_WRITE (R324). -/
def execHotcfgWrite (v : W32) (s : State) : Host.Outcome State Fault Refusal := .next (writeHotcfg s v)

-- channel training (R350 to R352)

/-- R350: the stack, pseudo-channel, register and index that TRNADDR selects. -/
def trnStack (s : State) : Nat := fieldOf s.csrs.trnaddr 29 3
def trnPch (s : State) : Nat := fieldOf s.csrs.trnaddr 22 7
def trnReg (s : State) : Nat := fieldOf s.csrs.trnaddr 19 3
def trnIdx (s : State) : Nat := fieldOf s.csrs.trnaddr 0 5

/-- R350: whether IDX lies in the range of REG. -/
def trnIdxOk (reg idx : Nat) : Bool :=
  match reg with
  | 0 | 1 => decide (idx ≤ 16)
  | 4 => decide (idx ≤ 1)
  | 7 => false
  | _ => decide (idx = 0)

/-- R351: the training registers that boot firmware loads for a pseudo-channel: its stored training, or the values for one
without (log entry 114). -/
def Train.loaded (st pch : Nat) : Train :=
  match Config.storedTraining st pch with
  | none => Train.untrained
  | some x => { rdly := x.1, wdly := x.2.1, vref := x.2.2, live := x.1 ++ x.2.1 ++ [x.2.2, 0] }

/-- The training registers of a pseudo-channel. -/
def trainOf (s : State) (st pch : Nat) : Train := ((SMap.getD s.dramStacks st {}).train.find pch).getD (Train.loaded st pch)

/-- Changes the training registers of a pseudo-channel. -/
def updTrain (s : State) (st pch : Nat) (f : Train → Train) : State :=
  let k := SMap.getD s.dramStacks st {}
  { s with dramStacks := s.dramStacks.put st { k with train := k.train.put pch (f (trainOf s st pch)) } }

/-- R352: what a pseudo-channel runs with: the values of its registers. -/
def Train.written (t : Train) : List (BitVec 7) :=
  t.rdly ++ t.wdly ++ [t.vref, BitVec.ofNat 7 (fieldOf t.lrep 31 1 * 16 + fieldOf t.lrep 0 4)]

/-- R351, R352: a write of TRN_PAT word 0: GO starts a test, or sets ERR where HOLD is 0 or DIR or KIND is reserved. -/
def Train.writePat (t : Train) (v : W32) : Train :=
  let busy := t.pat0 &&& 0x80000000
  let t := { t with pat0 := busy ||| (v &&& 0x7F00FFFF) }
  if v.getLsbD 31 then
    if !t.hold || decide (3 ≤ fieldOf v 28 3) || decide (3 ≤ fieldOf v 24 4) then { t with res := t.res ||| 0x40000000 }
    else { t with pat0 := t.pat0 ||| 0x80000000 }
  else t

/-- R352: a write of TRN_HOLD: on the return to service the written values take effect. -/
def Train.writeHold (t : Train) (v : W32) : Train :=
  let h := v.getLsbD 0
  { t with hold := h, live := if t.hold && !h then t.written else t.live }

/-- R351, R352: a write of a training register: while HOLD is 0 the delays, reference and repair are not written. -/
def Train.write (t : Train) (reg idx : Nat) (v : W32) : Train :=
  let tap : BitVec 7 := v.setWidth 7
  match reg with
  | 0 => if t.hold then { t with rdly := setAt t.rdly idx tap } else t
  | 1 => if t.hold then { t with wdly := setAt t.wdly idx tap } else t
  | 2 => if t.hold then { t with vref := tap } else t
  | 3 => if t.hold then { t with lrep := v &&& 0x8000000F } else t
  | 4 => if idx = 0 then t.writePat v else { t with pat1 := v }
  | 6 => t.writeHold v
  | _ => t

/-- R351: a training register as it reads. -/
def Train.read (t : Train) (reg idx : Nat) : W32 :=
  match reg with
  | 0 => (t.rdly.getD idx 0).setWidth 32
  | 1 => (t.wdly.getD idx 0).setWidth 32
  | 2 => t.vref.setWidth 32
  | 3 => t.lrep
  | 4 => if idx = 0 then t.pat0 else t.pat1
  | 5 => t.res
  | 6 => if t.hold then 1 else 0
  | _ => 0

/-- R350: a write of TRNDATA. -/
def writeTrndata (s : State) (v : W32) : State :=
  if trnIdxOk (trnReg s) (trnIdx s) then updTrain s (trnStack s) (trnPch s) (fun t => t.write (trnReg s) (trnIdx s) v)
  else s

/-- R350, R351: a read of TRNDATA; a read of TRN_RES clears it. -/
def readTrndata (s : State) : W32 × State :=
  if trnIdxOk (trnReg s) (trnIdx s) then
    ((trainOf s (trnStack s) (trnPch s)).read (trnReg s) (trnIdx s),
      if trnReg s = 5 then updTrain s (trnStack s) (trnPch s) (fun t => { t with res := 0 }) else s)
  else (0, s)

/-- PATTERN_TEST (R351): a write of TRN_PAT word 0 of the selected pseudo-channel. -/
def execPatternTest (v : W32) (s : State) : Host.Outcome State Fault Refusal :=
  .next (updTrain s (trnStack s) (trnPch s) (fun t => t.writePat v))

/-- PATTERN_TEST_DONE (R351). A test that only writes compares nothing. -/
def execPatternTestDone (stack pch : Nat) (fails : BitVec 17) (s : State) : Host.Outcome State Fault Refusal :=
  let t := trainOf s stack pch
  if t.pat0.getLsbD 31 then
    .next (updTrain s stack pch (fun t =>
      { t with pat0 := t.pat0 &&& 0x7FFFFFFF
               res := 0x80000000 ||| (t.res &&& 0x40000000)
                 ||| (if fieldOf t.pat0 28 3 = 2 then 0 else fails.setWidth 32) }))
  else .next s

/-- TRN_HOLD_WRITE (R352): a write of TRN_HOLD of the selected pseudo-channel. -/
def execTrnHoldWrite (v : W32) (s : State) : Host.Outcome State Fault Refusal :=
  .next (updTrain s (trnStack s) (trnPch s) (fun t => t.writeHold v))

/-- TRN_RES_READ (R351): a read of TRN_RES of the selected pseudo-channel, which clears it. -/
def execTrnResRead (s : State) : Host.Outcome State Fault Refusal :=
  .next (updTrain { s with reply := some (.word ((trainOf s (trnStack s) (trnPch s)).res.setWidth 64)) }
    (trnStack s) (trnPch s) (fun t => { t with res := 0 }))

-- CSRR and CSRW (R446 to R449)

/-- R30: the field widths of a crew's launch. -/
def widw (s : State) (cr : Crew) : W64 :=
  match launchOf s cr with
  | some ln => BitVec.ofNat 64 (sumOf ((List.range 6).map (fun k => ln.widths.getD k 0 * 2 ^ (6 * k))))
  | none => 3

/-- R341: MIGPHASE. -/
def migphase (m : Migration) : W32 :=
  BitVec.ofNat 32 ((if m.mig then 2 ^ 31 + m.phase % 2 ^ 20 else 0) + m.epoch * 2 ^ 24)

/-- R447: the value of a CSR as a crew's split reads it, 64 bits wide, and the state after the read. -/
def readCsr (s : State) (cr : Crew) (sp : Split) (n : Nat) : W64 × State :=
  let w (v : W32) : W64 × State := (v.setWidth 64, s)
  match n with
  | 0x000 => (BitVec.ofNat 64 (crewDT s cr), s)
  | 0x001 => (BitVec.ofNat 64 (crewClk s cr), s)
  | 0x002 => ((seenFlags s cr).setWidth 64, s)
  | 0x003 => (cr.fpmode.setWidth 64, s)
  | 0x004 => (BitVec.ofNat 64 (((s.ctxs.find cr.ctx).map (·.lease)).getD 512), s)
  | 0x010 => (widw s cr, s)
  | 0x011 => (BitVec.ofNat 64 s.mig.capMiB, s)
  | 0x012 => w (migphase s.mig)
  | 0x030 => w sp.trap.code
  | 0x031 => w sp.trap.pc
  | 0x032 => (sp.trap.addr, s)
  | 0x033 => w sp.trap.addrh
  | 0x400 => w (readLeaseset s)
  | 0x401 => w (readRepmode s)
  | 0x402 => (s.csrs.moncfg.setWidth 64, s)
  | 0x403 => w (readWellthr s)
  | 0x404 => w s.csrs.trnaddr
  | 0x405 => ((readTrndata s).1.setWidth 64, (readTrndata s).2)
  | 0x406 => w (readMondata s)
  | 0x408 => w (readHotcfg s)
  | _ => (0, s)

/-- R327, R328: TRAPPC is written: RTT enters the header there. Outside a handler the write changes the register
alone. -/
def Split.writeTrappc (sp : Split) (v : W32) : Split :=
  { sp with trap := { sp.trap with pc := v, written := sp.trap.inHandler || sp.trap.written } }

/-- R447, R448: a write of a CSR by a crew's split. Read-only ones and numbers without a register ignore it. -/
def writeCsr (s : State) (cid sid : Nat) (n : Nat) (v : W32) : State :=
  match n with
  | 0x002 => updCrew s cid (fun c => { c with fpflags := v.setWidth 7 })
  | 0x003 => updCrew s cid (fun c => { c with fpmode := v.setWidth 2 })
  | 0x031 => updSplit s cid sid (fun sp => sp.writeTrappc v)
  | 0x400 => writeLeaseset s v
  | 0x401 => writeRepmode s v
  | 0x402 => updCsrs s (fun c => { c with moncfg := v.setWidth 7 })
  | 0x403 => writeWellthr s v
  | 0x404 => updCsrs s (fun c => { c with trnaddr := v &&& 0xFFF8001F })
  | 0x405 => writeTrndata s v
  | 0x406 => writeMondata s v
  | 0x408 => writeHotcfg s v
  | _ => s

/-- CSRR (R448): every active lane takes the CSR's value. -/
def execCsrr (g : Guard) (d : Dest) (csr : BitVec 12) (w64 : Bool) (s : State) : Host.Outcome State Fault Refusal :=
  issue s (.csrr g d csr w64) (fun e =>
    let (v, s) := if e.lanes.isEmpty then (0, e.s) else readCsr e.s e.crew e.split csr.toNat
    ({ e with s := s }).result d (if w64 then .w64 else .w32) (e.lanes.map (fun l => (l, v))) 0)

/-- CSRW (R448): the leading lane's value, or its low word, is written. -/
def execCsrw (g : Guard) (csr : BitVec 12) (w64 : Bool) (a : Src) (s : State) : Host.Outcome State Fault Refusal :=
  issue s (.csrw g csr w64 a) (fun e =>
    if e.lanes.isEmpty then .next e.s
    else .next (writeCsr e.s e.cid e.sid csr.toNat (lo32 (e.int (if w64 then .w64 else .w32) a e.lead))))

end Sys2Proof.Machine
end

