-- ==== Sys2Proof/Machine/Gen.lean ====
section
/-! DEFINITION. Gen.lean: ACCEPT, BALLOT, SIBCHK, RINGPUT, STAMP and TRACE, the appends to rings, the ballots and the
release of siblings' pages (R291 to R307, R361 to R364, R370, R374, R406 to R410, R417 to R420, R540 to R542, R548 to
R550, R557, R563). -/
namespace Sys2Proof.Machine

-- ACCEPT (R406 to R410)

/-- R406 to R410. -/
def execAccept (g : Guard) (d : Dest) (a padlo n : Src) (vm1 padhi : BitVec 24) (br : BitVec 4) (sq : Bool) (s : State) :
    Host.Outcome State Fault Refusal :=
  issue s (.accept g d a padlo n vm1 padhi br sq) (fun e =>
    let rec' := e.recBits br
    let count (l : Nat) : Nat := (e.int32 n l).toNat
    if e.lanes.any (fun l => decide (count l < 1) || decide (64 < count l)) then .trap { code := 0x03 }
    else
      let off (l : Nat) : Int := e.offset rec' a 0 l
      match checkLanes rec' br.toNat { r := true } acceptBytes 64 (e.lanes.map off) with
      | some t => .trap t
      | none =>
        if e.lanes.isEmpty then .next e.s
        else
          let qs : List LaneReq := e.lanes.map (fun l =>
            { lane := l, va := recAddr rec' (off l).toNat, aux := count l, aux2 := (e.int32 padlo l).toNat
              res := BitVec.ofInt 64 (off l) })
          let acc (id : Nat) : Access :=
            { e.access (.accept padhi.toNat (vm1.toNat + 1) sq) 0 rec' qs id with lines := acceptLines rec' qs }
          e.tracked (recRep rec') (.next (e.post e.s (.l d .w64) acc).1))

-- sibling groups (R297 to R307)

/-- R298: STATE; the reserved 3 reads as OPEN. -/
def groupState (s : State) (pa : Nat) : Nat :=
  let x := groupField s pa 0 8 / 2 ^ 62
  if x = 3 then 0 else x

/-- R299: POSTED. -/
def sibPosted (s : State) (pa k : Nat) : Bool := groupField s (sibEntry pa k) 8 4 / 2 ^ 31 % 2 == 1

/-- R299: a post that is no abstention, with its hash. -/
def sibHash (s : State) (pa k : Nat) : Option Nat :=
  if sibPosted s pa k && groupField s (sibEntry pa k) 8 4 / 2 ^ 30 % 2 == 0 then some (groupField s (sibEntry pa k) 0 8) else none

/-- R418: whether a post would be void. -/
def ballotVoid (s : State) (pa k : Nat) : Bool :=
  let h := groupField s pa 0 8
  let nsib := h / 2 ^ 40 % 256
  let thresh := h / 2 ^ 32 % 256
  let zero (off n : Nat) : Bool := groupField s pa off n == 0
  let upper (off : Nat) : Bool := groupField s pa (off + 9) 7 == 0
  h % 2 ^ 24 != 0 || h / 2 ^ 48 % 2 ^ 14 != 0 || !zero 24 8 || !upper 32 || !upper 48 || !zero (64 + 9) 7
    || groupField s pa 88 1 / 32 != 0 || !zero 89 39 || decide (nsib < 1) || decide (64 < nsib) || decide (thresh = 0)
    || decide (nsib < thresh) || decide (nsib ≤ k)

/-- R363: the first POST record of a group that is not matched. -/
def postHead (s : State) (ctx g : Nat) : Option (Nat × BitVec 256) :=
  traceHead s ctx (fun r => recField r 0 8 == 0x63 && recField r 24 12 == g)

/-- Whether a BALLOT of a sibling is in flight. -/
def ballotOut (s : State) (ctx g k : Nat) : Bool :=
  s.accs.any (fun p => (match p.2.kind with
    | .ballot _ => !p.2.ready
    | _ => false) && (match s.crews.find p.2.crew with
    | some cr => cr.ctx == ctx && cr.sib.toNat == g * 64 + k
    | none => false))

/-- R417 to R420, R363, R364: in REPLAY the split waits at its BALLOT until its POST record heads the group's
stream. -/
def execBallot (g : Guard) (d : Dest) (hash : Option Src) (s : State) : Host.Outcome State Fault Refusal :=
  issue s (.ballot g d hash) (fun e =>
    if e.lanes.isEmpty then .next e.s
    else if e.crew.sib = BitVec.allOnes 32 then .trap { code := 0x03 }
    else
      let grp := e.crew.sib.toNat / 64
      let k := e.crew.sib.toNat % 64
      let va := groupVA e.s e.crew.ctx grp
      let qs : List LaneReq := e.lanes.map (fun l => { lane := l, va := va })
      let post : Eff := .next (e.post e.s (.l d .w32) (fun id =>
        { e.access (.ballot (hash.map (fun a => e.int .w64 a e.lead))) 3 0 qs id with lines := syncLines qs })).1
      if !replaying e.s e.crew.ctx then post
      else
        match postHead e.s e.crew.ctx grp with
        | none => .trap { code := 0x0E, addr := BitVec.ofNat 64 (((e.s.ctxs.find e.crew.ctx).map (·.trCount)).getD 0) }
        | some (_, r) =>
          if recField r 18 6 = k && !ballotOut e.s e.crew.ctx grp k then post
          else .hold (.waitOperand .ballot) e.s)

/-- Readies the splits of a context that wait at a BALLOT (R363). -/
def wakeBallots (s : State) (ctx : Nat) : State :=
  (s.crews.filter (fun p => p.2.ctx == ctx)).foldl (fun s p =>
    wakeSplits s p.1 (fun sp => sp.state == .waitOperand .ballot)) s

/-- The siblings of a group below a count. -/
def groupSibs (g n : Nat) : List Nat := (List.range n).map (fun k => g * 64 + k)

/-- A sibling's record (R306). -/
def sibOf (c : Context) (k : Nat) : Sibling := (c.sibs.find k).getD {}

/-- R302, R305: the crews of a sibling that becomes CANCELLING count their clk from now. -/
def startAccount (s : State) (ctx k : Nat) : State :=
  (s.crews.filter (fun p => p.2.ctx == ctx && sibKey p.2 == some k && p.2.state == .running)).foldl (fun s p =>
    updCrew s p.1 (fun cr => { cr with runFrom := some (crewClk s cr), runClk := 0 })) s

/-- R211, R215, R302, R306: a sibling becomes CANCELLING: its waiters leave their queues. -/
def cancelSibling (s : State) (ctx k ddt : Nat) : State :=
  let s := updCtx s ctx (fun c => { c with sibs := c.sibs.put k { state := .cancelling, ddt := ddt } })
  let s := startAccount s ctx k
  if replaying s ctx then s
  else
    let mine (cid : Nat) : Bool := match s.crews.find cid with
      | some cr => cr.ctx == ctx && sibKey cr == some k
      | none => false
    ((s.locks.vals.flatMap (·.queue)).filter (fun w => mine w.crew)).foldl (fun s w => markLeaving s w.acc 4 0) s

/-- R301: the hash that wins by plurality, among the siblings that posted one: most posts, then the earlier final post,
then the lower sibling index. -/
def plurality (s : State) (ctx pa g n : Nat) : Option Nat :=
  let posts := (List.range n).filterMap (fun k => (sibHash s pa k).map (fun h => (k, h)))
  let when_ (k : Nat) : Nat :=
    if replaying s ctx then groupField s (sibEntry pa k) 8 1
    else ((s.ctxs.find ctx).map (fun c => (sibOf c (g * 64 + k)).post)).getD 0
  let votes (h : Nat) : Nat := (posts.filter (fun p => p.2 == h)).length
  let final (h : Nat) : Nat := maxOf ((posts.filter (fun p => p.2 == h)).map (fun p => when_ p.1))
  let best := maxOf (posts.map (fun p => votes p.2))
  (leastBy (fun p => final p.2) (posts.filter (fun p => votes p.2 == best))).map (·.2)

/-- A write of the engine to a group's record, on the SYNC path of a crew. -/
def groupWrite (s : State) (cid pa : Nat) (bs : List Byte) : State :=
  let (s, tw) := devWriteAfter s pa bs 0 none
  ackTw s cid 3 tw

/-- R300: the status of a BALLOT and the state after it. -/
def ballotPerform (s : State) (cid ctx pa g k : Nat) (hash : Option W64) : Nat × State :=
  let dt := dieDT s (homeDie s pa)
  let h := groupField s pa 0 8
  let nsib := h / 2 ^ 40 % 256
  let thresh := h / 2 ^ 32 % 256
  let npost := h / 2 ^ 24 % 256
  if groupState s pa ≠ 0 then (2, s)
  else if sibPosted s pa k then (3, s)
  else
    let e := sibEntry pa k
    let word := groupField s e 8 4 % 2 ^ 29 / 256 * 256 + npost % 256 + 2 ^ 31 + (if hash.isNone then 2 ^ 30 else 0)
    let s := match hash with
      | some x => groupWrite s cid e (leBytes 8 x.toNat)
      | none => s
    let s := groupWrite s cid (e + 8) (leBytes 4 word)
    let s := groupWrite s cid (pa + 3) [BitVec.ofNat 8 (npost + 1)]
    let s := updCtx s ctx (fun c =>
      { c with sibs := c.sibs.put (g * 64 + k) { sibOf c (g * 64 + k) with state := .posted, post := dt } })
    let count := match hash with
      | some x => ((List.range nsib).filter (fun j => sibHash s pa j == some x.toNat)).length
      | none => 0
    let decide_ (s : State) (st dh : Nat) : State :=
      let s := groupWrite s cid (pa + 7) [BitVec.ofNat 8 (groupField s pa 7 1 % 64 + st * 64)]
      let s := groupWrite s cid (pa + 8) (leBytes 8 dh)
      groupWrite s cid (pa + 16) (leBytes 8 dt)
    match hash with
    | some x =>
      if thresh ≤ count then
        let s := decide_ s 1 x.toNat
        let open_ := (List.range nsib).filter (fun j => !sibPosted s pa j)
        (count * 2 ^ 24 + 1, open_.foldl (fun s j => cancelSibling s ctx (g * 64 + j) dt) s)
      else if npost + 1 = nsib then
        match plurality s ctx pa g nsib with
        | some w => (count * 2 ^ 24 + 1, decide_ s 1 w)
        | none => (count * 2 ^ 24 + 1, decide_ s 2 0)
      else (count * 2 ^ 24, s)
    | none =>
      if npost + 1 = nsib then
        match plurality s ctx pa g nsib with
        | some w => (1, decide_ s 1 w)
        | none => (1, decide_ s 2 0)
      else (4, s)

/-- R300, R361, R363, R418, R420: a BALLOT reaches its group's header line; a void post is performed and recorded too. -/
def execBallotPost (acc : Nat) (s : State) : Host.Outcome State Fault Refusal :=
  match s.accs.find acc with
  | none => .next s
  | some a =>
    match a.kind, a.lines, s.crews.find a.crew with
    | .ballot hash, l :: _, some cr =>
      match l.st with
      | .ready pa0 =>
        let va := (a.lanes.head?.map (·.va)).getD 0
        let pa := pa0 + va % 128
        let g := cr.sib.toNat / 64
        let k := cr.sib.toNat % 64
        if a.ready || !loadsReturned s a.crew acc || syncBlocked s acc a l pa0 then .next s
        else
          match syncFill s acc 0 pa0 l with
          | .waits s => .next s
          | .filled =>
            match (syncTake s (lineOf pa)).bind (fun s => syncTake s (lineOf (sibEntry pa k))) with
            | none => .next s
            | some s =>
              let s := countCore (touchWindows s pa) cr va a.kind.acc
              let done (s : State) (v : Nat) : State :=
                logDone (updAcc s acc (fun a =>
                  { a with ready := true, lines := a.lines.map (fun l => { l with st := .done pa0 })
                           lanes := a.lanes.map (fun q => { q with done := true })
                           result := a.lanes.map (fun q => (q.lane, BitVec.ofNat 128 v)) })) acc
              if (l.got.getD []).contains (pa / 64) then .next (done s 0)
              else
                let void := ballotVoid s pa k
                let (st, s) := if void then (0, s) else ballotPerform s a.crew cr.ctx pa g k hash
                let ci := ((s.cohorts.find cr.cohort).map (·.index)).getD 0
                let s := traceEvent s cr.ctx [(88, nodeInterval s cr % 2 ^ 32), (56, ci % 2 ^ 32), (24, g), (18, k), (0, 0x63)]
                let s := if replaying s cr.ctx then
                    match postHead s cr.ctx g with
                    | some (i, _) => traceMatch s cr.ctx i
                    | none => s
                  else s
                let s := wakeBallots (done s st) cr.ctx
                .next (if void then deferReport s a.crew a.lanesM (reportVA 0x03 va) else s)
      | _ => .next s
    | _, _, _ => .next s

-- SIBCHK (R302, R548 to R550)

/-- R549: the value of SIBCHK where it does not cancel, or the wait for the group's page. A page that cannot be read
gives a free value (log entry 2). -/
def sibValue (e : Env) (grp k : Nat) : Except Eff (W64 × State) :=
  let s := e.s
  let cr := e.crew
  let va := groupVA s cr.ctx grp
  let u := unitOf s cr
  match translate s (some u) (Config.dieOfUnit u) cr.ctx va { r := true, s := true } true with
  | (.ok pa, s) =>
    let s := touchWindows s pa
    let ddt := groupField s pa 16 8
    let ignored := siblingCancelling s cr && cr.ignoreCancel
    if ignored then .ok (if sibPosted s pa k then 2 else 1, s)
    else if groupState s pa = 0 then .ok (1, s)
    else
      let (seen, s) := ddtSeen s (crewDT s cr) ddt
      .ok (if seen && !siblingCancelling s cr then 2 else 1, s)
  | (.notPresent lvl, s) =>
    match joinFault s cr.ctx va lvl (crewRequester s cr 3 0) with
    | (some tag, s) => .error (.hold (.waitOperand (.fetch tag)) s)
    | (none, s) => .error (.hold (.waitOperand (.page va)) s)
  | (.stall _, s) => .error (.hold (.waitOperand (.page va)) s)
  | (_, s) => .ok ((Config.freeWord s.fresh).setWidth 64, { s with fresh := s.fresh + 1 })

/-- R548 to R550. -/
def execSibchk (g : Guard) (d : Dest) (trp : Bool) (s : State) : Host.Outcome State Fault Refusal :=
  issue s (.sibchk g d trp) (fun e =>
    let push (s : State) (v : W64) : Eff := .next (writeQ s e.cid e.sid d .w32 e.all (e.lanes.map (fun l => (l, v))))
    if e.crew.sib = BitVec.allOnes 32 then push e.s 0
    else
      let ddt := match (e.s.ctxs.find e.crew.ctx).bind (fun c => c.sibs.find e.crew.sib.toNat) with
        | some x => x.ddt
        | none => 0
      let (seen, s) := if siblingCancelling e.s e.crew && !e.crew.ignoreCancel then ddtSeen e.s (crewDT e.s e.crew) ddt
        else (false, e.s)
      if seen then (if trp then .trap { code := 0x15 } else .go (endCrew s e.cid .released))
      else
        match sibValue { e with s := s } (e.crew.sib.toNat / 64) (e.crew.sib.toNat % 64) with
        | .error w => w
        | .ok (v, s) => push s v)

-- rings (R291 to R293, R370, R540 to R542, R557)

/-- R540 to R542, R357. -/
def execRingput (g : Guard) (sq pos token : Src) (rh : BitVec 6) (s : State) : Host.Outcome State Fault Refusal :=
  issue s (.ringput g sq pos token rh) (fun e =>
    if e.lanes.isEmpty then .next e.s
    else
      let qs : List LaneReq := e.lanes.map (fun l =>
        let v := (e.int32 sq l).toNat % 2 ^ 24 * 2 ^ 40 + (e.int32 pos l).toNat % 2 ^ 16 * 2 ^ 24 + (e.int32 token l).toNat % 2 ^ 24
        { lane := l, va := 0, data := leBytes 8 v })
      let cb : Option Nat := if repeatable e.s e.crew.ctx then
          ((e.s.ctxs.find e.crew.ctx).bind (fun c => c.rings.find rh.toNat)).map (·.ring.cb)
        else none
      let u := unitOf e.s e.crew
      let prod : Option (Nat × Nat) := cb.bind (fun va =>
        (peek e.s (some u) (Config.dieOfUnit u) e.crew.ctx va).map (fun pa => (pa, va)))
      let owed := cb.isSome && prod.isNone
      let post (s : State) : Eff := e.queueing (
        let (s, id) := e.post s .none (fun id =>
          { e.access (.ring rh.toNat) 3 0 qs id with lines := [], xlated := true, rep := owed })
        .next (enqueue s e.cid id))
      match prod with
      | none => post e.s
      | some p =>
        match raceAccess e.s e.crew.ctx (crewIdent e.s e.cid) false true [p] with
        | .error va => .trap (reportVA 0x0A va)
        | .ok s => post s)

/-- R366: the cohort's current tile task. -/
def currentTask (s : State) (c : Cohort) : Nat :=
  match (streamKey c).bind s.streams.find with
  | some st => st.task
  | none => 1

/-- R174, R370: the record of a STAMP is a store of its crew, where its queue has a ring. -/
def enqueueStamp (s t : State) (cid : Nat) : State := if s.nextId < t.nextId then enqueue t cid s.nextId else t

/-- R370, R557. -/
def execStamp (g : Guard) (a : Src) (s : State) : Host.Outcome State Fault Refusal :=
  issue s (.stamp g a) (fun e =>
    if e.lanes.isEmpty then .next e.s
    else
      match e.s.cohorts.find e.crew.cohort with
      | none => .next e.s
      | some c =>
        e.queueing (.next (enqueueStamp e.s (postStamp e.s e.cid c.queue (record512 [(448, crewDT e.s e.crew), (416, (e.int32 a e.lead).toNat),
          (160, c.cseq.toNat), (148, c.queue % 4096), (136, c.ctx), (132, 0), (120, unitOf e.s e.crew),
          (104, Nat.min (currentTask e.s c) 65535), (72, c.index % 4294967296), (0, 2)])) e.cid)))

/-- R374, R563. -/
def execTrace (g : Guard) (a : Src) (s : State) : Host.Outcome State Fault Refusal :=
  issue s (.trace g a) (fun e =>
    if e.lanes.isEmpty then .next e.s
    else
      match e.s.cohorts.find e.crew.cohort with
      | none => .next e.s
      | some c =>
        .next (sessionTake e.s c.queue c.cseq (record256 [(192, crewDT e.s e.crew), (128, (e.int .w64 a e.lead).toNat),
          (116, c.queue % 4096), (84, c.cseq.toNat), (80, engineKind e.crew.engine), (68, engineId e.s e.crew), (0, 1)])))

/-- What an access of an append to a virtual address of its context answers (R542). -/
inductive Appended
  | ok (pa : Nat) (s : State)
  | wait (s : State)
  | bad (s : State)

/-- R312, R542: a translation by the slice that performs an append, with its die's; `cb` is the control block, whose line
names the slice. -/
def appendXlate (s : State) (acc : Nat) (cr : Crew) (ctx q va cb : Nat) (need : Need) : Appended :=
  let slice := match peek s none 0 ctx cb with
    | some pa => syncSliceOf s pa
    | none => 0
  match translate s none (slice / 16) ctx va need true with
  | (.ok pa, s) => if isClosed s pa then .wait s else .ok pa s
  | (.notPresent lvl, s) =>
    let ch := s.cohorts.find cr.cohort
    match joinFault s ctx va lvl
        { ekind := 7, eid := slice, queue := q, cseq := (ch.map (·.cseq)).getD 0, path := 3, acc := 1 } with
    | (some tag, s) =>
      .wait (updAcc s acc (fun a => { a with lines := [{ vline := va / 128, st := .faulted tag }] }))
    | (none, s) => .wait s
  | (.stall _, s) => .wait s
  | (_, s) =>
    .bad (updAcc s acc (fun a => { a with lines := [{ vline := va / 128, st := .dropped }] }))

/-- R541: whether another append to the ring has begun, or an earlier one of the crew has not ended. -/
def appendBehind (s : State) (acc : Nat) (a : Access) (ctx rh : Nat) : Bool :=
  s.accs.any (fun p => p.1 != acc && (match p.2.kind with
    | .ring h => h == rh && ctxOf s p.2.crew == ctx
        && ((p.2.crew == a.crew && decide (p.1 < acc)) || p.2.lanes.any (fun q => q.done || q.aux2 != 0))
    | _ => false))

/-- R182, R292, R370: a SYNC-path write of an append within one line that its slice performs, after the crew's earlier
accesses to the line; its Tw, and the vector raised once it is visible. -/
def appendWrite (s : State) (acc : Nat) (a : Access) (va pa : Nat) (bs : List Byte) (vec : Option Notice) : Option (State × Nat) :=
  if syncBehind s acc a { vline := va / 128, st := .ready (pa / 128 * 128) } then none
  else (syncTake s (lineOf pa)).map (fun s =>
    devWriteAfter s pa bs 0 vec)

/-- R357, R360: the check of a RINGPUT whose PROD had no page at its issue, made once by the append; at a conflict the
records left are not appended and the crew has a deferred RACE (log entry 21). -/
def appendRace (s : State) (acc : Nat) (a : Access) (ctx cb va : Nat) : Except State State :=
  if !a.rep then .ok s
  else
    match raceAccess s ctx a.who false true [(cb, va)] with
    | .ok s => .ok (updAcc s acc (fun a => { a with rep := false }))
    | .error va => .error (deferReport (endAccess s acc) a.crew a.lanesM (reportVA 0x0A va))

/-- R292: the record of a lane is written, and takes its Tw. -/
def appendRecord (s : State) (acc lane : Nat) (a : Access) (cr : Crew) (ctx : Nat) (b : Binding) (q : LaneReq) : Appended :=
  match appendXlate s acc cr ctx b.queue b.ring.cb b.ring.cb { w := true, s := true } with
  | .ok cb s =>
    match appendRace s acc a ctx cb b.ring.cb with
    | .error s => .wait s
    | .ok s =>
    let prod := leNat (readNewest s cb 4)
    let cons := leNat (readHome s (cb + 64) 4)
    if (prod + 4294967296 - cons) % 4294967296 = 2 ^ b.ring.log2 then .wait s
    else
      let va := b.ring.base + 8 * (prod % 2 ^ b.ring.log2)
      match appendXlate s acc cr ctx b.queue va b.ring.cb { w := true, s := true } with
      | .ok pa s =>
        match appendWrite s acc a va pa q.data none with
        | none => .wait s
        | some (s, tw) => .ok pa (updLane s acc lane (fun q => { q with aux2 := 1, aux := tw }))
      | r => r
  | r => r

/-- R293: a record of a ring has become visible; with the N-th, the interrupt is raised. -/
def ringCount (s : State) (ctx rh : Nat) : State :=
  let s := updCtx s ctx (fun c => { c with rings := c.rings.change rh (fun b =>
    { b with c := b.c + 1, first := if b.c = 0 then s.dt else b.first }) })
  match (s.ctxs.find ctx).bind (fun c => c.rings.find rh) with
  | some b => if b.n ≤ b.c then ringInterrupt s ctx rh else s
  | none => s

/-- R305: a record appended for a cancelling sibling after its group's decision. -/
def tokCount (s : State) (ctx : Nat) (cr : Crew) (a : Access) : State :=
  match sibKey cr with
  | none => s
  | some k => updCtx s ctx (fun c => { c with sibs := c.sibs.change k (fun x =>
      if (x.state == .cancelling || x.state == .cancelled) && decide (x.ddt ≤ a.dtIssue) then { x with tok := x.tok + 1 } else x) })

/-- R292: once the record is visible, PROD rises by 1 as one SYNC-path write. -/
def appendProd (s : State) (acc lane : Nat) (a : Access) (cr : Crew) (ctx rh : Nat) (b : Binding) : Appended :=
  match appendXlate s acc cr ctx b.queue b.ring.cb b.ring.cb { w := true, s := true } with
  | .ok cb s =>
    match appendWrite s acc a b.ring.cb cb (leBytes 4 ((leNat (readNewest s cb 4) + 1) % 4294967296)) none with
    | none => .wait s
    | some (s, tw) =>
      let s := ackTw s a.crew 3 tw
      let s := tokCount (ringCount s ctx rh) ctx cr a
      .ok cb (updLane s acc lane (fun q => { q with done := true }))
  | r => r

/-- R542: an append that a violation or a DELIVER answer ends gives one deferred ACCESS. -/
def appendFail (s : State) (acc : Nat) : State :=
  match s.accs.find acc with
  | none => s
  | some a => deferReport (endAccess s acc) a.crew a.lanesM (reportVA 0x09 ((a.lines.head?.map (·.vline)).getD 0 * 128))

/-- R541, R542: one lane of a RINGPUT: its record, and later its PROD write. -/
def ringStep (s : State) (acc lane : Nat) (a : Access) (cr : Crew) (rh : Nat) : State :=
  match a.lanes.find? (fun q => q.lane == lane) with
  | none => s
  | some q =>
    if q.done || a.lanes.any (fun x => decide (x.lane < lane) && !x.done) || inStoreQ s acc a
        || appendBehind s acc a cr.ctx rh || a.lines.any (fun l => match l.st with | .faulted _ => true | _ => false) then s
    else
      match (s.ctxs.find cr.ctx).bind (fun c => c.rings.find rh) with
      | none => deferReport (endAccess s acc) a.crew a.lanesM { code := 0x03, addr := BitVec.ofNat 64 rh }
      | some b =>
        let r := if q.aux2 = 0 then appendRecord s acc lane a cr cr.ctx b q
          else if s.dt < q.aux + 2 then .wait s
          else appendProd s acc lane a cr cr.ctx rh b
        match r with
        | .wait s => s
        | .bad s => appendFail s acc
        | .ok _ s => if ((s.accs.find acc).map (fun a => a.lanes.all (·.done))).getD false then endAccess s acc else s

/-- R370: whether an earlier stamp record of the queue has not been appended. -/
def stampBehind (s : State) (acc q : Nat) : Bool :=
  s.accs.any (fun p => decide (p.1 < acc) && (match p.2.kind with
    | .stamp j _ => j == q
    | _ => false))

/-- R370: a stamp record goes to its queue's ring, and then PROD rises; it is dropped and counted where the ring is
full. -/
def stampStep (s : State) (acc : Nat) (a : Access) (cr : Crew) (q : Nat) (x : BitVec 512) : State :=
  match (s.queues.find q).bind (fun y => y.stamp.map (fun r => (y, r))), a.lanes with
  | some (y, r), l :: _ =>
    if inStoreQ s acc a || stampBehind s acc q || a.lines.any (fun l => match l.st with | .faulted _ => true | _ => false) then s
    else
      match appendXlate s acc cr y.ctx q r.cb r.cb { w := true, s := true } with
      | .wait s => s
      | .bad s => appendFail s acc
      | .ok cb s =>
        let prod := leNat (readNewest s cb 4)
        if l.aux2 = 0 then
          let cons := leNat (readHome s (cb + 64) 4)
          if (prod + 4294967296 - cons) % 4294967296 = 2 ^ r.log2 then
            let drop := leNat (readNewest s (cb + 96) 4)
            match appendWrite s acc a r.cb (cb + 96) (leBytes 4 (if drop < 4294967295 then drop + 1 else drop)) none with
            | none => s
            | some (s, _) => endAccess s acc
          else
            let va := r.base + 64 * (prod % 2 ^ r.log2)
            match appendXlate s acc cr y.ctx q va r.cb { w := true, s := true } with
            | .wait s => s
            | .bad s => appendFail s acc
            | .ok pa s =>
              match appendWrite s acc a va pa (leBytes 64 x.toNat) none with
              | none => s
              | some (s, tw) => updLane s acc l.lane (fun q => { q with aux2 := 1, aux := tw })
        else if s.dt < l.aux + 2 then s
        else
          let vec : Option Notice := r.vec.map (fun v => { vec := v, when_ := .ring (cb + 64) prod })
          match appendWrite s acc a r.cb cb (leBytes 4 ((prod + 1) % 4294967296)) vec with
          | none => s
          | some (s, tw) => endAccess (ackTw s a.crew 3 tw) acc
  | _, _ => endAccess s acc

/-- R292, R370, R377: a slice's next step of an append; of a quiesced context none, once its cut is made. -/
def execRingAppend (acc lane : Nat) (s : State) : Host.Outcome State Fault Refusal :=
  match s.accs.find acc with
  | none => .next s
  | some a =>
    if cutMade s a.ctx then .next s
    else
    match a.kind, s.crews.find a.crew with
    | .ring rh, some cr => .next (ringStep s acc lane a cr rh)
    | .stamp q x, some cr => .next (stampStep s acc a cr q x)
    | .stamp _ _, none => .next (endAccess s acc)
    | _, _ => .next s

/-- R293: whether a ring's coalescing time has passed. -/
def coalesceDue (s : State) (b : Binding) : Bool :=
  b.t != 0 && b.c != 0 && decide (1000 * b.t ≤ ticksSince s b.first)

/-- R293: the coalescing limit of a ring. -/
def execRingCoalesceTimeout (ctx ring : Nat) (s : State) : Host.Outcome State Fault Refusal :=
  match (s.ctxs.find ctx).bind (fun c => if quiesced s ctx then none else c.rings.find ring) with
  | some b => .next (if coalesceDue s b then ringInterrupt s ctx ring else s)
  | none => .next s

-- releasing a sibling's pages (R304, R305)

/-- R304: whether crews of a sibling remain, or are still to start. -/
def siblingLives (s : State) (ctx k : Nat) : Bool :=
  s.crews.any (fun p => p.2.ctx == ctx && sibKey p.2 == some k && p.2.state != .ended)
    || s.launches.any (fun p => p.2.ctx == ctx && p.2.sib.toNat == k
      && (decide (p.2.next < p.2.total) || !p.2.again.isEmpty || s.cohorts.any (fun c => c.2.launch == p.1 && (c.2.state == .queued || c.2.state == .saved))))

/-- What a translation of a page-list walk answers (R304). -/
inductive Walked
  | ok (pa : Nat) (s : State)
  | wait (s : State)
  | bad (s : State)

/-- Changes a sibling. -/
def updSib (s : State) (ctx k : Nat) (f : Sibling → Sibling) : State :=
  updCtx s ctx (fun c => { c with sibs := c.sibs.change k f })

/-- R304, R312: a translation of the group's home engine, with its die's. -/
def walkXlate (s : State) (ctx k va gpa : Nat) (need : Need) : Walked :=
  match translate s none (homeDie s gpa) ctx va need true with
  | (.ok pa, s) => if isClosed s pa then .wait s else .ok pa s
  | (.notPresent lvl, s) =>
    match joinFault s ctx va lvl
        { ekind := 7, eid := syncSliceOf s gpa, queue := 0, cseq := 0, path := 3, acc := if need.w then 3 else 0 } with
    | (some tag, s) => .wait (updSib s ctx k (fun x => { x with fault := some tag }))
    | (none, s) => .wait s
  | (.stall _, s) => .wait s
  | (_, s) => .bad s

/-- R182, R304: the writes of one step of a walk, made at one instant once their lines can be taken; the sibling keeps their
largest Tw. -/
def walkWrites (s : State) (ctx k : Nat) (ws : List (Nat × List Byte)) : Option State :=
  (ws.foldl (fun o w => o.bind (fun s => syncTake s (lineOf w.1))) (some s)).map (fun s => ws.foldl (fun s w =>
    let (s, tw) := devWriteAfter s w.1 w.2 0 none
    updSib s ctx k (fun x => { x with walkTw := Nat.max x.walkTw tw })) s)

/-- R304: the writes that append a page to the group's free ring. -/
def freeWrites (s : State) (ctx k gpa page : Nat) : Except Walked (State × List (Nat × List Byte)) :=
  let log2 := groupField s gpa 88 1 % 32
  let prod := groupField s gpa 80 4
  if (prod + 4294967296 - leNat (readHome s (gpa + 84) 4)) % 4294967296 = 2 ^ log2 then .error (.wait s)
  else
    match walkXlate s ctx k (groupField s gpa 64 9 + 8 * (prod % 2 ^ log2)) gpa { r := true, w := true, s := true } with
    | .ok pa s => .ok (s, [(pa, leBytes 8 (page % 2 ^ 59)), (gpa + 80, leBytes 4 ((prod + 1) % 4294967296))])
    | r => .error r

/-- The writes of a step of a walk, or its wait for a line. -/
def walkCommit (s : State) (ctx k pa : Nat) (ws : List (Nat × List Byte)) : Walked :=
  match walkWrites s ctx k ws with
  | some s => .ok pa s
  | none => .wait s

/-- R304: one entry of a page list. Where an access of the entry was refused, by an answer other than RESOLVED, it is not
made: the count's, where its page is not present, else the free ring's. -/
def releaseEntry (s : State) (ctx k gpa ent : Nat) (refused : Bool) : Walked :=
  let page := ent % 2 ^ 59
  let free (s : State) : Except Walked (State × List (Nat × List Byte)) :=
    if refused then .error (.bad s) else freeWrites s ctx k gpa page
  if ent / 2 ^ 63 = 0 then
    match free s with
    | .error r => r
    | .ok (s, ws) => walkCommit s ctx k gpa ws
  else
    let cva := groupField s gpa 48 9 + 4 * ((page * 8192 - groupField s gpa 32 9) / 8192)
    if refused && (peek s none 0 ctx cva).isNone then .bad s
    else
      match walkXlate s ctx k cva gpa { r := true, w := true, s := true } with
      | .ok pa s =>
        let c := leNat (readNewest s pa 4)
        if c = 0 then .ok pa (touchWindows s pa)
        else if c = 1 then
          match free s with
          | .error (.bad s) => walkCommit s ctx k pa [(pa, leBytes 4 0)]
          | .error r => r
          | .ok (s, ws) => walkCommit s ctx k pa (ws ++ [(pa, leBytes 4 0)])
        else walkCommit s ctx k pa [(pa, leBytes 4 (c - 1))]
      | r => r

/-- R305: the records of a sibling's crews, issued from the decision on, that are still to be appended. -/
def tokPending (s : State) (ctx k ddt : Nat) : Nat :=
  sumOf ((s.accs.filter (fun p => (match p.2.kind with
      | .ring _ => true
      | _ => false) && decide (ddt ≤ p.2.dtIssue) && (match s.crews.find p.2.crew with
      | some cr => cr.ctx == ctx && sibKey cr == some k
      | none => false))).map (fun p => (p.2.lanes.filter (fun q => !q.done)).length))

/-- R304, R305: the walk is over: TOK and CYC are written. -/
def releaseEnd (s : State) (ctx k gpa : Nat) (x : Sibling) : State :=
  let e := sibEntry gpa (k % 64)
  match walkWrites s ctx k [(e + 12, leBytes 4 (x.tok + tokPending s ctx k x.ddt)), (e + 16, leBytes 8 x.cyc)] with
  | none => s
  | some s => updSib s ctx k (fun x => { x with isOver := true, walk := none, refused := false })

/-- R304: once every write of the walk is acknowledged, CANC is set and the sibling is CANCELLED. -/
def releaseDone (s : State) (ctx k gpa : Nat) (x : Sibling) : State :=
  if s.dt < x.walkTw + 2 then s
  else
    let e := sibEntry gpa (k % 64)
    match walkWrites s ctx k [(e + 8, leBytes 4 (groupField s e 8 4 ||| 2 ^ 29))] with
    | none => s
    | some s => updSib s ctx k (fun x => { x with state := .cancelled })

/-- R304: one step of the walk of a CANCELLING sibling's page list. -/
def releaseStep (s : State) (ctx k gpa : Nat) (x : Sibling) : State :=
  let e := sibEntry gpa (k % 64)
  let i := x.walk.getD 0
  let npg := groupField s e 8 4 / 2 ^ 8 % 2 ^ 16
  let list := groupField s e 24 8 % 2 ^ 59 * 8192
  let next (s : State) : State := updSib s ctx k (fun x => { x with walk := some (i + 1), refused := false })
  if x.isOver then releaseDone s ctx k gpa x
  else if list = 0 || npg ≤ i then releaseEnd s ctx k gpa x
  else if x.refused && (peek s none 0 ctx (list + 8 * i)).isNone then releaseEnd s ctx k gpa x
  else
    match walkXlate s ctx k (list + 8 * i) gpa { r := true, s := true } with
    | .wait s => s
    | .bad s => releaseEnd s ctx k gpa x
    | .ok pa s =>
      if needsFill s (lineOf pa) then askFill s (lineOf pa)
      else if lostGranule s pa then releaseEnd s ctx k gpa x
      else
        match releaseEntry s ctx k gpa (leNat (readHome s pa 8)) x.refused with
        | .wait s => s
        | .ok _ s => next (touchWindows (touchWindows s pa) gpa)
        | .bad s => next (touchWindows (touchWindows s pa) gpa)

/-- R304: the group's home engine walks the page list of a CANCELLING sibling of which no crew remains. -/
def execSiblingPageRelease (ctx group sib : Nat) (s : State) : Host.Outcome State Fault Refusal :=
  let k := group * 64 + sib
  match (s.ctxs.find ctx).bind (fun c => c.sibs.find k) with
  | none => .next s
  | some x =>
    if x.state != .cancelling || x.fault.isSome || quiesced s ctx || siblingLives s ctx k then .next s
    else
      let gone (s : State) : State := updSib s ctx k (fun x => { x with state := .cancelled, walk := none })
      let va := groupVA s ctx group
      let gpa := (peek s none 0 ctx va).getD 0
      if x.refused && (peek s none 0 ctx va).isNone then .next (gone s)
      else
        match walkXlate s ctx k va gpa { r := true, w := true, s := true } with
        | .wait s => .next s
        | .bad s => .next (gone s)
        | .ok gpa s => .next (releaseStep s ctx k gpa x)

end Sys2Proof.Machine
end

