-- ==== Sys2Proof/Machine/Sched.lean ====
section
/-! DEFINITION. Sched.lean: placement and start of cohorts, the choice of the split that issues, priorities, and the
grants of tile store (R38 to R41, R51 to R57, R142 to R146, R218 to R220, R363). -/
namespace Sys2Proof.Machine

-- room (R52, R142, R218)

/-- The cohorts that stand on a core unit: each holds a stream slot of its cluster (R218). -/
def residents (s : State) (u : Nat) : List (Nat × Cohort) := s.cohorts.filter (fun p => p.2.slot.isSome && p.2.core == u)

/-- R52: the resident lanes of a core. -/
def coreLanes (s : State) (u : Nat) : Nat := sumOf ((residents s u).map (fun p => p.2.lanes))

/-- R142: the free tile store of a core. -/
def freeTile (s : State) (u : Nat) : Nat := 262144 - sumOf ((residents s u).map (fun p => p.2.alloc))

/-- R52: the resident cohorts of a cluster. -/
def clusterCohorts (s : State) (cl : Nat) : List (Nat × Cohort) :=
  s.cohorts.filter (fun p => p.2.slot.isSome && p.2.core / 4 == cl)

/-- R51, R52: whether a core has room for a cohort, but for its cluster's limit. -/
def coreFits (s : State) (lanes bytes u : Nat) : Bool :=
  decide (bytes ≤ freeTile s u) && decide (coreLanes s u + lanes ≤ 8192) && decide ((coreUnit s u).launchQ.length < 32)

/-- R52: whether a cluster can take n more cohorts. -/
def clusterFits (s : State) (n cl : Nat) : Bool := decide ((clusterCohorts s cl).length + n ≤ 8)

/-- R52: the core for a cohort that belongs to no group. -/
def pickCore (s : State) (lanes bytes : Nat) : Option Nat :=
  leastBy (coreLanes s) ((List.range Config.ncores).filter (fun u => coreFits s lanes bytes u && clusterFits s 1 (u / 4)))

/-- R41, R52: the cluster for a group, given the places k of its cohorts with the bytes that each needs. -/
def pickCluster (s : State) (lanes : Nat) (need : List (Nat × Nat)) : Option Nat :=
  let fits (cl : Nat) : Bool := clusterFits s need.length cl && need.all (fun p => coreFits s lanes p.2 (4 * cl + p.1))
  leastBy (fun cl => sumOf (need.map (fun p => coreLanes s (4 * cl + p.1)))) ((List.range Config.nclusters).filter fits)

/-- R218: the lowest free stream slot of a cluster. -/
def freeSlot (s : State) (cl : Nat) : Option Nat :=
  (List.range 8).find? (fun k => !(clusterCohorts s cl).any (fun p => p.2.slot == some k))

-- the dispatch trace (R361 to R363)

/-- R363: the head of the PLACE records of a core. -/
def placeHead (s : State) (ctx u : Nat) : Option (Nat × BitVec 256) :=
  traceHead s ctx (fun r => recField r 0 8 == 0x61 && recField r 36 8 == u)

/-- R363: whether a PLACE record names a cohort. -/
def placeNames (s : State) (r : BitVec 256) (ln : Launch) (idx : Nat) : Bool :=
  nodeNamed s ln.ctx r ln.interval && recField r 56 32 == idx % 2 ^ 32

/-- R363: the core whose head names a cohort, with the event index. -/
def placeCore (s : State) (ln : Launch) (idx : Nat) : Option (Nat × Nat) :=
  (List.range Config.ncores).findSome? (fun u =>
    match placeHead s ln.ctx u with
    | some (i, r) => if placeNames s r ln idx then some (u, i) else none
    | none => none)

/-- R363: whether a record of the trace that is not matched names a cohort. -/
def placeRecorded (s : State) (ln : Launch) (idx : Nat) : Bool :=
  (traceHead s ln.ctx (fun r => recField r 0 8 == 0x61 && placeNames s r ln idx)).isSome

/-- R363: the record of a cohort that is placed is matched. -/
def placeMatched (s : State) (ln : Launch) (idx : Nat) : State :=
  if replaying s ln.ctx then
    match placeCore s ln idx with
    | some (_, i) => traceMatch s ln.ctx i
    | none => s
  else s

/-- R40, R41, R52, R363: the core for a cohort, under the trace in REPLAY. -/
def coreFor (s : State) (ln : Launch) (idx bytes : Nat) : Option Nat :=
  if replaying s ln.ctx then
    (placeCore s ln idx).bind (fun p => if coreFits s ln.lanes bytes p.1 && clusterFits s 1 (p.1 / 4) then some p.1 else none)
  else pickCore s ln.lanes bytes

/-- R41, R52, R363: the cluster for the cohorts of a group. -/
def clusterFor (s : State) (ln : Launch) (need : List (Nat × Nat × Nat)) : Option Nat :=
  let need' := need.map (fun p => (p.1, p.2.2))
  if replaying s ln.ctx then
    match need with
    | [] => none
    | (_, i0, _) :: _ =>
      match placeCore s ln i0 with
      | none => none
      | some (u, _) =>
        let cl := u / 4
        if need.all (fun p => ((placeCore s ln p.2.1).map (·.1)) == some (4 * cl + p.1)
            && coreFits s ln.lanes p.2.2 (4 * cl + p.1)) && clusterFits s need.length cl then some cl else none
  else pickCluster s ln.lanes need'

-- placing (R34, R51, R52, R142, R162)

/-- R34: the coordinates of a linear cohort index. -/
def coordsOf : List Nat → Nat → List Nat
  | [], _ => []
  | e :: es, i => i % e :: coordsOf es (i / e)

/-- R51: a cohort enters the launch queue of a core, and takes a slot of its cluster. -/
def enterQueue (s : State) (k u : Nat) : State :=
  match freeSlot s (u / 4) with
  | none => s
  | some sl =>
    let s := updCohort s k (fun c => { c with core := u, slot := some sl })
    updCore s u (fun x => { x with launchQ := x.launchQ ++ [k] })

/-- R361, R363: a cohort that enters a launch queue, in the dispatch trace. -/
def tracePlace (s : State) (u : Nat) (ln : Launch) (idx : Nat) : State :=
  traceEvent (placeMatched s ln idx) ln.ctx [(88, ln.interval % 2 ^ 32), (56, idx % 2 ^ 32), (36, u), (0, 0x61)]

/-- R142, R162, R218: a new cohort of a launch is placed on a core. -/
def newCohort (s : State) (lid : Nat) (ln : Launch) (idx u : Nat) (again : Bool) : State :=
  let k := s.nextId
  let c : Cohort :=
    { id := k, ctx := ln.ctx, queue := ln.queue, cseq := ln.cseq, launch := lid, index := idx
      coords := coordsOf (ln.ext.drop 1) idx, core := u, control := ln.centry.isSome, prio := ln.prio
      staticReq := ln.scratch, alloc := ln.scratch, group := if ln.fused then some (idx / 4) else none, lanes := ln.lanes
      relaunch := again }
  let s := { s with nextId := k + 1, cohorts := s.cohorts.put k c
                    launches := s.launches.change lid (fun l => { l with live := l.live + 1 }) }
  tracePlace (enterQueue (updCtx s ln.ctx (fun x => { x with sumpUsed := x.sumpUsed + cohortSump ln })) k u) u ln idx

/-- R162: whether a context's sump has room for n more cohorts of a launch. -/
def sumpFits (s : State) (ln : Launch) (n : Nat) : Bool :=
  match s.ctxs.find ln.ctx with
  | some c => decide (n * cohortSump ln ≤ sumpFree c)
  | none => false

/-- R41: the linear indices of the next cohorts of a launch that are placed together. -/
def nextUnit (ln : Launch) : List Nat :=
  if ln.fused then (List.range (Nat.min 4 (ln.total - ln.next))).map (· + ln.next) else [ln.next]

/-- R51, R52: places the next cohort, or group, of a launch. -/
def placeNext (s : State) (lid : Nat) : Option State :=
  match s.launches.find lid with
  | none => none
  | some ln =>
    if ln.total ≤ ln.next then none
    else
      let is := nextUnit ln
      let done (s : State) : State :=
        { s with launches := s.launches.change lid (fun l => { l with next := l.next + is.length }) }
      if !sumpFits s ln is.length then none
      else if ln.fused then
        (clusterFor s ln (is.map (fun i => (i % 4, i, ln.scratch)))).map (fun cl =>
          done (is.foldl (fun s i => newCohort s lid ln i (4 * cl + i % 4) false) s))
      else (coreFor s ln ln.next ln.scratch).map (fun u => done (newCohort s lid ln ln.next u false))

/-- R56: places every cohort of a co-resident launch, or none. -/
def placeAll : Nat → State → Nat → Option State
  | 0, _, _ => none
  | n + 1, s, lid =>
    match s.launches.find lid with
    | none => none
    | some ln => if ln.total ≤ ln.next then some s else (placeNext s lid).bind (fun s => placeAll n s lid)

/-- R245: places a killed cohort again. A member of a group goes to its place in the cluster where others of the group
stand (log entry 32). -/
def placeAgain (s : State) (lid : Nat) (ln : Launch) (idx : Nat) : Option State :=
  if !sumpFits s ln 1 then none
  else
    let u : Option Nat :=
      if ln.fused then
        match s.cohorts.find? (fun p => p.2.launch == lid && p.2.group == some (idx / 4) && p.2.slot.isSome) with
        | some p =>
          let u := p.2.core / 4 * 4 + idx % 4
          if coreFits s ln.lanes ln.scratch u && clusterFits s 1 (u / 4)
              && (!replaying s ln.ctx || (placeCore s ln idx).map (·.1) == some u) then some u else none
        | none => (clusterFor s ln [(idx % 4, idx, ln.scratch)]).map (fun cl => 4 * cl + idx % 4)
      else coreFor s ln idx ln.scratch
    u.map (fun u =>
      newCohort { s with launches := s.launches.change lid (fun l => { l with again := l.again.filter (· != idx) }) }
        lid ln idx u true)

/-- R146: pending SPGROW requests of a restored cohort become the youngest of its new core. -/
def moveSpgrow (s : State) (k u : Nat) : State :=
  { s with spgrow := s.spgrow.filter (fun p => p.cohort != k)
      ++ (s.spgrow.filter (fun p => p.cohort == k)).map (fun p => { p with core := u }) }

/-- R318: the accesses of a cohort's crews of one engine that stand in a fault buffer move to a unit. -/
def moveFaultsOf (s : State) (k : Nat) (engine : Engine) (u : Nat) : State :=
  let mine (a : Nat) : Bool := ((s.accs.find a).bind (fun x => s.crews.find x.crew)).any (fun cr => cr.cohort == k && cr.engine == engine)
  let held := s.cores.vals.flatMap (fun c => c.faultBuf.filter mine)
  if held.isEmpty then s
  else
    updCore { s with cores := s.cores.mapAll (fun _ c => { c with faultBuf := c.faultBuf.filter (fun a => !mine a) }) } u
      (fun c => { c with faultBuf := c.faultBuf ++ held })

/-- R318: the accesses of a cohort that stand in fault buffers move with it to a core and its cluster's control core. -/
def moveFaults (s : State) (k u : Nat) : State :=
  moveFaultsOf (moveFaultsOf s k .core u) k .control (Config.controlUnit (u / 4))

/-- R40, R52, R362: a saved cohort is placed on a core. -/
def replaceCohort (s : State) (ln : Launch) (c : Cohort) (u : Nat) : State :=
  tracePlace (enterQueue (moveFaults s c.id u) c.id u) u ln c.index

/-- R40, R52, R363: places a saved cohort, with the saved cohorts of its group: in REPLAY as the trace names them; R52
chooses afresh where the trace holds no record of them (log entry 41). -/
def placeSaved (s : State) (lid : Nat) (ln : Launch) (c : Cohort) : Option State :=
  match c.group with
  | none =>
    (if placeRecorded s ln c.index then coreFor s ln c.index c.alloc else pickCore s ln.lanes c.alloc).map
      (replaceCohort s ln c)
  | some g =>
    let ms := (s.cohorts.filter (fun p => p.2.launch == lid && p.2.group == some g && p.2.state == .saved && p.2.slot.isNone)).map (·.2)
    (if ms.any (fun m => placeRecorded s ln m.index) then
        clusterFor s ln (ms.map (fun m => (m.index % 4, m.index, m.alloc)))
      else pickCluster s ln.lanes (ms.map (fun m => (m.index % 4, m.alloc)))).map (fun cl =>
      ms.foldl (fun s m => replaceCohort s ln m (4 * cl + m.index % 4)) s)

/-- The saved cohort of lowest index of a launch that is not placed. -/
def savedOf (s : State) (lid : Nat) : Option Cohort :=
  leastBy (·.index) ((s.cohorts.filter (fun p => p.2.launch == lid && p.2.state == .saved && p.2.slot.isNone)).map (·.2))

/-- R51, R52, R56: places the next cohort or group of a launch, in ascending linear index. -/
def placeLaunch (s : State) (lid : Nat) : Option State :=
  match s.launches.find lid with
  | none => none
  | some ln =>
    if !pumpRuns s ln.ctx || ln.error then none
    else
      match savedOf s lid, leastBy (fun i => i) ln.again with
      | some c, some i => if c.index < i then placeSaved s lid ln c else placeAgain s lid ln i
      | some c, none => placeSaved s lid ln c
      | none, some i => placeAgain s lid ln i
      | none, none =>
        if ln.total ≤ ln.next then none
        else if ln.cores then placeAll (ln.total + 1) s lid
        else placeNext s lid

/-- R51, R52, R56: the oldest launch that has a cohort which fits. -/
def execCohortPlace (s : State) : Host.Outcome State Fault Refusal :=
  match s.launches.keys.findSome? (placeLaunch s) with
  | some s' => .next s'
  | none => .next s

-- starting (R33, R219, R282)

/-- R31: the place of a field of %wid. -/
def widOffset (ws : List Nat) (k : Nat) : Nat := sumOf (ws.take k)

/-- R31, R33: %wid of lane 0 of crew 0 of a cohort. -/
def widBase (ln : Launch) (coords : List Nat) : Nat :=
  sumOf (coords.zipIdx.map (fun p => p.1 * 2 ^ widOffset ln.widths (p.2 + 2)))

/-- R305: a crew of a sibling that is cancelling counts its clk from its start. -/
def countsFrom (s : State) (cr : Crew) : Option Nat :=
  match sibKey cr with
  | none => none
  | some k =>
    match (s.ctxs.find cr.ctx).bind (fun c => c.sibs.find k) with
    | some x => if x.state == .cancelling || x.state == .cancelled then some (crewClk s cr) else none
    | none => none

/-- R33, R42, R54, R219, R282: a crew starts with one split at its entry. -/
def startCrew (s : State) (k : Nat) (ln : Launch) (c : Cohort) (index : Nat) (engine : Engine) (entry : Nat) : State :=
  let w0 := if engine = .control then 0 else ln.widths.getD 0 3
  let base := widBase ln c.coords + index * 2 ^ widOffset ln.widths 1
  let cid := s.nextId
  let u := if engine = .control then Config.controlUnit (c.core / 4) else c.core
  let cr : Crew :=
    { cid := cid, cohort := k, index := index, engine := engine, w0 := w0, ctx := ln.ctx, sib := ln.sib
      state := .running, wid := (List.range (2 ^ w0)).map (fun l => (l, BitVec.ofNat 64 (base + l)))
      scalars := (ln.args ++ List.replicate 32 0).take 16 ++ List.replicate 16 0, recs := List.replicate 16 {}
      startOrd := (coreUnit s u).ageCtr
      splits := [{ id := 0, mask := BitVec.ofNat 1024 (2 ^ 2 ^ w0 - 1), place := .header entry .launch, age := 0
                   lastSlot := (coreUnit s u).slots }] }
  let s := { updCore s u (fun x => { x with ageCtr := x.ageCtr + 1 }) with
    nextId := cid + 1, crews := s.crews.put cid cr }
  updCrew s cid (fun c => { c with runFrom := countsFrom s c, splits := c.splits.map (fun sp => { sp with readyClk := crewClk s c }) })

/-- R24, R33: the module's firmware starts a kernel on the service core, in a privileged context, where none runs. Its one
crew of one lane belongs to no cohort. -/
def startService (s : State) (ln : Launch) : State :=
  if s.service.isSome || !((s.ctxs.find ln.ctx).map (·.priv)).getD false then s
  else
    let cid := s.nextId
    let cr : Crew :=
      { cid := cid, cohort := 0, index := 0, engine := .service, w0 := 0, ctx := ln.ctx, sib := BitVec.allOnes 32
        state := .running, wid := [(0, 0)]
        scalars := (ln.args ++ List.replicate 32 0).take 16 ++ List.replicate 16 0, recs := List.replicate 16 {}
        splits := [{ id := 0, mask := 1, place := .header ln.entry .launch, age := 0
                     lastSlot := (coreUnit s Config.serviceUnit).slots }] }
    { s with service := some ln, nextId := cid + 1, crews := s.crews.put cid cr }

/-- R51, R219, R220: a placed cohort starts, with its control crew and stream. -/
def startCohort (s : State) (k : Nat) (ln : Launch) (c : Cohort) : State :=
  let s := updCohort s k (fun c => { c with state := .running })
  let s := (List.range (ln.ext.getD 0 1)).foldl (fun s i => startCrew s k ln c i .core ln.entry) s
  match ln.centry, streamKey c with
  | some e, some key => startCrew { s with streams := s.streams.put key { cohort := k } } k ln c 0 .control e
  | _, _ => s

/-- The registers of a crew that stand in rows. -/
def Crew.residentRegs (cr : Crew) : List Nat :=
  cr.rmap.filterMap (fun p => match p.2 with
    | .resident _ _ => some p.1
    | .spilled _ _ _ _ => none)

/-- R69, R330: rows on its core for a register of a restored crew, for which the spill engine evicts others. -/
def restoreRow : Nat → State → Nat → Nat → Option State
  | 0, _, _, _ => none
  | n + 1, s, cid, r =>
    match s.crews.find cid with
    | none => some s
    | some cr =>
      let u := unitOf s cr
      match findRows (usedRows s u) (rowsOf cr.w0) with
      | some row => some (updCrew s cid (fun c => { c with rmap := c.rmap.put r (.resident row (rowsOf c.w0)) }))
      | none =>
        match spillVictim s u cid with
        | none => none
        | some (v, x) => restoreRow n (spillTo s v x) cid r

/-- Rows for several registers of a restored crew, whose map entries were taken out. -/
def restoreRows (s : State) (cid : Nat) : List Nat → Option State
  | [] => some s
  | r :: rs => (restoreRow 4096 s cid r).bind (fun s => restoreRows s cid rs)

/-- R210, R214: the waiters of a crew are present again. -/
def presentWaiters (s : State) (cid : Nat) : State :=
  let now := ((s.crews.find cid).map (crewClk s)).getD 0
  let back (w : Waiter) : Waiter := if w.crew = cid then { w with absent := false, since := now } else w
  let s := { s with locks := s.locks.mapAll (fun _ l => { l with queue := l.queue.map back }) }
  (s.locks.filter (fun p => p.2.queue.any (fun w => w.crew == cid))).foldl
    (fun s p => serveFree s p.1) s

/-- R59, R188, R305, R330: a saved crew runs again on its cohort's core. -/
def restoreCrew (s : State) (cid : Nat) : Option State :=
  match s.crews.find cid with
  | none => some s
  | some cr =>
    let u := unitOf s cr
    let rs := cr.residentRegs
    let resolved (a : Nat) : Bool := (s.accs.find a).any (fun x => x.lines.all (fun l => match l.st with
      | .faulted _ => false
      | _ => true))
    let c' : Crew :=
      { cr with state := .running, restore := maxOf cr.twmax + 2, startOrd := (coreUnit s u).ageCtr
                rmap := cr.rmap.filter (fun p => !rs.contains p.1)
                runFrom := countsFrom s cr, replay := cr.oplog.filter resolved
                splits := cr.splits.map (fun sp =>
                  let sp := { sp with lastSlot := (coreUnit s u).slots, readyClk := crewClk s cr }
                  match sp.state with
                  | .waitFill _ | .waitRows _ | .waitOperand (.full _ _ _) | .waitOperand .acquire => readied s cr sp
                  | _ => sp) }
    (restoreRows { updCore s u (fun x => { x with ageCtr := x.ageCtr + 1 }) with crews := s.crews.put cid c' } cid rs).map
      (fun s => presentWaiters s cid)

/-- Each of several saved crews. -/
def restoreCrews (s : State) : List Nat → Option State
  | [] => some s
  | c :: cs => (restoreCrew s c).bind (fun s => restoreCrews s cs)

/-- R246: a saved stream takes its cohort's slot again, with its reservation entries; nothing of it stands in the
cluster's operand cache. -/
def restoreStream (s : State) (k key : Nat) : State :=
  match s.streams.find (savedKey k) with
  | some st =>
    let sl := key % 8
    updCluster { s with streams := (s.streams.del (savedKey k)).put key { st with saved := false, resvSaved := [] } } (key / 8)
      (fun c => { c with resv := st.resvSaved.foldl (fun m p => m.put (sl * 4 + p.1) p.2) c.resv
                         opTiles := c.opTiles.filter (fun t => t.1 != sl) })
  | none => updStream s key (fun st => { st with saved := false })

/-- R330, R335: whether the save area words of a crew lie in a failed granule. -/
def saveFailed (s : State) (cr : Crew) : Bool :=
  match s.ctxs.find cr.ctx with
  | some c => rangeFailed s (c.saveAddr cr) (Nat.min 256 c.saveSize)
  | none => false

/-- R332: the lines of a cohort's save areas that must be read from their stacks before it runs again. -/
def saveFills (s : State) (k : Nat) : List Nat :=
  ((crewsOf s k).filter (fun p => p.2.state == .saved)).flatMap (fun p =>
    match s.ctxs.find p.2.ctx with
    | some c => rangeFills s (c.saveAddr p.2) (Nat.min 256 c.saveSize)
    | none => [])

/-- R40, R57, R218, R246: a restored cohort runs again, with its stream; one whose save area reads uncorrectable is
killed (R335). -/
def restoreCohort (s : State) (k : Nat) (c : Cohort) : Option State :=
  if (crewsOf s k).any (fun p => p.2.state == .saved && saveFailed s p.2) then some (killCohort s k) else
  let s := updCohort (moveSpgrow s k c.core) k (fun c => { c with state := .running })
  let s := match streamKey c with
    | some key => restoreStream s k key
    | none => s
  restoreCrews s (((crewsOf s k).filter (fun p => p.2.state == .saved)).map (·.1))

/-- R51: the first cohort of a core's launch queue starts. -/
def execCohortStart (core : Nat) (s : State) : Host.Outcome State Fault Refusal :=
  match (coreUnit s core).launchQ with
  | [] => .next s
  | k :: ks =>
    let s' := updCore s core (fun x => { x with launchQ := ks })
    match s.cohorts.find k with
    | none => .next s'
    | some c =>
      if !pumpRuns s c.ctx then .next s
      else
        match s.launches.find c.launch with
        | none => .next s'
        | some ln =>
          if (crewsOf s k).isEmpty then .next (startCohort s' k ln c)
          else if !(saveFills s k).isEmpty then .next ((saveFills s k).foldl askFill s)
          else
            match restoreCohort s' k c with
            | some s => .next s
            | none => .next s

-- issue (R36 to R38, R53 to R56)

/-- A split or packed group that may be chosen, with its members, as crew and split, oldest first, and what R53 weighs. -/
structure Cand where
  members : List (Nat × Nat)
  since   : Nat
  prio    : Nat
  ord     : Nat
  age     : Nat
  long    : Bool
deriving DecidableEq, Repr

/-- R54: the priority level of a crew's launch. -/
def crewPrio (s : State) (cr : Crew) : Nat := ((s.cohorts.find cr.cohort).map (·.prio)).getD 0

/-- R53: whether a split may be chosen. -/
def Split.choosable (sp : Split) : Bool := sp.state == .ready && sp.mask != 0 && !sp.spilled

/-- R38: the one split of a crew that is a single split and is ready. -/
def Crew.sole (cr : Crew) : Option Split :=
  match cr.splits with
  | [sp] => if sp.choosable then some sp else none
  | _ => none

/-- R38: the launch and the block header of a crew of 8 or 16 lanes of a core that qualifies for packing. -/
def packKey (s : State) (u : Nat) (cr : Crew) : Option (Nat × Int) :=
  if (cr.w0 == 3 || cr.w0 == 4) && cr.engine == .core && unitOf s cr == u && crewRuns s cr then
    match cr.sole, s.cohorts.find cr.cohort with
    | some sp, some c => (match sp.place with
      | .header off _ => some (c.launch, off)
      | .word _ => none)
    | _, _ => none
  else none

/-- R38: the word at which a crew stands within a packed group. -/
def inPack (s : State) (u cid : Nat) : Option Nat :=
  match s.crews.find cid with
  | none => none
  | some cr =>
    if unitOf s cr == u && crewRuns s cr then
      match cr.sole with
      | some sp => (match sp.place with
        | .word off => some off
        | .header _ _ => none)
      | none => none
    else none

/-- R38: the packed groups of a core that have not broken up: no member waits, and all stand at one word of their
block. -/
def standingPacks (s : State) (u : Nat) : List (List Nat) :=
  (coreUnit s u).packs.filter (fun p =>
    match p with
    | [] => false
    | c :: cs => (inPack s u c).isSome && cs.all (fun d => inPack s u d == inPack s u c))

/-- A list cut into parts of n. -/
def chunks {α : Type} (n : Nat) : Nat → List α → List (List α)
  | 0, _ => []
  | _ + 1, [] => []
  | fuel + 1, l => l.take n :: chunks n fuel (l.drop n)

/-- R38: the groups that the crews of a core that qualify form, the oldest crews first, 32 lanes at most in each. -/
def newPacks (s : State) (u : Nat) : List (List Nat) :=
  let packed := (standingPacks s u).flatten
  let qs := sortBy (fun p => p.2.startOrd) (s.crews.filter (fun p => !packed.contains p.1 && (packKey s u p.2).isSome))
  let keys := (qs.filterMap (fun p => packKey s u p.2)).eraseDups
  (keys.flatMap (fun k =>
    let mine := qs.filter (fun p => packKey s u p.2 == some k)
    let width := (mine.head?.map (fun p => p.2.width)).getD 32
    (chunks (32 / width) mine.length mine).map (fun g => g.map (·.1)))).filter (fun g => decide (2 ≤ g.length))

/-- R53, R54: a split of a crew as a candidate: its level has risen by one for every 1,024 clk that it has been ready. -/
def splitCand (s : State) (u cid : Nat) (cr : Crew) (sp : Split) : Cand :=
  { members := [(cid, sp.id)], since := (coreUnit s u).slots - sp.lastSlot
    prio := Nat.min 3 (crewPrio s cr + Nat.max sp.prioUp ((crewClk s cr - sp.readyClk) / 1024)), ord := cr.startOrd
    age := sp.age, long := decide (sp.lastSlot < (coreUnit s u).passAt) }

/-- R53, R54: a packed group as a candidate: of its members, the age of the oldest, and the longest since. -/
def packCand (s : State) (u : Nat) (g : List Nat) : Option Cand :=
  let cs := g.filterMap (fun c => (s.crews.find c).bind (fun cr => cr.sole.map (splitCand s u c cr)))
  cs.head?.map (fun c =>
    { c with members := cs.flatMap (·.members), since := maxOf (cs.map (·.since)), prio := maxOf (cs.map (·.prio))
             long := cs.any (·.long) })

/-- R53: the ready splits and packed groups of a core unit. -/
def candidatesOf (s : State) (u : Nat) : List Cand :=
  let packs := standingPacks s u ++ newPacks s u
  packs.filterMap (packCand s u) ++ s.crews.flatMap (fun p =>
    if unitOf s p.2 == u && crewRuns s p.2 && !packs.any (fun g => g.contains p.1) then
      (p.2.splits.filter Split.choosable).map (splitCand s u p.1 p.2)
    else [])

/-- R54: the oldest of some candidates. -/
def oldestCand (cs : List Cand) : Option Cand :=
  match leastBy (·.ord) cs with
  | none => none
  | some c => leastBy (·.age) (cs.filter (fun x => x.ord == c.ord))

/-- R53: the choice for one pipe. -/
def policyCand (cs : List Cand) : Option Cand :=
  let starved := cs.filter (fun c => decide (64 ≤ c.since))
  match starved with
  | _ :: _ => oldestCand starved
  | [] => oldestCand (cs.filter (fun c => c.prio == maxOf (cs.map (·.prio))))

/-- Candidates, the longest since first. -/
def bySince (cs : List Cand) : List Cand := sortBy (fun c => maxOf (cs.map (·.since)) - c.since) cs

/-- The splits resident on a core unit. -/
def splitsOn (s : State) (u : Nat) : Nat :=
  sumOf (s.crews.map (fun p => if unitOf s p.2 == u && p.2.state == .running then p.2.splits.length else 0))

/-- R36, R37: the passes of what a candidate issues: one for each summary bit of a split's mask, and one for a packed
group or a header. -/
def Cand.passes (s : State) (c : Cand) : Nat :=
  match c.members with
  | [(cid, sid)] =>
    (match (s.crews.find cid).bind (fun cr => cr.split sid) with
    | some sp => (match sp.place with
      | .word _ => sp.mask.passes
      | .header _ _ => 1)
    | none => 1)
  | _ => 1

/-- R55: whether candidates that issue in an order, `n` slots from now, can each do so within `bound` slots, and within the
31 clk that passes add where an instruction of several passes is among what they wait for. -/
def inBound (s : State) (bound : Nat) : Nat → Bool → List Cand → Bool
  | _, _, [] => true
  | n, long, c :: cs =>
    decide (c.since + n ≤ bound + (if long || c.long then 62 else 0))
      && inBound s bound (n + c.passes s) (long || decide (1 < c.passes s)) cs

/-- R53, R55: the choice for one pipe of a core with `others` other splits, while `left` passes of running instructions have
not entered: R53's, but where that would keep another candidate beyond the bound of R55 which the one that has waited
longest would keep, that one (log entry 57: DESIGN CHOICE). -/
def pickCand (s : State) (others left : Nat) (cs : List Cand) : Option Cand :=
  let bound := 64 + others
  match policyCand cs with
  | none => none
  | some c =>
    if inBound s bound (left + c.passes s) (decide (0 < left) || decide (1 < c.passes s)) (bySince (cs.erase c)) then some c
    else if inBound s bound left (decide (0 < left)) (bySince cs) then (bySince cs).head?
    else some c

/-- R53, R54: the splits of a choice take the issue slot, and issue next, in turn. -/
def chooseCand (s : State) (u : Nat) (c : Cand) : State :=
  let s := { s with issues := s.issues + 1 }
  let now := (coreUnit s u).slots
  let s := c.members.foldl (fun s m => updCrew s m.1 (fun cr => { cr.updSplit m.2 (fun sp =>
    { sp with lastSlot := now, issuedAt := s.issues, prioUp := 0, readyClk := crewClk s cr }) with issuedAt := s.issues })) s
  match c.members with
  | [] => s
  | m :: ms => { s with focus := some { crew := m.1, split := m.2, more := ms } }

/-- R36, R37, R38, R53: one issue slot of a core, pipe 0's where its count is even, pipe 1's of the same clk after it. A pipe
that an instruction's passes still enter takes the next of them; else it takes a split or packed group that the other
pipe does not run. No slot is taken while a chosen split has not issued. -/
def execIssueSelect (core : Nat) (s : State) : Host.Outcome State Fault Refusal :=
  let u := coreUnit s core
  let even := u.slots % 2 == 0
  let mine := if even then u.pipe0 else u.pipe1
  let taken := if even then (if u.pipe1.left = 0 then [] else u.pipe1.members) else u.pipe0.members
  let put (p : Pipe) (packs : List (List Nat)) : State :=
    updCore s core (fun u =>
      { u with slots := u.slots + 1, packs := packs, pipe0 := if even then p else u.pipe0
               pipe1 := if even then u.pipe1 else p })
  let packs := standingPacks s core
  if s.focus.isSome then .next s
  else if 0 < mine.left then
    .next (updCore (put { mine with left := mine.left - 1 } packs) core (fun u => { u with passAt := u.slots }))
  else
    let cs := (candidatesOf s core).filter (fun c => c.members.all (fun m => !taken.contains m))
    match pickCand s (splitsOn s core - 1) (u.pipe0.left + u.pipe1.left) cs with
    | none => .next (put {} packs)
    | some c =>
      let g := c.members.map (·.1)
      let packs := if g.length < 2 || packs.contains g then packs else packs ++ [g]
      .next (chooseCand (put { members := c.members, left := c.passes s - 1 } packs) core c)

/-- R54: a split that has spent another 1,024 clk ready without issuing rises one level. -/
def execPriorityAge (crew split : Nat) (s : State) : Host.Outcome State Fault Refusal :=
  match s.crews.find crew with
  | none => .next s
  | some cr =>
    match cr.split split with
    | none => .next s
    | some sp =>
      if sp.state == .ready && decide (sp.readyClk + 1024 * (sp.prioUp + 1) ≤ crewClk s cr)
          && decide (crewPrio s cr + sp.prioUp < 3) then
        .next (updSplit s crew split (fun sp => { sp with prioUp := sp.prioUp + 1 }))
      else .next s

-- SPGROW (R143, R144)

/-- R144: the pending requests of a core; a saved cohort's waits for its restore (R146). -/
def pendingSpgrow (s : State) (u : Nat) : List Spgrow :=
  s.spgrow.filter (fun p => p.core == u && ((s.cohorts.find p.cohort).map (·.state)) == some .running)

/-- R144: whether a cohort is blocked in SPGROW. -/
def spgrowBlocked (s : State) (u k : Nat) : Bool :=
  (pendingSpgrow s u).any (fun p => p.cohort == k)
    && (crewsOf s k).all (fun p => p.2.splits.all (fun sp => sp.mask == 0 || sp.state != .ready))

/-- R143: a request is answered. -/
def spgrowAnswer (s : State) (p : Spgrow) (v : Nat) : State :=
  updAcc { s with spgrow := s.spgrow.filter (fun q => q.acc != p.acc) } p.acc (fun a =>
    { a with ready := true, result := a.lanes.map (fun q => (q.lane, BitVec.ofNat 128 v)) })

/-- R144: one decision on a core's pending requests: one that can never fit fails; the oldest is granted where it
fits; the youngest fails where every holder is blocked. -/
def execSpgrowGrant (core : Nat) (s : State) : Host.Outcome State Fault Refusal :=
  let ps := pendingSpgrow s core
  let allocOf (p : Spgrow) : Nat := ((s.cohorts.find p.cohort).map (·.alloc)).getD 0
  match ps.find? (fun p => decide (262144 < allocOf p + p.n)) with
  | some p => .next (spgrowAnswer s p 0)
  | none =>
    match ps with
    | [] => .next s
    | p :: rest =>
      if p.n ≤ freeTile s core then
        .next (spgrowAnswer (updCohort s p.cohort (fun c => { c with alloc := c.alloc + p.n })) p (allocOf p + p.n))
      else
        match rest.getLast? with
        | some y =>
          let holders := (residents s core).filter (fun h => h.2.alloc != 0)
          if holders.all (fun h => spgrowBlocked s core h.1) then .next (spgrowAnswer s y 0) else .next s
        | none => .next s

end Sys2Proof.Machine
end

