-- ==== Sys2Proof/Machine/Stacks.lean ====
section
/-! DEFINITION. Stacks.lean: the base dies' reads, corrections, scrubbing and repair, page retirement, the live
retirement of a stack, and the fading of pinned windows (R157 to R160, R332 to R349). -/
namespace Sys2Proof.Machine

-- windows (R158 to R160)

/-- R160: a window is released, with a record. -/
def releaseWindow (s : State) (ctx h reason : Nat) : State :=
  match s.ctxs.find ctx with
  | none => s
  | some c =>
    match c.windows.find h with
    | none => s
    | some w =>
      let x := record256 [(192, s.dt), (120, w.va), (108, ctx), (40, h), (32, reason), (0, 0x81)]
      let s := dropWindow s ctx h
      ctxPost s ctx true x

/-- Every window of the package, as context and handle. -/
def windowKeys (s : State) : List (Nat × Nat) := s.ctxs.flatMap (fun p => p.2.windows.map (fun w => (p.1, w.1)))

/-- R159: whether the running tick ends an interval that has not been counted. -/
def fadeDue (s : State) : Bool := s.dt % 2 ^ 20 == 0 && decide (s.faded < s.dt)

/-- R159: a window counts one interval. -/
def Window.faded (w : Window) : Window := { w with fade := if w.touched then w.fade else w.fade - 1, touched := false }

/-- R160: a window is to be released with reason REMAP when the running DT tick ends, unless UNPIN releases it first. -/
def markRemap (s : State) (ctx h : Nat) : State :=
  { s with ctxs := s.ctxs.change ctx (fun c => { c with windows := c.windows.change h (fun w => { w with remap := true }) }) }

/-- R160: the windows whose pages were unmapped or migrated in the tick that ends are released. -/
def releaseRemaps (s : State) : State :=
  ((windowKeys s).filter (fun k => ((s.ctxs.find k.1).bind (fun c => c.windows.find k.2)).any (·.remap))).foldl (fun s k =>
    releaseWindow s k.1 k.2 2) s

/-- R159, R377: the windows count one interval, but for those whose counters QUIESCE has frozen. -/
def fadeWindows (s : State) : State :=
  { s with ctxs := s.ctxs.mapAll (fun k c =>
      if quiesced s k then c else { c with windows := c.windows.mapAll (fun _ w => w.faded) }) }

/-- R159: once at the end of each DT tick where DT[19:0] is 0, so that an access in that tick comes first. -/
def execFadeTick (s : State) : Host.Outcome State Fault Refusal :=
  if !fadeDue s then .next s
  else
    let s := fadeWindows { s with faded := s.dt }
    .next ((windowKeys s).foldl (fun s k =>
      match (s.ctxs.find k.1).bind (fun c => c.windows.find k.2) with
      | some w => if w.fade = 0 then releaseWindow s k.1 k.2 (if w.remap then 2 else 1) else s
      | none => s) s)

-- addresses below the stack

/-- R333: the physical address of a local offset of a stack under an active set. -/
def localUnder (act : List Nat) (k loc : Nat) : Option Nat :=
  let n := act.length
  let row := loc / 1024
  if n = 0 then none
  else
    match (List.range n).find? (fun i => act.getD i 8 == k) with
    | none => none
    | some slot => some ((row * n + (slot + n - fold16 row % n) % n) * 1024 + loc % 1024)

/-- R333, R343: the physical address that is mapped to a local offset of a stack now, below the live capacity. -/
def localPA (s : State) (k loc : Nat) : Option Nat :=
  let ok (x : Option Nat) : Option Nat := x.filter (fun pa => decide (pa < s.mig.capMiB * 1048576) && locate s pa == (k, loc))
  match ok (localUnder s.mig.act k loc) with
  | some pa => some pa
  | none => if s.mig.mig then ok (localUnder s.mig.old k loc) else none

/-- Changes a stack. -/
def updStack (s : State) (k : Nat) (f : Stack → Stack) : State :=
  { s with dramStacks := s.dramStacks.put k (f (SMap.getD s.dramStacks k {})) }

/-- The number that the failed-granule list has for a local granule with no physical address. -/
def unmappedBase : Nat := 2 ^ 40

/-- The stack of a granule and its place there: of a physical address / 64, or of one with no physical address. -/
def placeOf (s : State) (g : Nat) : Nat × Nat :=
  if unmappedBase ≤ g then ((g - unmappedBase) / 2 ^ 30, g % 2 ^ 30) else ((locate s (g * 64)).1, (locate s (g * 64)).2 / 64)

/-- The number that names a granule of a stack for its address map. -/
def granuleName (s : State) (g : Nat) : Nat := (placeOf s g).1 * 2 ^ 30 + (placeOf s g).2

/-- The DRAM row of a granule. -/
def rowOf (s : State) (g : Nat) : Nat := Config.dramRow (granuleName s g)

/-- The physical address of a local granule of a stack, or what stands for it where it has none. -/
def granuleAt (s : State) (k loc : Nat) : Nat :=
  match localPA s k (loc * 64) with
  | some pa => pa / 64
  | none => unmappedBase + k * 2 ^ 30 + loc

-- retiring pages (R338, R339)

/-- R338: the retired pages counted against a stack. -/
def retiredPages (s : State) (k : Nat) : Nat := (s.badPages.filter (fun p => p.2.stack == k && !p.2.release)).length

/-- R338: a record of a stack event. -/
def stackRecord (s : State) (ty pa k : Nat) : State :=
  barPost .evt s (record256 [(192, s.dt), (136, pa), (104, k), (72, retiredPages s k), (52, s.mig.phase), (0, ty)])

/-- R338, R346: a retired page is posted, unless it stands retired; one whose release is not acknowledged is retired anew. -/
def pageRetired (s : State) (page k : Nat) : State :=
  match s.badPages.find page with
  | some b =>
    let s' := { s with badPages := s.badPages.put page { b with stack := k, release := false } }
    if b.release then stackRecord s' 0x51 (page * 8192) k else s'
  | none => stackRecord { s with badPages := s.badPages.put page { stack := k, acked := false } } 0x51 (page * 8192) k

/-- R346: a retired page that covers no bad location any more is posted for release. -/
def pageReleased (s : State) (page : Nat) : State :=
  match s.badPages.find page with
  | some b =>
    if b.release then s
    else stackRecord { s with badPages := s.badPages.put page { b with release := true } } 0x54 (page * 8192) b.stack
  | none => s

/-- R339, R347: a stack is proposed for retirement; while a migration runs the record waits for MIG_DONE. -/
def stackProposed (s : State) (k : Nat) : State :=
  match (SMap.getD s.dramStacks k {}).state with
  | .active =>
    if s.mig.mig then updStack s k (fun x => { x with propose := true })
    else stackRecord (updStack s k (fun x => { x with state := .proposed })) 0x52 0 k
  | _ => s

/-- R339: whether a stack has so many retired pages that it is proposed. -/
def overRetired (s : State) (k : Nat) : Bool := decide (83886 < retiredPages s k)

/-- R338, R339, R346: a stack event of a TYPE is performed; a retirement may make its stack PROPOSED. -/
def stackEventNow (s : State) (x : Nat × Nat × Nat) : State :=
  if x.1 = 0x51 then
    let s := pageRetired s x.2.1 x.2.2
    if overRetired s x.2.2 then { s with mig := { s.mig with todo := s.mig.todo ++ [(0x52, 0, x.2.2)] } } else s
  else if x.1 = 0x54 then pageReleased s x.2.1
  else stackProposed s x.2.2

/-- R348, R396: whether a stack event must wait: for its region to reopen, or for the device event ring to take its
record. -/
def eventWaits (s : State) (x : Nat × Nat × Nat) : Bool := (x.1 == 0x51 && isClosed s (x.2.1 * 8192)) || !evtTakes s

/-- R348, R396: the stack events that are due are performed, oldest first, as far as they may be. -/
def drainEventsDue : Nat → State → State
  | 0, s => s
  | n + 1, s =>
    match s.mig.todo with
    | [] => s
    | x :: xs =>
      if eventWaits s x then s
      else drainEventsDue n (stackEventNow { s with mig := { s.mig with todo := xs } } x)

/-- R348, R396: a stack event, after those that wait. -/
def stackEvent (s : State) (ty page k : Nat) : State :=
  drainEventsDue (s.mig.todo.length + 2) { s with mig := { s.mig with todo := s.mig.todo ++ [(ty, page, k)] } }

/-- R339: a stack is proposed for retirement. -/
def proposeStack (s : State) (k : Nat) : State := stackEvent s 0x52 0 k

/-- R339: a stack against which more than 1 % of its pages are counted is proposed. -/
def proposeCounted (s : State) (k : Nat) : State := if overRetired s k then proposeStack s k else s

/-- R338, R339: the page that holds a granule is retired, and counted against its stack. -/
def retirePage (s : State) (g : Nat) : State :=
  let (k, loc) := placeOf s g
  let s := updStack s k (fun x => { x with bad := if x.bad.contains (loc * 64) then x.bad else loc * 64 :: x.bad })
  if unmappedBase ≤ g then s else stackEvent s 0x51 (g / 128) k

-- error correction (R334, R337)

/-- R337: a row fails, and awaits repair. -/
def failRow (s : State) (g : Nat) : State :=
  let n := granuleName s g
  updStack s (placeOf s g).1 (fun x =>
    { x with sick := if x.sick.any (fun y => Config.dramRow y == Config.dramRow n) then x.sick else x.sick ++ [n] })

/-- R334, R337: a corrected read counts against its row; the third within 2^30 ticks fails it. -/
def noteCorrected (s : State) (g : Nat) : State :=
  let k := (placeOf s g).1
  let r := rowOf s g
  let ts := s.dt :: (SMap.getD (SMap.getD s.dramStacks k {}).corrDT r []).filter (fun t => decide (s.dt < t + 2 ^ 30))
  let s := updStack s k (fun x => { x with corrDT := x.corrDT.put r ts })
  if 3 ≤ ts.length then failRow s g else s

/-- R334: the entries of a failed-granule list. -/
def failedLimit : Nat := 65536

/-- R334, R338, R339: a granule enters its stack's list, or, where that is full, its page is retired and the stack
proposed. -/
def listFailed (s : State) (g : Nat) : State :=
  let k := (placeOf s g).1
  let st := SMap.getD s.dramStacks k {}
  if st.failed.contains g || st.unlisted.contains g then s
  else if st.failed.length < failedLimit then
    let s := updStack s k (fun x => { x with failed := x.failed ++ [g] })
    if st.failed.length + 1 = failedLimit then proposeStack s k else s
  else retirePage (proposeStack (updStack s k (fun x => { x with unlisted := g :: x.unlisted })) k) g

/-- R334, R337: an uncorrectable read: the granule is listed, and its row fails. -/
def noteUncorrectable (s : State) (g : Nat) : State := failRow (listFailed s g) g

/-- R334: whether a granule of a stack is on its failed-granule list. -/
def granuleListed (s : State) (g : Nat) : Bool :=
  let st := SMap.getD s.dramStacks (placeOf s g).1 {}
  st.failed.contains g || st.unlisted.contains g

/-- R332, R334: what a read completes as that arrived before a write of its whole granule, and the state after it: it lists
nothing, but counts against its row. -/
def readBefore (s : State) (g : Nat) (listed : Bool) (ecc : EccOutcome) : Bool × State :=
  if listed then (true, s)
  else
    match ecc with
    | .clean => (false, s)
    | .corrected => (false, noteCorrected s g)
    | .uncorrectable => (true, failRow s g)

/-- R334: what a read of a granule completes as, and the state after it. -/
def readGranule (s : State) (g : Nat) (ecc : EccOutcome) : Bool × State :=
  if granuleListed s g then (true, s)
  else
    match ecc with
    | .clean => (false, s)
    | .corrected => (false, noteCorrected s g)
    | .uncorrectable => (true, noteUncorrectable s g)

-- requests (R332)

/-- R352: whether the pseudo-channel of a granule is out of service. -/
def channelHeld (s : State) (g : Nat) : Bool :=
  ((SMap.getD s.dramStacks (placeOf s g).1 {}).train.find (Config.pchOf (granuleName s g) % 128)).any (fun t => t.hold)

/-- R344, R352: whether a stack may perform a request now. -/
def granuleOpen (s : State) (g : Nat) : Bool :=
  !isClosed s (g * 64) && !channelHeld s g

/-- R332: a base die performs a request: the oldest that it may. -/
def execStackRequest (stack : Nat) (s : State) : Host.Outcome State Fault Refusal :=
  let st := SMap.getD s.dramStacks stack {}
  match st.reqs.find? (fun r => !r.served && granuleOpen s r.granule) with
  | none => .next s
  | some r =>
    .next (updStack s stack (fun x =>
      { x with reqs := x.reqs.map (fun q => if q.tag = r.tag then { q with served := true } else q) }))

/-- R157: a line whose reads have all completed, none of them uncorrectable, stands in its cistern. -/
def fillCistern (s : State) (r : StackReq) (bad : Bool) : State :=
  let line := r.granule / 2
  let more := s.dramStacks.any (fun p => p.2.reqs.any (fun q => q.acc == r.acc && !q.write && q.granule / 2 == line))
  if bad || more || failedGranule s (line * 128) || failedGranule s (line * 128 + 64) then s else cisternTouch s line

/-- A read's completion reaches the line request that sent it, or the units that wait for the line. -/
def completeRead (s : State) (r : StackReq) (bad : Bool) : State :=
  match r.acc with
  | none => wakeAll (fillCistern s r bad)
  | some (acc, i) =>
    let more := s.dramStacks.any (fun p => p.2.reqs.any (fun q => q.acc == some (acc, i)))
    let gather := (s.accs.find acc).any (fun a => match a.kind with | .gather _ => true | _ => false)
    let s := if gather then s else fillCistern s r bad
    updLine s acc i (fun l =>
      { l with got := some ((l.got.getD []) ++ (if bad then [r.granule] else []))
               st := match l.st with
                 | .sent pa => if more then .sent pa else .ready pa
                 | x => x })

/-- R332, R334, R335: a completion, which comes after those of earlier requests to the same granule, returns to the unit
that sent its request; its tag is free for a write that waits. What may post a record waits until the record is taken or
held (R396). -/
def execStackCompletion (stack tag : Nat) (ecc : EccOutcome) (s : State) : Host.Outcome State Fault Refusal :=
  let st := SMap.getD s.dramStacks stack {}
  match st.reqs.find? (fun r => r.tag == tag && r.served) with
  | none => .next s
  | some r =>
    if (st.reqs.takeWhile (fun q => q.tag != tag)).any (fun q => q.granule == r.granule) then .next s
    else if ecc != .clean && !evtTakes s then .next s
    else
      let (bad, s) := if r.write then (false, s) else
        match r.late with
        | some listed => readBefore s r.granule listed ecc
        | none => readGranule s r.granule ecc
      let s := updStack s stack (fun x => { x with reqs := x.reqs.filter (fun q => q.tag != tag) })
      let s := sendHeld st.heldW.length s stack
      .next (if r.write then s else completeRead s r bad)

-- scrubbing and repair (R336, R337)

/-- R336: a base die scrubs its next granule, of its 64 GiB; an uncorrectable one traps no one. -/
def execScrub (stack : Nat) (ecc : EccOutcome) (s : State) : Host.Outcome State Fault Refusal :=
  let k := (SMap.getD s.dramStacks stack {}).scrubAt
  let g := granuleAt s stack k
  if isClosed s (g * 64) || channelHeld s g || (ecc != .clean && !evtTakes s) then .next s
  else .next (updStack (readGranule s g ecc).2 stack (fun x => { x with scrubAt := (k + 1) % 2 ^ 30 }))

/-- R337, R338: the service core repairs a failed row with the first tier that has room, or the page is retired. -/
def execRowRepair (stack : Nat) (s : State) : Host.Outcome State Fault Refusal :=
  let st := SMap.getD s.dramStacks stack {}
  match st.sick with
  | [] => .next s
  | n :: gs =>
    let g := granuleAt s stack (n % 2 ^ 30)
    if isClosed s (g * 64) || !evtTakes s then .next s
    else
      let r := Config.dramRow n
      let bank := Config.bankOf r
      let pch := Config.pchOf n % 128
      let done (s : State) (f : Stack → Stack) : State :=
        updStack s stack (fun x => f { x with sick := gs, corrDT := x.corrDT.del r })
      if SMap.getD st.spare bank 0 < 32 then
        .next (done s (fun x => { x with spare := x.spare.put bank (SMap.getD x.spare bank 0 + 1) }))
      else if SMap.getD st.remap pch 0 < 1024 then
        .next (done s (fun x => { x with remap := x.remap.put pch (SMap.getD x.remap pch 0 + 1) }))
      else if st.spare2k < 8192 then .next (done s (fun x => { x with spare2k := x.spare2k + 1 }))
      else .next (retirePage (done s id) g)

-- live retirement (R340 to R349, R190, R216)

/-- R338, R340, R345: the accesses with a request to a physical address that has come to lie past the live capacity, or on a
page whose retirement is acknowledged, end with CAPACITY. -/
def failBad (s : State) : State :=
  let bad (a : Access) : Option LineReq := a.lines.find? (fun l =>
    !l.isOver && l.pa.any (fun pa => (remoteOf pa).isNone && badPhys s pa)
      && (a.lanes.isEmpty || a.lanes.any (fun q => q.va / 128 == l.vline && !q.reached)))
  (s.accs.filterMap (fun p => (bad p.2).map (fun l => (p.1, p.2.vaOn l)))).foldl (fun s p =>
    violate s p.1 (reportVA 0x14 p.2)) s

/-- R342: the outcome of a retirement command. -/
inductive Retire
  | accepted (s : State)
  | refused
  | needFree

/-- R342, R345, R347: the host commands the retirement of an active stack; while a scope of the whole device is stopped the
migration starts PAUSED. -/
def retireStackCmd (s : State) (k : Nat) (confirm : Bool) : Retire :=
  let n := s.mig.act.length
  if s.mig.mig || n ≤ 6 then .refused
  else
    let cap := if n - 1 = 6 then 0x60000 else s.mig.capMiB
    if cap < s.mig.capMiB && !confirm then .needFree
    else
      .accepted (failBad (updStack
        { s with mig := { s.mig with
            mig := true, phase := 0, stack := some k, nreg := cap, capMiB := cap, old := s.mig.act
            act := s.mig.act.filter (· != k), paused := s.scopes.any (fun p => p.2.device) } } k
        (fun x => { x with state := .retiring })))

/-- R343, R344: whether the next region of a migration may close. -/
def mayClose (s : State) : Bool :=
  s.mig.mig && !s.mig.paused && s.mig.closed.isNone && decide (s.mig.phase < s.mig.nreg)

/-- R343, R344, R348: the next region of a migration closes as the next DT tick begins, so that every request that arrives
in that tick stalls. -/
def execRegionClose (s : State) : Host.Outcome State Fault Refusal :=
  .next (if mayClose s then { s with mig := { s.mig with closing := true } } else s)

/-- R344: a region that was to close is closed. -/
def closeRegion (s : State) : State :=
  if s.mig.closing then
    { s with mig := { s.mig with
        closing := false
        closed := if mayClose s then some (s.mig.nreg - 1 - s.mig.phase, s.dt) else s.mig.closed } }
  else s

/-- Whether a line lies in a region. -/
def inRegion (r line : Nat) : Bool := line / 8192 == r

/-- R190: whether a region may move: leases have expired and pending stores have passed their Tw. -/
def regionQuiet (s : State) (r : Nat) : Bool :=
  s.homes.all (fun p => !inRegion r p.1 || (decide (horizon s p.1 ≤ homeDT s p.1) && !pendingAt s p.1))

/-- R190, R193, R216: the frames of a region leave their slices: lines are written back, and slots, those of the victim
regions among them, move to the new home's slice. -/
def moveFrames (s : State) (r : Nat) : State :=
  let gone (f : SyncFrame) : Bool := (frameLine s f).any (inRegion r)
  fetchVictims { s with sync := s.sync.mapAll (fun _ x => { x with frames := x.frames.filter (fun f => !gone f) }) } (inRegion r)

/-- R332, R345: reads of a region that wait at its old stack are sent anew by their requesters. -/
def recallReads (s : State) (r : Nat) : State :=
  let mine (g : Nat) : Bool := inRegion r (g / 2)
  let accs := s.dramStacks.flatMap (fun p => (p.2.reqs.filter (fun q => mine q.granule)).filterMap (·.acc))
  let s := { s with dramStacks := s.dramStacks.mapAll (fun _ x =>
    { x with reqs := x.reqs.filter (fun q => !mine q.granule), heldW := x.heldW.filter (fun g => !mine g) }) }
  accs.foldl (fun s a => updLine s a.1 a.2 (fun l =>
    match l.st with
    | .sent pa => { l with st := .ready pa, got := none }
    | _ => l)) s

/-- R344: failed granules of a region move onto the destination's list, with those that the move's reads find; what stood on
the list for the region's new places has been written over. -/
def moveFailed (s : State) (r : Nat) : State :=
  let mine (g : Nat) : Bool := inRegion r (g / 2)
  let gs := s.dramStacks.flatMap (fun p => (p.2.failed ++ p.2.unlisted).filter mine) ++ s.mig.found.filter mine
  let gone (g : Nat) : Bool := mine g
    || (decide (unmappedBase ≤ g) && (localPA s (placeOf s g).1 ((placeOf s g).2 * 64)).any (fun pa => inRegion r (lineOf pa)))
  let s := { s with
    dramStacks := s.dramStacks.mapAll (fun _ x =>
      { x with failed := x.failed.filter (fun g => !gone g), unlisted := x.unlisted.filter (fun g => !gone g) })
    mig := { s.mig with found := [] } }
  gs.foldl listFailed s

/-- R346: the pages that cover a bad location of an active stack now. -/
def badNow (s : State) : List (Nat × Nat) :=
  s.mig.act.flatMap (fun k => (SMap.getD s.dramStacks k {}).bad.filterMap (fun loc => (localPA s k loc).map (fun pa => (pa / 8192, k))))

/-- R346: retired pages are recounted under the new map. -/
def recountPages (s : State) : State :=
  let now := badNow s
  let s := now.foldl (fun s p => stackEvent s 0x51 p.1 p.2) s
  (s.badPages.filter (fun b => !b.2.release && !now.any (fun p => p.1 == b.1))).foldl (fun s b =>
    stackEvent s 0x54 b.1 b.2.stack) s

/-- R160: windows that the remaining stacks cannot hold are released, the later ones first (log entry 33). -/
def refitWindows (s : State) : State :=
  ((windowKeys s).foldl (fun (x : Nat × State) k =>
    match (x.2.ctxs.find k.1).bind (fun c => c.windows.find k.2) with
    | none => x
    | some w =>
      let n := x.1 + pinShare s w.len
      if n ≤ pinCapacity then (n, x.2) else (x.1, markRemap x.2 k.1 k.2)) (0, s)).2

/-- R339, R346, R347: the last region has moved. -/
def migrationDone (s : State) (k : Nat) : State :=
  let s := { s with mig := { s.mig with mig := false, epoch := s.mig.epoch + 1, phase := 0, stack := none, old := s.mig.act } }
  let s := updStack s k (fun x => { x with state := .retired, cistern := [] })
  let s := refitWindows (recountPages (stackRecord s 0x53 0 k))
  let s := (s.dramStacks.filter (fun p => p.2.propose)).foldl (fun s p => proposeStack (updStack s p.1 (fun x => { x with propose := false })) p.1) s
  s.mig.act.foldl proposeCounted s

/-- R352: whether a pseudo-channel that a region's granules lie in, under its old map or its new one, is out of service. -/
def regionHeld (s : State) (r : Nat) : Bool :=
  s.dramStacks.any (fun p => p.2.train.any (fun t => t.2.hold))
    && (List.range 16384).any (fun i =>
      let g := r * 16384 + i
      channelHeld s g || channelHeld { s with mig := { s.mig with phase := s.mig.phase + 1 } } g)

/-- R190, R344, R346: the closed region has moved, and reopens under the new map; what stalled on it goes on. -/
def execRegionReopen (s : State) : Host.Outcome State Fault Refusal :=
  match s.mig.closed, s.mig.stack with
  | some (r, _), some k =>
    if !regionQuiet s r || regionHeld s r || !evtTakes s then .next s
    else
      let s := (s.homes.keys.filter (inRegion r)).foldl settle s
      let s := { s with l2 := s.l2.mapAll (fun _ l => l.filter (fun n => !inRegion r n)) }
      let s := { s with dramStacks := s.dramStacks.mapAll (fun _ x => { x with cistern := x.cistern.filter (fun n => !inRegion r n) }) }
      let s := { s with homes := s.homes.mapAll (fun n h => if inRegion r n then { h with h := 0 } else h) }
      let s := { s with mig := { s.mig with phase := s.mig.phase + 1, closed := none } }
      let s := moveFrames (moveFailed (recallReads s r) r) r
      let s := if s.mig.phase = s.mig.nreg then migrationDone s k else s
      .next (wakeAll (drainEventsDue (2 * s.mig.todo.length) (postHeld (postStalled s))))
  | _, _ => .next s

end Sys2Proof.Machine
end

