-- ==== Sys2Proof/Machine/Trans.lean ====
section
/-! DEFINITION. Trans.lean: the correctly rounded functions of R121, R240 and R241. Quotients and square roots are
exact to the last bit with a sticky remainder. Logarithms and exponentials are enclosed between two integers at a
scale 2^K; the bits on which both ends agree are the exact function value's own, and the function value is never
representable where one is taken this way, so that one rounding of those bits with a sticky remainder is the
correct rounding. -/
namespace Sys2Proof.Machine

/-- The largest s with s·s ≤ n, from the bit of weight 2^k down. -/
def isqrtFrom (n : Nat) : Nat → Nat → Nat
  | 0, s => s
  | k + 1, s => if (s + 2 ^ k) * (s + 2 ^ k) ≤ n then isqrtFrom n k (s + 2 ^ k) else isqrtFrom n k s

/-- The integer square root. -/
def isqrt (n : Nat) : Nat := if n = 0 then 0 else isqrtFrom n (n.log2 / 2 + 1) 0

/-- An enclosure [lo, hi] of a non-negative real at scale 2^K. -/
structure Enc where
  lo : Nat
  hi : Nat
deriving DecidableEq, Repr

/-- Ceiling division. -/
def cdiv (a b : Nat) : Nat := (a + b - 1) / b

/-- The sum x + x^3/3 + x^5/5 + … of `n` terms from term index j, with x^2 enclosed by `sq` and the running power
by `pw`; each term is rounded outward. -/
def atanhSum (K : Nat) (sq : Enc) : Nat → Nat → Enc → Enc → Enc
  | 0, _, pw, acc => { lo := acc.lo, hi := acc.hi + 2 * pw.hi + 1 }
  | n + 1, j, pw, acc =>
    atanhSum K sq n (j + 2)
      { lo := pw.lo * sq.lo / 2 ^ K, hi := cdiv (pw.hi * sq.hi) (2 ^ K) }
      { lo := acc.lo + pw.lo / j, hi := acc.hi + cdiv pw.hi j }

/-- 2·atanh(a/b) for 0 ≤ a/b ≤ 1/3, at scale 2^K. -/
def atanh2 (K a b : Nat) : Enc :=
  let x : Enc := { lo := a * 2 ^ K / b, hi := cdiv (a * 2 ^ K) b }
  let sq : Enc := { lo := x.lo * x.lo / 2 ^ K, hi := cdiv (x.hi * x.hi) (2 ^ K) }
  let s := atanhSum K sq (K / 3 + 2) 1 x { lo := 0, hi := 0 }
  { lo := 2 * s.lo, hi := 2 * s.hi }

/-- ln 2 at scale 2^K. -/
def ln2 (K : Nat) : Enc := atanh2 K 1 3

/-- The sum of t^i/i! for `n` terms after the running term `tm` of index i. -/
def expSum (K : Nat) (t : Enc) : Nat → Nat → Enc → Enc → Enc
  | 0, _, tm, acc => { lo := acc.lo, hi := acc.hi + 2 * tm.hi + 1 }
  | n + 1, i, tm, acc =>
    expSum K t n (i + 1)
      { lo := tm.lo * t.lo / (2 ^ K * i), hi := cdiv (tm.hi * t.hi) (2 ^ K * i) }
      { lo := acc.lo + tm.lo, hi := acc.hi + tm.hi }

/-- e^t for 0 ≤ t < 1 at scale 2^K. -/
def expEnc (K : Nat) (t : Enc) : Enc :=
  expSum K t (K / 4 + 8) 1 { lo := 2 ^ K, hi := 2 ^ K } { lo := 0, hi := 0 }

/-- m·2^e as an enclosure at scale 2^K. -/
def encOf (K m : Nat) (e : Int) : Enc :=
  if 0 ≤ e + (K : Int) then { lo := m <<< (e + K).toNat, hi := m <<< (e + K).toNat }
  else { lo := m >>> (-(e + (K : Int))).toNat, hi := (m >>> (-(e + (K : Int))).toNat) + 1 }

/-- e^(m·2^e), as an enclosure of e^r with 0 ≤ r < 1 at scale 2^K and the power k of two that multiplies it; for
a negative argument the power is negative. The magnitude of the argument is below 2^12. -/
def expScaled (K : Nat) (neg : Bool) (m : Nat) (e : Int) : Enc × Int :=
  let x := encOf (K + 16) m e
  let l := ln2 (K + 16)
  -- k with k·ln2 at or just below the argument
  let k : Nat := x.lo / l.hi
  if neg then
    -- -x = -(k+1)·ln2 + ((k+1)·ln2 - x)
    let r : Enc := { lo := ((k + 1) * l.lo - x.hi) >>> 16, hi := (((k + 1) * l.hi - x.lo) >>> 16) + 1 }
    (expEnc K r, -((k : Int) + 1))
  else
    let r : Enc := { lo := (x.lo - k * l.hi) >>> 16, hi := ((x.hi - k * l.lo) >>> 16) + 1 }
    (expEnc K r, (k : Int))

/-- ln(m) for m/2^s in [1, 2), at scale 2^K. -/
def lnEnc (K m s : Nat) : Enc := atanh2 K (m - 2 ^ s) (m + 2 ^ s)

/-- Rounds a value enclosed at scale 2^K times 2^k: the top bits on which both ends agree, with a sticky
remainder. -/
def Fmt.roundEnc (f : Fmt) (r : Rounding) (neg : Bool) (K : Nat) (v : Enc) (k : Int) : Nat × Flags :=
  -- the ends agree above the lowest 40 bits of the scale, but for a chance of about 2^-100
  f.roundMag r neg (v.lo >>> 40) (k + 40 - (K : Int)) true

/-- The working scale. -/
def workK : Nat := 224

/-- 1/(m·2^e). -/
def Fmt.rcpMag (f : Fmt) (r : Rounding) (neg : Bool) (m : Nat) (e : Int) : Nat × Flags :=
  let k := m.log2 + f.fb + 4
  f.roundMag r neg (2 ^ k / m) (-(k : Int) - e) (decide (2 ^ k % m ≠ 0))

/-- √(m·2^e). -/
def Fmt.sqrtMag (f : Fmt) (r : Rounding) (m : Nat) (e : Int) : Nat × Flags :=
  let odd := e % 2 = 1
  let m' := if odd then 2 * m else m
  let e' := if odd then e - 1 else e
  let k := f.fb + 4
  let n := m' * 2 ^ (2 * k)
  let s := isqrt n
  f.roundMag r false s (e' / 2 - (k : Int)) (decide (s * s ≠ n))

/-- 1/√(m·2^e). -/
def Fmt.rsqMag (f : Fmt) (r : Rounding) (m : Nat) (e : Int) : Nat × Flags :=
  let odd := e % 2 = 1
  let m' := if odd then 2 * m else m
  let e' := if odd then e - 1 else e
  let k := m'.log2 + f.fb + 4
  let s := isqrt (2 ^ (2 * k) / m')
  f.roundMag r false s (-(k : Int) - e' / 2) (decide (s * s * m' ≠ 2 ^ (2 * k)))

/-- log2(m·2^e), m > 0. -/
def Fmt.log2Mag (f : Fmt) (r : Rounding) (m : Nat) (e : Int) : Nat × Flags :=
  let s := m.log2
  let E : Int := e + s
  if m = 2 ^ s then f.roundInt r false E 0
  else
    let K := workK
    let n := lnEnc K m s
    let l := ln2 K
    -- the fraction log2(m/2^s), strictly between 0 and 1
    let fr : Enc := { lo := n.lo * 2 ^ K / l.hi, hi := cdiv (n.hi * 2 ^ K) l.lo }
    if 0 ≤ E then f.roundEnc r false K { lo := E.toNat * 2 ^ K + fr.lo, hi := E.toNat * 2 ^ K + fr.hi } 0
    else f.roundEnc r true K { lo := (-E).toNat * 2 ^ K - fr.hi, hi := (-E).toNat * 2 ^ K - fr.lo } 0

/-- 2^(±m·2^e), m > 0. -/
def Fmt.exp2Mag (f : Fmt) (r : Rounding) (neg : Bool) (m : Nat) (e : Int) : Nat × Flags :=
  if magLt (2 ^ 12) 0 m e then
    -- beyond any format's range: far above the largest or below the least value
    if neg then f.roundMag r false 1 (-4096) true else f.roundMag r false 1 4096 true
  else if magLt m e 1 (-64) then
    -- next to 1, on its side
    if neg then f.roundMag r false (2 ^ 64 - 1) (-64) true else f.roundMag r false (2 ^ 64) (-64) true
  else
    let sh := (-e).toNat
    let i : Nat := if e < 0 then m >>> sh else m <<< e.toNat
    let fr : Nat := if e < 0 then m % 2 ^ sh else 0
    if fr = 0 then f.roundMag r false 1 (if neg then -(i : Int) else (i : Int)) false
    else
      let K := workK
      -- the fraction above the integer below the argument
      let g : Nat := if neg then 2 ^ sh - fr else fr
      let ip : Int := if neg then -(i : Int) - 1 else (i : Int)
      let l := ln2 K
      let t : Enc := { lo := l.lo * g / 2 ^ sh, hi := cdiv (l.hi * g) (2 ^ sh) }
      f.roundEnc r false K (expEnc K t) ip

/-- e^(±m·2^e), m > 0 (R240). -/
def Fmt.expMag (f : Fmt) (r : Rounding) (neg : Bool) (m : Nat) (e : Int) : Nat × Flags :=
  if magLt (2 ^ 11) 0 m e then
    if neg then f.roundMag r false 1 (-4096) true else f.roundMag r false 1 4096 true
  else if magLt m e 1 (-64) then
    if neg then f.roundMag r false (2 ^ 64 - 1) (-64) true else f.roundMag r false (2 ^ 64) (-64) true
  else
    let (v, k) := expScaled workK neg m e
    f.roundEnc r false workK v k

/-- tanh(±m·2^e), m > 0. -/
def Fmt.tanhMag (f : Fmt) (r : Rounding) (neg : Bool) (m : Nat) (e : Int) : Nat × Flags :=
  if magLt m e 1 (-40) then
    -- just below the argument
    f.roundMag r neg (m * 2 ^ 64 - 1) (e - 64) true
  else if magLt (2 ^ 6) 0 m e then
    -- just below 1
    f.roundMag r neg (2 ^ 64 - 1) (-64) true
  else
    let K := workK
    let (v, k) := expScaled K false m (e + 1)
    -- 1 − 2/(E + 1), E = v·2^k
    let s : Enc := { lo := v.lo <<< k.toNat, hi := v.hi <<< k.toNat }
    let one := 2 ^ K
    let t : Enc := { lo := one - cdiv (2 * one * one) (s.lo + one), hi := one - 2 * one * one / (s.hi + one) }
    f.roundEnc r neg K t 0

/-- 1/(1 + e^−x) for x = ±m·2^e, m > 0. -/
def Fmt.sigMag (f : Fmt) (r : Rounding) (neg : Bool) (m : Nat) (e : Int) : Nat × Flags :=
  if magLt m e 1 (-64) then
    if neg then f.roundMag r false (2 ^ 64 - 1) (-65) true else f.roundMag r false (2 ^ 64) (-65) true
  else if magLt (2 ^ 10) 0 m e then
    if neg then f.roundMag r false 1 (-4096) true else f.roundMag r false (2 ^ 64 - 1) (-64) true
  else
    let K := workK
    let (v, k) := expScaled K true m e
    -- q = e^−|x| = v·2^k with k < 0; the value is q/(1 + q), or 1/(1 + q) for a positive argument
    let one := 2 ^ K
    let q : Enc := { lo := v.lo >>> (-k).toNat, hi := (v.hi >>> (-k).toNat) + 1 }
    if neg then
      f.roundEnc r false K { lo := v.lo * one / (one + q.hi), hi := cdiv (v.hi * one) (one + q.lo) } k
    else
      f.roundEnc r false K { lo := one * one / (one + q.hi), hi := cdiv (one * one) (one + q.lo) } 0

/-- The functions of R474. -/
inductive Fn | rcp | rsq | sqrt | log2 | exp2 | tanh | sig
deriving DecidableEq, Repr

/-- R121: a function of a value, with its special cases. -/
def Fmt.apply (f : Fmt) (fn : Fn) (r : Rounding) (v : FVal) : Nat × Flags :=
  match v with
  | .nan s => (f.canon, Flags.when s Flags.nv)
  | .inf neg =>
    match fn with
    | .rcp => (f.signBit neg, 0)
    | .rsq => if neg then (f.canon, Flags.nv) else (0, 0)
    | .sqrt => if neg then (f.canon, Flags.nv) else f.writeInf r false
    | .log2 => if neg then (f.canon, Flags.nv) else f.writeInf r false
    | .exp2 => if neg then (0, 0) else f.writeInf r false
    | .tanh => f.roundMag r neg 1 0 false
    | .sig => if neg then (0, 0) else f.roundMag r false 1 0 false
  | .num neg m e =>
    if m = 0 then
      match fn with
      | .rcp => ((f.writeInf r neg).1, Flags.dz)
      | .rsq => ((f.writeInf r neg).1, Flags.dz)
      | .sqrt => (f.signBit neg, 0)
      | .log2 => ((f.writeInf r true).1, Flags.dz)
      | .exp2 => f.roundMag r false 1 0 false
      | .tanh => (f.signBit neg, 0)
      | .sig => f.roundMag r false 1 (-1) false
    else
      match fn with
      | .rcp => f.rcpMag r neg m e
      | .rsq => if neg then (f.canon, Flags.nv) else f.rsqMag r m e
      | .sqrt => if neg then (f.canon, Flags.nv) else f.sqrtMag r m e
      | .log2 => if neg then (f.canon, Flags.nv) else f.log2Mag r m e
      | .exp2 => f.exp2Mag r neg m e
      | .tanh => f.tanhMag r neg m e
      | .sig => f.sigMag r neg m e

/-- R241: round_rne(ln(m·2^e), f32), m·2^e > 0, as an encoding. -/
def lnF32 (m : Nat) (e : Int) : Nat :=
  let f := fmtOf .f32
  let s := m.log2
  let E : Int := e + s
  if m = 2 ^ s ∧ E = 0 then 0
  else
    let K := workK
    let n := if m = 2 ^ s then { lo := 0, hi := 0 } else lnEnc K m s
    let l := ln2 K
    if 0 ≤ E then
      (f.roundEnc {} false K { lo := E.toNat * l.lo + n.lo, hi := E.toNat * l.hi + n.hi } 0).1
    else
      (f.roundEnc {} true K { lo := (-E).toNat * l.lo - n.hi, hi := (-E).toNat * l.hi - n.lo } 0).1

end Sys2Proof.Machine
end

