-- ==== Sys2Proof/Machine/MatrixData.lean ====
section
/-! DEFINITION. MatrixData.lean: layout records, element formats, chunk sums, masks, drained elements and row
statistics (R109 to R113, R126, R127, R224 to R231, R239 to R241). -/
namespace Sys2Proof.Machine

-- layout records (R224, R225, R227)

/-- A field of a layout record. -/
def layField (r : BitVec 512) (hi lo : Nat) : Nat := (r.extractLsb' lo (hi - lo + 1)).toNat
/-- R224. -/
def layAddr (r : BitVec 512) : Nat := layField r 71 0
/-- R224. -/
def layFmt (r : BitVec 512) : Nat := layField r 75 72
/-- R224: SPACE = 1, the cohort's tile store. -/
def layTile (r : BitVec 512) : Bool := r.getLsbD 76
/-- R224. -/
def laySwz (r : BitVec 512) : Nat := layField r 79 77
/-- R224. -/
def layRstride (r : BitVec 512) : Nat := layField r 111 80
/-- R224. -/
def layRows (r : BitVec 512) : Nat := layField r 159 128
/-- R224. -/
def layInner (r : BitVec 512) : Nat := layField r 191 160
/-- R224. -/
def layScale (r : BitVec 512) : Nat := layField r 263 192
/-- R224. -/
def layBdir (r : BitVec 512) : Bool := r.getLsbD 264
/-- R224. -/
def laySstride (r : BitVec 512) : Nat := layField r 303 272
/-- R224. -/
def layMeta (r : BitVec 512) : Nat := layField r 375 304
/-- R224. -/
def laySpn (r : BitVec 512) : Nat := layField r 377 376
/-- R224. -/
def layMstride (r : BitVec 512) : Nat := layField r 415 384

/-- R225: whether a format is a block format. -/
def isBlock (fmt : Nat) : Bool := decide (8 ≤ fmt) && decide (fmt ≤ 10)

/-- R225: the width class of a format, in bits. -/
def fmtClass (fmt : Nat) : Nat := if fmt ≤ 1 then 16 else if fmt = 6 || fmt = 7 || fmt = 8 then 4 else 8

/-- What a layout record names. -/
inductive LayRole | operand | sparseA | drain
deriving DecidableEq, Repr

/-- R227: a malformed record, as an operand or a drain destination. -/
def layMalformed (r : BitVec 512) (role : LayRole) : Bool :=
  layField r 511 416 != 0 || layField r 383 378 != 0 || layField r 271 265 != 0 || layField r 127 112 != 0
    || decide (12 ≤ layFmt r) || laySpn r == 3
    || (isBlock (layFmt r) && (if layBdir r then layRows r % 16 != 0 else layInner r % 16 != 0))
    || (laySwz r != 0 && (layAddr r % 128 != 0 || layRstride r % 128 != 0))
    || (match role with
        | .sparseA => laySpn r == 0
        | _ => laySpn r != 0)
    || (match role with
        | .drain => isBlock (layFmt r) && layTile r && layBdir r
        | _ => layFmt r == 11)

-- elements (R109 to R112, R226)

/-- R109: the bytes of a block. -/
def blockBytes (fmt : Nat) : Nat := if fmt = 8 then 8 else if fmt = 9 then 12 else 16

/-- Where an element lies: its first byte from ADDR, before the swizzle, its lowest bit there, and its bits. -/
structure ElemSpan where
  off  : Nat
  lo   : Nat
  bits : Nat

/-- R226: where element (row, k) lies. -/
def elemSpan (r : BitVec 512) (row k : Nat) : ElemSpan :=
  let fmt := layFmt r
  if isBlock fmt then
    let start := if layBdir r then row / 16 * layRstride r + k * blockBytes fmt else row * layRstride r + k / 16 * blockBytes fmt
    let i := if layBdir r then row % 16 else k % 16
    if fmt = 8 then { off := start + i / 2, lo := i % 2 * 4, bits := 4 }
    else if fmt = 9 then { off := start + 6 * i / 8, lo := 6 * i % 8, bits := 6 }
    else { off := start + i, lo := 0, bits := 8 }
  else if fmt = 11 then { off := row * layRstride r + 4 * k, lo := 0, bits := 32 }
  else if fmt ≤ 1 then { off := row * layRstride r + 2 * k, lo := 0, bits := 16 }
  else if fmt = 6 || fmt = 7 then { off := row * layRstride r + k / 2, lo := k % 2 * 4, bits := 4 }
  else { off := row * layRstride r + k, lo := 0, bits := 8 }

/-- R136, R226: the address of a byte of the element plane. -/
def layByte (r : BitVec 512) (off : Nat) : Nat := layAddr r + swz off (laySwz r)

/-- R226: the addresses of the bytes of an element. -/
def elemBytes (r : BitVec 512) (row k : Nat) : List Nat :=
  let e := elemSpan r row k
  (List.range ((e.lo + e.bits + 7) / 8)).map (fun i => layByte r (e.off + i))

/-- R226: the address of an element's scale. -/
def scaleByte (r : BitVec 512) (row k : Nat) : Nat :=
  layScale r + (if layBdir r then row / 16 * laySstride r + k else row * laySstride r + k / 16)

/-- R109: an element format without infinities or NaNs. -/
def smallFmt (fmt : Nat) : Fmt :=
  if fmt = 8 then { eb := 2, fb := 1, bias := 1 } else if fmt = 9 then { eb := 3, fb := 2, bias := 3 } else fmtOf .e4m3

/-- R109: the value of an encoding of such a format. -/
def smallValue (f : Fmt) (x : Nat) : FVal :=
  let frac := x % 2 ^ f.fb
  let ex := x / 2 ^ f.fb % 2 ^ f.eb
  let neg := x / 2 ^ (f.fb + f.eb) % 2 == 1
  if ex = 0 then .num neg frac f.emin else .num neg (2 ^ f.fb + frac) (f.emin + (ex : Int) - 1)

/-- R110: the value of a scale byte as m·2^e; none for NaN. -/
def scaleValue (x : Nat) : Option (Nat × Int) :=
  if x = 0xFF then none
  else if x / 8 = 0 then some (x % 8, -17)
  else some (8 + x % 8, (x / 8 : Nat) - 18)

/-- R112: an element of a block times its scale. -/
def blockValue (fmt x scale : Nat) : FVal :=
  match scaleValue scale with
  | none => .nan false
  | some (sm, se) =>
    match if fmt = 10 then (fmtOf .e4m3).decode x else smallValue (smallFmt fmt) x with
    | .num neg m e => .num neg (m * sm) (e + se)
    | v => v

/-- An integer as a value. -/
def intValue (k : Int) : FVal := .num (decide (k < 0)) k.natAbs 0

/-- R225: the value of a plain element. -/
def plainValue (fmt x : Nat) : FVal :=
  match fmt with
  | 0 => (fmtOf .bf16).decode x
  | 1 => (fmtOf .f16).decode x
  | 2 => (fmtOf .e4m3).decode x
  | 3 => (fmtOf .e5m2).decode x
  | 4 => intValue ((BitVec.ofNat 8 x).toInt)
  | 5 => intValue x
  | 6 => intValue ((BitVec.ofNat 4 x).toInt)
  | _ => intValue x

/-- R226: an element from the bytes of its plane and its scale. -/
def elemValue (r : BitVec 512) (row k : Nat) (plane scale : Nat → Byte) : FVal :=
  let e := elemSpan r row k
  let x := leNat ((elemBytes r row k).map plane) / 2 ^ e.lo % 2 ^ e.bits
  if isBlock (layFmt r) then blockValue (layFmt r) x (scale (scaleByte r row k)).toNat else plainValue (layFmt r) x

-- chunk sums (R126, R127)

/-- R127: whether a product is −0. -/
def FVal.negZero : FVal → Bool
  | .num true 0 _ => true
  | _ => false

/-- R127: the exact sum of numbers as k·2^e. -/
def sumExact : List FVal → Int × Int
  | [] => (0, 0)
  | .num s m e :: vs =>
    let (k, f) := sumExact vs
    if m = 0 then (k, f)
    else if k = 0 then (FVal.scaled s m, e)
    else
      let lo := if e < f then e else f
      (FVal.scaled s m * (2 ^ (e - lo).toNat : Nat) + k * (2 ^ (f - lo).toNat : Nat), lo)
  | _ :: vs => sumExact vs

/-- R127: the sum of the products of a chunk, as a binary32 encoding. -/
def chunkSum (ps : List FVal) : Nat :=
  let f := fmtOf .f32
  if ps.any FVal.isNan then f.canon
  else
    let pos := ps.any (fun p => p == .inf false)
    let neg := ps.any (fun p => p == .inf true)
    if pos && neg then f.canon
    else if pos then f.infBits false
    else if neg then f.infBits true
    else
      let (k, e) := sumExact ps
      if k = 0 then f.signBit (ps.all FVal.negZero) else (f.roundInt {} false k e).1

/-- A binary32 sum, rounded to nearest even. -/
def addF32 (a b : Nat) : Nat := ((fmtOf .f32).addV {} ((fmtOf .f32).decode a) ((fmtOf .f32).decode b)).1

/-- R126: +0, the term of a position beyond an extent. -/
def plusZero : FVal := .num false 0 0

/-- R126: chunks added one after another. -/
def addChunks (acc : Nat) (cs : List (List FVal)) : Nat := cs.foldl (fun a c => addF32 a (chunkSum c)) acc

-- masks (R239)

/-- R239: the mask parameter block of 704 bytes; none where it is bad. -/
def maskOfBlock (bs : List Byte) : Option MaskBlock :=
  let h : BitVec 512 := BitVec.ofNat 512 (leNat (bs.take 64))
  let mode := layField h 7 0
  let nodes := layField h 15 8
  if layField h 511 96 != 0 || layField h 31 16 != 0 || 2 < mode || 64 < nodes then none
  else some
    { mode := mode, qoff := BitVec.ofNat 32 (layField h 95 64), pfx := BitVec.ofNat 32 (layField h 63 32), nodes := nodes
      anc := (List.range 64).map (fun m => BitVec.ofNat 64 (leNat ((bs.drop (64 + 8 * m)).take 8)))
      posn := (List.range 64).map (fun m => BitVec.ofNat 16 (leNat ((bs.drop (576 + 2 * m)).take 2))) }

/-- R239: whether key kj is hidden from query qi. -/
def MaskBlock.hides (m : MaskBlock) (qi kj : Nat) : Bool :=
  match m.mode with
  | 1 => !decide ((kj : Int) ≤ (qi : Int) + m.qoff.toInt)
  | 2 =>
    !(decide (kj < m.pfx.toNat) || (decide (qi < m.nodes) && decide (m.pfx.toNat ≤ kj) && decide (kj - m.pfx.toNat < m.nodes)
        && (m.anc.getD qi 0).getLsbD (kj - m.pfx.toNat)))
  | _ => false

-- drained elements (R113, R122, R235)

/-- R235: the encoding of a plain element of a drain. -/
def drainPlain (fmt : Nat) (rnd : Rnd) (x : Nat) : Nat :=
  let v := (fmtOf .f32).decode x
  let r : Rounding := { rnd := rnd }
  let int (w : Nat) (lo hi : Int) : Nat := ((toIntRange r lo hi v).1 % (2 ^ w : Nat)).toNat
  match fmt with
  | 0 => ((fmtOf .bf16).convert r v).1
  | 1 => ((fmtOf .f16).convert r v).1
  | 2 => ((fmtOf .e4m3).convert r v).1
  | 3 => ((fmtOf .e5m2).convert r v).1
  | 4 => int 8 (-128) 127
  | 5 => int 8 0 255
  | 6 => int 4 (-8) 7
  | 7 => int 4 0 15
  | _ => x

/-- R113: the largest element value of a block format. -/
def blockMax (fmt : Nat) : Nat := if fmt = 8 then 6 else if fmt = 9 then 28 else 448

/-- R113: the encoding of that value, without sign. -/
def blockMaxCode (fmt : Nat) : Nat := if fmt = 8 then 7 else if fmt = 9 then 31 else 126

/-- R113: the larger of two magnitudes m·2^e. -/
def magMax (a b : Nat × Int) : Nat × Int := if magLt a.1 a.2 b.1 b.2 then b else a

/-- R113: round_rne(m·2^e / (sm·2^se)) in an element format, clamped, as an encoding without sign. -/
def blockElem (fmt m : Nat) (e : Int) (sm : Nat) (se : Int) : Nat :=
  if m = 0 || sm = 0 then 0
  else
    let f := smallFmt fmt
    let q := m * 2 ^ 64 / sm
    let e' := e - se - 64
    let t0 : Int := e' + ((q.log2 + 1 : Nat) : Int) - ((f.fb : Int) + 1)
    let t := if t0 < f.emin then f.emin else t0
    let (k, _) := roundAt {} false q e' (decide (m * 2 ^ 64 % sm ≠ 0)) t
    Nat.min (f.encodeMag k t) (blockMaxCode fmt)

/-- R113: the scale byte and the elements of a block of binary32 encodings. -/
def writeBlock (fmt : Nat) (xs : List Nat) : Nat × List Nat :=
  let vs := xs.map (fmtOf .f32).decode
  let bad (v : FVal) : Bool := match v with
    | .num _ _ _ => false
    | _ => true
  let sign (v : FVal) : Nat := match v with
    | .num true _ _ => 2 ^ ((smallFmt fmt).eb + (smallFmt fmt).fb)
    | _ => 0
  if vs.any bad then (0xFF, xs.map (fun _ => 0))
  else
    let amax := vs.foldl (fun a v => match v with
      | .num _ m e => magMax a (m, e)
      | _ => a) (0, 0)
    if amax.1 = 0 then (0x78, vs.map sign)
    else
      let fits (b : Nat) : Bool := match scaleValue b with
        | some (sm, se) => !magLt (blockMax fmt * sm) se amax.1 amax.2
        | none => false
      let b := ((List.range 0xFF).find? fits).getD 0xFE
      let (sm, se) := (scaleValue b).getD (8, 0)
      (b, vs.map (fun v => match v with
        | .num _ m e => sign v + blockElem fmt m e sm se
        | _ => 0))

-- row statistics (R240, R241)

/-- R240: ex(y), the correctly rounded exponential of a binary32 argument. -/
def exF32 (y : Nat) : Nat :=
  let f := fmtOf .f32
  match f.decode y with
  | .nan _ => f.canon
  | .inf true => 0
  | .inf false => f.infBits false
  | .num s m e => if m = 0 then 0x3F800000 else (f.expMag {} s m e).1

/-- A binary32 product, rounded to nearest even. -/
def mulF32 (a b : Nat) : Nat := ((fmtOf .f32).mulV {} ((fmtOf .f32).decode a) ((fmtOf .f32).decode b)).1

/-- A binary32 difference, rounded to nearest even. -/
def subF32 (a b : Nat) : Nat := ((fmtOf .f32).addV {} ((fmtOf .f32).decode a) ((fmtOf .f32).decode b).negate).1

/-- −∞ of binary32. -/
def negInf32 : Nat := 0xFF800000

/-- Whether a binary32 encoding is a NaN. -/
def nan32 (x : Nat) : Bool := ((fmtOf .f32).decode x).isNan

/-- Whether binary32 x is below y. -/
def lt32 (x y : Nat) : Bool := FVal.numLt ((fmtOf .f32).decode x) ((fmtOf .f32).decode y)

/-- R240: the record (M, S) of the included columns, merged with an old record where there is one. Of -0 and +0 the first
in column order is M, the tile's before Mold (log entry 118: DESIGN CHOICE). -/
def smaxRecord (xs : List Nat) (old : Option (Nat × Nat)) : Nat × Nat :=
  let xs := xs.filter (fun x => !nan32 x)
  let mold := match old with
    | some (m, _) => if nan32 m then negInf32 else m
    | none => negInf32
  let top (a b : Nat) : Nat := if lt32 a b then b else a
  let m := top (xs.foldl top negInf32) mold
  if m = negInf32 then (negInf32, 0)
  else
    let s0 := match old with
      | some (_, so) => if mold = negInf32 then 0 else mulF32 so (exF32 (subF32 mold m))
      | none => 0
    let term (x : Nat) : Nat :=
      if !lt32 x m && !lt32 m x then 0x3F800000 else if x = negInf32 then 0 else exF32 (subF32 x m)
    (m, xs.foldl (fun s x => addF32 s (term x)) s0)

/-- R241: the Gumbel noise of a noise word. -/
def gumbel (x0 : W32) : Nat :=
  let f := fmtOf .f32
  let u := 2 * (x0.toNat / 2 ^ 9) + 1
  let l1 := lnF32 u (-24)
  -- −l1 is positive: u is below 1
  match f.decode l1 with
  | .num _ m e => if m = 0 then 0x7F800000 else
      match f.decode (lnF32 m e) with
      | .num s m' e' => (f.convert {} (.num (!s) m' e')).1
      | v => (f.convert {} v.negate).1
  | v => (f.convert {} v).1

/-- R130, R241: whether pair (v, i) beats pair (w, j). -/
def pairBeats (v i w j : Nat) : Bool :=
  if nan32 v then false
  else if nan32 w then true
  else lt32 w v || (!lt32 v w && decide (i < j))

/-- R241: the record of some pairs of value and key index. -/
def gmaxRecord (ps : List (Nat × Nat)) : Nat × Nat :=
  ps.foldl (fun b p => if pairBeats p.1 p.2 b.1 b.2 then p else b) (0x7FC00000, 0xFFFFFFFF)

end Sys2Proof.Machine
end

