-- ==== Sys2Proof/Machine/Noise.lean ====
section
/-! DEFINITION. Noise.lean: the keyed stream and the noise words of a crew (R118, R259, R260, R264). -/
namespace Sys2Proof.Machine

/-- R259: the four words of a Philox-4x32 state and its key. -/
structure Philox where
  c0 : Nat
  c1 : Nat
  c2 : Nat
  c3 : Nat
  k0 : Nat
  k1 : Nat
deriving DecidableEq, Repr

/-- R259: one round. -/
def Philox.round (p : Philox) : Philox :=
  let a := 0xD2511F53 * p.c0
  let b := 0xCD9E8D57 * p.c2
  { c0 := (b / 2 ^ 32) ^^^ p.c1 ^^^ p.k0, c1 := b % 2 ^ 32, c2 := (a / 2 ^ 32) ^^^ p.c3 ^^^ p.k1, c3 := a % 2 ^ 32
    k0 := (p.k0 + 0x9E3779B9) % 2 ^ 32, k1 := (p.k1 + 0xBB67AE85) % 2 ^ 32 }

/-- Several rounds. -/
def Philox.rounds : Nat → Philox → Philox
  | 0, p => p
  | n + 1, p => Philox.rounds n p.round

/-- R259: Philox-4x32-10. -/
def philox (key : W64) (c0 c1 c2 c3 : W32) : Philox :=
  Philox.rounds 10 { c0 := c0.toNat, c1 := c1.toNat, c2 := c2.toNat, c3 := c3.toNat
                     k0 := (lo32 key).toNat, k1 := (hi32 key).toNat }

/-- R260: the crew index of a draw: linear cohort index · E1 + %crew. -/
def drawCrew (s : State) (cr : Crew) : W32 :=
  let index := ((s.cohorts.find cr.cohort).map (·.index)).getD 0
  let e1 := ((launchOf s cr).map (fun ln => ln.ext.getD 0 1)).getD 1
  BitVec.ofNat 32 (index * e1 + cr.index)

/-- R259, R260: the keyed word of a lane. -/
def keyedWord (s : State) (cr : Crew) (key : W64) (l : Nat) : W32 :=
  BitVec.ofNat 32 (philox key (BitVec.ofNat 32 l) cr.drawIdx (drawCrew s cr) 1).c0

/-- The substitute key of a well (R264). -/
def substOf (s : State) (w : Nat) : Option W64 := (s.wells.find w).bind (·.subst)

/-- R260, R264: the noise word of a lane. A physical word is a free value. -/
def noiseWord (s : State) (cr : Crew) (keyed : Bool) (n l : Nat) : W32 :=
  if keyed || repeatable s cr.ctx then keyedWord s cr cr.drawKey l
  else
    match substOf s (2 * unitOf s cr), substOf s (2 * unitOf s cr + 1) with
    | some k, some _ => keyedWord s cr k l
    | _, _ => Config.freeWord (s.fresh + n)

/-- R118, R260: one noise word for each active lane; the draw index advances by 1. -/
def drawNoise (s : State) (cid : Nat) (cr : Crew) (keyed : Bool) (lanes : List Nat) : List (Nat × W32) × State :=
  (lanes.zipIdx.map (fun p => (p.1, noiseWord s cr keyed p.2 p.1)),
    updCrew { s with fresh := s.fresh + lanes.length } cid (fun c => { c with drawIdx := c.drawIdx + 1 }))

/-- The noise of a lane. -/
def noiseOf (ns : List (Nat × W32)) (l : Nat) : Nat :=
  match ns.find? (fun p => p.1 == l) with
  | some p => p.2.toNat
  | none => 0

/-- R118: the instruction's environment after its draws where it rounds by SR, with the words drawn. -/
def Env.draw (e : Env) (rnd : Rnd) : Env × List (Nat × W32) :=
  match rnd with
  | .sr =>
    let (ns, s) := drawNoise e.s e.cid e.crew false e.lanes
    ({ e with s := s }, ns)
  | _ => (e, [])

end Sys2Proof.Machine
end

