-- ==== Sys2Proof/Machine/Matrix.lean ====
section
/-! DEFINITION. Matrix.lean: the matrix engines: their reads and writes, passes, drains, faults and arbitration (R218
to R246, R505 to R521). -/
namespace Sys2Proof.Machine

/-- The clk of a cluster's die. -/
def clusterClk (s : State) (cl : Nat) : Nat := dieClk s (cl / 16)

/-- Readies the splits of a cohort that may wait for its stream or its posts. -/
def wakeCohort (s : State) (k : Nat) : State := ((crewsOf s k).map (·.1)).foldl wakeCrew s

/-- R185, R505: the capacity of an operand cache, in lines (2 MiB). -/
def operandLines : Nat := 16384

-- reads and writes of an engine (R185, R233, R238, R244, R357)

/-- What a read or write of a stream answers. -/
inductive EngAns (α : Type)
  | ok (x : α) (s : State)
  /-- it waits: for a free fault tag or a closed region -/
  | wait (s : State)
  /-- a page fault with a tag -/
  | fault (tag : Nat) (s : State)
  /-- the cohort is killed -/
  | kill (s : State)

/-- The stream at work: its key, its cluster, its cohort and its context. -/
structure Eng where
  key    : Nat
  cl     : Nat
  cohort : Nat
  ctx    : Nat
  track  : Bool := true

/-- The engine's view of a stream. -/
def engOf (s : State) (key : Nat) : Option (Eng × Stream × Cohort) :=
  match s.streams.find key with
  | none => none
  | some st => (s.cohorts.find st.cohort).map (fun c => ({ key := key, cl := key / 8, cohort := st.cohort, ctx := c.ctx }, st, c))

/-- R314: the requester of a stream's fault record. -/
def engRequester (s : State) (g : Eng) (path acc : Nat) : Requester :=
  let c := s.cohorts.find g.cohort
  { ekind := 2, eid := g.cl, queue := (c.map (·.queue)).getD 0, cseq := (c.map (·.cseq)).getD 0, path := path, acc := acc }

/-- R244, R308: a translation of an engine's load pipes. -/
def engXlate (s : State) (g : Eng) (va path : Nat) (w : Bool) : EngAns Nat :=
  if 2 ^ 72 ≤ va then .kill s
  else
    match translate s none (g.cl / 16) g.ctx va { r := !w, w := w } true with
    | (.ok pa, s) => if isClosed s pa then .wait s else .ok pa s
    | (.notPresent lvl, s) =>
      match joinFault s g.ctx va lvl (engRequester s g path (if w then 1 else 0)) with
      | (some tag, s) => .fault tag s
      | (none, s) => .wait s
    | (.stall _, s) => .wait s
    | (_, s) => .kill s

/-- The control crew of a cohort. -/
def controlOf (s : State) (k : Nat) : Option Nat := ((crewsOf s k).find? (fun p => p.2.engine == .control)).map (·.1)

/-- R172: the source of a stream's stores, those of its control crew on the MTX path. -/
def engSrc (s : State) (g : Eng) : Nat := storeSrc ((controlOf s g.cohort).getD 0) 2

/-- A line that a cluster's operand cache holds under a lease that is still good. -/
def engHit (s : State) (cl line : Nat) : Option CLine :=
  ((s.clusters.find cl).bind (fun c => c.opLines.find? (fun e => e.line == line))).filter (fun e => leaseOk e (dieDT s (cl / 16)))

/-- R166, R238: a line that its home serves to a cluster, cached under a lease where no store to it is pending. -/
def engFill (s : State) (cl ctx line : Nat) : List Byte × State :=
  let s := settle s line
  let bs := Memory.getN s.mem (line * 128) 128
  if pendingAt s line || inSync s line then (bs, s)
  else
    let (s, e) := grantLease (l2Touch s line) line (((s.ctxs.find ctx).map (·.lease)).getD 512)
    (bs, updCluster s cl (fun c =>
      { c with opLines := pushFront operandLines { line := line, exp := e, bytes := bs }
                 (c.opLines.filter (fun x => x.line != line)) }))

/-- R238: a line as the engine reads it: its cached copy under a lease, or the home's. -/
def engLineBytes (s : State) (g : Eng) (line : Nat) : List Byte × State :=
  match engHit s g.cl line with
  | some e => (e.bytes, s)
  | none => engFill s g.cl g.ctx line

/-- R357, R359, R360: the race check of an engine's access to bytes, as physical and virtual addresses. -/
def engRace (s : State) (g : Eng) (w : Bool) (ps : List (Nat × Nat)) : Except Unit State :=
  if !g.track || !repeatable s g.ctx then .ok s
  else
    match raceAccess s g.ctx (cohortIdent s g.cohort) (!w) w ps with
    | .error _ => .error ()
    | .ok s => .ok s

/-- R159, R322: a line that a pass, or what else of a command is being performed, reads is requested once. -/
def engDemand (s : State) (g : Eng) (vline line : Nat) : State :=
  if (s.streams.find g.key).any (·.seen.contains vline) then s
  else
    let s := touchWindows (countMatrix s g.cl g.ctx (vline * 128) 0) (line * 128)
    updStream s g.key (fun st => { st with seen := vline :: st.seen })

/-- R172, R332, R335: reads the bytes at virtual addresses, all of one line. A line with a store of the same crew pending,
and one that the operand cache does not hold and that must come from its stack first, are waited for. -/
def engLine (s : State) (g : Eng) (path vline : Nat) (vas : List Nat) : EngAns (List (Nat × Byte)) :=
  match engXlate s g (vline * 128) path false with
  | .wait s => .wait s
  | .fault t s => .fault t s
  | .kill s => .kill s
  | .ok pa0 s =>
    let line := lineOf pa0
    if (homeOf (settle s line) line).pending.any (fun p => p.src == engSrc s g) then .wait s
    else if (engHit s g.cl line).isNone && needsFill s line then .wait (askFill s line)
    else if (engHit s g.cl line).isNone && (lostGranule s (line * 128) || lostGranule s (line * 128 + 64)) then .kill s
    else
      match engRace s g false (vas.map (fun va => (line * 128 + va % 128, va))) with
      | .error _ => .kill s
      | .ok s =>
        let s := engDemand s g vline line
        let (bs, s) := engLineBytes s g line
        .ok (vas.map (fun va => (va, bs.getD (va % 128) emptyByte))) s

/-- Reads bytes at virtual addresses, line by line. -/
def engLines (s : State) (g : Eng) (path : Nat) (vas : List Nat) : List Nat → EngAns (List (Nat × Byte))
  | [] => .ok [] s
  | v :: vs =>
    match engLine s g path v (vas.filter (fun a => a / 128 == v)) with
    | .ok xs s =>
      match engLines s g path vas vs with
      | .ok ys s => .ok (xs ++ ys) s
      | r => r
    | r => r

/-- Reads bytes at virtual addresses. -/
def engRead (s : State) (g : Eng) (path : Nat) (vas : List Nat) : EngAns (List (Nat × Byte)) :=
  engLines s g path vas (nubNat (vas.map (· / 128)))

/-- Reads n bytes from a virtual address. -/
def engReadN (s : State) (g : Eng) (path va n : Nat) : EngAns (List Byte) :=
  match engRead s g path ((List.range n).map (va + ·)) with
  | .ok xs s => .ok ((List.range n).map (fun i => (((xs.find? (fun x => x.1 == va + i)).map (·.2)).getD emptyByte))) s
  | .wait s => .wait s
  | .fault t s => .fault t s
  | .kill s => .kill s

/-- R233, R238: a byte of a posted tile as the engine reads it: where the cache holds the tile and a 4-byte word has
changed since, the old or the new word. -/
def tileByte (s : State) (g : Eng) (h : Nat) (tile : Mem) (o : Nat) : Byte :=
  let now := Memory.get tile o
  match (SMap.getD s.clusters g.cl {}).opTiles.find? (fun t => t.1 == g.key % 8 && t.2.1 == h) with
  | none => now
  | some t => if Config.freeBit (s.fresh + o / 4) then Memory.get t.2.2.2 o else now

/-- R185: a layout record as the engine uses it: each 8-byte word of a cached record is the cached or the new one. -/
def mixWords (s : State) (old new : List Byte) : List Byte :=
  (List.range 8).flatMap (fun i =>
    (if Config.freeBit (s.fresh + i) then (old.drop (8 * i)).take 8 else (new.drop (8 * i)).take 8))

/-- R224: the virtual address of a layout record. -/
def layVA (s : State) (ctx h : Nat) : Nat := ((s.ctxs.find ctx).map (·.layBase)).getD 0 + 64 * h

/-- R185, R224: reads a layout record on the LAYOUT path through the engine's cache. -/
def readLayout (s : State) (g : Eng) (h : Nat) : EngAns (BitVec 512) :=
  let va := layVA s g.ctx h
  let key := g.ctx * 4096 + h
  let put (s : State) (bs : List Byte) : EngAns (BitVec 512) :=
    .ok (BitVec.ofNat 512 (leNat bs)) (updCluster s g.cl (fun c => { c with layouts := c.layouts.put key bs }))
  match (SMap.getD s.clusters g.cl {}).layouts.find key with
  | some old =>
    match peek s none (g.cl / 16) g.ctx va with
    | some pa => put { s with fresh := s.fresh + 8 } (mixWords s old (readHome s pa 64))
    | none => put s old
  | none =>
    match engReadN s { g with track := false } 5 va 64 with
    | .ok bs s => put s bs
    | .wait s => .wait s
    | .fault t s => .fault t s
    | .kill s => .kill s

-- the states of a stream (R222, R243, R244)

/-- R242: the row that a stream's progress register holds. -/
def keptRow (s : State) (key : Nat) : Nat := ((s.streams.find key).map (·.prog.row)).getD 0

/-- R222, R242, R243: a data error stops a stream. -/
def stopStream (s : State) (key cause handle row : Nat) : State :=
  wakeCohort (updStream s key (fun st =>
    { st.mark (fun m => { m with stp := true }) with
      run := .stopped, granted := false, inPass := false, request := none, started := false
      stop := some { cause := cause, handle := handle, row := row } })) (((s.streams.find key).map (·.cohort)).getD 0)

/-- R243: a stop whose cause has no handle of its own: TRAPADDR[23:12] is a free value (log entry 2). -/
def stopFree (s : State) (key cause : Nat) : State :=
  stopStream { s with fresh := s.fresh + 1 } key cause ((Config.freeWord s.fresh).toNat % 4096) (keptRow s key)

/-- R244: a page fault of a stream. -/
def faultStream (s : State) (key tag : Nat) : State :=
  updStream s key (fun st =>
    { st.mark (fun m => { m with flt := true }) with
      run := .faulted, granted := false, request := none, faultTag := some tag, faultDT := s.dt })

/-- R244: a FAULTED stream's cohort is to be killed, unless the fault is resolved in the same tick. -/
def doomStream (s : State) (key : Nat) : State := updStream s key (fun st => { st with doom := true })

/-- R244: the cohort of a stream is killed, and what the stream had begun is not completed. -/
def killStream (s : State) (key : Nat) : State :=
  match s.streams.find key with
  | some st => killCohort (updStream s key (fun st =>
      { st with run := .stopped, granted := false, inPass := false, request := none })) st.cohort
  | none => s

/-- R244: at the end of a tick the cohorts of streams whose fault it did not resolve are killed. -/
def killDoomed (s : State) : State :=
  ((s.streams.filter (fun p => p.2.doom)).map (·.1)).foldl (fun s k =>
    killStream (updStream s k (fun st => { st with doom := false })) k) s

/-- R221, R222, R505: the command at the head of the queue is complete. -/
def endCommand (s : State) (key : Nat) : State :=
  match s.streams.find key with
  | none => s
  | some st =>
    match st.cmds with
    | [] => s
    | c :: cs =>
      let s := updStream s key (fun st =>
        { st with cmds := cs, doneSeq := c.seq, started := false, recA := 0, groups := [], granted := false, request := none
                  prioUp := 0, prog := {}, inPass := false, inDrain := false, seen := [], run := if cs.isEmpty then .idle else .active, drainTw := none, drainMax := 0 })
      wakeCohort s st.cohort

/-- R242: where a command begins or resumes. -/
def noteProgress (s : State) (key pass row : Nat) (cseq : W32) : State :=
  updStream s key (fun st => { st with prog := { cseq := cseq, pass := pass, row := row } })

/-- Whether a stream performs commands now: ACTIVE, not saved, of a cohort and context that run. Of a killed cohort it
completes only what it has begun (R223). -/
def streamRuns (s : State) (key : Nat) : Bool :=
  match engOf s key with
  | some (g, st, c) => st.run == .active && !st.saved && c.state == .running
      && (if c.kill then st.inPass || st.inDrain else pumpRuns s g.ctx)
  | none => false

/-- What follows an answer that is not a value. -/
def engFail {α : Type} (key : Nat) (a : EngAns α) (k : α → State → State) : State :=
  match a with
  | .ok x s => k x s
  | .wait s => s
  | .fault t s => faultStream s key t
  | .kill s => killStream s key

-- reservation entries (R232 to R234)

/-- The post entry of a slot for a handle. -/
def postEntry (s : State) (key h : Nat) : Option (Nat × Resv) :=
  (SMap.getD s.clusters (key / 8) {}).resv.find? (fun p => p.1 / 4 == key % 8 && !p.2.drain && p.2.handle == h)

/-- R234: whether an operand record is in global memory, or its handle is POSTED. -/
def operandPosted (s : State) (key h : Nat) (r : BitVec 512) : Bool :=
  !layTile r || (match postEntry s key h with
    | some (_, e) => !e.second
    | none => false)

/-- R234: marks an operand's entry CONSUMED at its last use. -/
def consumePost (s : State) (key h : Nat) (r : BitVec 512) (last : Bool) : State :=
  if !last || !layTile r then s
  else
    match postEntry s key h with
    | some (i, _) => updCluster s (key / 8) (fun c => { c with resv := c.resv.change i (fun e => { e with second := true }) })
    | none => s

-- the beginning of a product (R231, R511 to R514)

/-- The K range and operands that a product command names. -/
structure Product where
  k0     : Nat
  k      : Nat
  ha     : Nat
  lastA  : Bool
  lastB  : Bool
  sparse : Bool
  hb     : Option Nat

/-- The product of a command. -/
def productOf : MCmd → Option Product
  | .mma _ _ k0 ha hb k la lb sp => some { k0 := k0, k := k, ha := ha, lastA := la, lastB := lb, sparse := sp, hb := some hb }
  | .mgrp _ k0 _ ha k la => some { k0 := k0, k := k, ha := ha, lastA := la, lastB := false, sparse := false, hb := none }
  | _ => none

/-- R229, R126: kc, from the wider class. -/
def kcOf (cls : Nat) : Nat := if cls = 16 then 16 else if cls = 8 then 32 else 64

/-- The widest class of a product's operands. -/
def productClass (st : Stream) : Nat := st.groups.foldl (fun c g => Nat.max c (fmtClass (layFmt g.layB))) (fmtClass (layFmt st.recA))

/-- R230: the chunks of a pass. -/
def passChunks (r : BitVec 512) (sparse : Bool) : Nat := if !sparse then 1 else if laySpn r = 2 then 4 else 2

/-- R229, R230: the passes of a product. -/
def passCount (p : Product) (st : Stream) : Nat :=
  let n := (p.k + kcOf (productClass st) - 1) / kcOf (productClass st)
  let m := passChunks st.recA p.sparse
  (n + m - 1) / m

/-- R227, R512, R514: the checks of the records of an MMA or MMAS: the handle of the bad one. -/
def mmaBad (sparse : Bool) (ha hb : Nat) (a b : BitVec 512) : Option Nat :=
  let wide (r : BitVec 512) : Bool := sparse && fmtClass (layFmt r) == 16
  if layMalformed a (if sparse then .sparseA else .operand) || wide a then some ha
  else if layMalformed b .operand || wide b then some hb
  else none

/-- R513: an MMA or MMAS reads its records. -/
def beginMma (s : State) (g : Eng) (arow brow ha hb : Nat) (sparse : Bool) : State :=
  engFail g.key (readLayout s g ha) (fun a s =>
    engFail g.key (readLayout s g hb) (fun b s =>
      match mmaBad sparse ha hb a b with
      | some h => stopStream s g.key 2 h (keptRow s g.key)
      | none => updStream s g.key (fun st =>
          { st with started := true, recA := a
                    groups := [{ first := 0, n := 128, arow := arow, brow := brow, bh := hb, layB := b }] })))

/-- An entry of a group table (R231). -/
structure GroupEntry where
  bh   : Nat
  arow : Nat
  nr   : Nat
  bad  : Bool

/-- R231: an entry of a group table. -/
def groupEntry (bs : List Byte) : GroupEntry :=
  let w : BitVec 128 := BitVec.ofNat 128 (leNat bs)
  { bh := (w.extractLsb' 64 12).toNat, arow := (w.extractLsb' 32 32).toNat, nr := (w.extractLsb' 0 16).toNat
    bad := w.extractLsb' 76 52 != 0 || w.extractLsb' 16 16 != 0 }

/-- R231: the groups with rows, each from its first tile row; the first of them is the class reference (log entry 16: DESIGN
CHOICE). -/
def placeGroups : Nat → List GroupEntry → List (Nat × GroupEntry)
  | _, [] => []
  | o, e :: es => if e.nr = 0 then placeGroups o es else (o, e) :: placeGroups (o + e.nr) es

/-- R511: reads and checks the B records of some groups; the handle of a bad one. -/
def readGroups (s : State) (g : Eng) (cls : Option Nat) : List (Nat × GroupEntry) → EngAns (Except Nat (List MGroup))
  | [] => .ok (.ok []) s
  | (o, e) :: es =>
    match readLayout s g e.bh with
    | .wait s => .wait s
    | .fault t s => .fault t s
    | .kill s => .kill s
    | .ok b s =>
      let c := fmtClass (layFmt b)
      if layMalformed b .operand || layTile b || cls.any (fun x => x != c) then .ok (.error e.bh) s
      else
        match readGroups s g (some c) es with
        | .ok (.ok gs) s => .ok (.ok ({ first := o, n := e.nr, arow := e.arow, brow := 0, bh := e.bh, layB := b } :: gs)) s
        | r => r

/-- R231, R511: an MGRP reads its A record, its group table and its B records. LAYOUT for reserved bits of the table comes
before RAGGED (log entry 119: DESIGN CHOICE). -/
def beginMgrp (s : State) (g : Eng) (table groups ha : Nat) : State :=
  engFail g.key (readLayout s g ha) (fun a s =>
    if layMalformed a .operand then stopStream s g.key 2 ha (keptRow s g.key)
    else
      engFail g.key (engReadN s g 2 table (16 * groups)) (fun bs s =>
        let es := (List.range groups).map (fun i => groupEntry ((bs.drop (16 * i)).take 16))
        match es.find? (·.bad) with
        | some e => stopStream s g.key 2 e.bh (keptRow s g.key)
        | none =>
          if 128 < sumOf (es.map (·.nr)) then stopFree s g.key 3
          else
            engFail g.key (readGroups s g none (placeGroups 0 es)) (fun r s =>
              match r with
              | .error h => stopStream s g.key 2 h (keptRow s g.key)
              | .ok gs => updStream s g.key (fun st => { st with started := true, recA := a, groups := gs }))))

/-- The command at the head of a stream's queue reads its records, where it is a product. -/
def beginCommand (s : State) (key : Nat) : State :=
  match engOf s key with
  | none => s
  | some (g, st, _) =>
    if !streamRuns s key || st.started || st.granted then s
    else
      match st.cmds with
      | [] => s
      | c :: _ =>
        let begin_ (s : State) : State :=
          if st.prog.cseq = c.seq then s else noteProgress s key 0 0 c.seq
        match c.cmd with
        | .mma arow brow _ ha hb _ _ _ sp => beginMma (begin_ s) g arow brow ha hb sp
        | .mgrp table _ groups ha _ _ => beginMgrp (begin_ s) g table groups ha
        | _ => s

-- requests and grants (R237)

/-- R234: whether the posted operands of a stream's product are present. -/
def operandsReady (s : State) (key : Nat) (st : Stream) : Bool :=
  match st.cmds.head?.bind (fun c => productOf c.cmd) with
  | none => false
  | some p =>
    operandPosted s key p.ha st.recA
      && (match p.hb with
          | some h => st.groups.all (fun g => operandPosted s key h g.layB)
          | none => true)

/-- R237, R369: a stream whose next pass's operands are present becomes a request; one that stands without an operand
notes it. -/
def noteRequest (s : State) (key : Nat) : State :=
  match s.streams.find key with
  | none => s
  | some st =>
    if !streamRuns s key || !st.started || st.granted || st.request.isSome then s
    else if operandsReady s key st then
      updStream s key (fun st =>
        { st with request := some (clusterClk s (key / 8)), prioUp := 0
                  marks := if st.marks.ows.isSome && st.marks.owe.isNone then { st.marks with owe := some s.dt } else st.marks })
    else
      updStream s key (fun st => { st with marks := if st.marks.ows.isNone then { st.marks with ows := some s.dt } else st.marks })

/-- R237: the levels that a request has risen: one for every 4,096 clk that it has waited. -/
def raisedBy (s : State) (cl : Nat) (st : Stream) : Nat :=
  Nat.max st.prioUp (match st.request with
    | some t => (clusterClk s cl - t) / 4096
    | none => 0)

/-- R237: the effective priority of a stream's request. -/
def streamPrio (s : State) (cl : Nat) (st : Stream) : Nat :=
  Nat.min 3 (((s.cohorts.find st.cohort).map (·.prio)).getD 0 + raisedBy s cl st)

/-- R237: the request that wins: highest priority, then oldest, then lowest slot. -/
def bestRequest (s : State) (cl : Nat) : Option Nat :=
  let qs := (List.range 8).filterMap (fun i => (s.streams.find (cl * 8 + i)).bind (fun st =>
    st.request.bind (fun t => if streamRuns s (cl * 8 + i) && st.started && !st.granted then some (cl * 8 + i, t, streamPrio s cl st) else none)))
  let top := maxOf (qs.map (fun q => q.2.2))
  (leastBy (fun q => q.2.1) (qs.filter (fun q => q.2.2 == top))).map (·.1)

/-- R237: the streams whose next pass has become possible become requests. -/
def noteRequests (s : State) (keys : List Nat) : State := keys.foldl (fun s k => noteRequest (beginCommand s k) k) s

/-- R238: a scout read for a stream that requests a pass: a line of its B operand, which one being a free choice, that its
home can serve now. It faults nowhere, counts nowhere and sets no accessed bit. -/
def scout (s : State) (key : Nat) : State :=
  match engOf s key with
  | none => s
  | some (g, st, _) =>
    match st.request, st.cmds.head?.bind (fun c => productOf c.cmd), st.groups.head? with
    | some _, some p, some x =>
      let n := Config.pick s.fresh
      let s := { s with fresh := s.fresh + 1 }
      let va := ((elemBytes x.layB (x.brow + n % 256) (p.k0 + n / 256 % p.k)).head?).getD 0
      match if layTile x.layB || decide (2 ^ 72 ≤ va) then none else peek s none (g.cl / 16) g.ctx va with
      | none => s
      | some pa =>
        if isClosed s pa || needsFill s (lineOf pa) || failedGranule s pa || (engHit s g.cl (lineOf pa)).isSome then s
        else (engFill s g.cl g.ctx (lineOf pa)).2
    | _, _, _ => s

/-- R237: at a pass boundary the engine grants one request; those that are not granted may scout (R238). -/
def execPassGrant (cluster : Nat) (s : State) : Host.Outcome State Fault Refusal :=
  let keys := (List.range 8).map (cluster * 8 + ·)
  let s := keys.foldl scout (noteRequests s keys)
  if keys.any (fun k => ((s.streams.find k).map (·.granted)).getD false) then .next s
  else
    match bestRequest s cluster with
    | none => .next s
    | some k =>
      .next (updStream s k (fun st =>
        { st with granted := true, inPass := true, request := none, prioUp := 0
                  marks := { st.marks with pfg := if st.marks.pfg.isSome then st.marks.pfg else some s.dt
                                           passes := st.marks.passes + 1 } }))

/-- R237: a request that has waited another 4,096 clk rises one level. -/
def execMatrixPriorityAge (stream : Nat) (s : State) : Host.Outcome State Fault Refusal :=
  match s.streams.find stream with
  | none => .next s
  | some st =>
    match st.request with
    | none => .next s
    | some t =>
      let prio := ((s.cohorts.find st.cohort).map (·.prio)).getD 0
      if t + 4096 * (st.prioUp + 1) ≤ clusterClk s (stream / 8) && decide (prio + st.prioUp < 3) then
        .next (updStream s stream (fun st => { st with prioUp := st.prioUp + 1 }))
      else .next s

-- passes (R126, R226, R228 to R231, R244)

/-- R228: the positions of chunk c of a product, from k0. -/
def chunkPositions (p : Product) (kc c : Nat) : List Nat := (List.range kc).map (fun i => p.k0 + c * kc + i)

/-- The chunks of a pass that the product has. -/
def chunksOfPass (p : Product) (st : Stream) (pass : Nat) : List (List Nat) :=
  let kc := kcOf (productClass st)
  let n := (p.k + kc - 1) / kc
  let m := passChunks st.recA p.sparse
  ((List.range m).filterMap (fun i => if pass * m + i < n then some (pass * m + i) else none)).map (chunkPositions p kc)

/-- Bytes that an engine has read: of global memory, and of the tile store. -/
structure Plane where
  glob : List (Nat × Byte) := []
  tile : List (Nat × Byte) := []

/-- A byte that was read at a virtual address. -/
def Plane.at_ (p : Plane) (a : Nat) : Byte := ((p.glob.find? (fun x => x.1 == a)).map (·.2)).getD emptyByte

/-- A byte of an element plane. -/
def Plane.elem (p : Plane) (r : BitVec 512) (a : Nat) : Byte :=
  if layTile r then ((p.tile.find? (fun x => x.1 == a)).map (·.2)).getD emptyByte else p.at_ a

/-- R226, R244: reads the elements of a record at some (row, k), with the scales of a block format. -/
def readElems (s : State) (g : Eng) (h : Nat) (r : BitVec 512) (xs : List (Nat × Nat)) : EngAns Plane :=
  let addrs := nubNat (xs.flatMap (fun x => elemBytes r x.1 x.2))
  let scales := if isBlock (layFmt r) then nubNat (xs.map (fun x => scaleByte r x.1 x.2)) else []
  match s.cohorts.find g.cohort with
  | none => .kill s
  | some c =>
    if layTile r && addrs.any (fun a => decide (c.alloc ≤ a)) then .kill s
    else
      match engRead s g 2 ((if layTile r then [] else addrs) ++ scales) with
      | .ok bs s =>
        .ok { glob := bs, tile := if layTile r then addrs.map (fun a => (a, tileByte s g h c.tile a)) else [] } s
      | .wait s => .wait s
      | .fault t s => .fault t s
      | .kill s => .kill s

/-- R226: whether element (row, k) of an operand is read. -/
def inExtent (r : BitVec 512) (row k : Nat) : Bool := decide (row < layRows r) && decide (k < layInner r)

/-- R230: the bitmap of a block of a sparse row. -/
def bitmapAddr (r : BitVec 512) (row b : Nat) : Nat := layMeta r + row * layMstride r + 8 * b

/-- R230: N of a sparse record. -/
def sparseN (r : BitVec 512) : Nat := if laySpn r = 1 then 32 else 16

/-- R230: the number of set bits of a bitmap below a position. -/
def rankOf (m : W64) (p : Nat) : Nat := ((List.range p).filter (fun i => m.getLsbD i)).length

/-- The row of A that a pass reads for a tile row: the values by position, or a fault, or a bad bitmap. -/
inductive RowA
  | ok (vals : List (Nat × FVal)) (s : State)
  | badCount (s : State)
  | wait (s : State)
  | fault (tag : Nat) (s : State)
  | kill (s : State)

/-- The values of elements at (position, row, storage index). -/
def readValues (s : State) (g : Eng) (h : Nat) (r : BitVec 512) (xs : List (Nat × Nat × Nat)) : RowA :=
  match readElems s g h r (xs.map (fun x => x.2)) with
  | .ok p s => .ok (xs.map (fun x => (x.1, elemValue r x.2.1 x.2.2 (p.elem r) p.at_))) s
  | .wait s => .wait s
  | .fault t s => .fault t s
  | .kill s => .kill s

/-- R226, R228, R230: the values of a row of A at some positions, within the product's range. -/
def readRowA (s : State) (g : Eng) (p : Product) (r : BitVec 512) (row : Nat) (ks : List Nat) : RowA :=
  let ks := ks.filter (fun k => decide (k < p.k0 + p.k) && inExtent r row k)
  if !p.sparse then readValues s g p.ha r (ks.map (fun k => (k, row, k)))
  else
    let blocks := nubNat (ks.map (· / 64))
    match engRead s g 2 (blocks.flatMap (fun b => (List.range 8).map (bitmapAddr r row b + ·))) with
    | .wait s => .wait s
    | .fault t s => .fault t s
    | .kill s => .kill s
    | .ok bs s =>
      let byte (a : Nat) : Byte := ((bs.find? (fun x => x.1 == a)).map (·.2)).getD emptyByte
      let map_ (b : Nat) : W64 := BitVec.ofNat 64 (leNat ((List.range 8).map (fun i => byte (bitmapAddr r row b + i))))
      let n := sparseN r
      if blocks.any (fun b => rankOf (map_ b) 64 != n) then .badCount s
      else
        let present := ks.filter (fun k => (map_ (k / 64)).getLsbD (k % 64))
        let absent := ks.filter (fun k => !(map_ (k / 64)).getLsbD (k % 64))
        match readValues s g p.ha r (present.map (fun k => (k, row, k / 64 * n + rankOf (map_ (k / 64)) (k % 64)))) with
        | .ok vs s => .ok (vs ++ absent.map (fun k => (k, plusZero))) s
        | x => x

/-- The values of B for a pass: by group and column. -/
abbrev PassB := List (Nat × Plane)

/-- R244: B's lines are read before the rows. -/
def readPassB (s : State) (g : Eng) (p : Product) (ks : List Nat) : List MGroup → EngAns PassB
  | [] => .ok [] s
  | x :: xs =>
    let els := (List.range 256).flatMap (fun j => (ks.filter (fun k =>
      decide (k < p.k0 + p.k) && inExtent x.layB (x.brow + j) k)).map (fun k => (x.brow + j, k)))
    match readElems s g x.bh x.layB els with
    | .ok b s =>
      match readPassB s g p ks xs with
      | .ok bs s => .ok ((x.first, b) :: bs) s
      | r => r
    | .wait s => .wait s
    | .fault t s => .fault t s
    | .kill s => .kill s

/-- R126, R127, R230: the product at a position: +0 beyond an operand's extent; an element that sparsity omits is the +0 of
the dense form of A. -/
def termAt (p : Product) (x : MGroup) (b : Plane) (vals : List (Nat × FVal)) (j k : Nat) : FVal :=
  if p.k0 + p.k ≤ k || !inExtent x.layB (x.brow + j) k then plusZero
  else
    match vals.find? (fun v => v.1 == k) with
    | none => plusZero
    | some v => FVal.mulExact v.2 (elemValue x.layB (x.brow + j) k (b.elem x.layB) b.at_)

/-- An element of an accumulator tile (R220). -/
def tileAt (t : SMap W32) (i j : Nat) : W32 := SMap.getD t (i * 256 + j) 0

/-- Replaces an element; +0 is not listed. -/
def tileSet (t : SMap W32) (i j : Nat) (v : W32) : SMap W32 :=
  if v = 0 then SMap.del t (i * 256 + j) else SMap.put t (i * 256 + j) v

/-- R228: a row of the tile after a pass. -/
def passRow (p : Product) (st : Stream) (x : MGroup) (b : Plane) (vals : List (Nat × FVal)) (chunks : List (List Nat))
    (last : Bool) (i : Nat) : SMap W32 :=
  (List.range 256).foldl (fun t j =>
    let acc := (tileAt t i j).toNat
    let c := addChunks acc (chunks.map (fun ks => ks.map (termAt p x b vals j)))
    let hidden := last && p.hb.isSome && st.mask.hides (x.arow + (i - x.first)) (x.brow + j)
    tileSet t i j (BitVec.ofNat 32 (if hidden then negInf32 else c))) st.tile

/-- The group that covers a tile row. -/
def groupOf (gs : List MGroup) (i : Nat) : Option MGroup := gs.find? (fun x => decide (x.first ≤ i) && decide (i < x.first + x.n))

/-- What the rows of a pass come to. -/
inductive PassEnd
  | whole (s : State)
  | stopped (s : State)

/-- R229, R244: the rows of a pass from row i on. -/
def passRows (g : Eng) (p : Product) (pb : PassB) (chunks : List (List Nat)) (last : Bool) : Nat → Nat → State → PassEnd
  | 0, _, s => .whole s
  | n + 1, i, s =>
    match s.streams.find g.key with
    | none => .stopped s
    | some st =>
      let at_ (s : State) : State := updStream s g.key (fun st => { st with prog := { st.prog with row := i } })
      match groupOf st.groups i with
      | none => passRows g p pb chunks last n (i + 1) s
      | some x =>
        match readRowA s g p st.recA (x.arow + (i - x.first)) chunks.flatten with
        | .wait s => .stopped (at_ s)
        | .fault t s => .stopped (faultStream (at_ s) g.key t)
        | .kill s => .stopped (killStream s g.key)
        | .badCount s => .stopped (stopStream (at_ s) g.key 1 p.ha i)
        | .ok vals s =>
          let b := ((pb.find? (fun q => q.1 == x.first)).map (·.2)).getD {}
          let t := passRow p st x b vals chunks last i
          passRows g p pb chunks last n (i + 1) (updStream s g.key (fun st => { st with tile := t }))

/-- R508: the reference product of a command. -/
def refOf (st : Stream) (p : Product) : RefProduct :=
  match p.hb, st.groups with
  | some _, x :: _ => .mma x.brow (layRows x.layB)
  | _, gs => .mgrp (gs.map (fun x => (x.first, x.n, layRows x.layB)))

/-- R234, R508: a product command is complete. -/
def endProduct (s : State) (key : Nat) (st : Stream) (p : Product) : State :=
  let s := consumePost s key p.ha st.recA p.lastA
  let s := match p.hb, st.groups with
    | some h, x :: _ => consumePost s key h x.layB p.lastB
    | _, _ => s
  endCommand (updStream s key (fun st => { st with ref := refOf st p })) key

/-- R229, R244: the granted pass of a stream. -/
def runPass (s : State) (key : Nat) : State :=
  match engOf s key with
  | none => s
  | some (g, st, _) =>
    match st.cmds.head?.bind (fun c => productOf c.cmd) with
    | none => s
    | some p =>
      let chunks := chunksOfPass p st st.prog.pass
      let last := decide (st.prog.pass + 1 = passCount p st)
      engFail key (readPassB s g p chunks.flatten st.groups) (fun pb s =>
        match passRows g p pb chunks last (128 - st.prog.row) st.prog.row s with
        | .stopped s => s
        | .whole s =>
          let s := updStream { s with fresh := s.fresh + 65536 } key (fun st =>
            { st with granted := false, inPass := false, seen := [], prog := { st.prog with pass := st.prog.pass + 1, row := 0 }
                      marks := { st.marks with plc := some s.dt } })
          if last then endProduct s key st p else s)

/-- R223: the end of a cohort whose crews ended while its stream was busy. -/
def endIdleStream (s : State) (key : Nat) : State :=
  match s.streams.find key with
  | none => s
  | some st => if (s.cohorts.find st.cohort).any (·.state == .running) then
      endDone s st.cohort (((crewsOf s st.cohort).head?.map (·.1)).getD 0)
    else s

/-- R229: the pass in progress of an engine finishes its rows, or stops before a row that it cannot compute. -/
def execPassComplete (cluster : Nat) (s : State) : Host.Outcome State Fault Refusal :=
  match ((List.range 8).map (cluster * 8 + ·)).find? (fun k => ((s.streams.find k).map (·.granted)).getD false) with
  | none => .next s
  | some k => .next (endIdleStream (runPass s k) k)

/-- R244: a page unresolved for more than 2^20 ticks kills the cohort. -/
def execMatrixFaultLimit (stream : Nat) (s : State) : Host.Outcome State Fault Refusal :=
  match s.streams.find stream with
  | none => .next s
  | some st => if st.run == .faulted && !st.doom && decide (2 ^ 20 < ticksSince s st.faultDT) then .next (doomStream s stream) else .next s

-- MZERO, MMASK, MDRAIN at the head of the queue (R507, R516, R521)

/-- The command that a stream performs now. -/
def headCommand (s : State) (key : Nat) : Option (Eng × Stream × MQueued) :=
  match engOf s key with
  | none => none
  | some (g, st, _) => if streamRuns s key then st.cmds.head?.map (fun c => (g, st, c)) else none

/-- R521. -/
def execMzeroPerform (stream : Nat) (s : State) : Host.Outcome State Fault Refusal :=
  match headCommand s stream with
  | none => .next s
  | some (_, _, c) =>
    match c.cmd with
    | .mzero => .next (endCommand (updStream s stream (fun st => { st with tile := [] })) stream)
    | _ => .next s

/-- R239, R516. -/
def execMmaskPerform (stream : Nat) (s : State) : Host.Outcome State Fault Refusal :=
  match headCommand s stream with
  | none => .next s
  | some (g, _, c) =>
    match c.cmd with
    | .mmask _ true => .next (endCommand (updStream s stream (fun st => { st with mask := { st.mask with mode := 0 } })) stream)
    | .mmask addr false =>
      .next (engFail stream (engReadN (noteProgress s stream 0 0 c.seq) g 2 addr 704) (fun bs s =>
        match maskOfBlock bs with
        | none => stopFree s stream 4
        | some m => endCommand (updStream s stream (fun st => { st with mask := m })) stream))
    | _ => .next s

/-- R235: the fields of an MDRAIN. -/
structure Drain where
  stats : Nat
  key   : W64
  pos   : W32
  seq   : W32
  rnd   : Rnd
  epi   : Epi
  merge : Bool
  clr   : Bool
  notile : Bool
  keyed : Bool
  hd    : Nat

/-- The drain of a command. -/
def drainOf : MCmd → Option Drain
  | .mdrain stats key pos sq rnd epi merge clr notile keyed hd =>
    some { stats := stats, key := key, pos := pos, seq := sq, rnd := rnd, epi := epi, merge := merge, clr := clr
           notile := notile, keyed := keyed, hd := hd }
  | _ => none

/-- R508: the included columns of a tile row, each with its key index. -/
def included (st : Stream) (i : Nat) : List (Nat × Nat) :=
  match st.ref with
  | .none => []
  | .mma brow rows => ((List.range 256).filter (fun j => decide (brow + j < rows))).map (fun j => (j, brow + j))
  | .mgrp gs =>
    match gs.find? (fun x => decide (x.1 ≤ i) && decide (i < x.1 + x.2.1)) with
    | some x => ((List.range 256).filter (fun j => decide (j < x.2.2))).map (fun j => (j, j))
    | none => []

/-- R241, R264: the noise word of an element of GMAX. A physical word is a free value (log entry 2). -/
def gmaxWord (s : State) (g : Eng) (d : Drain) (i j kj : Nat) : W32 :=
  if d.keyed || repeatable s g.ctx then BitVec.ofNat 32 (philox d.key (BitVec.ofNat 32 kj) d.pos d.seq 2).c0
  else Config.freeWord (s.fresh + i * 256 + j)

/-- R240, R241: the statistics of a row as 8 bytes. -/
def statRecord (s : State) (g : Eng) (st : Stream) (d : Drain) (i : Nat) (old : Option (Nat × Nat)) : List Byte :=
  let inc := included st i
  let (a, b) : Nat × Nat := match d.epi with
    | .gmax =>
      let ps := inc.map (fun c => (addF32 (tileAt st.tile i c.1).toNat (gumbel (gmaxWord s g d i c.1 c.2)), c.2 % 2 ^ 32))
      gmaxRecord (match old with
        | some o => o :: ps
        | none => ps)
    | _ => smaxRecord (inc.map (fun c => (tileAt st.tile i c.1).toNat)) old
  leBytes 4 a ++ leBytes 4 b

/-- R507: the rows of a drain's destination. -/
def drainRows (d : Drain) (r : BitVec 512) : Nat := if d.notile then 128 else Nat.min 128 (layRows r)

/-- R235, R507: the rows that are written together: a band of 16 where blocks run along rows. -/
def bandOf (d : Drain) (r : BitVec 512) : Nat := if !d.notile && isBlock (layFmt r) && layBdir r then 16 else 1

/-- A bit field to be written: an address, the lowest bit, the number of bits, the value. -/
structure FieldWrite where
  addr : Nat
  lo   : Nat
  bits : Nat
  val  : Nat

/-- Writes fields of one byte into a byte. -/
def mergeByte (old : Byte) (fs : List FieldWrite) : Byte :=
  fs.foldl (fun b f =>
    let m := (2 ^ f.bits - 1) * 2 ^ f.lo % 256
    BitVec.ofNat 8 ((b.toNat &&& (255 - m)) ||| (f.val * 2 ^ f.lo % 256))) old

/-- An element as fields within bytes. -/
def elemFields (r : BitVec 512) (row k v : Nat) : List FieldWrite :=
  let e := elemSpan r row k
  (List.range ((e.lo + e.bits + 7) / 8)).map (fun i =>
    let lo := if i = 0 then e.lo else 0
    let skip := if i = 0 then 0 else 8 * i - e.lo
    { addr := layByte r (e.off + i), lo := lo, bits := Nat.min (e.bits - skip) (8 - lo), val := v / 2 ^ skip % 2 ^ (Nat.min (e.bits - skip) (8 - lo)) })

/-- R113, R235: the fields and scale bytes that a band of rows writes. -/
def bandFields (st : Stream) (d : Drain) (r : BitVec 512) (i n : Nat) : List FieldWrite × List (Nat × Byte) :=
  let cols := Nat.min 256 (layInner r)
  let x (row j : Nat) : Nat := (tileAt st.tile row j).toNat
  let fmt := layFmt r
  if !isBlock fmt then
    ((List.range n).flatMap (fun di => (List.range cols).flatMap (fun j =>
      elemFields r (i + di) j (drainPlain fmt d.rnd (x (i + di) j)))), [])
  else
    let blocks : List (List (Nat × Nat)) :=
      if layBdir r then (List.range cols).map (fun j => (List.range 16).map (fun t => (i + t, j)))
      else (List.range n).flatMap (fun di => (List.range (cols / 16)).map (fun b => (List.range 16).map (fun t => (i + di, 16 * b + t))))
    let ws := blocks.map (fun b => (b, writeBlock fmt (b.map (fun c => x c.1 c.2))))
    (ws.flatMap (fun w => (w.1.zip w.2.2).flatMap (fun c => elemFields r c.1.1 c.1.2 c.2)),
      ws.filterMap (fun w => w.1.head?.map (fun c => (scaleByte r c.1 c.2, BitVec.ofNat 8 w.2.1))))

/-- Translates the pages of writes to virtual addresses. -/
def engWriteAddrs (s : State) (g : Eng) : List Nat → EngAns (List (Nat × Nat))
  | [] => .ok [] s
  | va :: vas =>
    match engXlate s g va 2 true with
    | .ok pa s =>
      match engWriteAddrs s g vas with
      | .ok ps s => .ok ((va, pa) :: ps) s
      | r => r
    | .wait s => .wait s
    | .fault t s => .fault t s
    | .kill s => .kill s

/-- The translated address of a byte. -/
def paOf (ps : List (Nat × Nat)) (va : Nat) : Nat := ((ps.find? (fun p => p.1 == va)).map (·.2)).getD 0

/-- Writes whole bytes at physical addresses on the MTX path of the stream, whose largest Tw grows; the engine's copies of
their lines are dropped (R147, R238). -/
def engStore (s : State) (g : Eng) (ws : List (Nat × Byte)) : State :=
  let (s, tw) := arriveAll s (engSrc s g) (splitLines ws)
  let lines := nubNat (ws.map (fun w => lineOf w.1))
  let s := updCluster s g.cl (fun c => { c with opLines := c.opLines.filter (fun e => !lines.contains e.line) })
  updStream s g.key (fun st => { st with drainMax := Nat.max st.drainMax tw })

/-- R235: the elements of a band are written to the tile store or to global memory. -/
def writeBand (s : State) (g : Eng) (r : BitVec 512) (fs : List FieldWrite) (scales : List (Nat × Byte)) : EngAns Unit :=
  let addrs := nubNat (fs.map (·.addr))
  let bytes (old : Nat → Byte) : List (Nat × Byte) := addrs.map (fun a => (a, mergeByte (old a) (fs.filter (fun f => f.addr == a))))
  match s.cohorts.find g.cohort with
  | none => .kill s
  | some c =>
    if layTile r && addrs.any (fun a => decide (c.alloc ≤ a)) then .kill s
    else
      let vas := (if layTile r then [] else addrs) ++ scales.map (·.1)
      match engWriteAddrs s g vas with
      | .wait s => .wait s
      | .fault t s => .fault t s
      | .kill s => .kill s
      | .ok ps s =>
        match engRace s g true (vas.map (fun a => (paOf ps a, a))) with
        | .error _ => .kill s
        | .ok s =>
          let s := if layTile r then
              updCohort s g.cohort (fun c => { c with tile := (bytes (Memory.get c.tile)).foldl (fun t b => Memory.set t b.1 b.2) c.tile })
            else engStore s g ((bytes (fun a => (readNewest s (paOf ps a) 1).getD 0 emptyByte)).map (fun b => (paOf ps b.1, b.2)))
          .ok () (engStore s g (scales.map (fun b => (paOf ps b.1, b.2))))

/-- R240, R241: the old records of a band of rows, in the merge forms. -/
def statOlds (s : State) (g : Eng) (d : Drain) (i b : Nat) : EngAns (List (Option (Nat × Nat))) :=
  match d.epi, d.merge with
  | .none, _ => .ok [] s
  | _, false => .ok (List.replicate b none) s
  | _, true =>
    match engReadN s g 2 (d.stats + 8 * i) (8 * b) with
    | .ok bs s => .ok ((List.range b).map (fun j =>
        some (leNat ((bs.drop (8 * j)).take 4), leNat ((bs.drop (8 * j + 4)).take 4)))) s
    | .wait s => .wait s
    | .fault t s => .fault t s
    | .kill s => .kill s

/-- R240, R357: the places of the records of a band of rows, translated and checked. -/
def statPlaces (s : State) (g : Eng) (d : Drain) (i b : Nat) : EngAns (List (Nat × Nat)) :=
  match d.epi with
  | .none => .ok [] s
  | _ =>
    match engWriteAddrs s g ((List.range b).map (fun j => d.stats + 8 * (i + j))) with
    | .ok ps s =>
      match engRace s g true (ps.map (fun p => (p.2, p.1))) with
      | .error _ => .kill s
      | .ok s => .ok ps s
    | r => r

/-- R240, R241, R507: the statistics records of a band of rows from row i. -/
def writeStats (s : State) (g : Eng) (st : Stream) (d : Drain) (i : Nat) (olds : List (Option (Nat × Nat)))
    (ps : List (Nat × Nat)) : State :=
  engStore s g ((olds.zip ps).zipIdx.flatMap (fun x => numbered x.1.2.2 (statRecord s g st d (i + x.2) x.1.1)))

/-- R507: the rows of a drain from row i on, band by band; nothing of a band is written before all of it can be. -/
def drainFrom (g : Eng) (d : Drain) (r : BitVec 512) : Nat → State → State
  | 0, s => s
  | n + 1, s =>
    match s.streams.find g.key with
    | none => s
    | some st =>
      let i := st.prog.row
      let rows := drainRows d r
      if rows ≤ i then
        updStream s g.key (fun st => { st with tile := if d.clr then [] else st.tile, drainTw := some st.drainMax })
      else
        let b := Nat.min (bandOf d r) (rows - i)
        let (fs, scales) := if d.notile then ([], []) else bandFields st d r i b
        engFail g.key (statOlds s g d i b) (fun olds s =>
          engFail g.key (statPlaces s g d i b) (fun ps s =>
            engFail g.key (if d.notile then .ok () s else writeBand s g r fs scales) (fun _ s =>
              drainFrom g d r n (updStream (writeStats s g st d i olds ps) g.key (fun st =>
                { st with prog := { st.prog with row := i + b } })))))

/-- R235, R366: a drain takes its entry, and its task's copy-out begins. -/
def takeDrainEntry (s : State) (key hd : Nat) : State :=
  let gen := match s.streams.find key with
    | some st => SMap.getD st.gens hd 0
    | none => 0
  let s := updCluster s (key / 8) (fun c =>
    { c with resv := c.resv.put (key % 8 * 4 + 3) { drain := true, second := false, gen := gen, handle := hd } })
  updStream s key (fun st => { st with inDrain := true, pend := st.pend ++ [{ st.marks with coi := some s.dt }], marks := {} })

/-- R174, R235, R507, R509: a stream reaches MDRAIN: it waits for entry 4s + 3 and for the earlier loads of its crew, reads
HD, and writes rows. -/
def execMdrainPerform (stream : Nat) (s : State) : Host.Outcome State Fault Refusal :=
  match headCommand s stream with
  | none => .next s
  | some (g, st, c) =>
    match drainOf c.cmd with
    | none => .next s
    | some d =>
      if st.drainTw.isSome || !loadsReturned s ((controlOf s g.cohort).getD 0) c.id then .next s
      else
        let entry := (SMap.getD s.clusters g.cl {}).resv.find (stream % 8 * 4 + 3)
        if !st.inDrain && entry.isSome then .next s
        else
          let s := if st.inDrain then s else takeDrainEntry (noteProgress s stream 0 0 c.seq) stream d.hd
          let run (r : BitVec 512) (s : State) : State :=
            { drainFrom g d r 129 s with fresh := s.fresh + 65536 }
          if d.notile then .next (run 0 (updStream s stream (fun st => { st with started := true })))
          else if st.started then .next (run st.recA s)
          else
            .next (engFail stream (readLayout s g d.hd) (fun r s =>
              if layMalformed r .drain then stopStream s stream 2 d.hd (keptRow s stream)
              else run r (updStream s stream (fun st => { st with started := true, recA := r }))))

/-- R235: every write of a drain is acknowledged: its entry becomes READY, and the command is complete. -/
def execDrainComplete (stream : Nat) (s : State) : Host.Outcome State Fault Refusal :=
  match headCommand s stream with
  | none => .next s
  | some (g, st, _) =>
    match st.drainTw with
    | none => .next s
    | some tw =>
      let s := updCluster s g.cl (fun c =>
        { c with resv := c.resv.change (stream % 8 * 4 + 3) (fun e => { e with second := true, tw := tw }) })
      let s := updStream s stream (fun st =>
        { st with pend := changeAt st.pend (st.pend.length - 1) (fun m => { m with coc := some s.dt }) })
      let s := match controlOf s g.cohort with
        | some k => ackTw s k 2 tw
        | none => s
      .next (endIdleStream (endCommand s stream) stream)

end Sys2Proof.Machine
end

