-- ==== Sys2Proof/Machine/MatrixOps.lean ====
section
/-! DEFINITION. MatrixOps.lean: the matrix group: the instructions of the control crew, which enter its stream's queue
or wait for it (R221, R505 to R521), and TILEPOST and TILEWAIT (R233, R234, R559 to R562). -/
namespace Sys2Proof.Machine

/-- The matrix stream of the executing crew's cohort, with its key. -/
def Env.stream (e : Env) : Option (Nat × Stream) :=
  match e.s.cohorts.find e.crew.cohort with
  | none => none
  | some c => (streamKey c).bind (fun k => (e.s.streams.find k).map (fun st => (k, st)))

/-- R221, R505: a command enters the queue of the crew's stream, or the split waits while the queue is full. -/
def Env.command (e : Env) (c : MCmd) : Eff :=
  match e.stream with
  | none => .next e.s
  | some (k, st) =>
    if 16 ≤ st.cmds.length then .hold (.waitOperand .commandRoom) e.s
    else
      .next (updStream { e.s with nextId := e.s.nextId + 1 } k (fun st =>
        { st with cmds := st.cmds ++ [{ seq := st.lastSeq + 1, cmd := c, id := e.s.nextId }], lastSeq := st.lastSeq + 1
                  last := !c.isDrain
                  run := if st.run == .idle then .active else st.run }))

/-- R505: a command whose guard is true. -/
def Env.guarded (e : Env) (k : Eff) : Eff := if e.lanes.isEmpty then .next e.s else k

/-- A 32-bit operand of a command as a number. -/
def Env.num (e : Env) (a : Src) : Nat := (e.int32 a e.lead).toNat

/-- A 64-bit operand of a command. -/
def Env.wide (e : Env) (a : Src) : W64 := e.int .w64 a e.lead

/-- R512, R513. -/
def execMma (g : Guard) (arow brow k0 : Src) (ha hb : BitVec 12) (km1 : BitVec 20) (lastA lastB : Bool) (s : State) :
    Host.Outcome State Fault Refusal :=
  issue s (.mma g arow brow k0 ha hb km1 lastA lastB) (fun e => e.guarded
    (e.command (.mma (e.num arow) (e.num brow) (e.num k0) ha.toNat hb.toNat (km1.toNat + 1) lastA lastB false)))

/-- R512, R514. -/
def execMmas (g : Guard) (arow brow k0 : Src) (ha hb : BitVec 12) (km1 : BitVec 20) (lastA lastB : Bool) (s : State) :
    Host.Outcome State Fault Refusal :=
  issue s (.mmas g arow brow k0 ha hb km1 lastA lastB) (fun e => e.guarded
    (if e.num k0 % 64 ≠ 0 then .trap { code := 0x03 }
     else e.command (.mma (e.num arow) (e.num brow) (e.num k0) ha.toNat hb.toNat (km1.toNat + 1) lastA lastB true)))

/-- R510. -/
def execMgrp (g : Guard) (table k0 groups : Src) (ha : BitVec 12) (km1 : BitVec 20) (lastA : Bool) (s : State) :
    Host.Outcome State Fault Refusal :=
  issue s (.mgrp g table k0 groups ha km1 lastA) (fun e => e.guarded
    (if e.num groups < 1 || 64 < e.num groups then .trap { code := 0x03 }
     else if (e.wide table).toNat % 16 ≠ 0 then .trap { code := 0x07, addr := e.wide table }
     else e.command (.mgrp (e.wide table).toNat (e.num k0) (e.num groups) ha.toNat (km1.toNat + 1) lastA)))

/-- R521. -/
def execMzero (g : Guard) (s : State) : Host.Outcome State Fault Refusal :=
  issue s (.mzero g) (fun e => e.guarded (e.command .mzero))

/-- R506. -/
def execMdrain (g : Guard) (stats key posseq : Src) (rnd : Rnd) (epi : Epi) (merge clr notile keyed : Bool)
    (hd : BitVec 12) (s : State) : Host.Outcome State Fault Refusal :=
  issue s (.mdrain g stats key posseq rnd epi merge clr notile keyed hd) (fun e => e.guarded
    (if epi != .none && (e.wide stats).toNat % 8 != 0 then .trap { code := 0x07, addr := e.wide stats }
     else e.command (.mdrain (e.wide stats).toNat (e.wide key) (lo32 (e.wide posseq)) (hi32 (e.wide posseq)) rnd epi merge
       clr notile keyed hd.toNat)))

/-- R516. -/
def execMmask (g : Guard) (addr : Src) (off : Bool) (s : State) : Host.Outcome State Fault Refusal :=
  issue s (.mmask g addr off) (fun e => e.guarded
    (if !off && (e.wide addr).toNat % 64 != 0 then .trap { code := 0x07, addr := e.wide addr }
     else e.command (.mmask (e.wide addr).toNat off)))

/-- Writes a named register in the active lanes at once: an instruction of class L that has waited itself. -/
def Env.fill (e : Env) (s : State) (d : Dest) (v : W32) : Eff :=
  match d with
  | .named n => .next (updCrew s e.cid (fun cr => cr.writeReg n.toNat (e.lanes.map (fun l => (l, v)))))
  | _ => .next s

/-- R243: the report of a stop. -/
def stopReport (c : StopCause) : Report :=
  { code := if c.cause = 3 then 0x0B else 0x0C
    addr := BitVec.ofNat 64 (c.cause * 2 ^ 24 + c.handle * 2 ^ 12 + c.row) }

/-- R243, R519, R520. -/
def execMwait (g : Guard) (d : Dest) (s : State) : Host.Outcome State Fault Refusal :=
  issue s (.mwait g d) (fun e => e.guarded
    (match e.stream with
     | none => .next e.s
     | some (k, st) =>
       match st.stop with
       | some c =>
         if !c.reported then
           .trapNoted (stopReport c) (updStream e.s k (fun st => { st with stop := some { c with reported := true } }))
         else
           .hold (.waitOperand .stream) (updStream e.s k (fun st => { st with run := .active, stop := none, started := false }))
       | none => if st.cmds.isEmpty then e.fill e.s d st.doneSeq else .hold (.waitOperand .stream) e.s))

-- the tile handshake

/-- Whether the executing crew's cohort has no stream (R219). -/
def Env.noStream (e : Env) : Bool := e.stream.isNone

/-- The reservation table of the executing crew's cluster. -/
def Env.resv (e : Env) (k : Nat) : SMap Resv := (SMap.getD e.s.clusters (k / 8) {}).resv

/-- Changes the reservation table of the cluster of a stream. -/
def setResv (s : State) (k : Nat) (f : SMap Resv → SMap Resv) : State :=
  updCluster s (k / 8) (fun c => { c with resv := f c.resv })

/-- R233: the post entry that a TILEPOST takes: its handle's, or the lowest free one of three. -/
def postSlot (s : State) (k h : Nat) : Option Nat :=
  match postEntry s k h with
  | some (i, r) => if r.second then some i else none
  | none => ((List.range 3).map (k % 8 * 4 + ·)).find? (fun i => ((SMap.getD s.clusters (k / 8) {}).resv.find i).isNone)

/-- R233: the tile of a handle is posted with its next generation, as it stands; each stream counts a handle's posts from 0
(log entry 117: DESIGN CHOICE). -/
def postTile (s : State) (k cohort h i : Nat) : State :=
  let gen := (((s.streams.find k).map (fun st => SMap.getD st.gens h 0)).getD 0 + 1) % 256
  let tile := ((s.cohorts.find cohort).map (·.tile)).getD []
  let s := updStream s k (fun st => { st with gens := st.gens.put h gen })
  updCluster s (k / 8) (fun c =>
    { c with resv := c.resv.put i { drain := false, second := false, gen := gen, handle := h }
             opTiles := (k % 8, h, gen, tile) :: c.opTiles.filter (fun t => !(t.1 == k % 8 && t.2.1 == h)) })

/-- R233, R559. -/
def execTilepost (g : Guard) (h : BitVec 12) (s : State) : Host.Outcome State Fault Refusal :=
  issue s (.tilepost g h) (fun e =>
    match e.stream with
    | none => .trap { code := 0x03 }
    | some (k, _) =>
      if e.lanes.isEmpty then .next e.s
      else
        match postSlot e.s k h.toNat with
        | none => .hold (.waitOperand (.postRoom h.toNat)) e.s
        | some i => .next (postTile e.s k e.crew.cohort h.toNat i))

/-- R366: the oldest drained tile task of a stream retires. -/
def retireTask (s : State) (cid k : Nat) (c : Cohort) : State :=
  match s.streams.find k with
  | none => s
  | some st =>
    let s := match st.pend with
      | m :: _ => postStamp s cid c.queue (tileRecord s c 2 (k / 8) st.task m)
      | [] => s
    updStream s k (fun st => { st with pend := st.pend.drop 1, task := st.task + 1 })

/-- R560 to R562: TILEWAIT on a post entry. -/
def Env.waitPost (e : Env) (k h : Nat) (d : Dest) : Eff :=
  match postEntry e.s k h with
  | none => e.fill e.s d 0xFFFFFFFF
  | some (i, r) =>
    if !r.second then .hold (.waitOperand (.entry h false)) e.s
    else e.fill (wakeCohort (setResv e.s k (fun m => m.del i)) e.crew.cohort) d (BitVec.ofNat 32 r.gen)

/-- R235, R561, R366: TILEWAIT on the drain entry. -/
def Env.waitDrain (e : Env) (k h : Nat) (d : Dest) : Eff :=
  match (e.resv k).find (k % 8 * 4 + 3) with
  | none => .hold (.waitOperand (.entry h true)) e.s
  | some r =>
    if r.handle != h || !r.second then .hold (.waitOperand (.entry h true)) e.s
    else
      let s := setResv e.s k (fun m => m.del (k % 8 * 4 + 3))
      let s := ackTw s e.cid 2 r.tw
      let s := match s.cohorts.find e.crew.cohort with
        | some c => retireTask s e.cid k c
        | none => s
      e.fill s d (BitVec.ofNat 32 (0x100 + r.gen))

/-- R560 to R562. -/
def execTilewait (g : Guard) (d : Dest) (h : BitVec 12) (drain : Bool) (s : State) : Host.Outcome State Fault Refusal :=
  issue s (.tilewait g d h drain) (fun e =>
    match e.stream with
    | none => .trap { code := 0x03 }
    | some (k, _) =>
      if e.lanes.isEmpty then .next e.s
      else if drain then e.waitDrain k h.toNat d
      else e.waitPost k h.toNat d)

end Sys2Proof.Machine
end

