-- ==== Sys2Proof/Machine/Wells.lean ====
section
/-! DEFINITION. Wells.lean: the sampling wells: their queues, couplings, updates, noise, monitors and links (R247 to
R274), and the well group's instructions (R568 to R579). -/
namespace Sys2Proof.Machine

/-- A well; one that nothing has touched is as reset leaves it (R249, R250). -/
def wellOf (s : State) (w : Nat) : Well := SMap.getD s.wells w {}

/-- Changes a well. -/
def updWell (s : State) (w : Nat) (f : Well → Well) : State := { s with wells := s.wells.put w (f (wellOf s w)) }

/-- The die of a well (R22). -/
def dieOfWell (w : Nat) : Nat := Config.dieOfUnit (w / 2)

/-- R261: whether a well's effective MODE is KEYED. -/
def wellKeyed (s : State) (w : Nat) : Bool :=
  (wellOf s w).keyed || (match (wellOf s w).owner with
    | some c => repeatable s c
    | none => false)

/-- R247: the reset values, which a well returns to when its context ends; its monitors and its gating stay. -/
def Well.released (x : Well) : Well :=
  { subst := x.subst, fails := x.fails, requal := x.requal, gated := x.gated }

-- cells, directory, couplings, slots (R249 to R252, R266)

/-- A cell of a well. -/
def Well.cell (x : Well) (i : Nat) : Cell := SMap.getD x.cells i {}

/-- R249: a cell image. -/
def Cell.image (c : Cell) : W64 :=
  c.cnt ++ c.h ++ (0 : BitVec 8) ++ c.col ++ (0 : BitVec 1) ++ BitVec.ofBool c.clv ++ BitVec.ofBool c.clf ++ (0 : BitVec 1)
    ++ BitVec.ofBool c.m

/-- R249: the cell that an image writes. -/
def cellOfImage (x : W64) : Cell :=
  let clf := x.getLsbD 2
  let clv := x.getLsbD 3
  { cnt := x.extractLsb' 32 32, h := x.extractLsb' 16 16, col := x.extractLsb' 5 3, clv := clv, clf := clf
    m := if clf then clv else x.getLsbD 0 }

/-- R249: writes a cell's clamp. -/
def Cell.clamped (c : Cell) (clf clv : Bool) : Cell := { c with clf := clf, clv := clv, m := if clf then clv else c.m }

/-- R252: a cell's resident entries as first entry and number; none for a malformed directory entry. -/
def dirSpan (d : W32) : Option (Nat × Nat) :=
  let start := (d.extractLsb' 15 17).toNat
  let num := (d.extractLsb' 0 13).toNat
  if 4096 < num || 131072 < start + num || d.extractLsb' 13 2 != 0 then none else some (start, num)

/-- R251: a coupling entry whose reserved field is not 0. -/
def couplingBad (c : W32) : Bool := c.extractLsb' 8 11 != 0
/-- R251. -/
def couplingRemote (c : W32) : Bool := c.getLsbD 31
/-- R251. -/
def couplingIndex (c : W32) : Nat := (c.extractLsb' 19 12).toNat
/-- R251. -/
def couplingWeight (c : W32) : Int := (c.extractLsb' 0 8).toInt

/-- R266: whether a boundary slot is in use. -/
def slotValid (v : W32) : Bool := v.getLsbD 31
/-- R266. -/
def slotWell (v : W32) : Nat := (v.extractLsb' 12 9).toNat
/-- R266. -/
def slotCell (v : W32) : Nat := (v.extractLsb' 0 12).toNat

/-- A boundary slot of a well. -/
def Well.slot (x : Well) (i : Nat) : W32 := SMap.getD x.slots i 0

/-- R252: the resident coupling entries of a cell, and whether its directory entry is malformed. -/
def Well.resident (x : Well) (i : Nat) : List W32 × Bool :=
  match dirSpan (SMap.getD x.dir i 0) with
  | none => ([], true)
  | some (a, n) => ((List.range n).map (fun k => SMap.getD x.coup (a + k) 0), false)

-- publication (R267)

/-- R267: the valid slots of a well that name a source well, as slot and cell. -/
def Well.linksTo (x : Well) (w : Nat) : List (Nat × Nat) :=
  (x.slots.filter (fun p => slotValid p.2 && slotWell p.2 == w)).map (fun p => (p.1, slotCell p.2))

/-- R267: the states of a well's linked cells leave for the slots that name them, tagged with its SWP. -/
def publish (s : State) (w : Nat) : State :=
  let src := wellOf s w
  { s with wells := s.wells.mapAll (fun _ x =>
      { x with flight := x.flight ++ (x.linksTo w).map (fun p => (p.1, src.swp, (src.cell p.2).m)) }) }

/-- R267: the first published state on its way to a slot arrives; the slot keeps the tags from 15 below it. -/
def execBoundaryStateArrive (well slot : Nat) (s : State) : Host.Outcome State Fault Refusal :=
  let x := wellOf s well
  match x.flight.find? (fun f => f.1 == slot) with
  | none => .next s
  | some (_, tag, m) =>
    let i := (x.flight.takeWhile (fun f => f.1 != slot)).length
    let kept := (SMap.getD x.hist slot []).filter (fun p => decide (p.1 ≤ tag) && decide (tag ≤ p.1 + 15))
    .next (updWell s well (fun x =>
      { x with flight := x.flight.eraseIdx i, hist := x.hist.put slot (SMap.put kept tag m) }))

/-- R268: j*. -/
def Well.oldest (x : Well) : Nat := x.swp - x.stale

/-- R268: the boundary value of a slot at a sweep's start, once it has arrived. -/
def Well.boundary (x : Well) (keyed : Bool) (slot : Nat) : Option Bool :=
  let h := SMap.getD x.hist slot []
  if keyed then h.find x.oldest
  else (greatestBy (·.1) (h.filter (fun p => decide (x.oldest ≤ p.1)))).map (·.2)

/-- R268: the valid slots that a sweep of some classes reads: those its resident remote couplings name, and, where it
streams couplings, any (log entry 120: DESIGN CHOICE). -/
def Well.slotsRead (x : Well) (classes : List Nat) (streams : Bool) : List Nat :=
  let all := (x.slots.filter (fun p => slotValid p.2)).map (·.1)
  if streams then all
  else
    let cells := x.dir.filter (fun p => classes.contains (x.cell p.1).col.toNat && !(x.cell p.1).clf)
    let named := cells.flatMap (fun p => (x.resident p.1).1.filterMap (fun c =>
      if couplingRemote c && !couplingBad c then some (couplingIndex c) else none))
    all.filter (fun i => named.contains i)

/-- R269: whether a source well in KEYED waits for a KEYED consumer. -/
def sourceWaits (s : State) (w : Nat) : Bool :=
  let src := wellOf s w
  wellKeyed s w && s.wells.any (fun p => wellKeyed s p.1 && !(p.2.linksTo w).isEmpty && decide (p.2.swp + 15 ≤ src.swp + p.2.stale))

/-- The sweep at the head of a well's queue: its command, classes, .phys and stream. -/
def Well.sweeping (x : Well) : Option (WellCmd × List Nat × Bool × Option (WellSrc × Nat)) :=
  match x.queue with
  | [] => none
  | c :: _ =>
    match c.body with
    | .sweep _ _ classes phys src => some (c, classes, phys, src)
    | _ => none

/-- R268, R269: whether a well whose sweep is to start waits for a state. -/
def linkWaits (s : State) (w : Nat) : Bool :=
  let x := wellOf s w
  match x.sweeping, x.sweep with
  | some (_, classes, _, src), some p =>
    !p.begun && (sourceWaits s w
      || (x.slotsRead classes src.isSome).any (fun i => (x.boundary (wellKeyed s w) i).isNone))
  | _, _ => false

-- reads of a well (R253, R274, R357)

/-- R314: the requester of a well's fault record. -/
def wellRequester (w : Nat) (c : WellCmd) : Requester :=
  { ekind := 4, eid := w, queue := c.node.1, cseq := c.node.2, path := 4, acc := 0 }

/-- R357: the race check of a stream read, with the identity of the crew's cohort. -/
def wellRace (s : State) (ctx : Nat) (c : WellCmd) (ps : List (Nat × Nat)) : Except Unit State :=
  if !repeatable s ctx then .ok s
  else
    match raceAccess s ctx c.who true false ps with
    | .error _ => .error ()
    | .ok s => .ok s

/-- What a read of a well answers. -/
inductive WellAns (α : Type)
  | ok (x : α) (s : State)
  | wait (s : State)
  /-- an access violation -/
  | violation (s : State)
  /-- the cohort is killed (R335, R360) -/
  | kill (s : State)

/-- The bytes of a small element at a virtual address, on the WELL path. -/
def wellRead (s : State) (w ctx : Nat) (c : WellCmd) (stream : Bool) (va n : Nat) : WellAns Nat :=
  match translate s none (dieOfWell w) ctx va { r := true } true with
  | (.notPresent lvl, s) =>
    match joinFault s ctx va lvl (wellRequester w c) with
    | (some tag, s) =>
      .wait (updWell s w (fun x => { x with queue := changeAt x.queue 0 (fun q => { q with fault := some tag }) }))
    | (none, s) => .wait s
  | (.ok pa, s) =>
    if isClosed s pa then .wait s
    else if needsFill s (lineOf pa) then .wait (askFill s (lineOf pa))
    else if lostGranule s pa then .kill s
    else
      match (if stream then wellRace s ctx c ((List.range n).map (fun i => (pa + i, va + i))) else .ok s) with
      | .error _ => .kill s
      | .ok s => .ok (leNat (readHome s pa n)) (touchWindows s pa)
  | (.stall _, s) => .wait s
  | (_, s) => .violation s

/-- An element of n bytes at an offset from a command's source. -/
def srcRead (s : State) (w ctx : Nat) (c : WellCmd) (stream : Bool) (src : WellSrc) (o n : Nat) : WellAns Nat :=
  match src with
  | .global r off =>
    wellRead s w ctx c stream (recAddr r (off + o)) n
  | .tile k off xs =>
    match s.cohorts.find k with
    | none => .violation s
    | some h =>
      if h.alloc < off + o + n then .violation s
      else .ok (leNat (Memory.getN h.tile (swz (off + o) xs) n)) s
  | .kept t off xs => .ok (leNat (Memory.getN t (swz (off + o) xs) n)) s

/-- R322: the demand requests for the lines of a read of n bytes at an offset from a source in global memory. -/
def countSrc (s : State) (w ctx : Nat) (src : WellSrc) (o n : Nat) : State :=
  match src with
  | .global r off =>
    let lo := recAddr r (off + o) / 128
    let hi := (recAddr r (off + o) + n + 127) / 128
    (List.range (hi - lo)).foldl (fun s i => countWell s w ctx ((lo + i) * 128) 0) s
  | _ => s

/-- A doubleword of a sweep's stream area. -/
def streamWord (s : State) (w ctx : Nat) (c : WellCmd) (src : WellSrc) (i : Nat) : WellAns W64 :=
  match srcRead s w ctx c true src (8 * i) 8 with
  | .ok x s => .ok (BitVec.ofNat 64 x) s
  | .wait s => .wait s
  | .violation s => .violation s
  | .kill s => .kill s

/-- Several doublewords of the area, in order. -/
def streamWords (w ctx : Nat) (c : WellCmd) (src : WellSrc) : Nat → Nat → State → WellAns (List W64)
  | 0, _, s => .ok [] s
  | n + 1, i, s =>
    match streamWord s w ctx c src i with
    | .ok x s =>
      match streamWords w ctx c src n (i + 1) s with
      | .ok xs s => .ok (x :: xs) s
      | r => r
    | .wait s => .wait s
    | .violation s => .violation s
    | .kill s => .kill s

/-- R253, R578: the records of a class in a stream area of `len` records; none where its range is out of the area. -/
def classRecords (s : State) (w ctx : Nat) (c : WellCmd) (src : WellSrc) (len cls : Nat) : WellAns (List W64 × Bool) :=
  match streamWord s w ctx c src cls with
  | .wait s => .wait s
  | .violation s => .violation s
  | .kill s => .kill s
  | .ok h s =>
    let first := (hi32 h).toNat
    let n := (lo32 h).toNat
    if len < first + n then .ok ([], true) s
    else
      match streamWords w ctx c src n (8 + first) s with
      | .ok xs s =>
        let s := countSrc s w ctx src (8 * cls) 8
        .ok (xs, false) (if n = 0 then s else countSrc s w ctx src (64 + 8 * first) (8 * n))
      | .wait s => .wait s
      | .violation s => .violation s
      | .kill s => .kill s

-- the update (R254, R255)

/-- What the sum of some coupling entries of a cell answers: the sum, CERR and LINKERR. -/
structure Sum where
  total   : Int := 0
  cerr    : Bool := false
  linkerr : Bool := false

/-- R251, R254, R266: a coupling entry joins a sum; `x` is the well as the class began. -/
def Sum.join (x : Well) (bound : SMap Bool) (a : Sum) (c : W32) : Sum :=
  let add (m : Bool) : Sum := { a with total := a.total + (if m then couplingWeight c else -couplingWeight c) }
  if couplingBad c then { a with cerr := true }
  else if !couplingRemote c then add (x.cell (couplingIndex c)).m
  else if !slotValid (x.slot (couplingIndex c)) then { a with linkerr := true }
  else add (SMap.getD bound (couplingIndex c) false)

/-- R254, R257: x, as a binary32 value. -/
def updateArg (beta scale : BitVec 16) (i : Int) : Nat :=
  let f := fmtOf .f16
  let p := FVal.mulExact (FVal.mulExact (.num false 1 1) (FVal.mulExact (f.decode beta.toNat) (f.decode scale.toNat)))
    (intValue i)
  ((fmtOf .f32).mulV {} p (.num false 1 0)).1

/-- R254, R257: p16 from x, where it is a number: min(floor(p·65,536), 65,535). -/
def updateProb (x : Nat) : Nat :=
  match (fmtOf .f32).decode ((fmtOf .f32).apply .sig {} ((fmtOf .f32).decode x)).1 with
  | .num _ m e =>
    let k := e + 16
    Nat.min 65535 (if k < 0 then m / 2 ^ (-k).toNat else m * 2 ^ k.toNat)
  | _ => 0

/-- R259, R264: the noise word of a cell's update. A physical word is a free value (log entry 2). -/
def noise16 (s : State) (w : Nat) (x : Well) (i : Nat) : Nat :=
  let keyed (k : W64) : Nat :=
    (philox k (BitVec.ofNat 32 i) (BitVec.ofNat 32 x.swp) (BitVec.ofNat 32 (x.swp / 2 ^ 32 % 2 ^ 16 + w * 2 ^ 16)) 0).c0 / 65536
  if wellKeyed s w then keyed x.key
  else
    match x.subst with
    | some k => keyed k
    | none => (Config.freeWord (s.fresh + i)).toNat / 65536

/-- A stream record of a class (R253): the target and the entry. -/
def recordTarget (r : W64) : Nat := (r.extractLsb' 32 12).toNat

/-- R253: the stream records of a class that count: reserved field 0 and target of its colour. -/
def goodRecord (x : Well) (cls : Nat) (r : W64) : Bool :=
  r.extractLsb' 44 20 == 0 && (x.cell (recordTarget r)).col.toNat == cls

/-- R254, R257: the update of a cell, with the flags it sets: PNAN, ISAT, CERR, LINKERR. -/
def updateCell (s : State) (w : Nat) (x : Well) (bound : SMap Bool) (recs : List W64) (i : Nat) :
    Cell × Bool × Bool × Bool × Bool :=
  let c := x.cell i
  let (es, bad) := x.resident i
  let es := es ++ (recs.filter (fun r => recordTarget r == i)).map lo32
  let a := es.foldl (Sum.join x bound) { total := c.h.toInt, cerr := bad }
  let sat := decide (2 ^ 23 - 1 < a.total) || decide (a.total < -(2 ^ 23))
  let k : Int := if (2 ^ 23 - 1 : Int) < a.total then 2 ^ 23 - 1 else if a.total < -(2 ^ 23) then -(2 ^ 23) else a.total
  let v := updateArg x.beta x.scale k
  let isNan := nan32 v
  let p := if isNan then 0 else updateProb v
  ({ c with m := decide (noise16 s w x i < p) }, isNan, sat, a.cerr, a.linkerr)

/-- R254, R255: a class of cells is updated at once. -/
def updateClass (s : State) (w : Nat) (x : Well) (bound : SMap Bool) (recs : List W64) (cls : Nat) : Well :=
  let cells := (List.range 4096).filter (fun i => (x.cell i).col.toNat == cls && !(x.cell i).clf)
  let good := recs.filter (goodRecord x cls)
  let rs := cells.map (fun i => (i, updateCell s w x bound good i))
  { x with cells := rs.foldl (fun m r => m.put r.1 r.2.1) x.cells
           pnan := x.pnan || rs.any (fun r => r.2.2.1)
           isat := x.isat || rs.any (fun r => r.2.2.2.1)
           cerr := x.cerr || rs.any (fun r => r.2.2.2.2.1) || decide (good.length < recs.length)
           linkerr := x.linkerr || rs.any (fun r => r.2.2.2.2.2) }

/-- R256: the end of a sweep: CNT of every cell at +1, and SWP. -/
def Well.sweepEnd (x : Well) : Well :=
  { x with swp := (x.swp + 1) % 2 ^ 48
           cells := x.cells.mapAll (fun _ c =>
             if c.m then { c with cnt := if c.cnt = BitVec.allOnes 32 then c.cnt else c.cnt + 1 } else c) }

-- commands (R248, R261, R262)

/-- R262: the causes of WELL_FAULT. -/
inductive WellCause | substituted | keyed | stale | access
deriving DecidableEq, Repr

/-- R262. -/
def WellCause.code : WellCause → Nat
  | .substituted => 1 | .keyed => 2 | .stale => 3 | .access => 4

/-- The command at the head of a well's queue leaves it; `count` adds 1 to its counter (R47). -/
def wellPop (s : State) (w : Nat) (count : Bool) : State :=
  match (wellOf s w).queue with
  | [] => s
  | c :: cs =>
    let s := updWell s w (fun x => { x with queue := cs, sweep := none })
    let s := match c.kc with
      | some k =>
        let s := updCrew s c.crew (fun cr => { cr with pendCnt := changeAt cr.pendCnt k (· - 1) })
        if count then addCount s c.crew k else s
      | none => s
    wakeAll s

/-- R248, R262: the command at the head of a well's queue ends: with its count, or with a deferred WELL_FAULT. -/
def wellDone (s : State) (w : Nat) (cause : Option WellCause) : State :=
  match (wellOf s w).queue, cause with
  | [], _ => s
  | _, none => wellPop s w true
  | c :: _, some f =>
    deferReport (wellPop s w false) c.crew c.lanes { code := 0x0D, addr := BitVec.ofNat 64 (f.code * 2 ^ 24 + w) }

/-- R335, R360: a well's read kills the cohort of the command, which ends. -/
def wellKill (s : State) (w : Nat) (c : WellCmd) : State :=
  let s := match s.crews.find c.crew with
    | some cr => killCohort s cr.cohort
    | none => s
  wellPop s w false

/-- R574: the bytes of an element. -/
def loadSize : WloadKind → Nat
  | .cells => 8 | .dir => 4 | .coup => 4 | .scale => 2

/-- R249 to R252, R574: an element is written. -/
def Well.loadElem (x : Well) (kind : WloadKind) (i v : Nat) : Well :=
  match kind with
  | .cells => { x with cells := x.cells.put i (cellOfImage (BitVec.ofNat 64 v)) }
  | .dir => { x with dir := x.dir.put i (BitVec.ofNat 32 v) }
  | .coup => { x with coup := x.coup.put i (BitVec.ofNat 32 v) }
  | .scale => { x with scale := BitVec.ofNat 16 v }

/-- R322: the line request of an element of a WLOAD, where it is the first on its line. -/
def countElem (s : State) (w ctx : Nat) (src : WellSrc) (size i : Nat) : State :=
  match src with
  | .global r off => if i = 0 || recAddr r (off + i * size) % 128 = 0 then countSrc s w ctx src (i * size) size else s
  | _ => s

/-- R574: the elements of a WLOAD from `i` on. -/
def loadFrom (w ctx : Nat) (c : WellCmd) (kind : WloadKind) (src : WellSrc) (first : Nat) : Nat → Nat → State → State
  | 0, _, s => wellDone s w none
  | n + 1, i, s =>
    match srcRead s w ctx c false src (i * loadSize kind) (loadSize kind) with
    | .ok v s =>
      let s := countElem s w ctx src (loadSize kind) i
      loadFrom w ctx c kind src first n (i + 1) (updWell s w (fun x =>
        { x.loadElem kind (first + i) v with queue := changeAt x.queue 0 (fun q =>
            { q with body := .load kind src first (i + 1 + n) (i + 1) }) }))
    | .wait s => s
    | .violation s => wellDone s w (some .access)
    | .kill s => wellKill s w c

/-- R266, R267, R269: a slot is written; whether its source is too far ahead, so that it is left invalid. -/
def linkSlot (w : Nat) (stale : Nat) (a : State × Bool) (p : Nat × W32) : State × Bool :=
  let (s, late) := a
  let x := wellOf s w
  let put (v : W32) : State := updWell s w (fun x =>
    if x.slot p.1 = v then x
    else { x with slots := x.slots.put p.1 v, hist := x.hist.del p.1, flight := x.flight.filter (fun f => f.1 != p.1) })
  let src := wellOf s (slotWell p.2)
  if !slotValid p.2 then (put p.2, late)
  else if x.swp - stale + 15 < src.swp then (put (p.2 &&& 0x7FFFFFFF), true)
  else if x.slot p.1 = p.2 then (s, late)
  else
    (updWell (put p.2) w (fun x => { x with flight := x.flight ++ [(p.1, src.swp, (src.cell (slotCell p.2)).m)] }), late)

/-- R576: a value that WREAD reads. -/
def Well.readElem (x : Well) (kind : WreadKind) (i : Nat) : BitVec 128 :=
  match kind with
  | .cell => (x.cell i).image.setWidth 128
  | .dir => (SMap.getD x.dir i 0).setWidth 128
  | .coup => (SMap.getD x.coup i 0).setWidth 128
  | .slot => (x.slot i).setWidth 128

/-- R262: a sweep begins: with .phys in KEYED, or substituted, it updates nothing. -/
def beginSweep (s : State) (w : Nat) (beta : BitVec 16) (n : Nat) (phys : Bool) : State :=
  let s := updWell s w (fun x => { x with beta := beta })
  if phys && wellKeyed s w then wellDone s w (some .keyed)
  else if phys && (wellOf s w).subst.isSome then wellDone s w (some .substituted)
  else updWell s w (fun x => { x with sweep := some { left := n, cls := 0 } })

/-- R248, R571 to R578: what the command at the head of a well's queue does. -/
def performWell (s : State) (w ctx : Nat) (c : WellCmd) : State :=
  match c.body with
  | .load kind src first count doneN => loadFrom w ctx c kind src first (count - doneN) doneN s
  | .bias xs => wellDone (updWell s w (fun x =>
      { x with cells := xs.foldl (fun m p => m.put p.1 { (SMap.getD m p.1 {}) with h := p.2 }) x.cells })) w none
  | .clamp xs => wellDone (updWell s w (fun x =>
      { x with cells := xs.foldl (fun m p => m.put p.1 ((SMap.getD m p.1 {} : Cell).clamped p.2.1 p.2.2)) x.cells })) w none
  | .key k => wellDone (updWell s w (fun x => { x with key := k, keyed := true, swp := 0 })) w none
  | .phys => wellDone (updWell s w (fun x => { x with keyed := false, swp := 0 })) w none
  | .sweep beta n _ phys _ => beginSweep s w beta n phys
  | .read kind xs acc =>
    wellDone (updAcc s acc (fun a =>
      { a with ready := true, result := xs.map (fun p => (p.1, (wellOf s w).readElem kind p.2)) })) w none
  | .link xs stale =>
    let (s, late) := xs.foldl (linkSlot w stale) (s, false)
    wellDone (updWell s w (fun x => { x with stale := stale })) w (if late then some .stale else none)

/-- R271: whether a well works now. -/
def wellRuns (x : Well) : Bool := !x.gated && !x.saved && x.queue.head?.any (fun c => c.fault.isNone)

/-- R248: a well performs its next queued command; of a WSWEEP, its beginning. -/
def execWellCommandPerform (well : Nat) (s : State) : Host.Outcome State Fault Refusal :=
  let x := wellOf s well
  match x.queue, x.owner with
  | c :: _, some ctx => if wellRuns x && x.sweep.isNone then .next (performWell s well ctx c) else .next s
  | _, _ => .next s

/-- R256, R268: the class at the sweep's position, and the end of the sweep with the last. -/
def classStep (s : State) (w ctx : Nat) (c : WellCmd) (classes : List Nat) (src : Option (WellSrc × Nat)) (p : SweepPos) :
    State :=
  let x := wellOf s w
  let p : SweepPos := if p.begun then p else
    { p with begun := true, bound := (x.slotsRead classes src.isSome).foldl (fun m i =>
        match x.boundary (wellKeyed s w) i with
        | some b => m.put i b
        | none => m) [] }
  let s := updWell s w (fun x => { x with sweep := some p })
  let cls := classes.getD p.cls 0
  let ans := match src with
    | none => WellAns.ok ([], false) s
    | some (a, len) => classRecords s w ctx c a len cls
  match ans with
  | .wait s => s
  | .violation s => wellDone s w (some .access)
  | .kill s => wellKill s w c
  | .ok (recs, bad) s =>
    let s := updWell { s with fresh := s.fresh + 4096 } w (fun x =>
      let y := updateClass s w x p.bound recs cls
      { y with cerr := y.cerr || bad, sweep := some { p with cls := p.cls + 1 } })
    if p.cls + 1 < classes.length then s
    else
      let s := publish (updWell s w Well.sweepEnd) w
      if p.left ≤ 1 then wellDone s w none
      else updWell s w (fun x => { x with sweep := some { left := p.left - 1, cls := 0 } })

/-- R253 to R256, R262, R268, R269: a colour class of a sweep is updated. -/
def execWellClassUpdate (well : Nat) (s : State) : Host.Outcome State Fault Refusal :=
  let x := wellOf s well
  match x.sweeping, x.sweep, x.owner with
  | some (c, classes, phys, src), some p, some ctx =>
    if !wellRuns x then .next s
    else if phys && x.subst.isSome then .next (wellDone s well (some .substituted))
    else if linkWaits s well then .next s
    else .next (classStep s well ctx c classes src p)
  | _, _, _ => .next s

-- health monitors (R263 to R265)

/-- R263: the monitors that a window fails: bit 16 the correlation monitor, bits 15 to 0 the bias monitors. `ones` holds
the 16 counts of ones, 17 bits each, and `corr` is A. -/
def windowFails (s : State) (ones corr : Nat) : Nat :=
  let far (a b t : Nat) : Bool := decide (b + t < a) || decide (a + t < b)
  let bias := (List.range 16).filter (fun b => far (ones / 2 ^ (17 * b) % 2 ^ 17) 32768 s.csrs.biasThr)
  sumOf (bias.map (fun b => 2 ^ b)) + (if far corr (8 * 65535) (8 * s.csrs.corrThr) then 2 ^ 16 else 0)

/-- R262, R273: a .phys sweep under way in a substituted well stops at its class boundary, before the well is gated or
saved there; one that is saved stops when it resumes. -/
def stopPhys (s : State) (w : Nat) : State :=
  let x := wellOf s w
  match x.sweeping, x.sweep with
  | some (_, _, true, _), some _ => if x.saved then s else wellDone s w (some .substituted)
  | _, _ => s

/-- R264: a well is substituted. The substitute key is a free value (log entry 2). -/
def substitute (s : State) (w failed : Nat) : State :=
  let key : W64 := Config.freeWord s.fresh ++ Config.freeWord (s.fresh + 1)
  let s := stopPhys (updWell { s with fresh := s.fresh + 2 } w (fun x => { x with subst := some key })) w
  barPost .dbg s (record256 [(192, s.dt), (48, (wellOf s w).owner.getD 0xFFF), (31, failed), (8, w), (0, 0x31)])

/-- R265: a window of a well under requalification. -/
def requalWindow (s : State) (w : Nat) (pass : Bool) : State :=
  match (wellOf s w).requal with
  | none => s
  | some n =>
    let s := updWell s w (fun x =>
      if !pass then { x with requal := none }
      else if 4 ≤ n + 1 then { x with requal := none, subst := none }
      else { x with requal := some (n + 1) })
    { s with csrs := { s.csrs with requal := s.wells.any (fun p => p.2.requal.isSome) } }

/-- R263 to R265: a monitor window is judged; FAILED shows the second failing window's monitors (log entry 122: DESIGN
CHOICE). -/
def execHealthWindow (well ones corr : Nat) (s : State) : Host.Outcome State Fault Refusal :=
  let x := wellOf s well
  if x.gated || 512 ≤ well then .next s
  else
    let failed := windowFails s ones corr
    let n := if failed = 0 then 0 else x.fails + 1
    let s := updWell s well (fun x => { x with fails := n })
    let s := if 2 ≤ n && x.subst.isNone then substitute s well failed else s
    .next (requalWindow s well (failed == 0))

-- the instructions (R568 to R579)

/-- R570: the checks that every well instruction makes of its well, and of the operands that `bad` finds out of range. -/
def Env.onWell (e : Env) (w : Nat) (bad : Bool) (k : Eff) : Eff :=
  if 511 < w || bad then .trap { code := 0x03 }
  else if (wellOf e.s w).owner ≠ some e.crew.ctx then .trap { code := 0x09, addr := BitVec.ofNat 64 w }
  else k

/-- R248: a command enters a well's queue, or the split waits while it is full. -/
def Env.wellQueue (e : Env) (s : State) (w : Nat) (cnt : Option WellCount) (body : WellBody) : Eff :=
  if 8 ≤ (wellOf s w).queue.length then .hold (.waitOperand (.wellRoom w)) e.s
  else
    let kc := (cnt.filter (·.ce)).map (fun c => c.kc.toNat)
    let s := updWell { s with nextId := s.nextId + 1 } w (fun x =>
      { x with queue := x.queue ++ [{ id := s.nextId, crew := e.cid, lanes := e.split.mask, kc := kc, body := body
                                      core := unitOf s e.crew, who := crewIdent s e.cid
                                      node := ((s.cohorts.find e.crew.cohort).map (fun c => (c.queue, c.cseq))).getD (0, 0) }] })
    match kc with
    | some k => .next (updCrew s e.cid (fun cr => { cr with pendCnt := changeAt cr.pendCnt k (· + 1) }))
    | none => .next s

/-- A crew-uniform operand and the rest of a well instruction, where a lane is active (R568). -/
def Env.wells (e : Env) (w : Src) (k : Nat → Eff) : Eff := if e.lanes.isEmpty then .next e.s else k (e.num w)

/-- The values of a per-lane operand. -/
def Env.nums (e : Env) (a : Src) : List Nat := e.lanes.map (fun l => (e.int32 a l).toNat)

/-- R574. -/
def loadLimit : WloadKind → Nat
  | .cells => 4096 | .dir => 4096 | .coup => 131072 | .scale => 1

/-- R151, R574, R579: the checks of a source of n bytes at an offset, whose elements are aligned to `al`. -/
def Env.wellSource (e : Env) (tile : Bool) (br : BitVec 4) (xs : BitVec 3) (off n al : Nat) : Option Report :=
  let c : CopyRect := { off := off, stride := 0, rows := 1, rb := n }
  let bounds := if tile then e.copyTile xs c else e.copyGlobal br { r := true } c
  match bounds with
  | some t => some t
  | none =>
    let base := if tile then 0 else recBase (e.recBits br)
    if (base + off) % al ≠ 0 then some { code := 0x07, addr := BitVec.ofNat 64 off } else none

/-- The source of a command. -/
def Env.source (e : Env) (tile : Bool) (br : BitVec 4) (xs : BitVec 3) (off : Nat) : WellSrc :=
  if tile then .tile e.crew.cohort off xs.toNat else .global (e.recBits br) off

/-- R574. -/
def execWload (g : Guard) (w off first : Src) (kind : WloadKind) (sp : Bool) (cnt : WellCount) (br : BitVec 4)
    (xs : BitVec 3) (count : BitVec 18) (s : State) : Host.Outcome State Fault Refusal :=
  issue s (.wload g w off first kind sp cnt br xs count) (fun e => e.wells w (fun id =>
    let o := e.num off
    let i := e.num first
    let n := count.toNat
    e.onWell id (decide (loadLimit kind < i + n))
      (match e.wellSource sp br xs o (n * loadSize kind) (loadSize kind) with
       | some t => .trap t
       | none => e.wellQueue e.s id (some cnt) (.load kind (e.source sp br xs o) i n 0))))

/-- R571. -/
def execWbias (g : Guard) (w cell bias : Src) (cnt : WellCount) (s : State) : Host.Outcome State Fault Refusal :=
  issue s (.wbias g w cell bias cnt) (fun e => e.wells w (fun id =>
    e.onWell id ((e.nums cell).any (fun i => decide (4095 < i)))
      (e.wellQueue e.s id (some cnt) (.bias (e.lanes.map (fun l =>
        ((e.int32 cell l).toNat, (e.int32 bias l).setWidth 16)))))))

/-- R571. -/
def execWclamp (g : Guard) (w cell clamp : Src) (cnt : WellCount) (s : State) : Host.Outcome State Fault Refusal :=
  issue s (.wclamp g w cell clamp cnt) (fun e => e.wells w (fun id =>
    e.onWell id ((e.nums cell).any (fun i => decide (4095 < i)))
      (e.wellQueue e.s id (some cnt) (.clamp (e.lanes.map (fun l =>
        ((e.int32 cell l).toNat, (e.int32 clamp l).getLsbD 1, (e.int32 clamp l).getLsbD 0)))))))

/-- R578: the classes of a sweep. -/
def classList (order n : Nat) : List Nat := (List.range n).map (fun i => order / 2 ^ (3 * i) % 8)

/-- R578, R579. -/
def execWsweep (g : Guard) (w off order : Src) (nclsm1 : BitVec 3) (cnt : WellCount) (x : SweepExt) (s : State) :
    Host.Outcome State Fault Refusal :=
  issue s (.wsweep g w off order nclsm1 cnt x) (fun e => e.wells w (fun id =>
    let cs := classList (e.num order) (nclsm1.toNat + 1)
    let o := e.num off
    e.onWell id ((nubNat cs).length != cs.length)
      (match (if x.str then e.wellSource x.ssp x.br x.xs o (64 + 8 * x.len.toNat) 8 else none) with
       | some t => .trap t
       | none =>
         e.wellQueue e.s id (some cnt) (.sweep x.beta x.sweeps.toNat cs x.phys
           (if x.str then some (e.source x.ssp x.br x.xs o, x.len.toNat) else none)))))

/-- R576. -/
def readLimit : WreadKind → Nat
  | .cell => 4096 | .dir => 4096 | .coup => 131072 | .slot => 4096

/-- R576: the destination of a WREAD. -/
def readWidth : WreadKind → Width
  | .cell => .w64
  | _ => .w32

/-- R248, R576. -/
def execWread (g : Guard) (d : Dest) (w index : Src) (kind : WreadKind) (s : State) : Host.Outcome State Fault Refusal :=
  issue s (.wread g d w index kind) (fun e => e.wells w (fun id =>
    e.onWell id ((e.nums index).any (fun i => decide (readLimit kind ≤ i)))
      (let (s, acc) := e.post e.s (.l d (readWidth kind)) (fun a =>
         { e.access (.wread id) 0 0 (e.lanes.map (fun l => { lane := l, va := 0 })) a with lines := [], xlated := true })
       e.wellQueue s id none (.read kind (e.lanes.map (fun l => (l, (e.int32 index l).toNat))) acc))))

/-- The 64-bit key of a WKEY. -/
def Env.key (e : Env) (key : Src) (imm : Option W64) : W64 := imm.getD (e.wide key)

/-- R261, R572. -/
def execWkey (g : Guard) (w key : Src) (imm : Option W64) (cnt : WellCount) (s : State) : Host.Outcome State Fault Refusal :=
  issue s (.wkey g w key imm cnt) (fun e => e.wells w (fun id =>
    e.onWell id false (e.wellQueue e.s id (some cnt) (.key (e.key key imm)))))

/-- R261, R572. -/
def execWkeyPhys (g : Guard) (w : Src) (cnt : WellCount) (s : State) : Host.Outcome State Fault Refusal :=
  issue s (.wkeyPhys g w cnt) (fun e => e.wells w (fun id =>
    e.onWell id false (e.wellQueue e.s id (some cnt) .phys)))

/-- R260, R572. -/
def execWkeyDraw (g : Guard) (key : Src) (imm : Option W64) (s : State) : Host.Outcome State Fault Refusal :=
  issue s (.wkeyDraw g key imm) (fun e =>
    if e.lanes.isEmpty then .next e.s
    else .next (updCrew e.s e.cid (fun cr => { cr with drawKey := e.key key imm, drawIdx := 0 })))

/-- R260, R575. -/
def execWnoise (g : Guard) (d : Dest) (keyed : Bool) (s : State) : Host.Outcome State Fault Refusal :=
  issue s (.wnoise g d keyed) (fun e =>
    if e.lanes.isEmpty then .next e.s
    else
      let (ns, s) := drawNoise e.s e.cid e.crew keyed e.lanes
      Env.due { e with s := s } (.l d .w32) .noise true (ns.map (fun p => (p.1, p.2.setWidth 128))) 0 none)

/-- R270, R271: the status word of a well; the command being performed counts in its depth (log entry 121: DESIGN
CHOICE). -/
def wellStatus (s : State) (w : Nat) : W32 :=
  let x := wellOf s w
  let st := if x.gated then 3 else if linkWaits s w then 2 else if x.queue.isEmpty then 0 else 1
  let b (v : Bool) (k : Nat) : Nat := if v then 2 ^ k else 0
  BitVec.ofNat 32 (st * 2 ^ 29 + b x.subst.isSome 28 + b (wellKeyed s w) 27 + b x.pnan 26 + b x.isat 25 + b x.cerr 24
    + b x.linkerr 23 + x.queue.length * 2 ^ 16 + x.swp % 65536)

/-- R270, R577. -/
def execWstat (g : Guard) (d : Dest) (w : Src) (s : State) : Host.Outcome State Fault Refusal :=
  issue s (.wstat g d w) (fun e => e.wells w (fun id =>
    e.onWell id false
      (let v := wellStatus e.s id
       let s := updWell e.s id (fun x => { x with pnan := false, isat := false, cerr := false, linkerr := false })
       Env.due { e with s := s } (.l d .w32) .value true (e.lanes.map (fun l => (l, v.setWidth 128))) 0 none)))

/-- R573: whether a slot value's reserved bits are not 0. -/
def slotBad (v : W32) : Bool := v.extractLsb' 21 10 != 0

/-- R573. -/
def execWlink (g : Guard) (w slot value : Src) (cnt : WellCount) (stale : BitVec 4) (s : State) :
    Host.Outcome State Fault Refusal :=
  issue s (.wlink g w slot value cnt stale) (fun e => e.wells w (fun id =>
    let xs := e.lanes.map (fun l => ((e.int32 slot l).toNat, e.int32 value l))
    e.onWell id (xs.any (fun p => decide (4095 < p.1) || slotBad p.2))
      (match xs.find? (fun p => slotValid p.2 && (wellOf e.s (slotWell p.2)).owner != some e.crew.ctx) with
       | some p => .trap { code := 0x09, addr := BitVec.ofNat 64 (slotWell p.2) }
       | none => e.wellQueue e.s id (some cnt) (.link xs stale.toNat))))

end Sys2Proof.Machine
end

