-- ==== Sys2Proof/Machine/TileOps.lean ====
section
/-! DEFINITION. TileOps.lean: SPFREE (R145, R552, R553). -/
namespace Sys2Proof.Machine

/-- Whether a range of addresses meets the upper part of an allocation, from `lo` to `hi`. -/
def meets (lo hi a n : Nat) : Bool := decide (a < hi) && decide (lo < a + n)

/-- R145: whether a side of a copy is in a cohort's freed range. The range is of whole 128-byte lines, within which the
swizzle moves bytes. -/
def copyMeets (c : CopyOp) (lo hi : Nat) (sd : CopySide) : Bool :=
  match sd with
  | .tile off stride _ => (List.range c.rows).any (fun r => meets lo hi (off + r * stride) c.rb)
  | .global _ _ _ | .kept _ _ _ _ => false

/-- R226: the bytes from the first element of a record to its last. -/
def layReach (r : BitVec 512) : Nat :=
  let rows := if isBlock (layFmt r) && layBdir r then (layRows r + 15) / 16 else layRows r
  let width := if isBlock (layFmt r) then
      (if layBdir r then layInner r else (layInner r + 15) / 16) * blockBytes (layFmt r)
    else if layFmt r = 11 then 4 * layInner r
    else (layInner r * fmtClass (layFmt r) + 7) / 8
  if rows = 0 then 0 else (rows - 1) * layRstride r + width

/-- R145, R185, R224: a layout record as it stands: the cluster's copy of it, else memory's; none where its page is not
present. -/
def layNow (s : State) (cl ctx h : Nat) : Option (BitVec 512) :=
  match (SMap.getD s.clusters cl {}).layouts.find (ctx * 4096 + h) with
  | some bs => some (BitVec.ofNat 512 (leNat bs))
  | none => (peek s none (cl / 16) ctx (layVA s ctx h)).map (fun pa => BitVec.ofNat 512 (leNat (readNewest s pa 64)))

/-- R231: the records of B that a group table in memory names. -/
def tableHandles (s : State) (cl ctx table groups : Nat) : List Nat :=
  (List.range groups).filterMap (fun i =>
    (peek s none (cl / 16) ctx (table + 16 * i)).map (fun pa => (groupEntry (readNewest s pa 16)).bh))

/-- The records that a queued command names. -/
def MCmd.handles (s : State) (cl ctx : Nat) : MCmd → List Nat
  | .mma _ _ _ ha hb _ _ _ _ => [ha, hb]
  | .mgrp table _ groups ha _ _ => ha :: tableHandles s cl ctx table groups
  | .mdrain _ _ _ _ _ _ _ _ notile _ hd => if notile then [] else [hd]
  | .mzero | .mmask _ _ => []

/-- R145, R232: the records under which a stream is still to read or write: of the command it performs, of its queue, and
of its tiles that are POSTED. -/
def streamRecords (s : State) (key ctx : Nat) (st : Stream) : List (BitVec 512) :=
  let cl := key / 8
  let posted := ((SMap.getD s.clusters cl {}).resv.filter (fun p => p.1 / 4 == key % 8 && !p.2.drain && !p.2.second)).map (·.2.handle)
  (if st.started then st.recA :: st.groups.map (·.layB) else [])
    ++ ((st.cmds.flatMap (fun c => c.cmd.handles s cl ctx)) ++ posted).filterMap (layNow s cl ctx)

/-- R145: whether a stream is still to read or write a freed range through a layout record. -/
def streamMeets (s : State) (key ctx : Nat) (st : Stream) (lo hi : Nat) : Bool :=
  (streamRecords s key ctx st).any (fun r => layTile r && meets lo hi (layAddr r) (layReach r))

/-- R574, R578: the bytes of a well command's source that it has still to read. -/
def wellReach (c : WellCmd) : Option (WellSrc × Nat) :=
  match c.body with
  | .load kind src _ count _ => some (src, count * loadSize kind)
  | .sweep _ _ _ _ (some (src, len)) => some (src, 64 + 8 * len)
  | _ => none

/-- R145: whether a well command of a cohort reads its freed range. -/
def wellMeets (k lo hi : Nat) (c : WellCmd) : Bool :=
  match wellReach c with
  | some (.tile j off _, n) => j == k && meets lo hi off n
  | _ => false

/-- R145: whether an access of a cohort to a range of its allocation is not complete. -/
def rangeBusy (s : State) (k lo hi : Nat) : Bool :=
  s.copies.any (fun p => p.2.cohort == k && p.2.crew.isSome && (copyMeets p.2 lo hi p.2.src || copyMeets p.2 lo hi p.2.dst))
    || s.streams.any (fun p => p.2.cohort == k && streamMeets s p.1 (((s.cohorts.find k).map (·.ctx)).getD 0) p.2 lo hi)
    || s.wells.any (fun p => p.2.queue.any (wellMeets k lo hi))

/-- R145: the bytes of an allocation below a limit. -/
def cutTile (t : Mem) (n : Nat) : Mem := t.filter (fun p => decide (p.1 < n))

/-- R145, R552, R553. -/
def execSpfree (g : Guard) (n : Src) (s : State) : Host.Outcome State Fault Refusal :=
  issue s (.spfree g n) (fun e =>
    if e.lanes.isEmpty then .next e.s
    else
      let k := (e.int32 n e.lead).toNat
      match e.cohort with
      | none => .next e.s
      | some c =>
        if k = 0 then .next e.s
        else if k % 128 ≠ 0 || c.alloc < c.staticReq + k then .trap { code := 0x06, addr := BitVec.ofNat 64 k }
        else if rangeBusy e.s e.crew.cohort (c.alloc - k) c.alloc then .hold (.waitOperand (.range (c.alloc - k) c.alloc)) e.s
        else .next (updCohort e.s e.crew.cohort (fun c =>
          { c with alloc := c.alloc - k, tile := cutTile c.tile (c.alloc - k) })))

end Sys2Proof.Machine
end

