-- ==== Sys2Proof/Machine/Faults.lean ====
section
/-! DEFINITION. Faults.lean: the delivery of deferred reports, context errors, the kill of a cohort, and the driver's
answers to page faults (R245, R315, R319, R320, R325, R395, R396). -/
namespace Sys2Proof.Machine

/-- R325: a deferred report of a crew is delivered where a split stands at a boundary to take it. -/
def execTrapDelivery (crew : Nat) (s : State) : Host.Outcome State Fault Refusal :=
  match s.crews.find crew with
  | none => .next s
  | some cr => .next (if crewRuns s cr && deferredDue cr then deliverDeferred s crew else s)

-- the kill of a cohort (R245)

/-- R223: the crews of a cohort end, and with them the cohort, once its stream has completed what it has begun. -/
def endCohortCrews (s : State) (k : Nat) (killed : Bool) : State :=
  let cs := crewsOf s k
  let s := cs.foldl (fun s p => endCrewOnly s p.1 .broken) s
  if (s.cohorts.find k).any (streamBusy s) then if killed then killCohort s k else s
  else endCohort s k ((cs.head?.map (·.1)).getD 0) killed

/-- R395, R396: a context error on behalf of a cohort. -/
def cohortError (s : State) (c : Cohort) (cause : Nat) : State :=
  updCtx s c.ctx (fun x =>
    if x.err.isNone then
      { x with err := some { cause := cause, queue := c.queue, cseq := c.cseq, ekind := 0, eid := c.core } }
    else x)

/-- R60, R245: a killed cohort ends; a RESTARTABLE one is to be placed again, with fresh state; for another the context
takes a context error. One whose launch is given up (R389, R395) only ends. -/
def execCohortKill (cohort : Nat) (s : State) : Host.Outcome State Fault Refusal :=
  match s.cohorts.find cohort with
  | none => .next s
  | some c =>
    if !c.kill || c.state = .ended then .next s
    else
      let s := barriersCheck (endCohortCrews s cohort true) cohort
      if (s.cohorts.find cohort).any (·.state != .ended) then .next s
      else
        match s.launches.find c.launch with
        | none => .next s
        | some ln =>
          .next (if ln.error then s
            else if ln.restart then
              { s with launches := s.launches.change c.launch (fun l => { l with again := l.again ++ [c.index] }) }
            else cohortError s c 0x22)

-- context errors (R395, R396)

/-- The node that runs for a graph, whose STATUS a context error writes; none between nodes. -/
def runningNode (g : GraphRun) : Option Nat :=
  match g.run with
  | .start | .stopBefore | .stopAfter _ | .ended => none
  | .loopNext => some ((g.loops.head?.map (·.node)).getD g.node)
  | _ => some g.node

/-- R277, R395: CONTEXT_ERROR is written to a queue's running node and entry, and the queue stops. -/
def stopQueue (s : State) (q : Nat) (x : Queue) : State :=
  let s := match x.graph with
    | none => s
    | some g =>
      let s := match runningNode g with
        | some n =>
          match translate s none 0 x.ctx (n + 2) { w := true } true with
          | (.ok pa, s) => (devWrite s pa (leBytes 2 9)).1
          | (_, s) => s
        | none => s
      completeEntry (sessionNode s q g.cseq 3 g.node) q 9 g.node
  updQueue s q (fun x => { x with state := if x.state = .badDoorbell then .badDoorbell else .stopped })

/-- R396: a CONTEXT_ERROR record. -/
def ctxErrorRecord (s : State) (ctx : Nat) (e : CtxErr) : BitVec 256 :=
  record256 [(192, s.dt), (108, ctx), (96, e.queue % 4096), (64, e.cseq.toNat), (56, e.cause), (44, e.eid), (40, e.ekind),
    (0, 0x57)]

/-- R24, R395: the service core's program ends with its context. -/
def endService (s : State) (ctx : Nat) : State :=
  ((s.crews.filter (fun p => p.2.engine == .service && p.2.ctx == ctx)).map (·.1)).foldl (fun s k => endCrewOnly s k .broken) s

/-- R395: ends every crew of a context and stops its queues. -/
def failContext (s : State) (ctx : Nat) : State :=
  let ks := (s.cohorts.filter (fun p => p.2.ctx == ctx && p.2.state != .ended)).map (·.1)
  let s := ks.foldl (fun s k => endCohortCrews s k false) (endService s ctx)
  let s := { s with launches := s.launches.mapAll (fun _ l => if l.ctx = ctx then { l with error := true } else l) }
  let s := (s.queues.filter (fun p => p.2.ctx == ctx)).foldl (fun s p => stopQueue s p.1 p.2) s
  updCtx s ctx (fun c => { c with err := none })

/-- R332, R344: the walk to the page of a running node's STATUS that waits for a stack or a closed region. -/
def statusStalls (s : State) (ctx : Nat) : Option State :=
  s.queues.vals.findSome? (fun x =>
    if x.ctx ≠ ctx then none
    else
      match x.graph.bind runningNode with
      | none => none
      | some n =>
        match translate s none 0 ctx (n + 2) { w := true } true with
        | (.stall _, s) => some s
        | _ => none)

/-- R395, R396: a context error is performed, once the pages of the STATUS words that it writes can be walked to. -/
def execContextError (ctx : Nat) (s : State) : Host.Outcome State Fault Refusal :=
  match (s.ctxs.find ctx).bind (·.err), statusStalls s ctx with
  | none, _ => .next s
  | some _, some s => .next s
  | some e, none => .next (barPost .evt (failContext s ctx) (ctxErrorRecord s ctx e))

-- answers to page faults (R315, R319, R320)

/-- R315: the driver's answers. -/
inductive Answer | resolved | violation | deliver
deriving DecidableEq, Repr

/-- Whether a crew belongs to a context. -/
def crewIn (s : State) (cid ctx : Nat) : Bool := ((s.crews.find cid).map (·.ctx)) == some ctx

/-- Whether a line request waits for a tag. -/
def LineReq.waitsTag (l : LineReq) (tag : Nat) : Bool :=
  match l.st with
  | .faulted t => t == tag
  | _ => false

/-- The accesses of a context that have joined a fault. -/
def joinedAccs (s : State) (ctx tag : Nat) : List (Nat × Access) :=
  s.accs.filter (fun p => p.2.ctx == ctx && p.2.lines.any (fun l => l.waitsTag tag))

/-- R320: the address that a report names: of the first lane on the first line that has joined. -/
def joinedVA (a : Access) (tag : Nat) : Nat :=
  match a.lines.find? (fun l => l.waitsTag tag) with
  | some l => a.vaOn l
  | none => 0

/-- R315, R319, R320: an answer for an access: it is walked again, or ends with a deferred report. An append ends as a
synchronisation engine's does (R542). -/
def answerAccess (ans : Answer) (tag : Nat) (s : State) (p : Nat × Access) : State :=
  match ans, p.2.kind with
  | .resolved, _ =>
    updAcc s p.1 (fun a => { a with lines := a.lines.map (fun l => if l.waitsTag tag then { l with st := .new } else l) })
  | _, .ring _ => appendFail s p.1
  | _, .stamp _ _ => appendFail s p.1
  | .violation, _ => violate s p.1 (reportVA 0x09 (joinedVA p.2 tag))
  | .deliver, _ => violate s p.1 (reportVA 0x08 (joinedVA p.2 tag))

/-- R154, R315: an answer for a copy. -/
def answerCopy (ans : Answer) (s : State) (c : CopyOp) : State :=
  match ans with
  | .resolved => updCopy s c.id (fun c => { c with fault := none })
  | _ => updCopy s c.id (fun c => { c with fault := none, failed := true })

/-- R277, R319: a violation that the pump meets: ACCESS, by where the graph stands. -/
def pumpViolation (s : State) (q : Nat) (g : GraphRun) : State :=
  match g.run, g.loops with
  | .start, _ =>
    finishNode (updQueue s q (fun x => { x with
      cseq := x.cseq + 1, graph := x.graph.map (fun g => { g with cseq := x.cseq, tw := 0, passed := false }) })) q 10 0
  | .loopNext, fr :: frs =>
    finishNode (updGraph s q (fun g => { g with loops := frs, node := fr.node, word := fr.word, cseq := fr.cseq })) q 10 0
  | .finishing _ _, _ => completeEntry s q 10 g.node
  | _, _ => finishNode s q 10 0

/-- R315: an answer for the running graph of a queue. -/
def answerGraph (ans : Answer) (s : State) (q : Nat) (g : GraphRun) : State :=
  let s := updGraph s q (fun g => { g with fault := none })
  match ans with
  | .resolved => s
  | _ => pumpViolation s q g

/-- R244, R315: an answer for a stream. -/
def answerStream (ans : Answer) (s : State) (key : Nat) : State :=
  let s := updStream s key (fun st =>
    { st with faultTag := none, doom := false, run := if st.run == .faulted then .active else st.run })
  match ans with
  | .resolved => s
  | _ => killStream s key

/-- R253, R262, R315: an answer for the command at the head of a well's queue. -/
def answerWell (ans : Answer) (s : State) (w : Nat) : State :=
  let s := updWell s w (fun x => { x with queue := changeAt x.queue 0 (fun q => { q with fault := none }) })
  match ans with
  | .resolved => s
  | _ => wellDone s w (some .access)

/-- R319, R326: the first address of a page that a fetch from an address, or a SIBCHK's read of its group, needs. -/
def fetchedVA (s : State) (cr : Crew) (at_ page : Nat) : Nat :=
  let g := groupVA s cr.ctx (cr.sib.toNat / 64)
  if cr.sib ≠ BitVec.allOnes 32 && g / 8192 = page then g else Nat.max at_ (page * 8192)

/-- R319: the trap of a split whose fetch, or whose SIBCHK's read of its group, meets a violation in a page: precise at
the header of its block. -/
def fetchViolation (s : State) (cid page : Nat) (sp : Split) : State :=
  match s.crews.find cid with
  | none => s
  | some cr =>
    let seg := ((launchOf s cr).map (·.seg)).getD 0
    match sp.place with
    | .header off how => takeTrap s cid sp.id (.header off how) (reportVA 0x09 (Nat.max (seg + off.toNat) (page * 8192)))
    | .word off =>
      let home : Place := match sp.block with
        | some b => .header b.off b.how
        | none => .word off
      takeTrap s cid sp.id home (reportVA 0x09 (fetchedVA s cr (seg + off) page))

/-- Whether a split waits for a tag. -/
def Split.waitsTag (sp : Split) (tag : Nat) : Bool :=
  match sp.state with
  | .waitOperand (.fetch t) => t == tag
  | _ => false

/-- R315, R319: an answer for the splits of a crew whose fetch waits. -/
def answerFetch (ans : Answer) (tag page : Nat) (s : State) (p : Nat × Crew) : State :=
  match ans with
  | .resolved => wakeSplits s p.1 (fun sp => sp.waitsTag tag)
  | _ => (p.2.splits.filter (fun sp => sp.waitsTag tag)).foldl (fun s sp =>
      fetchViolation (wakeSplits s p.1 (fun x => x.id == sp.id)) p.1 page sp) s

/-- R304, R315: an answer for the walk of a sibling's page list. -/
def answerWalk (ans : Answer) (s : State) (ctx k : Nat) : State :=
  updSib s ctx k (fun x => { x with fault := none, refused := x.refused || ans != .resolved })

/-- R315: an answer is applied to every joined request, and the tag is free; none where no such fault is outstanding. -/
def answerFault (s : State) (ctx tag : Nat) (ans : Answer) : Option State :=
  match s.ctxs.find ctx with
  | none => none
  | some c =>
    match c.faults.find tag with
    | none => none
    | some flt =>
      let held := c.pendFlt.contains tag
      let s := updCtx s ctx (fun c =>
        { c with faults := c.faults.del tag, pendFlt := c.pendFlt.filter (· != tag)
                 sumpUsed := if held then c.sumpUsed - 32 else c.sumpUsed })
      let s := (joinedAccs s ctx tag).foldl (answerAccess ans tag) s
      let s := (s.copies.filter (fun p => p.2.ctx == ctx && p.2.fault == some tag)).foldl (fun s p => answerCopy ans s p.2) s
      let s := (s.queues.filter (fun p => p.2.ctx == ctx)).foldl (fun s p =>
        match p.2.graph with
        | some g => if g.fault == some tag then answerGraph ans s p.1 g else s
        | none => s) s
      let s := (s.streams.filter (fun p => p.2.faultTag == some tag
          && ((s.cohorts.find p.2.cohort).map (·.ctx)) == some ctx)).foldl (fun s p => answerStream ans s p.1) s
      let s := (s.wells.filter (fun p => p.2.owner == some ctx
          && (p.2.queue.head?.bind (·.fault)) == some tag)).foldl (fun s p => answerWell ans s p.1) s
      let s := (c.sibs.filter (fun p => p.2.fault == some tag)).foldl (fun s p => answerWalk ans s ctx p.1) s
      let s := (s.crews.filter (fun p => p.2.ctx == ctx)).foldl (answerFetch ans tag flt.page) s
      some (wakeAll s)

end Sys2Proof.Machine
end

