-- ==== Sys2Proof/Machine/Host.lean ====
section
/-! DEFINITION. Host.lean: what the host sees of the module: the registers of BAR0, the user windows and doorbells, its
accesses to device memory, and the command ring (R184, R385 to R391, R396). -/
namespace Sys2Proof.Machine

/-- R19, R400: whether the host link accepts an access: not in BOOT_FAIL, nor after a device error; nor in BOOT
(log entry 115: DESIGN CHOICE). -/
def hostOpen (s : State) : Bool := s.devState == .ready

-- BAR0 (R390)

/-- R390: a LOG2 field written: the nearest limit of its range. -/
def clampLog2 (lo hi n : Nat) : Nat := Nat.min (Nat.max n lo) hi

/-- R390: a write of CMDCTL; LOG2 is taken up only while the ring is empty. -/
def CmdRegs.writeCtl (r : CmdRegs) (v : W32) : CmdRegs :=
  { r with log2 := if r.prod = r.cons then clampLog2 4 12 (fieldOf v 0 4) else r.log2
           vec := fieldOf v 16 11, novec := v.getLsbD 31 }

/-- R391: a write of CMDPROD; one that would pass more records than the ring holds is ignored. -/
def CmdRegs.writeProd (r : CmdRegs) (v : W32) : CmdRegs :=
  if (v - r.cons).toNat ≤ 2 ^ r.log2 then { r with prod := v } else r

/-- R390: a write of EVTBASE or DBGBASE, taken up only while the ring is empty; it is aligned at least to the size of the
smallest ring. -/
def DevRing.writeBase (r : DevRing) (v : W64) : DevRing :=
  if r.prod = r.cons then { r with base := v.toNat / 2048 * 2048 } else r

/-- R390: a write of EVTCTL or DBGCTL. -/
def DevRing.writeCtl (r : DevRing) (v : W32) : DevRing :=
  { r with log2 := if r.prod = r.cons then clampLog2 6 20 (fieldOf v 0 5) else r.log2
           vec := fieldOf v 16 11, en := v.getLsbD 31 }

/-- R396: held records of the device event ring are posted as far as there is room. -/
def drainEvents (s : State) : State := evtDrain (s.evt.held.length + 2) s

/-- R390: whether an offset of BAR0 lies in the MSI-X table, of 2,048 entries of 16 bytes. -/
def inMsix (off : Nat) : Bool := decide (0x100000 ≤ off) && decide (off < 0x108000) && off % 4 == 0

/-- R385, R390: an entry of the MSI-X table as it is written: at an 8-byte aligned offset 8 bytes, else 4 (log entry 113). -/
def MsixEntry.write (x : MsixEntry) (off : Nat) (v : W64) : MsixEntry :=
  match off % 16 with
  | 0 => { x with addr := v &&& 0xFFFFFFFFFFFFFFFC }
  | 4 => { x with addr := (lo32 v ++ lo32 x.addr : W64) }
  | 8 => { x with data := lo32 v, mask := v.getLsbD 32 }
  | _ => { x with mask := v.getLsbD 0 }

/-- R385, R390: an entry of the MSI-X table as it reads. -/
def MsixEntry.read (x : MsixEntry) (off : Nat) : W64 :=
  match off % 16 with
  | 0 => x.addr
  | 4 => x.addr >>> 32
  | 8 => (BitVec.ofNat 32 x.mask.toNat ++ x.data : W64)
  | _ => BitVec.ofNat 64 x.mask.toNat

/-- R390: a write of the MSI-X table: an interrupt that was pending is sent once its vector is unmasked. -/
def writeMsix (s : State) (off : Nat) (v : W64) : State :=
  let n := (off - 0x100000) / 16
  let x := (SMap.getD s.msix n {}).write off v
  { s with msix := s.msix.put n x, pba := if x.mask then s.pba else s.pba.filter (· != n) }

/-- R390: 64 bits of the PBA. -/
def pbaWord (s : State) (i : Nat) : W64 :=
  BitVec.ofNat 64 (sumOf ((List.range 64).map (fun b => if s.pba.contains (64 * i + b) then 2 ^ b else 0)))

/-- R390: a write of a BAR0 register. The low bits of CMDBASE read 0: it is 4 KiB aligned. -/
def writeBar0 (s : State) (off : Nat) (v : W64) : State :=
  match off with
  | 0x100 => if s.cmd.prod = s.cmd.cons then { s with cmd := { s.cmd with base := v.toNat / 4096 * 4096 } } else s
  | 0x108 => { s with cmd := s.cmd.writeCtl (lo32 v) }
  | 0x110 => { s with cmd := s.cmd.writeProd (lo32 v) }
  | 0x200 => { s with evt := s.evt.writeBase v }
  | 0x208 => drainEvents { s with evt := s.evt.writeCtl (lo32 v) }
  | 0x218 => drainEvents { s with evt := { s.evt with cons := lo32 v } }
  | 0x300 => { s with dbg := s.dbg.writeBase v }
  | 0x308 => { s with dbg := s.dbg.writeCtl (lo32 v) }
  | 0x318 => { s with dbg := { s.dbg with cons := lo32 v } }
  | off => if inMsix off then writeMsix s off v else s

/-- R390: the code of DEVSTAT.STATE. -/
def DevState.code : DevState → Nat
  | .boot => 0 | .bootFail => 1 | .ready => 2 | .deviceError => 3

/-- R390: CMDCTL as it reads. -/
def CmdRegs.ctl (r : CmdRegs) : Nat := (if r.novec then 2 ^ 31 else 0) + r.vec * 2 ^ 16 + r.log2

/-- R390: EVTCTL or DBGCTL as it reads. -/
def DevRing.ctl (r : DevRing) : Nat := (if r.en then 2 ^ 31 else 0) + r.vec * 2 ^ 16 + r.log2

/-- R390: a register of an event ring by its offset from the ring's base register. -/
def DevRing.read (r : DevRing) (dt : Nat) : Nat → W64
  | 0x00 => BitVec.ofNat 64 r.base
  | 0x08 => BitVec.ofNat 64 r.ctl
  | 0x10 => (r.prodAt dt).setWidth 64
  | 0x18 => r.cons.setWidth 64
  | 0x20 => r.drop.setWidth 64
  | _ => 0

/-- R390: what a BAR0 register reads, but for the side effect of a read that clears. In BOOT_FAIL only DEVSTAT
answers. -/
def bar0Value (s : State) (off : Nat) : W64 :=
  if off = 0 then BitVec.ofNat 64 (s.devState.code + (if s.devState = .bootFail then s.devReason * 256 else 0))
  else if s.devState = .bootFail then 0
  else if off = 0x008 then 1
  else if off = 0x010 then Config.serial
  else if off = 0x100 then BitVec.ofNat 64 s.cmd.base
  else if off = 0x108 then BitVec.ofNat 64 s.cmd.ctl
  else if off = 0x110 then s.cmd.prod.setWidth 64
  else if off = 0x118 then s.cmd.cons.setWidth 64
  else if 0x200 ≤ off ∧ off ≤ 0x220 then s.evt.read s.dt (off - 0x200)
  else if 0x300 ≤ off ∧ off ≤ 0x320 then s.dbg.read s.dt (off - 0x300)
  else if 0x10000 ≤ off ∧ off < 0x18000 ∧ off % 8 = 0 then (SMap.getD s.viols ((off - 0x10000) / 8) 0).setWidth 64
  else if 0x20000 ≤ off ∧ off ≤ 0x20700 then (Config.idKeyByte (off - 0x20000)).setWidth 64
  else if inMsix off then (SMap.getD s.msix ((off - 0x100000) / 16) {}).read off
  else if 0x108000 ≤ off ∧ off < 0x108100 ∧ off % 8 = 0 then pbaWord s ((off - 0x108000) / 8)
  else 0

/-- REGISTER_WRITE (R7, R8, R390, R447): a write of a register with no row of its own. -/
def execRegisterWrite (r : RegRef) (v : W64) (s : State) : Host.Outcome State Fault Refusal :=
  match r with
  | .bar0 off => if hostOpen s then .next (writeBar0 s off v) else .next s
  | .csr n => .next (if 0x400 ≤ n.toNat then writeCsr s 0 0 n.toNat (lo32 v) else s)

/-- VIOL_READ (R388, R390): a queue's violation count is read and cleared. -/
def execViolRead (queue : Nat) (s : State) : Host.Outcome State Fault Refusal :=
  if !hostOpen s || 4096 ≤ queue then .next s
  else .next { s with reply := some (.word ((SMap.getD s.viols queue 0).setWidth 64)), viols := s.viols.del queue }

/-- EVTDROP_READ (R390): the drop count of the device event ring, or of the debug event queue, is read and cleared. -/
def execEvtdropRead (dbg : Bool) (s : State) : Host.Outcome State Fault Refusal :=
  if !hostOpen s then .next s
  else if dbg then .next { s with reply := some (.word (s.dbg.drop.setWidth 64)), dbg := { s.dbg with drop := 0 } }
  else .next { s with reply := some (.word (s.evt.drop.setWidth 64)), evt := { s.evt with drop := 0 } }

/-- EVTCONS_WRITE (R390, R396): the consumer index of a ring; held records post. -/
def execEvtconsWrite (dbg : Bool) (v : W32) (s : State) : Host.Outcome State Fault Refusal :=
  if hostOpen s then .next (writeBar0 s (if dbg then 0x318 else 0x218) (v.setWidth 64)) else .next s

-- user windows (R388)

/-- R388: whether a doorbell write is accepted: it passes at least one entry, and no more than the ring has free. -/
def doorbellOk (x : Queue) (v : W32) : Bool :=
  decide (0 < (v - x.doorbell).toNat) && decide ((v - x.doorbell).toNat ≤ 2 ^ x.log2 - (x.doorbell - x.cons).toNat)

/-- DOORBELL (R388): accepted, its entries are to be started; any other value stops the queue until it is reset. -/
def execDoorbell (queue : Nat) (v : W32) (s : State) : Host.Outcome State Fault Refusal :=
  if !hostOpen s then .next s
  else
    .next (updQueue s queue (fun x =>
      if doorbellOk x v then { x with doorbell := v, state := if x.state = .idle then .running else x.state }
      else { x with state := .badDoorbell }))

/-- R388: the offsets of a user window that hold a register. -/
def windowRegs : List Nat := [0x000, 0x008, 0x010]

/-- WINDOW_VIOLATION (R388): an access elsewhere in a user window reads 0 and is counted. -/
def execWindowViolation (queue off : Nat) (s : State) : Host.Outcome State Fault Refusal :=
  if !hostOpen s || 4096 ≤ queue || 65536 ≤ off || windowRegs.contains off then .next s
  else
    let n := SMap.getD s.viols queue 0
    .next { s with reply := some (.word 0), viols := s.viols.put queue (if n = BitVec.allOnes 32 then n else n + 1) }

/-- R388: QSTATE's code, while the queue is not RESETTING. -/
def QState.code : QState → Nat
  | .idle => 0 | .running => 1 | .stopped => 2 | .badDoorbell => 3

/-- R388: what a register of a user window reads. -/
def windowValue (s : State) (queue off : Nat) : W32 :=
  match s.queues.find queue with
  | none => 0
  | some x => if off = 0 then x.doorbell else if off = 8 then x.cons else if off = 16 then (if x.resetting then 4 else BitVec.ofNat 32 x.state.code) else 0

-- the host's accesses to device memory (R164, R184, R385, R386)

/-- R385, R386: whether a host access, or one over a peer link, reaches the module. -/
def linkUp (s : State) (link : Option Nat) : Bool :=
  hostOpen s && (match link with
    | some l => decide (l < 24) && !s.peersDown.contains l
    | none => true)

/-- R338, R385: whether any byte of a range is not to be reached. -/
def hostBad (s : State) (addr len : Nat) : Bool :=
  badPhys s addr || badPhys s (addr + (len - 1)) || (List.range (len / 8192)).any (fun i => badPhys s (addr + 8192 * i))

/-- R344: whether any line of a range lies in a closed region. -/
def hostStalled (s : State) (addr len : Nat) : Bool :=
  isClosed s (addr + (len - 1)) || (List.range (len / 1048576 + 1)).any (fun i => isClosed s (addr + 1048576 * i))

/-- R335, R385: whether a range holds a granule that reads as uncorrectable. -/
def hostPoison (s : State) (addr len : Nat) : Bool :=
  (List.range ((addr + len - 1) / 64 + 1 - addr / 64)).any (fun i =>
    lostGranule s ((addr / 64 + i) * 64))

/-- HOST_MEM_READ (R184, R332, R385): an uncached read at the home, with the poison indication of an uncorrectable one. A
demand access reloads the windows that hold it (R159). -/
def execHostMemRead (link : Option Nat) (addr len : Nat) (s : State) : Host.Outcome State Fault Refusal :=
  if !linkUp s link || len = 0 then .next s
  else if hostBad s addr len then .next { s with reply := some .unsupported }
  else if hostStalled s addr len then .next s
  else if !(rangeFills s addr len).isEmpty then .next ((rangeFills s addr len).foldl askFill s)
  else
    let s := (List.range ((addr + len - 1) / 8192 + 1 - addr / 8192)).foldl (fun s i =>
      touchWindows s ((addr / 8192 + i) * 8192)) s
    .next { s with reply := some (.bytes (readPhys s addr len) (hostPoison s addr len)) }

/-- HOST_MEM_WRITE (R169, R184, R385): a write arrives at its home as a store. -/
def execHostMemWrite (link : Option Nat) (addr : Nat) (bytes : List Byte) (s : State) : Host.Outcome State Fault Refusal :=
  if !linkUp s link || bytes.isEmpty then .next s
  else if hostBad s addr bytes.length then .next { s with reply := some .unsupported }
  else if hostStalled s addr bytes.length then .next s
  else .next (devWrite s addr bytes).1

-- the command ring (R389, R391)

/-- A number of n bytes from byte `lo` of a command record or descriptor, least significant first. -/
def argOf (bs : List Byte) (lo n : Nat) : Nat := leNat ((bs.drop lo).take n)

/-- R391: the record at CMDCONS with its host address, while one is due. -/
def commandDue (s : State) : Option (Nat × List Byte) :=
  if !hostOpen s || s.cmd.prod = s.cmd.cons then none
  else
    let a := s.cmd.base + 64 * (s.cmd.cons.toNat % 2 ^ s.cmd.log2)
    some (a, Memory.getN s.hostMem a 64)

/-- R391: a command completes: STATUS is written, the vector raised, CMDCONS advances. -/
def finishCommand (s : State) (at_ status : Nat) : State :=
  let s := { s with hostMem := Memory.setN s.hostMem (at_ + 2) (leBytes 2 status) }
  let s := if s.cmd.novec then s else raiseIrq s (some s.cmd.vec)
  { s with cmd := { s.cmd with cons := s.cmd.cons + 1 } }

/-- R391: OK, BAD_ARG, REFUSED, NEED_FREE. -/
def stOk : Nat := 1
def stBadArg : Nat := 2
def stRefused : Nat := 3
def stNeedFree : Nat := 4

/-- What the performance of a command answers: its status, or that it is not complete yet. -/
inductive CmdAns
  | done (s : State) (status : Nat)
  | wait (s : State)

/-- R391: a command that changes nothing. -/
def CmdAns.refuse (s : State) (status : Nat) : CmdAns := .done s status

/-- R391: whether every byte of ARGS outside the named fields, as first byte and length, is 0. -/
def argsClean (bs : List Byte) (used : List (Nat × Nat)) : Bool :=
  (List.range 56).all (fun i =>
    used.any (fun u => decide (u.1 ≤ i + 8) && decide (i + 8 < u.1 + u.2)) || bs.getD (i + 8) 0 == 0)

/-- R389, R391, R392: a command event: the record due is performed where it carries the event's OPC. A reserved OPC
completes with BAD_ARG. -/
def command (s : State) (opc : Nat) (used : List (Nat × Nat)) (body : List Byte → State → CmdAns) :
    Host.Outcome State Fault Refusal :=
  match commandDue s with
  | none => .next s
  | some (a, bs) =>
    let op := argOf bs 0 2
    if op = 0 || 0x17 < op then .next (finishCommand s a stBadArg)
    else if op ≠ opc then .next s
    else if !argsClean bs used then .next (finishCommand s a stBadArg)
    else
      match body bs s with
      | .done s st => .next (finishCommand s a st)
      | .wait s => .next s

end Sys2Proof.Machine
end

