-- ==== Sys2Proof/Machine/Tick.lean ====
section
/-! DEFINITION. Tick.lean: one tick of device time (R25, R26, R397, R398) and the moves that fall due at its
boundaries. -/
namespace Sys2Proof.Machine

/-- R397: the clk rate of a P-level in tenths of a clk per DT tick. -/
def clkRate : Nat → Nat
  | 0 => 40
  | 1 => 36
  | 2 => 32
  | 3 => 28
  | 4 => 24
  | 5 => 20
  | 6 => 12
  | _ => 4

/-- R398: the rate of a die under a brake. -/
def dieRate (s : State) (d : Die) : Nat :=
  match s.power.brake with
  | some b => Nat.min (clkRate d.plevel) (clkRate b.level)
  | none => clkRate d.plevel

/-- One tick of a die's clk, which stands while a P-level change stops it (R397). -/
def tickDie (s : State) (d : Die) : Die :=
  if 0 < d.halt then { d with halt := d.halt - 1 } else { d with clkT := d.clkT + dieRate s d }

/-- The moves that R213, R287, R323, R373 and R375 place at a DT tick. -/
def periodic (dt : Nat) : List Instr :=
  (if dt % 2 ^ 16 = 0 then [.deadlockScan, .countingRetry, .traceFlush] else [])
    ++ (if dt % 2 ^ 12 = 0 then [.waitTick] else [])
    ++ (if dt % 2 ^ 8 = 0 then [.monitorSample] else [])

/-- What the host's own software stores to its memory before an event. -/
def hostStores (m : Mem) (ws : List (Nat × List Byte)) : Mem := ws.foldl (fun m w => Memory.setN m w.1 w.2) m

/-- Whether the agenda's next move is the reset of R400, which a module without power makes when power returns. -/
def powerReturns (s : State) : Bool :=
  match s.agenda with
  | { elapse := 0, ev := some (.deviceReset _), .. } :: _ => true
  | _ => false

/-- R26: one DT tick passes, once the waiters that leave in it are gone (R215) and those
whose dispatch trace names no further grant have diverged (R364), the cohorts of streams whose fault it did
not resolve in time are killed (R244), and streams whose next pass has become possible request it (R237); locks whose dead
holders' stores have become visible go on (R183), and windows to be released with reason REMAP are (R160); a region that
was to close is closed (R348), and stack events that waited for the device event ring go on (R396). -/
def tick (s : State) : State :=
  let s := noteRequests (releaseRemaps (killDoomed (divergeSpent (settleWaiters s)))) s.streams.keys
  let s := { s with dt := s.dt + 1, dies := s.dies.map (tickDie s) }
  let s := drainEventsDue (2 * s.mig.todo.length) (closeRegion (serveBrokens (wakeTimes s)))
  { s with agenda := (periodic s.dt).map (fun i => { elapse := 0, ev := some i }) ++ s.agenda }

end Sys2Proof.Machine
end

