-- ==== Sys2Proof/Machine/Issue.lean ====
section
/-! DEFINITION. Issue.lean: what the chosen split does next: it takes a deferred report, enters a header, or fetches
and decodes its instruction, whose word is checked in the order of R100. -/
namespace Sys2Proof.Machine

/-- What the chosen split does next. -/
inductive Issued
  | done (s : State)
  | run (i : Instr) (s : State)

/-- R100, checks 3 to 5, on a word that decodes to no instruction. -/
def rejectedTrap (s : State) (cr : Crew) (w : W64) : Report :=
  let priv := ((s.ctxs.find cr.ctx).map (·.priv)).getD false
  if !(engineOfWord w).runsOn cr.engine then { code := 0x10 }
  else
    match (csrOfWord w).filter (fun n => (0x400 ≤ n.toNat && !priv) || (n.toNat == 0x405 && cr.engine != .service)) with
    | some n => { code := 0x04, addr := n.setWidth 64 }
    | none => { code := 0x03 }

/-- R90: whether a word takes an extension word that lies beyond its block. -/
def extBeyond (sp : Split) (off : Nat) (w : W64) : Bool :=
  hasExt (w.extractLsb' 56 8).toNat && !(sp.block.any (fun b => b.has (off + 8)))

/-- R319: the resume point of a violation of fetch: the header of the executing block. -/
def Split.headerPlace (sp : Split) (off : Nat) : Place :=
  match sp.block with
  | some b => .header b.off b.how
  | none => .word off

/-- Decodes the word at an offset with its extension word (R90, R95, R100). -/
def issueWord (s : State) (cid sid : Nat) (cr : Crew) (sp : Split) (ln : Launch) (off : Nat) (w : W64) : Issued :=
  let trap (s : State) (r : Report) : Issued := .done (takeTrap s cid sid (.word off) r)
  let op := (w.extractLsb' 56 8).toNat
  if !opDefined op then .run (.illegalOpcode (w.extractLsb' 56 8)) s
  else if extBeyond sp off w then trap s { code := 0x02 }
  else
    let next : Fetched × State := if hasExt op then fetchWord s cr (ln.seg + off + 8) else (.word 0, s)
    match next with
    | (.stall va, s) => .done (setState s cid sid (.waitOperand (.page va)))
    | (.fault tag, s) => .done (setState s cid sid (.waitOperand (.fetch tag)))
    | (.violation _, s) => .done (takeTrap s cid sid (sp.headerPlace off) (reportVA 0x09 (ln.seg + off + 8)))
    | (.kill, s) => .done (killCrew s cr)
    | (.word x, s) =>
      match decode w (if hasExt op then some x else none) with
      | .instr i => .run i s
      | .reject _ => trap s (rejectedTrap s cr w)

/-- The chosen split's next move. -/
def issueFocus (s : State) (f : Focus) : Issued :=
  match s.crews.find f.crew with
  | none => .done s
  | some cr =>
    match cr.split f.split, launchOf s cr with
    | some sp, some ln =>
      if !crewRuns s cr || sp.state != .ready then .done s
      else if deferredFor cr sp.id then
        .done (deliverDeferred s f.crew)
      else
        match sp.place with
        | .header off how =>
          if crewDT s cr < cr.restore then .done (setState s f.crew f.split (.waitOperand (.untilDT cr.restore)))
          else if replayOwed s cr then .done (setState s f.crew f.split (.waitOperand .log))
          else .done (enterHeader s f.crew f.split off how)
        | .word off =>
          match fetchWord s cr (ln.seg + off) with
          | (.stall va, s) => .done (setState s f.crew f.split (.waitOperand (.page va)))
          | (.fault tag, s) => .done (setState s f.crew f.split (.waitOperand (.fetch tag)))
          | (.violation _, s) => .done (takeTrap s f.crew f.split (sp.headerPlace off) (reportVA 0x09 (ln.seg + off)))
          | (.kill, s) => .done (killCrew s cr)
          | (.word w, s) => issueWord s f.crew f.split cr sp ln off w
    | _, _ => .done s

end Sys2Proof.Machine
end

