-- ==== Sys2Proof/Machine/Autonomous.lean ====
section
/-! DEFINITION. Autonomous.lean: the moves that the device can make of its own choice in a state (log entry 1). What
only the outside or physics decides (the host's accesses, the brake, a failing link) is no such move. -/
namespace Sys2Proof.Machine

/-- The moves of an access in flight. -/
def accessMoves (id : Nat) (a : Access) : List Instr :=
  let perLine (f : Nat → List Instr) : List Instr := (List.range a.lines.length).flatMap f
  let perLane (f : Nat → Instr) : List Instr := a.lanes.map (fun q => f q.lane)
  [.pageWalk id, .resultArrive id] ++ perLine (fun i => [.staleRequest id i]) ++
    match a.kind with
    | .load _ _ | .record _ _ | .accept _ _ _ | .pref _ => perLine (fun i => [.lineRequestHome id i])
    | .gather _ => perLine (fun i => [.lineRequestHome id i]) ++ (List.range 8).map (fun k => .gatherExpand id k)
    | .store _ _ => perLine (fun i => [.storeArrive id i])
    | .atom _ _ => perLine (fun i => [.syncAccess id i])
    | .combine _ => perLine (fun i => [.syncAccess id i])
    | .atomo _ _ => perLane (.atomoRequest id) ++ perLane (.atomoResend id)
    | .reds _ _ => perLane (.redsContribution id)
    | .lock _ | .unlock _ => [.lockRequest id]
    | .ballot _ => [.ballotPost id]
    | .ring _ | .stamp _ _ => perLane (.ringAppend id)
    | .pin _ _ _ | .spgrow | .value | .noise | .wread _ => []

/-- The moves of a crew. -/
def crewMoves (id : Nat) (c : Crew) : List Instr :=
  [.storeQueueSend id, .operandLogReplay id, .trapDelivery id, .lockTimeout id]
    ++ (c.splits.flatMap (fun sp => [.priorityAge id sp.id]
      ++ (match sp.state with | .waitFill rs => rs.map (.registerFill id) | _ => [])))

/-- The moves of a core, a control core or the service core. -/
def coreMoves (u : Nat) : List Instr := [.issueSelect u, .cohortStart u, .spillEvict u, .spgrowGrant u]

/-- The moves of a stream's matrix engine. -/
def streamMoves (k : Nat) : List Instr :=
  [.passGrant (k / 8), .passComplete (k / 8), .matrixPriorityAge k, .matrixFaultLimit k, .mzeroPerform k,
    .mmaskPerform k, .mdrainPerform k, .drainComplete k]

/-- The moves of a well on its commands. -/
def wellMoves (k : Nat) (w : Well) : List Instr :=
  [.wellCommandPerform k, .wellClassUpdate k] ++ w.flight.map (fun f => .boundaryStateArrive k f.1)

/-- R263: a window of some well's monitors; what it counts is physical: the ones of each bit among 2^16 words, and A. -/
def windowMove (free : Nat) : Instr :=
  let pick (i n : Nat) : Nat := Config.pick (free + i) % n
  .healthWindow (pick 0 Config.nwells) (sumOf ((List.range 16).map (fun b => pick (b + 1) 65537 * 2 ^ (17 * b))))
    (pick 17 (16 * 65535 + 1))

/-- The pump's moves on a queue. -/
def queueMoves (q : Nat) : List Instr :=
  [.queueEntryStart q, .kernelNodeStart q, .copyNode q, .condNode q, .loopIteration q, .endNode q, .phaseArrive q,
    .waitEvaluate q, .waitTimeout q, .signalNode q, .ringNode q, .nodeComplete q]

/-- The moves on a context. -/
def contextMoves (id : Nat) (c : Context) : List Instr :=
  [.pendingFaultPost id, .contextError id, .repmodeTakeEffect id, .replayTimeout id]
    ++ c.rings.keys.map (fun r => .ringCoalesceTimeout id r)
    ++ c.sibs.keys.map (fun k => .siblingPageRelease id (k / 64) (k % 64))

/-- The moves of a stack's base die; the outcome of an error check is physical (R334). -/
def stackMoves (k : Nat) (x : Stack) (ecc : EccOutcome) : List Instr :=
  [.stackRequest k, .scrub k ecc, .rowRepair k] ++ x.reqs.map (fun r => .stackCompletion k r.tag ecc)
    ++ x.train.keys.map (fun p => .patternTestDone k p 0)

/-- The command processor's moves: the performance of the record that is due (R391). -/
def commandMoves (s : State) : List Instr :=
  match commandDue s with
  | none => []
  | some _ =>
    [.ctxCreate, .ctxDestroy, .queueBind, .queueReset, .preempt, .resume, .invalidate, .faultAnswer, .retireStack,
      .retireAck, .breakCmd, .continueCmd, .stampBind, .traceOpen, .traceClose, .quiesce, .release, .image, .restore,
      .power, .applyMargin, .hotAck, .attest]

/-- The core units that have work: those of the crews, and those with a launch queue. -/
def busyUnits (s : State) : List Nat := (s.crews.map (fun p => unitOf s p.2) ++ s.cores.keys).eraseDups

/-- A free outcome of an error check. -/
def freeEcc (n : Nat) : EccOutcome :=
  match n % 3 with
  | 0 => .clean
  | 1 => .corrected
  | _ => .uncorrectable

/-- The moves the device can make in a state, some of which may have no effect yet; `free` supplies what physics
decides, and the length of a copy's next part. -/
def enabled (s : State) (free : Nat) : List Instr :=
  s.accs.flatMap (fun p => accessMoves p.1 p.2)
    ++ s.crews.flatMap (fun p => crewMoves p.1 p.2)
    ++ (busyUnits s).flatMap coreMoves
    ++ [.cohortPlace, .regionClose, .regionReopen]
    ++ s.cohorts.keys.map .cohortKill
    ++ s.copies.flatMap (fun p => [.copyComplete p.1 (1 + free % (p.2.total - p.2.moved)), .copyViolation p.1])
    ++ s.homes.keys.map .storeLand
    ++ s.streams.keys.flatMap streamMoves
    ++ s.wells.flatMap (fun p => wellMoves p.1 p.2)
    ++ [windowMove free]
    ++ s.queues.keys.flatMap queueMoves
    ++ s.ctxs.flatMap (fun p => contextMoves p.1 p.2)
    ++ (List.range 8).flatMap (fun k => stackMoves k (SMap.getD s.dramStacks k {}) (freeEcc free))
    ++ s.scopes.keys.flatMap (fun k => [.quiesceComplete k, .imageComplete k true])
    ++ commandMoves s

/-- The move the device makes of its own choice: one of those it can make, or none, when a DT tick passes. -/
def choose (s : State) : Option Instr × State :=
  let l := enabled s (Config.pick (s.fresh + 1))
  let k := Config.pick s.fresh % (l.length + 1)
  (l[k]?, { s with fresh := s.fresh + 2 })

end Sys2Proof.Machine
end

