-- ==== Sys2Proof/Machine/Boot.lean ====
section
/-! DEFINITION. Boot.lean: how an instruction is placed where a split fetches next, and the running crew that stands
for a loaded program where none runs (log entry 1). -/
namespace Sys2Proof.Machine

/-- The words of an instruction given as `nbits` bits, in two words, as bytes in memory. -/
def tableBytes (nbits w : Nat) : List Byte :=
  let v := w % 2 ^ nbits
  bytesOfWords [BitVec.ofNat 64 v, BitVec.ofNat 64 (v / 2 ^ 64)]

/-- A page table that maps the first 8 GiB of virtual addresses onto the first 8 GiB of device memory with every
right, and a block of 15 words whose first instruction is `bs` at byte 8. -/
def programMem (m : Mem) (bs : List Byte) : Mem :=
  let put (m : Mem) (a v : Nat) : Mem := Memory.setN m a (leBytes 8 v)
  let m := put m 0x100000 0x102001
  let m := put m 0x102000 0x104001
  let m := put m 0x104000 0x106001
  let m := put m 0x106000 0x1BF
  let m := put m 0x200000 0x0F000000000000B5
  Memory.setN m 0x200008 bs

/-- A ring reference that names no vector. -/
def noRing : RingRef := { base := 0x108000, cb := 0x109000, log2 := 6, vec := none }

/-- A privileged context over `programMem`. -/
def programCtx : Context :=
  { priv := true, root := 0x100000, sumpBase := 0x400000, sumpSize := 0x400000, fltRing := noRing, smpRing := noRing
    evtRing := noRing }

/-- The launch of one cohort of one crew of 8 lanes. -/
def programLaunch (control : Bool) : Launch :=
  { queue := 0, ctx := 0, node := 0, cseq := 0, seg := 0x200000, seglen := 4096, entry := 0
    centry := if control then some 0 else none, trapoff := none, widths := [3, 0, 0, 0, 0, 0], ext := [1, 1, 1, 1, 1]
    scratch := 0, named := 64, prio := 0, fused := false, cores := false, sib := BitVec.allOnes 32, args := []
    restart := false, interval := 0, order := 0, next := 1, live := 1 }

/-- The cohort of that launch, on core 0 and in stream slot 0. -/
def programCohort (control : Bool) : Cohort :=
  { id := 1, ctx := 0, queue := 0, cseq := 0, launch := 1, index := 0, coords := [0, 0, 0, 0], core := 0
    control := control, slot := some 0, state := .running, lanes := 8 }

/-- The header that `programMem` writes. -/
def programBlock : Block := { off := 0, len := 15, rcv := 0, live := 0, pref := 0, kind := .plain, how := .branch }

/-- The crew of that cohort, or its control crew, at the instruction. -/
def programCrew (control : Bool) : Crew :=
  let w0 := if control then 0 else 3
  { cid := 1, cohort := 1, index := 0, engine := if control then .control else .core, w0 := w0, ctx := 0
    sib := BitVec.allOnes 32, state := .running
    wid := (List.range (2 ^ w0)).map (fun l => (l, BitVec.ofNat 64 l))
    scalars := List.replicate 32 0, recs := List.replicate 16 {}
    splits := [{ id := 0, mask := BitVec.ofNat 1024 (2 ^ 2 ^ w0 - 1), place := .word 8, block := some programBlock, age := 0 }] }

/-- A line of code, or of the page table, stands in its home slice, as one that has been read does: its next read waits
for no DRAM. -/
def codeReady (s : State) (line : Nat) : State := l2Touch s line

/-- The machine, booted, with that crew running at an instruction, and chosen to issue. -/
def withProgram (s : State) (control : Bool) (bs : List Byte) : State :=
  let s :=
  { s with agenda := [], devState := .ready, focus := some { crew := 1, split := 0 }, mem := programMem s.mem bs
           ctxs := s.ctxs.put 0 programCtx, launches := s.launches.put 1 (programLaunch control)
           cohorts := s.cohorts.put 1 (programCohort control), crews := s.crews.put 1 (programCrew control)
           streams := if control then s.streams.put 0 { cohort := 1 } else s.streams, nextId := Nat.max s.nextId 2 }
  [0x2000, 0x2040, 0x2080, 0x20C0, 0x4000].foldl codeReady s

/-- An instruction placed where the executing split fetches: in its code, and out of its instruction cache. -/
def placeAt (s : State) (cr : Crew) (va : Nat) (bs : List Byte) : State :=
  let u := unitOf s cr
  match peek s (some u) (Config.dieOfUnit u) cr.ctx va, peek s (some u) (Config.dieOfUnit u) cr.ctx (va + 15) with
  | some pa, some pb =>
    let m := Memory.setN (Memory.setN s.mem pa (bs.take (8192 - va % 8192))) (pb + 1 - (16 - (8192 - va % 8192)))
      (bs.drop (8192 - va % 8192))
    let s := codeReady (codeReady { s with mem := m, agenda := [] } (lineOf pa)) (lineOf pb)
    updCore s u (fun c => { c with icache := c.icache.filter (fun e =>
      !(e.ctx == cr.ctx && (e.vline == va / 128 || e.vline == (va + 15) / 128))) })
  | _, _ => s

end Sys2Proof.Machine
end

