-- ==== Sys2Proof/Machine/Preempt.lean ====
section
/-! DEFINITION. Preempt.lean: stopping the engines of a context at their points, saving its cohorts, and resuming it
(R57, R59, R76, R146, R188, R246, R272, R329 to R331, R377). -/
namespace Sys2Proof.Machine

/-- R210, R214, R329: the waiters of a crew become absent; the clk they have waited is kept. -/
def absentWaiters (s : State) (cid : Nat) : State :=
  let away (w : Waiter) : Waiter := if w.crew = cid && !w.absent then { w with absent := true, away := s.dt, spent := waited s w } else w
  { s with locks := s.locks.mapAll (fun _ l => { l with queue := l.queue.map away }) }

/-- R57, R59, R305, R330: a crew stops at an instruction boundary and is saved. -/
def saveCrew (s : State) (cid : Nat) : State :=
  match s.crews.find cid with
  | none => s
  | some cr =>
    if cr.state != .running then s
    else
      let s := updCrew (absentWaiters s cid) cid (fun c => { c with state := .saved, runFrom := none, runClk := runCycles s cr })
      unfocusCrew (saveWords s cid) cid

/-- R246: a stream is saved. Where its slot is given up, it goes with its reservation entries, and nothing of it stays in
the cluster's operand cache. -/
def saveStream (s : State) (k key : Nat) (vacate : Bool) : State :=
  match s.streams.find key with
  | none => s
  | some st =>
    let st := { st.markSaved with saved := true, request := none, started := false, recA := 0, groups := [] }
    let sl := key % 8
    if !vacate then
      updCluster (updStream s key (fun _ => st)) (key / 8) (fun c => { c with opTiles := c.opTiles.filter (fun t => t.1 != sl) })
    else
      let mine := ((SMap.getD s.clusters (key / 8) {}).resv.filter (fun p => p.1 / 4 == sl)).map (fun p => (p.1 % 4, p.2))
      updCluster { s with streams := (s.streams.del key).put (savedKey k) { st with resvSaved := mine } } (key / 8)
        (fun c => { c with resv := c.resv.keep (fun e _ => e / 4 != sl), opTiles := c.opTiles.filter (fun t => t.1 != sl) })

/-- R57, R146, R330: a cohort is saved, with its crews and its stream; where it gives up its core, it is placed afresh
when it is resumed. -/
def saveCohort (s : State) (k : Nat) (c : Cohort) (vacate : Bool) : State :=
  let s := ((crewsOf s k).map (·.1)).foldl saveCrew s
  let s := match streamKey c with
    | some key => saveStream s k key vacate
    | none => s
  let s := updCohort s k (fun c => { c with state := .saved, marks := { c.marks with pre := true }
                                            slot := if vacate then none else c.slot })
  if vacate then wakeRows (updCore s c.core (fun u => { u with launchQ := u.launchQ.filter (· != k) })) c.core else s

/-- R244, R329: a cohort stops at its points: a FAULTED stream kills it, and a pass in progress completes first. A placed
cohort that has not started is unplaced, or stays in its launch queue. -/
def stopCohort (vacate : Bool) (s : State) (p : Nat × Cohort) : State :=
  let (k, c) := p
  if c.kill || c.slot.isNone then s
  else
    match c.state with
    | .queued => if vacate then saveCohort s k c true else s
    | .running =>
      match (streamKey c).bind s.streams.find with
      | some st =>
        if st.granted then s
        else if st.run = .faulted then (match streamKey c with
          | some key => doomStream s key
          | none => s)
        else saveCohort s k c vacate
      | none => saveCohort s k c vacate
    | _ => s

/-- R272: the wells of a context stop at a class boundary, or go on. -/
def holdWells (s : State) (ctx : Nat) (held : Bool) : State :=
  { s with wells := s.wells.mapAll (fun _ x => if x.owner = some ctx then { x with saved := held } else x) }

/-- R329, R377: the engines of a context go to their points; those that are not there yet are taken further. -/
def stopContext (s : State) (ctx : Nat) (vacate : Bool) : State :=
  let s := updCtx s ctx (fun c =>
    if c.preempted then c else { c with preempted := true, stoppedAt := s.dt })
  let s := holdWells s ctx true
  (s.cohorts.filter (fun p => p.2.ctx == ctx && p.2.state != .ended)).foldl (stopCohort vacate) s

/-- R76: whether a result is still to arrive before a crew's pre-emption is complete: it is neither written, nor in the
operand log. Requests that engines hold, and stores that wait in the store queue, are saved as they are; so is the status
of an LLOCK at which the crew is cancelled when it runs again. -/
def resultOut (s : State) (a : Access) : Bool :=
  let waits : Bool := match a.kind with
    | .load _ _ | .gather _ | .record _ _ | .accept _ _ _ | .atom _ _ | .ballot _ | .value | .noise | .pin _ _ _ => true
    | _ => false
  let logged := a.logged || a.lines.any (fun l => match l.st with
    | .faulted _ => true
    | _ => false)
  let here := a.returns && (match a.kind, a.result with
    | .lock _, (_, v) :: _ => decide (v.toNat % 8 ≠ 4)
    | _, _ => true)
  (here || (waits && !logged)) && (s.crews.find a.crew).any (fun cr => cr.state != .ended)

/-- Whether an access belongs to a context. -/
def accIn (ctx : Nat) (a : Access) : Bool := a.ctx == ctx

/-- R329, R330: whether every engine of a context has reached its point, but for its copies. -/
def contextQuiet (s : State) (ctx : Nat) : Bool :=
  s.cohorts.all (fun p => p.2.ctx != ctx || p.2.state == .ended || p.2.state == .saved
      || (p.2.state == .queued && !p.2.kill && quiesced s ctx))
    && s.accs.all (fun p => !(accIn ctx p.2 && resultOut s p.2))

/-- R154, R329: whether a context's copies are complete; one that waits for a page is not. -/
def copiesDone (s : State) (ctx : Nat) : Bool := s.copies.all (fun p => p.2.ctx != ctx)

/-- R330: every word of a context's saved crews is written. -/
def saveAll (s : State) (ctx : Nat) : State :=
  ((s.crews.filter (fun p => p.2.ctx == ctx && p.2.state == .saved)).map (·.1)).foldl saveWords s

/-- R364, R329: the time since a context stopped does not count for the heads of its trace. -/
def Context.shifted (c : Context) (now : Nat) : Context :=
  let d := now - c.stoppedAt
  { c with repFrom := c.repFrom + d, headClk := c.headClk.mapAll (fun _ t => t + d) }

/-- R59, R210: readies what a resumed context's engines take up again: cohorts saved in their slots start again first. -/
def resumeCohort (s : State) (p : Nat × Cohort) : State :=
  let (k, c) := p
  if c.state != .saved || c.slot.isNone then s
  else updCore s c.core (fun u => if u.launchQ.contains k then u else { u with launchQ := k :: u.launchQ })

/-- R329, R378, R389: a context runs again, unless its host has it pre-empted or a scope holds it. -/
def resumeContext (s : State) (ctx : Nat) : State :=
  match s.ctxs.find ctx with
  | none => s
  | some c =>
    if !c.preempted || c.hostPre || quiesced s ctx then s
    else
      let s := updCtx s ctx (fun c => { c.shifted s.dt with preempted := false })
      let s := holdWells s ctx false
      wakeWaits ((s.cohorts.filter (fun p => p.2.ctx == ctx)).foldl resumeCohort s) ctx

end Sys2Proof.Machine
end

