-- ==== Sys2Proof/Machine/Commands.lean ====
section
/-! DEFINITION. Commands.lean: the driver's commands for contexts, queues, translations, faults, stacks, breakpoints,
stamps, traces, scopes, power and hotness (R389, R391 to R393). -/
namespace Sys2Proof.Machine

-- contexts (R393)

/-- R393: the bytes of a context descriptor that hold a field, as first byte and length. -/
def descFields : List (Nat × Nat) :=
  [(0, 12), (16, 48), (64, 9), (80, 9), (96, 33), (130, 2), (136, 17), (154, 2), (160, 17), (178, 2), (184, 4), (192, 64)]

/-- R393: whether every other byte of a descriptor is 0. -/
def descClean (d : List Byte) : Bool :=
  (List.range 512).all (fun i =>
    descFields.any (fun u => decide (u.1 ≤ i) && decide (i < u.1 + u.2)) || d.getD i 0 == 0)

/-- R393: a ring of a descriptor whose field begins at a byte; its vector holds NONE in [15]. -/
def descRing (d : List Byte) (o : Nat) : RingRef :=
  let v := argOf d (o + 18) 2
  { base := argOf d o 8, cb := argOf d (o + 8) 8, log2 := argOf d (o + 16) 1
    vec := if v / 2 ^ 15 = 1 then none else some (v % 2 ^ 11) }

/-- R316, R393: whether a ring of a descriptor is well placed. -/
def descRingOk (cap : Nat) (d : List Byte) (o : Nat) : Bool :=
  let r := descRing d o
  decide (6 ≤ r.log2) && decide (r.log2 ≤ 20) && r.base % (32 * 2 ^ r.log2) == 0 && decide (r.base + 32 * 2 ^ r.log2 ≤ cap)
    && decide (r.cb + 128 ≤ cap) && argOf d (o + 18) 2 / 2 ^ 11 % 16 == 0

/-- Whether two areas, as base and size, share a byte. -/
def areasMeet (a b : Nat × Nat) : Bool := a.2 != 0 && b.2 != 0 && decide (a.1 < b.1 + b.2) && decide (b.1 < a.1 + a.2)

/-- The sump, save area and trace area of a context (R393). -/
def Context.areas (c : Context) : List (Nat × Nat) := [(c.sumpBase, c.sumpSize), (c.saveBase, c.saveSize), (c.trBase, c.trSize)]

/-- R393: the context that a descriptor describes. The victim region is part of the sump (R162). -/
def descContext (d : List Byte) (priv : Bool) : Context :=
  let hot := argOf d 184 4
  { priv := priv, root := argOf d 0 8, lease := leaseLen (argOf d 8 4), sumpBase := argOf d 16 8, sumpSize := argOf d 24 8
    sumpUsed := argOf d 40 8, vicBase := argOf d 32 8, vicSize := argOf d 40 8, saveBase := argOf d 48 8
    saveSize := argOf d 56 8, layBase := argOf d 64 9, gtBase := argOf d 80 9, trBase := argOf d 96 8, trSize := argOf d 104 8
    fltRing := descRing d 112, smpRing := descRing d 136, evtRing := descRing d 160
    hotEn := hot / 2 ^ 15 % 2 = 1, hotLogN := Nat.min (Nat.max (hot / 2 ^ 10 % 32) 6) 20, hotThresh := Nat.max (hot % 1024) 1 }

/-- R393: the wells that a descriptor assigns. -/
def descWells (d : List Byte) : List Nat := (List.range Config.nwells).filter (fun w => argOf d 192 64 / 2 ^ w % 2 == 1)

/-- R393: whether every field of a descriptor is aligned and in range. -/
def descOk (cap : Nat) (d : List Byte) : Bool :=
  let c := descContext d false
  let fits (a : Nat × Nat) : Bool := decide (a.1 + a.2 ≤ cap)
  descClean d && c.root % 8192 == 0 && decide (c.root + 8192 ≤ cap) && decide (argOf d 8 4 < 2 ^ 14)
    && c.sumpBase % 4096 == 0 && c.areas.all fits && decide (2 ^ 20 ≤ c.vicSize)
    && decide (c.sumpBase ≤ c.vicBase) && decide (c.vicBase + c.vicSize ≤ c.sumpBase + c.sumpSize)
    && c.layBase % 64 == 0 && c.gtBase % 4096 == 0 && c.trBase % 32 == 0
    && [112, 136, 160].all (descRingOk cap d) && decide (argOf d 184 4 < 2 ^ 16)

/-- The live capacity in bytes (R340). -/
def capBytes (s : State) : Nat := s.mig.capMiB * 1048576

/-- R322: the engines' counts of a context's line requests start at 0. -/
def resetSamples (s : State) (ctx : Nat) : State :=
  { s with
    cores := s.cores.mapAll (fun _ x => { x with sampleCnt := (x.sampleCnt.del (2 * ctx)).del (2 * ctx + 1) })
    clusters := s.clusters.mapAll (fun _ x => { x with sampleCnt := x.sampleCnt.del ctx })
    wells := s.wells.mapAll (fun _ x => { x with sampleCnt := x.sampleCnt.del ctx }) }

/-- R393: what CTX_CREATE answers for a context number, a privilege and a descriptor. -/
def createContext (s : State) (ctx : Nat) (priv : Bool) (d : List Byte) : CmdAns :=
  let c := descContext d priv
  let ws := descWells d
  if !descOk (capBytes s) d || ws.any (fun w => (wellOf s w).owner.isSome)
      || s.ctxs.any (fun p => p.2.areas.any (fun a => c.areas.any (areasMeet a))) then .refuse s stBadArg
  else
    let held := s.scopes.any (fun p => p.2.device)
    let s := { s with ctxs := s.ctxs.put ctx { c with preempted := held, stoppedAt := s.dt } }
    .done (ws.foldl (fun s w => updWell s w (fun x => { x with owner := some ctx })) (resetSamples s ctx)) stOk

/-- CTX_CREATE (R389, R392, R393). -/
def execCtxCreate (s : State) : Host.Outcome State Fault Refusal :=
  command s 0x01 [(8, 2), (10, 1), (16, 8)] (fun bs s =>
    let ctx := argOf bs 8 2
    let a := argOf bs 16 8
    if 4096 ≤ ctx || (s.ctxs.find ctx).isSome || 1 < argOf bs 10 1 || a % 64 ≠ 0 || capBytes s < a + 512 then
      .refuse s stBadArg
    else createContext s ctx (argOf bs 10 1 == 1) (readPhys s a 512))

/-- R389: whether an access outlives its crew when its context, or its queue's work, is taken away: what an engine or a
home is to perform, with every page translated. -/
def outlives (a : Access) : Bool :=
  (match a.kind with
    | .store _ _ | .atom _ _ | .reds _ _ => true
    | _ => false) && !a.lanes.any (·.held)
    && a.lines.all (fun l => match l.st with
      | .new | .faulted _ => false
      | _ => true)

/-- R57, R389: ends every crew of a context with no status, and takes its graphs away. -/
def endContextWork (s : State) (ctx : Nat) : State :=
  let s := updCtx s ctx (fun c => { c with err := none })
  let ks := (s.cohorts.filter (fun p => p.2.ctx == ctx && p.2.state != .ended)).map (·.1)
  let s := ks.foldl (fun s k => endCohortCrews s k true) (endService s ctx)
  { s with
    launches := s.launches.mapAll (fun _ l => if l.ctx = ctx then { l with error := true } else l)
    queues := s.queues.mapAll (fun _ q => if q.ctx = ctx then { q with graph := none } else q)
    accs := s.accs.keep (fun _ a => !(accIn ctx a) || outlives a)
    copies := s.copies.keep (fun _ c => c.ctx != ctx || c.fault.isNone) }

/-- R313: a context's translations leave every TLB and walkers' cache, and its lines every instruction cache. -/
def forgetContext (s : State) (ctx : Nat) : State :=
  { s with
    dies := s.dies.map (fun d =>
      { d with tlb := d.tlb.filter (fun e => e.ctx != ctx), walkC := d.walkC.filter (fun e => e.1 != ctx)
               hot := d.hot.keep (fun _ h => h.ctx != ctx) })
    cores := s.cores.mapAll (fun _ u =>
      { u with tlb := u.tlb.filter (fun e => e.ctx != ctx), icache := u.icache.filter (fun e => e.ctx != ctx) }) }

/-- R160: the reason for which a context's end releases a window: REMAP and FADE, where they fall in the same tick, come
first. -/
def endReason (s : State) (k : Nat × Nat) : Nat :=
  let w := (s.ctxs.find k.1).bind (fun c => c.windows.find k.2)
  if w.any (·.remap) then 2
  else if fadeDue s && !quiesced s k.1 && w.any (fun w => w.faded.fade = 0) then 1 else 3

/-- R389: the wells of a context return to their reset values (R247), its windows are released with their records
(R160), and its staging slots, queues and records are freed. -/
def freeContext (s : State) (ctx : Nat) : State :=
  let s := ((windowKeys s).filter (fun k => k.1 == ctx)).foldl (fun s k => releaseWindow s ctx k.2 (endReason s k)) s
  let s := { s with wells := s.wells.mapAll (fun _ x => if x.owner = some ctx then x.released else x) }
  let gone := (s.slots.filter (fun p => p.2.ctx == ctx)).map (·.1)
  let s := forgetContext s ctx
  { s with
    slots := s.slots.keep (fun k _ => !gone.contains k)
    sync := s.sync.mapAll (fun _ x => { x with frames := x.frames.filter (fun f => match f with
      | .slot k => !gone.contains k
      | .line _ => true) })
    cohorts := s.cohorts.keep (fun _ c => c.ctx != ctx), crews := s.crews.keep (fun _ c => c.ctx != ctx)
    launches := s.launches.keep (fun _ l => l.ctx != ctx), queues := s.queues.keep (fun _ q => q.ctx != ctx)
    ctxs := s.ctxs.del ctx
    scopes := (s.scopes.mapAll (fun _ x => { x with ctxs := x.ctxs.filter (· != ctx) })).keep (fun _ x =>
      x.device || !x.ctxs.isEmpty) }

/-- CTX_DESTROY (R389): complete once what was sent is performed, the context's copies are done (R154) and the passes in
progress of its streams too (R223). -/
def execCtxDestroy (s : State) : Host.Outcome State Fault Refusal :=
  command s 0x02 [(8, 2)] (fun bs s =>
    let ctx := argOf bs 8 2
    if (s.ctxs.find ctx).isNone then .refuse s stBadArg
    else
      let s := endContextWork s ctx
      if s.accs.any (fun p => accIn ctx p.2) || s.copies.any (fun p => p.2.ctx == ctx)
          || s.cohorts.any (fun p => p.2.ctx == ctx && p.2.state != .ended) then .wait s
      else .done (freeContext s ctx) stOk)

/-- PREEMPT (R329, R389): complete once every engine of the context has reached its point. -/
def execPreempt (s : State) : Host.Outcome State Fault Refusal :=
  command s 0x05 [(8, 2)] (fun bs s =>
    let ctx := argOf bs 8 2
    if (s.ctxs.find ctx).isNone then .refuse s stBadArg
    else
      let s := stopContext (updCtx s ctx (fun c => { c with hostPre := true })) ctx (!quiesced s ctx)
      if contextQuiet s ctx && copiesDone s ctx then .done (saveAll s ctx) stOk else .wait s)

/-- RESUME (R389). -/
def execResume (s : State) : Host.Outcome State Fault Refusal :=
  command s 0x06 [(8, 2)] (fun bs s =>
    let ctx := argOf bs 8 2
    if (s.ctxs.find ctx).isNone then .refuse s stBadArg
    else .done (resumeContext (updCtx s ctx (fun c => { c with hostPre := false })) ctx) stOk)

-- queues (R387, R389)

/-- QUEUE_BIND (R387, R389): a queue that is bound is bound anew only while it is idle (log entry 43). -/
def execQueueBind (s : State) : Host.Outcome State Fault Refusal :=
  command s 0x03 [(8, 2), (10, 2), (16, 8), (24, 1)] (fun bs s =>
    let q := argOf bs 8 2
    let ctx := argOf bs 10 2
    let base := argOf bs 16 8
    let lg := argOf bs 24 1
    let free := match s.queues.find q with
      | none => true
      | some x => x.graph.isNone && x.cons == x.doorbell && !x.resetting
    if 4096 ≤ q || (s.ctxs.find ctx).isNone || lg < 4 || 16 < lg || capBytes s < base + 64 * 2 ^ lg || !free then
      .refuse s stBadArg
    else .done { s with queues := s.queues.put q { ctx := ctx, base := base, log2 := lg } } stOk)

/-- R376: at a queue reset an open session takes no more records; RESET_MARK with TRUNC is the last of its tail. -/
def resetSession (s : State) (q : Nat) : State :=
  updQueue s q (fun x =>
    if x.sess.state = .closed then x
    else { x with sess := { x.sess with
             state := .closed, tail := x.sess.tail ++ [traceRecord s q x.lastCseq 6 0 5 0 ||| (1 <<< 8)] } })

/-- R375, R376: a session that takes no more records is closed once its tail is flushed. -/
def closeSession (s : State) (q : Nat) : State :=
  let s := flushSession s q
  if sessionWaits s q then s else updQueue s q (fun x => { x with sess := {} })

/-- R389: a queue reset begins: its running cohorts are killed, its session closes and CONS takes DOORBELL. -/
def beginReset (s : State) (q : Nat) : State :=
  let ks := (s.cohorts.filter (fun p => p.2.queue == q && p.2.state != .ended)).map (·.1)
  let s := ks.foldl (fun s k => endCohortCrews s k true) s
  let s := { s with launches := s.launches.mapAll (fun _ l => if l.queue = q then { l with error := true, again := [] } else l) }
  updQueue (resetSession s q) q (fun x => { x with resetting := true, cons := x.doorbell, state := .idle })

/-- R389: a queue reset ends: nothing is written for the graph it abandons. Launches whose crews have nothing in flight
are removed. -/
def endReset (s : State) (q : Nat) : State :=
  let s := endGraph { s with copies := s.copies.keep (fun _ c => c.queue != some q) } q
  let isOver := (s.launches.filter (fun p => p.2.queue == q && p.2.error && p.2.live == 0
    && (launchCrews s p.1).all (fun cr => !s.accs.any (fun a => a.2.crew == cr.1) && !s.copies.any (fun c => c.2.crew == some cr.1)))).map (·.1)
  updQueue (isOver.foldl dropLaunch s) q (fun x =>
    { x with resetting := false
             state := if x.state = .badDoorbell then .badDoorbell else if x.cons = x.doorbell then .idle else .running })

/-- Whether a queue's session is still open, or waits for its last record to be acknowledged (R376). -/
def markWaits (s : State) (q : Nat) : Bool := (s.queues.find q).any (fun x => x.sess.ring.isSome || decide (s.dt < x.resetTw))

/-- QUEUE_RESET (R376, R389): the pump stops once the copy of a COPY node is done, unless it waits for a page. -/
def execQueueReset (s : State) : Host.Outcome State Fault Refusal :=
  command s 0x04 [(8, 2)] (fun bs s =>
    let q := argOf bs 8 2
    match s.queues.find q with
    | none => .refuse s stBadArg
    | some x =>
      let s := closeSession (if x.resetting then s else beginReset s q) q
      if s.copies.any (fun p => p.2.queue == some q && p.2.fault.isNone) || markWaits s q
          || s.cohorts.any (fun p => p.2.queue == q && p.2.state != .ended) then .wait s else .done (endReset s q) stOk)

-- translations and faults (R313, R315)

/-- R392: whether a page of 2^bits bytes meets a range; a length of 0 is the whole space. -/
def rangeMeets (base len first bits : Nat) : Bool :=
  len == 0 || (decide (first < base + len) && decide (base < first + 2 ^ bits))

/-- R313: the translations of a range leave every TLB and every walkers' cache. -/
def forgetRange (s : State) (ctx base len : Nat) : State :=
  let keepT (e : TlbEntry) : Bool := !(e.ctx == ctx && rangeMeets base len (e.vpn * 2 ^ e.size) e.size)
  let keepW (e : Nat × Nat × W64) : Bool :=
    let bits := 13 + 10 * (e.2.1 % 8)
    !(e.1 == ctx && rangeMeets base len (e.2.1 / 8 * 2 ^ bits) bits)
  { s with dies := s.dies.map (fun d => { d with tlb := d.tlb.filter keepT, walkC := d.walkC.filter keepW })
           cores := s.cores.mapAll (fun _ u => { u with tlb := u.tlb.filter keepT }) }

/-- R313: whether a line request of a context in a range is in flight with a translation. -/
def rangeInFlight (s : State) (ctx base len : Nat) : Bool :=
  s.accs.any (fun p => accIn ctx p.2 && p.2.lines.any (fun l =>
    rangeMeets base len (l.vline * 128) 7 && (match l.st with
      | .ready _ | .sent _ => true
      | _ => false)))

/-- R160: whether a page of a window in a range is no longer mapped where the window has it. -/
def windowMoved (s : State) (ctx base len : Nat) (w : Window) : Bool :=
  (w.pages.zipIdx).any (fun p =>
    let va := (w.va / 8192 + p.2) * 8192
    rangeMeets base len va 13 && (peek s none 0 ctx va).map (· / 8192) != some p.1)

/-- R323: removes entries of every die's counting table. -/
def dropHot (s : State) (gone : HotEntry → Bool) : State :=
  { s with dies := s.dies.map (fun d => { d with hot := d.hot.keep (fun _ h => !gone h) }) }

/-- R160, R323: windows whose pages have moved are released, and queued notifications of pages of the range go (log
entry 44). -/
def dropRange (s : State) (ctx base len : Nat) : State :=
  let s := dropHot s (fun h => h.ctx == ctx && h.state == .queued && rangeMeets base len (h.page * 8192) 13)
  match s.ctxs.find ctx with
  | none => s
  | some c => (c.windows.filter (fun p => windowMoved s ctx base len p.2)).foldl (fun s p => markRemap s ctx p.1) s

/-- INVALIDATE (R313, R392): complete once no request in flight in the range uses a translation. -/
def execInvalidate (s : State) : Host.Outcome State Fault Refusal :=
  command s 0x07 [(8, 2), (16, 9), (32, 8)] (fun bs s =>
    let ctx := argOf bs 8 2
    let base := argOf bs 16 9
    let len := argOf bs 32 8
    if (s.ctxs.find ctx).isNone || base % 8192 ≠ 0 || len % 8192 ≠ 0 then .refuse s stBadArg
    else
      let s := forgetRange s ctx base len
      if rangeInFlight s ctx base len then .wait s else .done (wakeAll (dropRange s ctx base len)) stOk)

/-- R315: an answer by its code. -/
def answerOf : Nat → Option Answer
  | 0 => some .resolved
  | 1 => some .violation
  | 2 => some .deliver
  | _ => none

/-- FAULT_ANSWER (R315). -/
def execFaultAnswer (s : State) : Host.Outcome State Fault Refusal :=
  command s 0x08 [(8, 2), (10, 2), (12, 1)] (fun bs s =>
    match (answerOf (argOf bs 12 1)).bind (answerFault s (argOf bs 8 2) (argOf bs 10 2)) with
    | some s => .done s stOk
    | none => .refuse s stBadArg)

-- stacks (R338, R342, R346)

/-- RETIRE_STACK (R342). -/
def execRetireStack (s : State) : Host.Outcome State Fault Refusal :=
  command s 0x09 [(8, 1), (9, 1)] (fun bs s =>
    let k := argOf bs 8 1
    if !(s.mig.act.contains k || (s.mig.mig && s.mig.old.contains k)) || 1 < argOf bs 9 1 then .refuse s stBadArg
    else
      match retireStackCmd s k (argOf bs 9 1 == 1) with
      | .accepted s => .done s stOk
      | .refused => .refuse s stRefused
      | .needFree => .refuse s stNeedFree)

/-- RETIRE_ACK (R338, R346): an acknowledged retirement makes the page inaccessible, also to requests that are on their way;
an acknowledged release makes it
accessible again. -/
def execRetireAck (s : State) : Host.Outcome State Fault Refusal :=
  command s 0x0A [(8, 1), (16, 7)] (fun bs s =>
    let page := argOf bs 16 7 / 8192
    if argOf bs 16 7 % 8192 ≠ 0 then .refuse s stBadArg
    else
      match argOf bs 8 1, s.badPages.find page with
      | 0x51, some b =>
        if b.release || b.acked then .refuse s stBadArg
        else .done (failBad { s with badPages := s.badPages.put page { b with acked := true } }) stOk
      | 0x54, some b => if b.release then .done { s with badPages := s.badPages.del page } stOk else .refuse s stBadArg
      | _, _ => .refuse s stBadArg)

-- breakpoints, stamps, traces (R367, R370, R375)

/-- BREAK (R367). -/
def execBreakCmd (s : State) : Host.Outcome State Fault Refusal :=
  command s 0x0B [(8, 2), (12, 4), (16, 1)] (fun bs s =>
    let q := argOf bs 8 2
    let fl := argOf bs 16 1
    let b := (BitVec.ofNat 32 (argOf bs 12 4), fl % 2 == 1)
    if (s.queues.find q).isNone || 4 ≤ fl then .refuse s stBadArg
    else
      .done (updQueue s q (fun x =>
        let rest := x.breaks.filter (· != b)
        { x with breaks := if 2 ≤ fl then rest else rest ++ [b] })) stOk)

/-- R367: a stopped queue goes on: with the node it stopped before, or with the successor of the one it stopped after. -/
def continueQueue (s : State) (q : Nat) : State :=
  match graphOf s q with
  | none => s
  | some (_, g) =>
    match g.run with
    | .stopBefore => updGraph s q (fun g => { g with run := .start, passed := true })
    | .stopAfter next => goTo s q next
    | _ => s

/-- CONTINUE (R367). -/
def execContinueCmd (s : State) : Host.Outcome State Fault Refusal :=
  command s 0x0C [(8, 2)] (fun bs s =>
    let q := argOf bs 8 2
    if (s.queues.find q).isNone then .refuse s stBadArg else .done (continueQueue s q) stOk)

/-- STAMP_BIND (R370). -/
def execStampBind (s : State) : Host.Outcome State Fault Refusal :=
  command s 0x0D [(8, 2), (16, 9), (32, 9), (48, 1)] (fun bs s =>
    let q := argOf bs 8 2
    let lg := argOf bs 48 1
    if (s.queues.find q).isNone || (lg ≠ 0 && (lg < 3 || 20 < lg)) then .refuse s stBadArg
    else
      let r : RingRef := { base := argOf bs 16 9, cb := argOf bs 32 9, log2 := lg, vec := none }
      .done (updQueue s q (fun x => { x with stamp := if lg = 0 then none else some r })) stOk)

/-- TRACE_OPEN (R375): a session that is open is not opened again (log entry 43). -/
def execTraceOpen (s : State) : Host.Outcome State Fault Refusal :=
  command s 0x0E [(8, 2), (10, 1), (11, 1), (16, 9), (32, 9)] (fun bs s =>
    let lg := argOf bs 11 1
    match s.queues.find (argOf bs 8 2) with
    | none => .refuse s stBadArg
    | some x =>
      if lg < 6 || 24 < lg || 1 < argOf bs 10 1 || x.sess.state != .closed then .refuse s stBadArg
      else
        let r : RingRef := { base := argOf bs 16 9, cb := argOf bs 32 9, log2 := lg, vec := none }
        .done (updQueue s (argOf bs 8 2) (fun x =>
          { x with sess := { state := if argOf bs 10 1 = 1 then .capturing else .armed, ring := some r } })) stOk)

/-- TRACE_CLOSE (R375): the tail is flushed and the session closes; it takes no records while its tail waits for memory. -/
def execTraceClose (s : State) : Host.Outcome State Fault Refusal :=
  command s 0x0F [(8, 2)] (fun bs s =>
    let q := argOf bs 8 2
    if (s.queues.find q).isNone then .refuse s stBadArg
    else
      let s := closeSession (updQueue s q (fun x => { x with sess := { x.sess with state := .closed } })) q
      if (s.queues.find q).any (·.sess.ring.isSome) then .wait s else .done s stOk)

-- hotness (R323)

/-- HOT_ACK (R323). -/
def execHotAck (s : State) : Host.Outcome State Fault Refusal :=
  command s 0x16 [(8, 2), (16, 9)] (fun bs s =>
    let ctx := argOf bs 8 2
    let page := argOf bs 16 9 / 8192
    if (s.ctxs.find ctx).isNone then .refuse s stBadArg
    else
      .done (dropHot s (fun h => h.ctx == ctx && h.page == page && h.state == .queued)) stOk)

-- power (R397 to R399)

/-- R397: whether a context can reach a stack. -/
def stackReached (s : State) (k : Nat) : Bool :=
  !s.ctxs.isEmpty && (s.mig.act.contains k || (s.mig.mig && s.mig.old.contains k))

/-- R397, R399: the DT ticks for which a change of P-level, or a margin plan, stops a die's clk: at most 20 µs. -/
def clkStop (s : State) (i : Nat) : Nat := (Config.freeWord (s.fresh + i)).toNat % 20001

/-- R397: sets the P-levels of the dies; a change stops the die's clk, and applies the margin plan. -/
def setLevels (s : State) (v : Nat) : State :=
  let level (d : Nat) : Nat := v / 2 ^ (4 * d) % 8
  let changed := (s.dies.zipIdx).any (fun p => p.1.plevel != level p.2)
  { s with
    dies := s.dies.zipIdx.map (fun p =>
      if p.1.plevel = level p.2 then p.1
      else { p.1 with plevel := level p.2, halt := p.1.halt + clkStop s p.2 + clkStop s 4 })
    power := { s.power with margins := s.power.margins + (if changed then 1 else 0) }
    fresh := s.fresh + 5 }

/-- R271, R397: gates and ungates the wells. -/
def setGating (s : State) (bm : Nat) : State :=
  (List.range Config.nwells).foldl (fun s w =>
    let g := bm / 2 ^ w % 2 == 1
    if (wellOf s w).gated = g then s else updWell s w (fun x => { x with gated := g })) s

/-- R398: sets the power cap and the brake level; a brake in force takes the level. -/
def setCap (s : State) (cap level : Nat) : State :=
  { s with power := { s.power with capW := cap, level := level
                                   brake := s.power.brake.map (fun b => { b with level := level }) } }

/-- R29: the module's rating in W, which no power cap passes. -/
def ratingW : Nat := 3000

/-- POWER (R29, R392, R397). -/
def execPower (s : State) : Host.Outcome State Fault Refusal :=
  command s 0x14 [(8, 4), (12, 1), (13, 1), (14, 2), (16, 8), (24, 1)] (fun bs s =>
    let lv := argOf bs 8 4
    let rf := argOf bs 12 1
    let fl := argOf bs 24 1
    let a := argOf bs 16 8
    let has (b : Nat) : Bool := fl / 2 ^ b % 2 == 1
    let self := (List.range 8).filter (fun k => rf / 2 ^ k % 2 == 1)
    if 16 ≤ fl || 2 ^ 15 ≤ lv || (List.range 4).any (fun d => lv / 2 ^ (4 * d + 3) % 2 == 1) || 8 ≤ argOf bs 13 1
        || (has 1 && self.any (stackReached s)) || (has 2 && capBytes s < a + 64)
        || (has 3 && ratingW < argOf bs 14 2) then .refuse s stBadArg
    else
      let s := if has 0 then setLevels s lv else s
      let s := if has 1 then { s with power := { s.power with refresh := (List.range 8).map self.contains } } else s
      let s := if has 2 then setGating s (leNat (readPhys s a 64)) else s
      .done (if has 3 then setCap s (argOf bs 14 2) (argOf bs 13 1) else s) stOk)

/-- APPLY_MARGIN (R399). -/
def execApplyMargin (s : State) : Host.Outcome State Fault Refusal :=
  command s 0x15 [] (fun _ s =>
    .done { s with
      dies := s.dies.zipIdx.map (fun p => { p.1 with halt := p.1.halt + clkStop s p.2 })
      power := { s.power with margins := s.power.margins + 1 }, fresh := s.fresh + 4 } stOk)

end Sys2Proof.Machine
end

