-- ==== Sys2Proof/Machine/Control.lean ====
section
/-! DEFINITION. Control.lean: the control group but for GSIG (R42 to R50, R421 to R430, R437 to R439, R456 to R460,
R543, R564, R567, R580, R581) and the undefined opcodes (R97). -/
namespace Sys2Proof.Machine

/-- NOP has no effect. -/
def execNop (g : Guard) (s : State) : Host.Outcome State Fault Refusal := issue s (.nop g) (fun e => .next e.s)

/-- R92: the byte offset of the header that an instruction names. -/
def Env.target (e : Env) (off : BitVec 32) : Int := (e.off : Int) + 8 * off.toInt

/-- R619: whether a header's word lies outside the code segment. -/
def Env.outside (e : Env) (h : Int) : Bool :=
  match launchOf e.s e.crew with
  | some ln => decide (h < 0) || decide ((ln.seglen : Int) < h + 8)
  | none => true

/-- R619, step 1: the trap of a header that an instruction names, outside the segment. -/
def boundsAt (h : Int) : Eff := .trap { code := 0x06, addr := BitVec.ofInt 64 h }

/-- The split goes to a header (R90). -/
def Env.goto (e : Env) (h : Int) (how : Entering) (f : Split → Split) : Eff :=
  .go (updSplit e.s e.cid e.sid (fun sp => f { sp with place := .header h how, mark := none }))

/-- R619: the split goes to a header that its instruction names. -/
def Env.branchTo (e : Env) (h : Int) (how : Entering) (f : Split → Split) : Eff :=
  if e.outside h then boundsAt h else e.goto h how f

/-- R87: the header after the executing block. -/
def Env.nextHeader (e : Env) : Nat :=
  match e.split.block with
  | some b => b.next
  | none => e.off + 8 * e.words

/-- R426. -/
def execBra (off : BitVec 32) (s : State) : Host.Outcome State Fault Refusal :=
  issue s (.bra off) (fun e => e.branchTo (e.target off) .branch id)

/-- R43, R87: the reconvergence headers of the splits of a divergent BRC. -/
def Env.recon (e : Env) : List Recon :=
  match e.split.block with
  | some b =>
    if b.rcv = 0 then e.split.recon
    else
      let t : Int := (b.off : Int) + 8 * b.rcv.toInt
      -- a target before the segment is no header that a split can reach
      { target := if t < 0 then 2 ^ 63 else t.toNat, setter := e.crew.nextSplit } :: e.split.recon
  | none => e.split.recon

/-- R44: whether a crew can hold one more split. -/
def Env.splitFits (e : Env) : Bool :=
  decide (e.crew.splits.length < 256)
    && (decide (e.crew.splits.length < 16)
      || ((e.s.ctxs.find e.crew.ctx).any (fun c => decide (splitBytes e.crew.w0 ≤ sumpFree c))))

/-- R42, R429: the split becomes the taken split and the other one. -/
def Env.diverge (e : Env) (taken : Mask) (h : Int) : State :=
  let n := e.crew.nextSplit
  let base : Split := { e.split with recon := e.recon, mark := none }
  let t : Split := { base with id := n, age := n, mask := taken, place := .header h .branch }
  let o : Split := { base with id := n + 1, age := n + 1, mask := e.split.mask &&& ~~~taken
                               place := .header e.nextHeader .fall }
  updSplits e.s e.cid (fun cr =>
    { cr with splits := cr.splits.filter (fun sp => sp.id != e.sid) ++ [t, o], nextSplit := n + 2 })

/-- R428, R429. -/
def execBrc (g : Guard) (off : BitVec 32) (s : State) : Host.Outcome State Fault Refusal :=
  issue s (.brc g off) (fun e =>
    let h := e.target off
    if e.lanes.length = e.all.length then e.branchTo h .branch id
    else if e.lanes.isEmpty then e.goto e.nextHeader .fall id
    else if !e.splitFits then .trap { code := 0x13 }
    else if e.outside h then boundsAt h
    else .go (e.diverge (maskOf e.lanes) h))

/-- R437, R438. -/
def execCall (off : BitVec 32) (s : State) : Host.Outcome State Fault Refusal :=
  issue s (.call off) (fun e =>
    if 16 ≤ e.split.rstack.length then .trap { code := 0x03 }
    else e.branchTo (e.target off) .call (fun sp => { sp with rstack := e.nextHeader :: sp.rstack }))

/-- R437, R438. -/
def execRet (s : State) : Host.Outcome State Fault Refusal :=
  issue s .ret (fun e =>
    match e.split.rstack with
    | [] => .trap { code := 0x03 }
    | h :: hs => e.branchTo h .ret (fun sp => { sp with rstack := hs }))

/-- R43, R49, R50, R457: what the end of a split's lanes completes for the splits of its crew that wait. -/
def splitEnded (s : State) (cid k : Nat) : State :=
  match s.crews.find cid with
  | none => s
  | some cr =>
    if cr.splits.isEmpty then endCrew s cid .exited
    else reformCheck (barriersCheck (exitCheck (joinCheck s cid) cid) k) k

/-- R457: lanes of the executing split end; their registers are freed (R49). -/
def Env.endLanes (e : Env) : State :=
  let ended := maskOf e.lanes
  let rest := e.split.mask &&& ~~~ended
  let s := updSplits e.s e.cid (fun cr =>
    let cr := cr.freeRegs e.lanes (fun _ => false)
    if rest = 0 then { cr with splits := cr.splits.filter (fun sp => sp.id != e.sid) }
    else cr.updSplit e.sid (fun sp => { sp with mask := rest, place := .header e.nextHeader .fall, mark := none }))
  let s := wakeRows s (unitOf s e.crew)
  if rest = 0 then splitEnded s e.cid e.crew.cohort else s

/-- R456, R457: the plain form. -/
def execExit (g : Guard) (s : State) : Host.Outcome State Fault Refusal :=
  issue s (.exit g) (fun e =>
    if e.lanes.isEmpty then e.goto e.nextHeader .fall id else .go e.endLanes)

/-- R458: the successor form. -/
def execExitSuccessor (off : BitVec 32) (keep : W64) (s : State) : Host.Outcome State Fault Refusal :=
  issue s (.exitSuccessor off keep) (fun e =>
    let h := e.target off
    if e.outside h then boundsAt h
    else if (e.crew.splits.filterMap Split.exitAt).any (fun x => x.1 != h || x.2.1 != keep) then .trap { code := 0x03 }
    else
      let s := updSplit e.s e.cid e.sid (fun sp => { sp with mark := none, state := .exitWait h keep e.off })
      .go (exitCheck s e.cid))

/-- R47: the target of a counted wait, and whether it is satisfied. -/
def Env.satisfied (e : Env) (t : Src) (k : BitVec 3) : Bool :=
  reached (e.crew.counters.getD k.toNat 0) (e.int32 t e.lead)

/-- R580, R581. -/
def execYield (t : Src) (k : BitVec 3) (off : BitVec 32) (s : State) : Host.Outcome State Fault Refusal :=
  issue s (.yield t k off) (fun e =>
    let h := e.target off
    if e.outside h then boundsAt h
    else if e.satisfied t k then e.goto h .resume id
    else .park (.waitYield k.toNat (e.int32 t e.lead) h) e.s)

/-- R567. -/
def execWaitc (g : Guard) (t : Src) (k : BitVec 3) (s : State) : Host.Outcome State Fault Refusal :=
  issue s (.waitc g t k) (fun e =>
    if e.lanes.isEmpty || e.satisfied t k then .next e.s
    else .park (.waitCount k.toNat (e.int32 t e.lead)) e.s)

/-- R421, R422: the split has arrived at barrier n; it waits but for .arrive. -/
def execBar (n : BitVec 4) (arrive : Bool) (s : State) : Host.Outcome State Fault Refusal :=
  issue s (.bar n arrive) (fun e =>
    let s := updSplit e.s e.cid e.sid (fun sp =>
      { sp with place := e.after, mark := none, arrived := sp.arrived ||| BitVec.twoPow 16 n.toNat
                state := if arrive then .ready else .waitBar n.toNat })
    .go (barrierCheck s e.crew.cohort n.toNat))

/-- R564. -/
def execTrap (g : Guard) (imm : W32) (s : State) : Host.Outcome State Fault Refusal :=
  issue s (.trap g imm) (fun e =>
    if e.lanes.isEmpty then .next e.s else .trapAfter { code := 0x11, addr := imm.setWidth 64 })

/-- R543. -/
def execRtt (s : State) : Host.Outcome State Fault Refusal :=
  issue s .rtt (fun e =>
    if e.split.trap.inHandler then .go (returnFromTrap e.s e.cid e.sid) else .trap { code := 0x03 })

/-- R97: an opcode that the map does not define. -/
def execIllegalOpcode (op : BitVec 8) (s : State) : Host.Outcome State Fault Refusal :=
  issue s (.illegalOpcode op) (fun _ => .trap { code := 0x01 })

end Sys2Proof.Machine
end

