-- ==== Sys2Proof/Machine/FloatOps.lean ====
section
/-! DEFINITION. FloatOps.lean: the floating and packed instructions (R461 to R476, R483) and CVT (R450 to R453). -/
namespace Sys2Proof.Machine

/-- R117, R125: whether subnormals of a type are flushed: by .ftz, and by FTZ32 for binary32. -/
def Env.flush (e : Env) (ty : FTy) (ftz : Bool) : Bool := ftz || (ty == .f32 && e.crew.fpmode.getLsbD 0)

/-- R125: whether FMIN and FMAX act as with .nanp. -/
def Env.nanp (e : Env) (nanp : Bool) : Bool := nanp || e.crew.fpmode.getLsbD 1

/-- The rounding of an instruction in a lane. -/
def Env.rounding (e : Env) (ty : FTy) (m : FMod) (noise nbits : Nat) : Rounding :=
  { rnd := m.rnd, noise := noise, nbits := nbits, ftz := e.flush ty m.ftz, sat := m.sat }

/-- A floating result in the low bits of its register (R462). -/
def fltRes (x : Nat × Flags) : Res := { bits := BitVec.ofNat 64 x.1, flags := x.2 }

/-- R463: an instruction that rounds an exact value once in every lane, by a function of its rounding and its
sources as values. -/
def Env.rounded (e : Env) (d : Dest) (ty : FTy) (m : FMod) (f : Rounding → (Src → FVal) → Nat × Flags) : Eff :=
  let (e, ns) := e.draw m.rnd
  e.lanewise d .w32 (fun l =>
    let ftz := e.flush ty m.ftz
    fltRes (f (e.rounding ty m (noiseOf ns l) 32) (fun a => (fmtOf ty).read ftz (e.flt ty a l))))

/-- R461. -/
def execFadd (g : Guard) (d : Dest) (ty : FTy) (m : FMod) (a b : Src) (s : State) : Host.Outcome State Fault Refusal :=
  issue s (.fadd g d ty m a b) (fun e => e.rounded d ty m (fun r v => (fmtOf ty).addV r (v a) (v b)))

/-- R461, R463: b is negated exactly before the sum. -/
def execFsub (g : Guard) (d : Dest) (ty : FTy) (m : FMod) (a b : Src) (s : State) : Host.Outcome State Fault Refusal :=
  issue s (.fsub g d ty m a b) (fun e => e.rounded d ty m (fun r v => (fmtOf ty).addV r (v a) (v b).negate))

/-- R461. -/
def execFmul (g : Guard) (d : Dest) (ty : FTy) (m : FMod) (a b : Src) (s : State) : Host.Outcome State Fault Refusal :=
  issue s (.fmul g d ty m a b) (fun e => e.rounded d ty m (fun r v => (fmtOf ty).mulV r (v a) (v b)))

/-- R461. -/
def execFfma (g : Guard) (d : Dest) (ty : FTy) (m : FMod) (a b c : Src) (s : State) :
    Host.Outcome State Fault Refusal :=
  issue s (.ffma g d ty m a b c) (fun e => e.rounded d ty m (fun r v => (fmtOf ty).fmaV r (v a) (v b) (v c)))

/-- R476: FMIN or FMAX. -/
def Env.extreme (e : Env) (d : Dest) (ty : FTy) (wantMax nanp ftz : Bool) (a b : Src) : Eff :=
  e.lanewise d .w32 (fun l =>
    fltRes ((fmtOf ty).minMax wantMax (e.nanp nanp) (e.flush ty ftz) (e.flt ty a l) (e.flt ty b l)))

/-- R476. -/
def execFmin (g : Guard) (d : Dest) (ty : FTy) (nanp ftz : Bool) (a b : Src) (s : State) :
    Host.Outcome State Fault Refusal :=
  issue s (.fmin g d ty nanp ftz a b) (fun e => e.extreme d ty false nanp ftz a b)

/-- R476. -/
def execFmax (g : Guard) (d : Dest) (ty : FTy) (nanp ftz : Bool) (a b : Src) (s : State) :
    Host.Outcome State Fault Refusal :=
  issue s (.fmax g d ty nanp ftz a b) (fun e => e.extreme d ty true nanp ftz a b)

/-- R466: a condition of FCMP. -/
def fltCond (c : FCond) (a b : FVal) : Bool :=
  let un := a.isNan || b.isNan
  match c with
  | .eq => FVal.numEq a b
  | .lt => FVal.numLt a b
  | .le => FVal.numLt a b || FVal.numEq a b
  | .gt => FVal.numLt b a
  | .ge => FVal.numLt b a || FVal.numEq a b
  | .ne => !un && !FVal.numEq a b
  | .num => !un
  | .equ => un || FVal.numEq a b
  | .ltu => un || FVal.numLt a b
  | .leu => un || FVal.numLt a b || FVal.numEq a b
  | .gtu => un || FVal.numLt b a
  | .geu => un || FVal.numLt b a || FVal.numEq a b
  | .neu => un || !FVal.numEq a b
  | .nan => un

/-- R466, R467. -/
def execFcmp (g : Guard) (d : Dest) (ty : FTy) (cond : FCond) (ftz : Bool) (pw : Option (BitVec 3)) (a b : Src)
    (s : State) : Host.Outcome State Fault Refusal :=
  issue s (.fcmp g d ty cond ftz pw a b) (fun e =>
    let v (x : Src) (l : Nat) : FVal := (fmtOf ty).read (e.flush ty ftz) (e.flt ty x l)
    e.bitResult d pw (e.lanes.map (fun l => (l, fltCond cond (v a l) (v b l))))
      (Flags.when (e.lanes.any (fun l => (v a l).snan || (v b l).snan)) Flags.nv))

/-- R465: the class is that of the raw encoding. -/
def execFclass (g : Guard) (d : Dest) (ty : FTy) (a : Src) (s : State) : Host.Outcome State Fault Refusal :=
  issue s (.fclass g d ty a) (fun e => e.lanewise d .w32 (fun l =>
    { bits := BitVec.ofNat 64 (2 ^ (fmtOf ty).classify (e.flt ty a l)) }))

/-- R475: a function of R474. -/
def Env.function (e : Env) (d : Dest) (ty : FTy) (ftz : Bool) (fn : Fn) (a : Src) : Eff :=
  e.rounded d ty { rnd := .rne, ftz := ftz, sat := false } (fun r v => (fmtOf ty).apply fn r (v a))

/-- R474. -/
def execFrcp (g : Guard) (d : Dest) (ty : FTy) (ftz : Bool) (a : Src) (s : State) : Host.Outcome State Fault Refusal :=
  issue s (.frcp g d ty ftz a) (fun e => e.function d ty ftz .rcp a)

/-- R474. -/
def execFrsq (g : Guard) (d : Dest) (ty : FTy) (ftz : Bool) (a : Src) (s : State) : Host.Outcome State Fault Refusal :=
  issue s (.frsq g d ty ftz a) (fun e => e.function d ty ftz .rsq a)

/-- R474. -/
def execFsqrt (g : Guard) (d : Dest) (ty : FTy) (ftz : Bool) (a : Src) (s : State) :
    Host.Outcome State Fault Refusal :=
  issue s (.fsqrt g d ty ftz a) (fun e => e.function d ty ftz .sqrt a)

/-- R474. -/
def execFlog2 (g : Guard) (d : Dest) (ty : FTy) (ftz : Bool) (a : Src) (s : State) :
    Host.Outcome State Fault Refusal :=
  issue s (.flog2 g d ty ftz a) (fun e => e.function d ty ftz .log2 a)

/-- R474. -/
def execFexp2 (g : Guard) (d : Dest) (ty : FTy) (ftz : Bool) (a : Src) (s : State) :
    Host.Outcome State Fault Refusal :=
  issue s (.fexp2 g d ty ftz a) (fun e => e.function d ty ftz .exp2 a)

/-- R474. -/
def execFtanh (g : Guard) (d : Dest) (ty : FTy) (ftz : Bool) (a : Src) (s : State) :
    Host.Outcome State Fault Refusal :=
  issue s (.ftanh g d ty ftz a) (fun e => e.function d ty ftz .tanh a)

/-- R474. -/
def execFsig (g : Guard) (d : Dest) (ty : FTy) (ftz : Bool) (a : Src) (s : State) : Host.Outcome State Fault Refusal :=
  issue s (.fsig g d ty ftz a) (fun e => e.function d ty ftz .sig a)

/-- R106: an element of a packed operand. -/
def Env.half (e : Env) (ty : FTy) (a : Src) (l k : Nat) : Nat :=
  (readSrc e.s e.crew e.split (.packed ty) .w32 a l).toNat / 65536 ^ k % 65536

/-- R106, R118: two elements computed independently, element k with its half of the noise word. -/
def Env.packed (e : Env) (d : Dest) (ty : FTy) (m : FMod) (f : Rounding → (Src → FVal) → Nat × Flags) : Eff :=
  let (e, ns) := e.draw m.rnd
  e.lanewise d .w32 (fun l =>
    let elem (k : Nat) : Nat × Flags :=
      f (e.rounding ty m (noiseOf ns l / 65536 ^ k % 65536) 16)
        (fun a => (fmtOf ty).read (e.flush ty m.ftz) (e.half ty a l k))
    { bits := BitVec.ofNat 64 ((elem 0).1 + (elem 1).1 * 65536), flags := (elem 0).2 ||| (elem 1).2 })

/-- R483. -/
def execHadd2 (g : Guard) (d : Dest) (ty : FTy) (m : FMod) (a b : Src) (s : State) :
    Host.Outcome State Fault Refusal :=
  issue s (.hadd2 g d ty m a b) (fun e => e.packed d ty m (fun r v => (fmtOf ty).addV r (v a) (v b)))

/-- R483. -/
def execHmul2 (g : Guard) (d : Dest) (ty : FTy) (m : FMod) (a b : Src) (s : State) :
    Host.Outcome State Fault Refusal :=
  issue s (.hmul2 g d ty m a b) (fun e => e.packed d ty m (fun r v => (fmtOf ty).mulV r (v a) (v b)))

/-- R483. -/
def execHfma2 (g : Guard) (d : Dest) (ty : FTy) (m : FMod) (a b c : Src) (s : State) :
    Host.Outcome State Fault Refusal :=
  issue s (.hfma2 g d ty m a b c) (fun e => e.packed d ty m (fun r v => (fmtOf ty).fmaV r (v a) (v b) (v c)))

/-- R452: an element of a conversion between packed types, of 8 or 4 bits. -/
def packElem (ty : NumTy) (sat : Bool) (x : Int) : Nat × Flags :=
  let n := idp4Bits ty
  let signed : Bool := match ty with
    | .int .s8 | .nib .s4 => true
    | _ => false
  let lo : Int := if signed then -((2 ^ (n - 1) : Nat) : Int) else 0
  let hi : Int := if signed then ((2 ^ (n - 1) : Nat) : Int) - 1 else ((2 ^ n : Nat) : Int) - 1
  let c := if x < lo then lo else if hi < x then hi else x
  (((if sat then c else x) % (2 ^ n : Nat)).toNat, Flags.when (sat && decide (c ≠ x)) Flags.sat)

/-- R452: the eight elements of a packed conversion. -/
def packConvert (dty sty : NumTy) (sat : Bool) (x : Nat) : Res :=
  let es := (List.range 8).map (fun i => packElem dty sat (dpElem sty x i))
  { bits := BitVec.ofNat 64 ((es.zipIdx.map (fun p => p.1.1 * 2 ^ (idp4Bits dty * p.2))).foldl (· + ·) 0)
    flags := es.foldl (fun f p => f ||| p.2) 0 }

/-- R451, R452: the conversion of one lane. FTZ32 flushes its binary32 side alone (log entry 65: DEDUCED). -/
def Env.convert (e : Env) (dty sty : NumTy) (m : FMod) (a : Src) (noise l : Nat) : Res :=
  match dty, sty with
  | .int dt, .int st => finishInt dt m.sat (readInt st (e.int st.operand a l))
  | .flt df, .int st => fltRes ((fmtOf df).ofInt (e.rounding df m noise 32) (readInt st (e.int st.operand a l)))
  | .int dt, .flt sf =>
    let (x, fl) := toIntRange (e.rounding sf m noise 32) (intMin dt) (intMax dt)
      ((fmtOf sf).read (e.flush sf m.ftz) (e.flt sf a l))
    { bits := (finishInt dt false x).bits, flags := fl }
  | .flt df, .flt sf =>
    fltRes ((fmtOf df).convert (e.rounding df m noise 32) ((fmtOf sf).read (e.flush sf m.ftz) (e.flt sf a l)))
  | _, _ => packConvert dty sty m.sat (e.int (cvtSrcWidth dty sty) a l).toNat

/-- R450 to R453. -/
def execCvt (g : Guard) (d : Dest) (dty sty : NumTy) (m : FMod) (a : Src) (s : State) :
    Host.Outcome State Fault Refusal :=
  issue s (.cvt g d dty sty m a) (fun e =>
    let (e, ns) := e.draw m.rnd
    e.lanewise d (cvtDestWidth dty sty) (fun l => e.convert dty sty m a (noiseOf ns l) l))

end Sys2Proof.Machine
end

