-- ==== Sys2Proof/Machine/CrewOps.lean ====
section
/-! DEFINITION. CrewOps.lean: the crew operations (R128 to R130, R454, R455, R530 to R539, R546, R547, R566). -/
namespace Sys2Proof.Machine

/-- R547: the position a lane reads. -/
def shflSource (mode : ShflMode) (w l b : Nat) : Option Nat :=
  match mode with
  | .idx => some (b % w)
  | .up => if b ≤ l then some (l - b) else none
  | .down => if l + b < w then some (l + b) else none
  | .xor => if l ^^^ b < w then some (l ^^^ b) else none

/-- R546, R547. -/
def execShfl (g : Guard) (d : Dest) (ty : BTy) (mode : ShflMode) (a b : Src) (s : State) :
    Host.Outcome State Fault Refusal :=
  issue s (.shfl g d ty mode a b) (fun e => e.lanewise d ty.operand (fun l =>
    let j := match shflSource mode e.crew.width l (e.int32 b l).toNat with
      | some j => if e.lanes.contains j then j else l
      | none => l
    { bits := e.int ty.operand a j }))

/-- R566: the mask word of the lanes of word j whose value is not zero. -/
def ballotWord (set : List Nat) (j : Nat) : W64 :=
  BitVec.ofNat 64 (((set.filter (fun l => l / 32 == j)).map (fun l => 2 ^ (l % 32))).foldl (· + ·) 0)

/-- R566. -/
def execVote (g : Guard) (d : Dest) (mode : VoteMode) (pw : Option (BitVec 3)) (a : Src) (s : State) :
    Host.Outcome State Fault Refusal :=
  issue s (.vote g d mode pw a) (fun e =>
    let set := e.lanes.filter (fun l => e.int32 a l != 0)
    let bit (b : Bool) : Eff := e.bitResult d pw (e.lanes.map (fun l => (l, b))) 0
    match mode with
    | .any => bit (!set.isEmpty)
    | .all => bit (set.length == e.lanes.length)
    | .uni => bit (e.lanes.all (fun l => e.int32 a l == e.int32 a e.lead))
    | .ballot => e.lanewise d .w32 (fun l => { bits := ballotWord set (l / 32) }))

/-- R128: the tree over the values of 2^n positions from p, with the flags of every step. A value that no other joins is
the result as it stands, a NaN among them (log entry 66: DESIGN CHOICE). -/
def tree (comb : W64 → W64 → Res) (val : Nat → Option W64) : Nat → Nat → Option Res
  | 0, p => (val p).map (fun x => { bits := x })
  | n + 1, p =>
    match tree comb val n (2 * p), tree comb val n (2 * p + 1) with
    | some x, some y =>
      let r := comb x.bits y.bits
      some { r with flags := r.flags ||| x.flags ||| y.flags }
    | some x, none => some x
    | none, y => y

/-- R129: the aligned power-of-two blocks that partition the positions below n, lowest first, as (log2, index). -/
def blocksBelow (n : Nat) : Nat → List (Nat × Nat)
  | 0 => []
  | k + 1 =>
    -- the block of size 2^k covers positions from n with its lower bits cleared
    (if n / 2 ^ k % 2 = 1 then [(k, n / 2 ^ (k + 1) * 2)] else []) ++ blocksBelow n k

/-- R129: the prefix of the positions below n. -/
def prefixOf (comb : W64 → W64 → Res) (val : Nat → Option W64) (n : Nat) : Option Res :=
  ((blocksBelow n 11).map (fun b => tree comb val b.1 b.2)).foldl (fun acc x =>
    match acc, x with
    | some a, some y =>
      let r := comb a.bits y.bits
      some { r with flags := r.flags ||| a.flags ||| y.flags }
    | some a, none => some a
    | none, y => y) none

/-- The integer type of a RED type. -/
def redInt : RedTy → IntTy
  | .n32 => .n32
  | .s64 => .s64
  | .n64 => .n64
  | _ => .s32

/-- The floating type of a RED type. -/
def redFlt : RedTy → FTy
  | .f16 => .f16
  | .bf16 => .bf16
  | _ => .f32

/-- R532: a combination of two integers. -/
def intComb (ty : IntTy) (op : RedOp) (sat : Bool) (x y : W64) : Res :=
  match op with
  | .add => finishInt ty sat (readInt ty x + readInt ty y)
  | .min => { bits := if readInt ty y < readInt ty x then y else x }
  | .max => { bits := if readInt ty x < readInt ty y then y else x }
  | .and => { bits := x &&& y }
  | .or => { bits := x ||| y }
  | .xor => { bits := x ^^^ y }

/-- R532: a combination of two floating values. -/
def Env.fltComb (e : Env) (ty : FTy) (op : RedOp) (m : FMod) (x y : W64) : Res :=
  let f := fmtOf ty
  match op with
  | .min => fltRes (f.minMax false (e.nanp false) (e.flush ty m.ftz) x.toNat y.toNat)
  | .max => fltRes (f.minMax true (e.nanp false) (e.flush ty m.ftz) x.toNat y.toNat)
  | _ => fltRes (f.addV (e.rounding ty m 0 32) (f.read (e.flush ty m.ftz) x.toNat) (f.read (e.flush ty m.ftz) y.toNat))

/-- R532: the combination of an instruction. -/
def Env.comb (e : Env) (ty : RedTy) (op : RedOp) (m : FMod) (x y : W64) : Res :=
  if ty.isInt then
    let r := intComb (redInt ty) op m.sat x y
    { r with bits := cutTo ty.operand r.bits }
  else e.fltComb (redFlt ty) op m x y

/-- A source of RED, SCAN or RMAXI in a lane. -/
def Env.redValue (e : Env) (ty : RedTy) (a : Src) (l : Nat) : W64 :=
  if ty.isInt then e.int ty.operand a l else BitVec.ofNat 64 (e.flt (redFlt ty) a l)

/-- R128, R530: the value of a position; absent where its lane is not active. -/
def Env.position (e : Env) (ty : RedTy) (a : Src) (p : Nat) : Option W64 :=
  if e.lanes.contains p then some (e.redValue ty a p) else none

/-- R532: the identity of an operation. -/
def redIdentity (ty : RedTy) (op : RedOp) : W64 :=
  match op with
  | .add | .or | .xor => 0
  | .and => BitVec.allOnes 64
  | .min => if ty.isInt then BitVec.ofInt 64 (intMax (redInt ty)) else BitVec.ofNat 64 ((fmtOf (redFlt ty)).infBits false)
  | .max => if ty.isInt then BitVec.ofInt 64 (intMin (redInt ty)) else BitVec.ofNat 64 ((fmtOf (redFlt ty)).infBits true)

/-- R531, R532. -/
def execRed (g : Guard) (d : Dest) (ty : RedTy) (op : RedOp) (m : FMod) (a : Src) (s : State) :
    Host.Outcome State Fault Refusal :=
  issue s (.red g d ty op m a) (fun e =>
    let r := (tree (e.comb ty op m) (e.position ty a) e.crew.w0 0).getD { bits := 0 }
    e.lanewise d ty.operand (fun _ => r))

/-- R531, R532. -/
def execScan (g : Guard) (d : Dest) (ty : RedTy) (op : RedOp) (excl : Bool) (m : FMod) (a : Src) (s : State) :
    Host.Outcome State Fault Refusal :=
  issue s (.scan g d ty op excl m a) (fun e => e.lanewise d ty.operand (fun l =>
    (prefixOf (e.comb ty op m) (e.position ty a) (if excl then l else l + 1)).getD { bits := redIdentity ty op }))

/-- R130: whether a value and index beat others. -/
def beats (lt : W64 → W64 → Bool) (x y : W64 × W32) : Bool :=
  lt y.1 x.1 || (!lt x.1 y.1 && decide (x.2.toNat < y.2.toNat))

/-- R130: the pair that beats every other, the first where several are equal. -/
def bestPair (lt : W64 → W64 → Bool) : List (W64 × W32) → Option (W64 × W32)
  | [] => none
  | x :: xs =>
    match bestPair lt xs with
    | none => some x
    | some y => if beats lt y x then some y else some x

/-- R130, R533: the winning value and index, and the flags. -/
def Env.maxIndex (e : Env) (ty : RedTy) (ftz : Bool) (ps : List (W64 × W32)) : Res :=
  let answer (p : W64 × W32) (fl : Flags) : Res := { bits := pair (lo32 p.1) p.2, flags := fl }
  if ty.isInt then
    answer ((bestPair (fun x y => decide (readInt (redInt ty) x < readInt (redInt ty) y)) ps).getD (0, 0)) 0
  else
    let f := fmtOf (redFlt ty)
    let flushed (x : W64) : W64 :=
      if e.flush (redFlt ty) ftz && f.isSubnormal x.toNat then BitVec.ofNat 64 (x.toNat - x.toNat % 2 ^ f.fb) else x
    let v (x : W64) : FVal := f.decode x.toNat
    let nv := Flags.when (ps.any (fun p => (v p.1).snan)) Flags.nv
    match bestPair (fun x y => FVal.numLt (v x) (v y)) ((ps.filter (fun p => !(v p.1).isNan)).map (fun p => (flushed p.1, p.2))) with
    | some p => answer p nv
    | none => answer (BitVec.ofNat 64 f.canon, BitVec.allOnes 32) (nv ||| Flags.nanAll)

/-- R531, R533: the value in the even register and the index in the odd one. -/
def execRmaxi (g : Guard) (d : Dest) (ty : RedTy) (ftz : Bool) (a idx : Src) (s : State) :
    Host.Outcome State Fault Refusal :=
  issue s (.rmaxi g d ty ftz a idx) (fun e =>
    let r := e.maxIndex ty ftz (e.lanes.map (fun l => (e.redValue ty a l, e.int32 idx l)))
    e.lanewise d .w64 (fun _ => r))

/-- R454, R455. -/
def execElect (g : Guard) (d : Dest) (pw : Option (BitVec 3)) (cnd : Option Src) (s : State) :
    Host.Outcome State Fault Refusal :=
  issue s (.elect g d pw cnd) (fun e =>
    let cand := e.lanes.filter (fun l => match cnd with
      | some a => e.int32 a l != 0
      | none => true)
    let r : W64 := match cand with
      | [] => 0xFFFFFFFF
      | l :: _ => BitVec.ofNat 64 l
    let s := writeQ e.s e.cid e.sid d .w32 e.all (e.lanes.map (fun l => (l, r)))
    let s := match pw with
      | some p => updSplit s e.cid e.sid (fun sp => sp.writePred p.toNat (e.lanes.map (fun l => (l, cand.head? == some l))))
      | none => s
    .next s)

/-- R537, R538: the split arrives at a REFORM, which must be the one its cohort waits at. -/
def execReform (ps : BitVec 3) (keep : W64) (s : State) : Host.Outcome State Fault Refusal :=
  issue s (.reform ps keep) (fun e =>
    let others := (barrierCrews e.s [e.crew.cohort]).flatMap (fun p => p.2.splits.filterMap Split.reformAt)
    if others.any (fun x => x != (e.off, ps.toNat, keep)) then .trap { code := 0x03 }
    else
      let s := updSplit e.s e.cid e.sid (fun sp =>
        { sp with place := e.after, mark := none, state := .reformWait e.off ps.toNat keep })
      .go (reformCheck s e.crew.cohort))

end Sys2Proof.Machine
end

