-- ==== Sys2Proof/Machine/Shake.lean ====
section
/-! DEFINITION. Shake.lean: SHAKE256 with a 64-byte output (R381, R382, R400, R402), as FIPS 202 defines it (log entry
45: PRESUMED). -/
namespace Sys2Proof.Machine

/-- The 25 lanes of the permutation's state, lane x + 5y at that index. -/
abbrev Lanes := List W64

/-- The rotation of each lane by the rho step. -/
def keccakRho : List Nat :=
  [0, 1, 62, 28, 27, 36, 44, 6, 55, 20, 3, 10, 43, 25, 39, 41, 45, 15, 21, 8, 18, 2, 61, 56, 14]

/-- The round constants of the iota step. -/
def keccakRC : List W64 :=
  [0x0000000000000001, 0x0000000000008082, 0x800000000000808A, 0x8000000080008000, 0x000000000000808B,
   0x0000000080000001, 0x8000000080008081, 0x8000000000008009, 0x000000000000008A, 0x0000000000000088,
   0x0000000080008009, 0x000000008000000A] ++
  [0x000000008000808B, 0x800000000000008B, 0x8000000000008089, 0x8000000000008003, 0x8000000000008002,
   0x8000000000000080, 0x000000000000800A, 0x800000008000000A, 0x8000000080008081, 0x8000000000008080,
   0x0000000080000001, 0x8000000080008008]

/-- A lane. -/
def Lanes.at_ (a : Lanes) (x y : Nat) : W64 := a.getD (x % 5 + 5 * (y % 5)) 0

/-- The 25 lanes by a function of x and y. -/
def lanesOf (f : Nat → Nat → W64) : Lanes := (List.range 25).map (fun i => f (i % 5) (i / 5))

/-- The theta step. -/
def keccakTheta (a : Lanes) : Lanes :=
  let c : List W64 := (List.range 5).map (fun x => a.at_ x 0 ^^^ a.at_ x 1 ^^^ a.at_ x 2 ^^^ a.at_ x 3 ^^^ a.at_ x 4)
  lanesOf (fun x y => a.at_ x y ^^^ c.getD ((x + 4) % 5) 0 ^^^ (c.getD ((x + 1) % 5) 0).rotateLeft 1)

/-- The rho and pi steps: the lane at (x, y) comes from ((x + 3y) mod 5, x). -/
def keccakRhoPi (a : Lanes) : Lanes :=
  lanesOf (fun x y => (a.at_ (x + 3 * y) x).rotateLeft (keccakRho.getD ((x + 3 * y) % 5 + 5 * x) 0))

/-- The chi step. -/
def keccakChi (a : Lanes) : Lanes := lanesOf (fun x y => a.at_ x y ^^^ (~~~(a.at_ (x + 1) y) &&& a.at_ (x + 2) y))

/-- One round. -/
def keccakRound (a : Lanes) (rc : W64) : Lanes :=
  match keccakChi (keccakRhoPi (keccakTheta a)) with
  | [] => []
  | l :: ls => (l ^^^ rc) :: ls

/-- The permutation of 24 rounds. -/
def keccakF (a : Lanes) : Lanes := keccakRC.foldl keccakRound a

/-- A block of 136 bytes is absorbed. -/
def shakeAbsorb (a : Lanes) (block : List Byte) : Lanes :=
  keccakF (lanesOf (fun x y =>
    let i := x + 5 * y
    a.at_ x y ^^^ (if i < 17 then BitVec.ofNat 64 (leNat ((block.drop (8 * i)).take 8)) else 0)))

/-- The last block, padded with the domain bits of SHAKE. -/
def shakePad (bs : List Byte) : List Byte :=
  let z : List Byte := bs ++ 0x1F :: List.replicate (135 - bs.length) 0
  z.take 135 ++ [z.getD 135 0 ||| 0x80]

/-- Absorbs a message block by block; `n` bounds the number of whole blocks. -/
def shakeBlocks : Nat → Lanes → List Byte → Lanes
  | 0, a, bs => shakeAbsorb a (shakePad (bs.take 135))
  | n + 1, a, bs => if bs.length < 136 then shakeAbsorb a (shakePad bs) else shakeBlocks n (shakeAbsorb a (bs.take 136)) (bs.drop 136)

/-- SHAKE256 of a message, 64 bytes. -/
def shake256 (bs : List Byte) : List Byte :=
  ((shakeBlocks (bs.length / 136 + 1) (List.replicate 25 0) bs).take 8).flatMap (fun l => leBytes 8 l.toNat)

end Sys2Proof.Machine
end

