-- ==== Sys2Proof/Machine/Image.lean ====
section
/-! DEFINITION. Image.lean: QUIESCE and release, the Cudric image and its restore, and attestation (R377 to R384, R401,
R402). -/
namespace Sys2Proof.Machine

-- scopes (R377, R378)

/-- R377: the contexts of a scope. -/
def QScope.contexts (s : State) (x : QScope) : List Nat := if x.device then s.ctxs.keys else x.ctxs

/-- R392: the contexts whose bits a bitmap sets. -/
def bitmapCtxs (s : State) (a : Nat) : List Nat :=
  let n := leNat (readPhys s a 512)
  (List.range 4096).filter (fun c => n / 2 ^ c % 2 == 1)

/-- R392: the scope that QUIESCE or RELEASE names; none where an argument is bad. -/
def scopeArg (s : State) (bs : List Byte) : Option (Bool × List Nat) :=
  let dev := argOf bs 8 1
  let a := argOf bs 16 8
  if dev = 1 then if a = 0 then some (true, []) else none
  else if dev ≠ 0 || capBytes s < a + 512 then none
  else
    let cs := bitmapCtxs s a
    if cs.all (fun c => (s.ctxs.find c).isSome) then some (false, cs) else none

/-- R378: whether a scope overlaps one that is quiesced. -/
def scopeMeets (dev : Bool) (cs : List Nat) (x : QScope) : Bool := dev || x.device || cs.any x.ctxs.contains

/-- R189: the largest Tw of a context's stores: of its crews, its graphs, its drains and its walks. -/
def contextTw (s : State) (ctx : Nat) : Nat :=
  let crews := maxOf ((s.crews.filter (fun p => p.2.ctx == ctx)).map (fun p => maxOf p.2.twmax))
  let graphs := maxOf ((s.queues.filter (fun p => p.2.ctx == ctx)).map (fun p => (p.2.graph.map (·.tw)).getD 0))
  let drains := maxOf ((s.streams.filter (fun p => ((s.cohorts.find p.2.cohort).map (·.ctx)) == some ctx)).map (fun p => p.2.drainMax))
  let walks := maxOf (((s.ctxs.find ctx).map (fun c => c.sibs.map (fun p => p.2.walkTw))).getD [])
  Nat.max (Nat.max crews graphs) (Nat.max drains walks)

/-- R217: whether a line request is one that an engine or a home can still perform, with a lane that has not reached it. -/
def lineOpen (s : State) (acc : Nat) (a : Access) (l : LineReq) : Bool :=
  (match l.st with
    | .ready _ | .sent _ => true
    | _ => false) && !logBlocks s acc a l
    && a.lanes.any (fun q => q.va / 128 == l.vline && !q.reached && q.aux2 != 1)

/-- R292, R377: whether an append waits for room in its ring. -/
def ringWaits (s : State) (a : Access) : Bool :=
  match a.kind with
  | .ring rh => ((s.ctxs.find a.ctx).bind (fun c => c.rings.find rh)).any (fun b =>
      (peek s none 0 a.ctx b.ring.cb).any (fun cb =>
        (leNat (readNewest s cb 4) + 4294967296 - leNat (readHome s (cb + 64) 4)) % 4294967296 == 2 ^ b.ring.log2))
  | _ => false

/-- R217, R377: whether an access of a context is a request that an engine or a home can still perform. An append that waits
for room in its ring, or for a page, is not. -/
def performable (s : State) (acc : Nat) (a : Access) : Bool :=
  !a.ready && (match a.kind with
    | .store _ _ | .atomo _ _ | .lock _ => a.lines.any (lineOpen s acc a)
    | .reds _ _ => a.lines.any (lineOpen s acc a)
    | .combine _ => a.lines.any (fun l => !l.isOver)
    | .ring _ => a.lines.all (fun l => l.isOver) && (a.lanes.any (fun q => q.aux2 != 0 && !q.done) || !ringWaits s a)
    | .stamp _ _ => a.lines.all (fun l => l.isOver)
    | _ => false)

/-- R377: whether steps 1 to 8 are done for a context. A store that waits in its crew's store queue is saved there
(R188). -/
def contextCut (s : State) (ctx : Nat) : Bool :=
  contextQuiet s ctx && copiesDone s ctx
    && s.accs.all (fun p => !(accIn ctx p.2 && performable s p.1 p.2 && !inStoreQ s p.1 p.2))
    && decide (contextTw s ctx + 2 < s.dt)

/-- R189, R377: DT has passed every outstanding Tw of the package. -/
def storesLanded (s : State) : Bool := s.homes.all (fun p => p.2.pending.all (fun q => decide (q.tw + 2 < s.dt)))

/-- R377: the engines of a scope go towards their points. -/
def stopScope (s : State) (x : QScope) : State := (x.contexts s).foldl (fun s c => stopContext s c false) s

/-- QUIESCE (R377, R378): the scope begins to stop. -/
def execQuiesce (s : State) : Host.Outcome State Fault Refusal :=
  command s 0x10 [(8, 1), (16, 8)] (fun bs s =>
    match scopeArg s bs with
    | none => .refuse s stBadArg
    | some (dev, cs) =>
      if s.scopes.any (fun p => scopeMeets dev cs p.2) then .refuse s stRefused
      else
        let x : QScope := { device := dev, ctxs := cs, since := s.dt }
        let s := { s with scopes := s.scopes.put s.nextId x, nextId := s.nextId + 1
                          mig := if dev then { s.mig with paused := s.mig.mig } else s.mig }
        .done (stopScope s x) stOk)

/-- R371, R377: QUIESCED, for each context of a scope or for the device. -/
def quiescedRecords (s : State) (x : QScope) : State :=
  (if x.device then [0xFFF] else x.ctxs).foldl (fun s c =>
    barPost .dbg s (record256 [(192, s.dt), (108, c), (0, 0x73)])) s

/-- R377: whether the steps that apply to a scope are done, but for its tails. -/
def scopeCut (s : State) (x : QScope) : Bool :=
  storesLanded s && (x.contexts s).all (contextCut s) && (!x.device || s.mig.closed.isNone)

/-- R189, R377: the tails of a scope are flushed; they are its queues' whose sessions do not wait for memory, and those that
wait are saved with their queues. -/
def flushScope (s : State) (k : Nat) (x : QScope) : State :=
  let qs := (s.queues.filter (fun p => (x.contexts s).contains p.2.ctx)).map (·.1)
  let s := qs.foldl flushSession (fetchVictims s (fun _ => true))
  { s with scopes := s.scopes.put k { x with flushed := !qs.any (sessionFills s) } }

/-- QUIESCE_COMPLETE (R189, R377, R378): once the other steps are done the tails are flushed; once DT has passed the Tw of
what that wrote too, QUIESCED is posted. -/
def execQuiesceComplete (scope : Nat) (s : State) : Host.Outcome State Fault Refusal :=
  match s.scopes.find scope with
  | none => .next s
  | some x =>
    if x.state != .stopping then .next s
    else
      let s := stopScope s x
      if !scopeCut s x then .next s
      else if !x.flushed then .next (flushScope s scope x)
      else
        let s := { s with scopes := s.scopes.put scope { x with state := .quiesced, dtcut := s.dt } }
        .next (quiescedRecords s x)

/-- R377: coalescing times of a context's rings did not run while it was quiesced. -/
def shiftRings (s : State) (ctx d : Nat) : State :=
  updCtx s ctx (fun c => { c with rings := c.rings.mapAll (fun _ b => { b with first := b.first + d }) })

/-- R378: a scope runs again. -/
def releaseScope (s : State) (k : Nat) (x : QScope) : State :=
  let cs := x.contexts s
  let s := { s with scopes := s.scopes.del k, mig := if x.device then { s.mig with paused := false } else s.mig }
  let s := cs.foldl (fun s c => shiftRings s c (s.dt - x.since)) s
  cs.foldl resumeContext s

/-- RELEASE (R378): refused where the scope is not QUIESCED. -/
def execRelease (s : State) : Host.Outcome State Fault Refusal :=
  command s 0x11 [(8, 1), (16, 8)] (fun bs s =>
    match scopeArg s bs with
    | none => .refuse s stBadArg
    | some (dev, cs) =>
      match s.scopes.find? (fun p => p.2.device == dev && (dev || p.2.ctxs == cs) && p.2.state == .quiesced) with
      | some p => .done (releaseScope s p.1 p.2) stOk
      | none => .refuse s stRefused)

-- images (R379 to R382)

/-- R381: what an image of a scope holds. -/
def imageOf (s : State) (x : QScope) : ImageState :=
  let cs := x.contexts s
  let mine (c : Nat) : Bool := cs.contains c
  let crewMine (k : Nat) : Bool := (s.crews.find k).any (fun cr => mine cr.ctx)
  { ctxs := s.ctxs.keep (fun k _ => mine k)
    queues := s.queues.keep (fun _ q => mine q.ctx)
    launches := s.launches.keep (fun _ l => mine l.ctx)
    cohorts := s.cohorts.keep (fun _ c => mine c.ctx)
    crews := s.crews.keep (fun _ c => mine c.ctx)
    accs := s.accs.keep (fun _ a => mine a.ctx)
    streams := s.streams.keep (fun _ st => (s.cohorts.find st.cohort).any (fun c => mine c.ctx))
    wells := s.wells.keep (fun _ w => w.owner.any mine)
    locks := s.locks.keep (fun _ l => l.holder.any crewMine || l.queue.any (fun w => crewMine w.crew))
    slots := s.slots.keep (fun _ st => mine st.ctx)
    sync := if x.device then s.sync.vals.flatMap (fun k => k.victims ++ k.frames.filterMap (fun f => match f with
      | .line n => some n
      | .slot _ => none)) else []
    coreCnt := s.cores.map (fun u => (u.1, u.2.sampleCnt.keep (fun k _ => mine (k / 2))))
    clusterCnt := s.clusters.map (fun u => (u.1, u.2.sampleCnt.keep (fun k _ => mine k)))
    spgrow := s.spgrow.filter (fun p => (s.cohorts.find p.cohort).any (fun c => mine c.ctx))
    failed := if x.device then s.dramStacks.vals.flatMap (·.failed) else []
    pages := if x.device then s.badPages.keys else []
    track := if x.device then s.track else []
    monitors := if x.device then s.monitors else [] }

/-- A rising list of numbers without repeats. -/
def risingSet (l : List Nat) : List Nat := (l.foldl (fun (m : SMap Unit) k => m.put k ()) []).map (·.1)

/-- R381: the UNIT of a cohort's CREW section; a cohort that PREEMPT has taken off its core, and its stream, have the number
under which the model holds that stream (log entry 63). -/
def cohortUnit (c : Cohort) : Nat :=
  match c.slot with
  | some sl => c.core * 8 + sl
  | none => savedKey c.id

/-- R381: the sections of an image, as TYPE and UNIT, in ascending order. -/
def imageUnits (s : State) (x : QScope) (im : ImageState) : List (Nat × Nat) :=
  let of (t : Nat) (l : List Nat) : List (Nat × Nat) := (risingSet l).map (fun u => (t, u))
  of 1 im.ctxs.keys ++ of 2 im.queues.keys ++ of 3 (im.cohorts.vals.map cohortUnit)
    ++ of 4 im.streams.keys ++ of 5 im.wells.keys
    ++ of 6 ((im.locks.keys ++ im.slots.vals.map (·.line) ++ im.sync).map (fun l => syncSliceOf s (l * 128)))
    ++ of 7 (if im.ctxs.any (fun p => !p.2.windows.isEmpty) then s.mig.act else [])
    ++ (if x.device then [(8, 0), (9, 0)] else [])

/-- R380: USED of an image, where the command gives a live limit. -/
def usedOf (s : State) (x : QScope) (limit : Nat) : Nat :=
  if !x.device then 0 else if limit ≠ 0 then limit else (match s.touched with
    | [] => 0
    | l => (maxOf l + 1) * 1048576)

/-- R381: bytes padded with zeros to a multiple of 8. -/
def pad8 (bs : List Byte) : List Byte := bs ++ List.replicate ((8 - bs.length % 8) % 8) 0

/-- R381: a section: its header, its padded payload, and their digest. -/
def sectionBytes (t u : Nat) (payload : List Byte) : List Byte :=
  let body := leBytes 4 t ++ leBytes 4 u ++ leBytes 8 payload.length ++ List.replicate 8 0 ++ pad8 payload
  body ++ shake256 body

/-- R381: the payload of a section; that of MEMORY begins with the bytes of memory by physical address. -/
def payloadOf (s : State) (im : ImageState) (used : Nat) (p : Nat × Nat) : List Byte :=
  (if p.1 = 8 then readPhys s 0 used else []) ++ Config.imagePayload im p.1 p.2

/-- R379: the header. -/
def imageHeader (s : State) (x : QScope) (sign : Bool) (used nsec nctx : Nat) : List Byte :=
  leBytes 8 0x4D49434952445543 ++ leBytes 2 1 ++ leBytes 2 1
    ++ leBytes 4 ((if x.device then 1 else 0) + (if sign then 2 else 0))
    ++ leBytes 2 4 ++ leBytes 2 Config.nclusters ++ leBytes 2 Config.ncores ++ leBytes 2 Config.nwells
    ++ leBytes 2 s.mig.act.length ++ leBytes 2 nctx ++ leBytes 4 (migphase s.mig).toNat ++ leBytes 8 used
    ++ leBytes 8 x.dtcut ++ leBytes 4 nsec ++ List.replicate 76 0

/-- R382: a signature padded to 1,280 bytes. -/
def padSign (bs : List Byte) : List Byte := (bs ++ List.replicate 1280 0).take 1280

/-- R381: the sections of an image, as TYPE, UNIT and payload. -/
def imageSections (s : State) (x : QScope) (used : Nat) : List (Nat × Nat × List Byte) :=
  let im := imageOf s x
  (imageUnits s x im).map (fun p => (p.1, p.2, payloadOf s im used p))

/-- R379, R381, R382: the bytes of an image. -/
def imageBytes (s : State) (x : QScope) (sign : Bool) (used : Nat) : List Byte :=
  let secs := imageSections s x used
  let body := imageHeader s x sign used secs.length (imageOf s x).ctxs.length
    ++ secs.flatMap (fun p => sectionBytes p.1 p.2.1 p.2.2)
  let d := shake256 body
  body ++ d ++ (if sign then padSign (Config.sign d) else [])

/-- R392: the scope that IMAGE takes: the one quiesced last (log entry 46). -/
def imageScope (s : State) : Option (Nat × QScope) := greatestBy (·.1) (s.scopes.filter (fun p => p.2.state == .quiesced))

/-- IMAGE (R378, R380, R392): the writing begins; the command completes with IMAGE_COMPLETE. -/
def execImage (s : State) : Host.Outcome State Fault Refusal :=
  command s 0x12 [(8, 1), (16, 8), (24, 8), (32, 8)] (fun bs s =>
    let limit := argOf bs 32 8
    if s.scopes.any (fun p => p.2.state == .imaging) then .wait s
    else if 1 < argOf bs 8 1 || limit % 1048576 ≠ 0 || capBytes s < limit then .refuse s stBadArg
    else
      match imageScope s with
      | none => .refuse s stRefused
      | some (k, x) =>
        let sign := argOf bs 8 1 == 1
        let used := usedOf s x limit
        if argOf bs 24 8 < (imageBytes s x sign used).length then .refuse s stBadArg
        else
          let job : ImageJob := { addr := argOf bs 16 8, len := argOf bs 24 8, sign := sign, used := used }
          .wait { s with scopes := s.scopes.put k { x with state := .imaging, job := some job } })

/-- R391: INCOMPLETE. -/
def stIncomplete : Nat := 11

/-- IMAGE_COMPLETE (R378): the trailer is acknowledged; after a link error a first part of the image, of free length,
stands in host memory. -/
def execImageComplete (scope : Nat) (linkOk : Bool) (s : State) : Host.Outcome State Fault Refusal :=
  match s.scopes.find scope with
  | none => .next s
  | some x =>
    match x.state, x.job with
    | .imaging, some j =>
      let bs := imageBytes s x j.sign j.used
      let n := if linkOk then bs.length else (Config.freeWord s.fresh).toNat % (bs.length + 1)
      let s := { s with hostMem := Memory.setN s.hostMem j.addr (bs.take n), fresh := s.fresh + 1
                        images := if linkOk then (imageSections s x j.used, imageOf s x) :: s.images else s.images
                        scopes := s.scopes.put scope { x with state := .quiesced, job := none } }
      .next (match commandDue s with
        | some (a, _) => finishCommand s a (if linkOk then stOk else stIncomplete)
        | none => s)
    | _, _ => .next s

-- restore (R383, R384)

/-- R383: the sections of an image from a position, as TYPE, UNIT and payload, and where they end; none where they do
not fit. A section whose digest is wrong is marked false. -/
def readSections (bs : List Byte) : Nat → Nat → Option (List (Bool × Nat × Nat × List Byte) × Nat)
  | 0, at_ => some ([], at_)
  | n + 1, at_ =>
    let len := argOf bs (at_ + 8) 8
    let whole := 24 + (len + 7) / 8 * 8
    if bs.length < at_ + whole + 64 then none
    else
      let body := (bs.drop at_).take whole
      let ok := shake256 body == (bs.drop (at_ + whole)).take 64
      (readSections bs n (at_ + whole + 64)).map (fun r =>
        ((ok, argOf bs at_ 4, argOf bs (at_ + 4) 4, (body.drop 24).take len) :: r.1, r.2))

/-- An image that has passed the checks of R383 but the last. -/
structure Parsed where
  device : Bool
  used   : Nat
  dtcut  : Nat
  secs   : List (Nat × Nat × List Byte)

/-- R383: the checks of an image in their order, but for the last: the failure's status, or what it holds. -/
def checkImage (s : State) (bs : List Byte) (verify : Bool) : Except Nat Parsed :=
  if argOf bs 0 8 ≠ 0x4D49434952445543 || argOf bs 8 2 ≠ 1 then .error 5
  else if argOf bs 10 2 ≠ 1 then .error 6
  else
    match readSections bs (argOf bs 48 4) 128 with
    | none => .error 5
    | some (secs, n) =>
      let d := (bs.drop n).take 64
      if secs.any (fun x => !x.1) || shake256 (bs.take n) != d then .error 7
      else if verify && !(argOf bs 12 4 / 2 % 2 == 1
          && Config.verify ((List.range 1793).map Config.idKeyByte) d ((bs.drop (n + 64)).take 1280)) then .error 8
      else if capBytes s < argOf bs 32 8 then .error 9
      else .ok { device := argOf bs 12 4 % 2 == 1, used := argOf bs 32 8, dtcut := argOf bs 40 8, secs := secs.map (·.2) }

/-- R52, R384: whether the cores and slots of some cohorts can take them, beside the work resident there and one
another. -/
def coresTake (s : State) : List Cohort → Bool
  | [] => true
  | c :: cs =>
    match c.slot with
    | none => coresTake s cs
    | some sl =>
      coreFits s c.lanes c.alloc c.core && clusterFits s 1 (c.core / 4)
        && !(clusterCohorts s (c.core / 4)).any (fun p => p.2.slot == some sl)
        && coresTake { s with cohorts := s.cohorts.put c.id c } cs

/-- R383, R384: whether every unit that an image names can take its state. -/
def canTake (s : State) (im : ImageState) : Bool :=
  im.ctxs.all (fun p => (s.ctxs.find p.1).isNone) && im.queues.all (fun p => (s.queues.find p.1).isNone)
    && im.launches.all (fun p => (s.launches.find p.1).isNone) && im.cohorts.all (fun p => (s.cohorts.find p.1).isNone)
    && im.crews.all (fun p => (s.crews.find p.1).isNone) && im.accs.all (fun p => (s.accs.find p.1).isNone)
    && im.streams.all (fun p => (s.streams.find p.1).isNone) && im.slots.all (fun p => (s.slots.find p.1).isNone)
    && im.wells.all (fun p => (wellOf s p.1).owner.isNone)
    && coresTake s im.cohorts.vals

/-- R384: a stored DT on the restoring module, from which time is counted (`ticksSince`), modulo 2^64. -/
def rebased (s : State) (cut t : Nat) : Nat := (t + s.dt + 2 ^ 128 - cut) % 2 ^ 64

/-- R384: a DT at which a future event falls due, on the restoring module; one that has passed is due. -/
def rebasedDue (s : State) (cut t : Nat) : Nat := t + s.dt - cut

/-- R384: a context as it is restored: its root comes from the command for a context-scope image, and its DTs are
rebased. -/
def restoredCtx (s : State) (cut : Nat) (root : Option Nat) (c : Context) : Context :=
  { c with
    sibs := c.sibs.mapAll (fun _ x => { x with walkTw := 0 })
    root := root.getD c.root, preempted := true, stoppedAt := s.dt, repFrom := rebased s cut c.repFrom
    headClk := c.headClk.mapAll (fun _ t => rebased s cut t)
    rings := c.rings.mapAll (fun _ b => { b with first := rebased s cut b.first }) }

/-- R189, R384: a queue as it is restored: every write of its graph is visible. -/
def restoredQueue (s : State) (cut : Nat) (q : Queue) : Queue :=
  { q with graph := q.graph.map (fun g => match g.run with
      | .waiting t due => { g with tw := 0, run := .waiting (rebasedDue s cut t) due }
      | _ => { g with tw := 0 }), resetTw := 0 }

/-- R189: a crew as it is restored: its TWMAX starts at 0. -/
def restoredCrew (c : Crew) : Crew :=
  { c with state := if c.state = .ended then .ended else .saved, twmax := List.replicate 8 0, restore := 0 }

/-- R217, R384: a lock as it is restored: waiters whose crews are not restored leave, as if they were killed, and so does
such a holder. -/
def restoredLock (s : State) (cut : Nat) (im : ImageState) (l : Lock) : Lock :=
  let here (k : Nat) : Bool := (im.crews.find k).isSome
  { l with
    holder := l.holder.filter here
    broken := match l.broken, l.holder with
      | some b, _ => some { b with tw := 0 }
      | none, some h => if here h then none else some { crew := h, tw := 0 }
      | none, none => none
    queue := (l.queue.filter (fun w => here w.crew)).map (fun w =>
      { w with absent := true, away := 0, enq := rebased s cut w.enq }) }

/-- R272, R384: a well as it is restored: its substitution and its monitors are the module's. -/
def restoredWell (now x : Well) : Well :=
  { x with subst := now.subst, fails := now.fails, requal := now.requal, gated := now.gated, saved := true }


/-- R189, R349, R384: memory as an image restores it: through the module's own map, with no lease and no store pending
on a restored line, and with each granule it writes whole off the failed-granule lists. -/
def restoreMemory (s : State) (bs : List Byte) : State :=
  let last := (bs.length + 127) / 128
  { s with
    mem := Memory.setN s.mem 0 bs
    touched := risingSet (s.touched ++ List.range ((bs.length + 1048575) / 1048576))
    homes := s.homes.keep (fun l _ => decide (last ≤ l)), he := []
    cores := s.cores.mapAll (fun _ u => { u with l1 := u.l1.filter (fun e => decide (last ≤ e.line)) })
    clusters := s.clusters.mapAll (fun _ c => { c with opLines := c.opLines.filter (fun e => decide (last ≤ e.line)) })
    l2 := s.l2.mapAll (fun _ l => l.filter (fun n => decide (last ≤ n)))
    dramStacks := s.dramStacks.mapAll (fun _ x => { x with failed := x.failed.filter (fun g => decide (bs.length < 64 * (g + 1))) }) }

/-- R334, R384: granules named failed are placed on the module's lists. -/
def restoreFailed (s : State) (gs : List Nat) : State := gs.foldl listFailed s

/-- R384: the state of an image enters the module; its scope stands QUIESCED. -/
def restoreState (s : State) (p : Parsed) (im : ImageState) (roots : List (Nat × Nat)) : State :=
  let cut := p.dtcut
  let ctxs := im.ctxs.mapAll (fun k c => restoredCtx s cut ((roots.find? (fun r => r.1 == k)).map (·.2)) c)
  let wells := im.wells.mapAll (fun k x => restoredWell (wellOf s k) x)
  let mem := (p.secs.find? (fun x => x.1 == 8)).map (fun x => x.2.2.take p.used)
  let s := if p.device then restoreFailed (restoreMemory s (mem.getD [])) im.failed else s
  let s := { s with
    ctxs := putAll s.ctxs ctxs
    queues := putAll s.queues (im.queues.mapAll (fun _ q => restoredQueue s cut q))
    launches := putAll s.launches (im.launches.mapAll (fun _ l => { l with maxTw := 0 }))
    cohorts := putAll s.cohorts im.cohorts
    crews := putAll s.crews (im.crews.mapAll (fun _ c => restoredCrew c))
    accs := putAll s.accs im.accs
    streams := putAll s.streams (im.streams.mapAll (fun _ st =>
      { st with saved := true, faultDT := rebased s cut st.faultDT, drainMax := 0, drainTw := st.drainTw.map (fun _ => 0)
                resvSaved := st.resvSaved.mapAll (fun _ r => { r with tw := 0 }) }))
    wells := putAll s.wells wells
    locks := putAll s.locks (im.locks.mapAll (fun _ l => restoredLock s cut im l))
    slots := putAll s.slots im.slots, spgrow := s.spgrow ++ im.spgrow
    cores := im.coreCnt.foldl (fun m u => m.put u.1 (let x := SMap.getD m u.1 {}; { x with sampleCnt := putAll x.sampleCnt u.2 })) s.cores
    clusters := im.clusterCnt.foldl (fun m u => m.put u.1 (let x := SMap.getD m u.1 {}; { x with sampleCnt := putAll x.sampleCnt u.2 })) s.clusters
    track := if p.device then putAll (s.track.keep (fun g _ => decide (p.used ≤ 8 * g))) im.track else s.track
    monitors := if p.device then im.monitors else s.monitors
    scopes := s.scopes.put s.nextId { device := p.device, ctxs := im.ctxs.keys, state := .quiesced, dtcut := s.dt, since := s.dt }
    nextId := maxOf (im.crews.keys ++ im.cohorts.keys ++ im.launches.keys ++ im.accs.keys ++ [s.nextId]) + 1 }
  let held := im.accs.vals.flatMap (fun a => (a.lanes.filter (·.held)).filterMap (fun q => (a.lanePA q).map lineOf))
  let s := enterFrames (dropIdleLocks s) ((im.locks.keys ++ nubNat held ++ im.sync).map .line ++ im.slots.keys.map .slot)
  refitWindows s

/-- R384, R392: the roots for a context-scope image: for each of its contexts, in ascending order, the table at an
address holds that of its descriptor. -/
def restoreRoots (s : State) (table : Nat) (ks : List Nat) : Option (List (Nat × Nat)) :=
  let at_ (i : Nat) : Nat := leNat (readPhys s (table + 8 * i) 8)
  let ds := ks.zipIdx.map (fun p => (p.1, at_ p.2))
  if capBytes s < table + 8 * ks.length || ds.any (fun p => p.2 % 64 != 0 || decide (capBytes s < p.2 + 512)) then none
  else
    let rs := ds.map (fun p => (p.1, leNat (readPhys s p.2 8)))
    if rs.any (fun p => p.2 % 8192 != 0) then none else some rs

/-- R381, R384: what the sections of an image describe: what the image that the module wrote with them holds; of an image
from another module, an opaque reading (log entry 63). -/
def imageContent (s : State) (secs : List (Nat × Nat × List Byte)) : ImageState :=
  match s.images.find? (fun p => p.1 == secs) with
  | some p => p.2
  | none => Config.imageState s.nextId secs

/-- RESTORE (R383, R384, R392): a failed restore changes nothing. -/
def execRestore (s : State) : Host.Outcome State Fault Refusal :=
  command s 0x13 [(8, 1), (16, 8), (24, 8), (32, 8)] (fun bs s =>
    let table := argOf bs 32 8
    if 1 < argOf bs 8 1 then .refuse s stBadArg
    else
      match checkImage s (Memory.getN s.hostMem (argOf bs 16 8) (argOf bs 24 8)) (argOf bs 8 1 == 1) with
      | .error st => .refuse s st
      | .ok p =>
        let im := imageContent s p.secs
        let roots := if p.device then (if table = 0 then some [] else none) else restoreRoots s table im.ctxs.keys
        match roots with
        | none => .refuse s stBadArg
        | some rs => if !canTake s im then .refuse s 10 else .done (restoreState s p im rs) stOk)

-- attestation (R401, R402)

/-- R402: the content of an attestation report, in the order in which R402 names it (log entry 47). -/
def reportContent (s : State) (nonce : List Byte) : List Byte :=
  nonce ++ (List.range 3).flatMap Config.measurement ++ Config.measurement (3 + s.power.margins) ++ leBytes 8 Config.serial.toNat

/-- ATTEST (R402): the signed report is written to host memory. -/
def execAttest (s : State) : Host.Outcome State Fault Refusal :=
  command s 0x17 [(16, 8), (24, 32)] (fun bs s =>
    let r := reportContent s ((bs.drop 24).take 32)
    .done { s with hostMem := Memory.setN s.hostMem (argOf bs 16 8) (r ++ Config.sign r) } stOk)

end Sys2Proof.Machine
end

