-- ==== Sys2Proof/Machine/Logic.lean ====
section
/-! DEFINITION. Logic.lean: the logic group (R405, R411, R424, R425, R431, R477, R478, R528, R529). -/
namespace Sys2Proof.Machine

/-- The width of a logic type. -/
def bitsOf : BTy → Nat
  | .b32 => 32
  | .b64 => 64

/-- R405: a logic instruction from a function of lanes. -/
def Env.logic (e : Env) (d : Dest) (w : Width) (f : Nat → W64) : Eff := e.lanewise d w (fun l => { bits := f l })

/-- R411. -/
def execAndL (g : Guard) (d : Dest) (ty : BTy) (a b : Src) (s : State) : Host.Outcome State Fault Refusal :=
  issue s (.andL g d ty a b) (fun e => e.logic d ty.operand (fun l => e.int ty.operand a l &&& e.int ty.operand b l))

/-- R411. -/
def execOrL (g : Guard) (d : Dest) (ty : BTy) (a b : Src) (s : State) : Host.Outcome State Fault Refusal :=
  issue s (.orL g d ty a b) (fun e => e.logic d ty.operand (fun l => e.int ty.operand a l ||| e.int ty.operand b l))

/-- R411. -/
def execXorL (g : Guard) (d : Dest) (ty : BTy) (a b : Src) (s : State) : Host.Outcome State Fault Refusal :=
  issue s (.xorL g d ty a b) (fun e => e.logic d ty.operand (fun l => e.int ty.operand a l ^^^ e.int ty.operand b l))

/-- R411. -/
def execNotL (g : Guard) (d : Dest) (ty : BTy) (a : Src) (s : State) : Host.Outcome State Fault Refusal :=
  issue s (.notL g d ty a) (fun e => e.logic d ty.operand (fun l => ~~~(e.int ty.operand a l)))

/-- R425: the bit-wise function of a table of eight bits. -/
def lutBits (lut : BitVec 8) (a b c : W64) : W64 :=
  let term (k : Nat) : W64 :=
    if lut.getLsbD k then
      (if 4 ≤ k then a else ~~~a) &&& (if k / 2 % 2 = 1 then b else ~~~b) &&& (if k % 2 = 1 then c else ~~~c)
    else 0
  (List.range 8).foldl (fun r k => r ||| term k) 0

/-- R425. -/
def execBool3 (g : Guard) (d : Dest) (ty : BTy) (lut : BitVec 8) (a b c : Src) (s : State) :
    Host.Outcome State Fault Refusal :=
  issue s (.bool3 g d ty lut a b c) (fun e => e.logic d ty.operand (fun l =>
    lutBits lut (e.int ty.operand a l) (e.int ty.operand b l) (e.int ty.operand c l)))

/-- R478: SHL, SHR and SAR of a value of W bits by a count. -/
def shiftLeft (w x n : Nat) : Nat := x * 2 ^ Nat.min n w % 2 ^ w
/-- R478. -/
def shiftRight (w x n : Nat) : Nat := x / 2 ^ Nat.min n w
/-- R478. -/
def shiftArith (w x n : Nat) : Nat := (sextNat x w / (2 ^ Nat.min n w : Nat) % (2 ^ w : Nat)).toNat
/-- R478: ROT. -/
def rotate (w x n : Nat) (right : Bool) : Nat :=
  let m := if right then (w - n % w) % w else n % w
  x * 2 ^ m % 2 ^ w + x / 2 ^ (w - m)
/-- R478: FSH. -/
def funnel (w hi lo n : Nat) (right : Bool) : Nat :=
  let m := Nat.min n w
  let x := hi * 2 ^ w + lo
  if right then x / 2 ^ m % 2 ^ w else x * 2 ^ m / 2 ^ w % 2 ^ w

/-- A shift of a value by a count that is a 32-bit natural (R477). -/
def Env.shift (e : Env) (d : Dest) (ty : BTy) (a n : Src) (f : Nat → Nat → Nat) : Eff :=
  e.logic d ty.operand (fun l => BitVec.ofNat 64 (f (e.int ty.operand a l).toNat (e.int32 n l).toNat))

/-- R477. -/
def execShl (g : Guard) (d : Dest) (ty : BTy) (a n : Src) (s : State) : Host.Outcome State Fault Refusal :=
  issue s (.shl g d ty a n) (fun e => e.shift d ty a n (shiftLeft (bitsOf ty)))

/-- R477. -/
def execShr (g : Guard) (d : Dest) (ty : BTy) (a n : Src) (s : State) : Host.Outcome State Fault Refusal :=
  issue s (.shr g d ty a n) (fun e => e.shift d ty a n (shiftRight (bitsOf ty)))

/-- R477. -/
def execSar (g : Guard) (d : Dest) (ty : BTy) (a n : Src) (s : State) : Host.Outcome State Fault Refusal :=
  issue s (.sar g d ty a n) (fun e => e.shift d ty a n (shiftArith (bitsOf ty)))

/-- R477. -/
def execRot (g : Guard) (d : Dest) (ty : BTy) (right : Bool) (a n : Src) (s : State) :
    Host.Outcome State Fault Refusal :=
  issue s (.rot g d ty right a n) (fun e => e.shift d ty a n (fun x k => rotate (bitsOf ty) x k right))

/-- R477. -/
def execFsh (g : Guard) (d : Dest) (ty : BTy) (right : Bool) (a b n : Src) (s : State) :
    Host.Outcome State Fault Refusal :=
  issue s (.fsh g d ty right a b n) (fun e => e.logic d ty.operand (fun l =>
    BitVec.ofNat 64 (funnel (bitsOf ty) (e.int ty.operand a l).toNat (e.int ty.operand b l).toNat
      (e.int32 n l).toNat right)))

/-- R424: BFX on a value of W bits. -/
def extractField (ty : IntTy) (x pos len : Nat) : Int :=
  let w := intWidth ty
  let pos := Nat.min pos w
  let len := Nat.min len (w - pos)
  let f := x / 2 ^ pos % 2 ^ len
  if len = 0 then 0 else if intSigned ty then sextNat f len else (f : Int)

/-- R424: BFI on values of W bits. -/
def insertField (w a b c : Nat) : Nat :=
  let pos := Nat.min (c % 256) w
  let len := Nat.min (c / 256 % 256) (w - pos)
  let m := (2 ^ len - 1) * 2 ^ pos
  (a &&& (2 ^ w - 1 - m)) ||| (b * 2 ^ pos &&& m)

/-- R424. -/
def execBfx (g : Guard) (d : Dest) (ty : IntTy) (a pos len : Src) (s : State) : Host.Outcome State Fault Refusal :=
  issue s (.bfx g d ty a pos len) (fun e => e.logic d ty.operand (fun l =>
    BitVec.ofInt 64 (extractField ty (e.int ty.operand a l).toNat (e.int32 pos l).toNat (e.int32 len l).toNat)))

/-- R424. -/
def execBfi (g : Guard) (d : Dest) (ty : BTy) (a b c : Src) (s : State) : Host.Outcome State Fault Refusal :=
  issue s (.bfi g d ty a b c) (fun e => e.logic d ty.operand (fun l =>
    BitVec.ofNat 64 (insertField (bitsOf ty) (e.int ty.operand a l).toNat (e.int ty.operand b l).toNat
      (e.int32 c l).toNat)))

/-- R431: the number of 1 bits of the low n bits. -/
def popCount (x : Nat) : Nat → Nat
  | 0 => 0
  | n + 1 => popCount x n + x / 2 ^ n % 2

/-- R431. -/
def leadingZeros (w x : Nat) : Nat := if x = 0 then w else w - 1 - x.log2

/-- R431: the low n bits reversed, at width w. -/
def reverseBits (w x : Nat) : Nat → Nat
  | 0 => 0
  | n + 1 => reverseBits w x n + x / 2 ^ n % 2 * 2 ^ (w - 1 - n)

/-- R431. -/
def execPopc (g : Guard) (d : Dest) (ty : BTy) (a : Src) (s : State) : Host.Outcome State Fault Refusal :=
  issue s (.popc g d ty a) (fun e => e.logic d .w32 (fun l =>
    BitVec.ofNat 64 (popCount (e.int ty.operand a l).toNat (bitsOf ty))))

/-- R431. -/
def execClz (g : Guard) (d : Dest) (ty : BTy) (a : Src) (s : State) : Host.Outcome State Fault Refusal :=
  issue s (.clz g d ty a) (fun e => e.logic d .w32 (fun l =>
    BitVec.ofNat 64 (leadingZeros (bitsOf ty) (e.int ty.operand a l).toNat)))

/-- R431. -/
def execBrev (g : Guard) (d : Dest) (ty : BTy) (a : Src) (s : State) : Host.Outcome State Fault Refusal :=
  issue s (.brev g d ty a) (fun e => e.logic d ty.operand (fun l =>
    BitVec.ofNat 64 (reverseBits (bitsOf ty) (e.int ty.operand a l).toNat (bitsOf ty))))

/-- R529: element i of the result of PRMT. -/
def permuteElem (mode : PrmtMode) (x c i : Nat) : Nat :=
  let t := c / 16 ^ i % 16
  match mode with
  | .byte =>
    let y := x / 256 ^ (t % 8) % 256
    if 8 ≤ t then (if 128 ≤ y then 255 else 0) else y
  | .nib => x / 16 ^ t % 16
  | .nx => x / 16 ^ t % 16
  | .nxs => (sextNat (x / 16 ^ t) 4 % 256).toNat

/-- R529. -/
def permute (mode : PrmtMode) (a b c : Nat) : Nat :=
  let x := b * 2 ^ 32 + a
  match mode with
  | .nib => ((List.range 8).map (fun i => permuteElem mode x c i * 16 ^ i)).foldl (· + ·) 0
  | _ => ((List.range 4).map (fun i => permuteElem mode x c i * 256 ^ i)).foldl (· + ·) 0

/-- R528. -/
def execPrmt (g : Guard) (d : Dest) (mode : PrmtMode) (a b sel : Src) (s : State) :
    Host.Outcome State Fault Refusal :=
  issue s (.prmt g d mode a b sel) (fun e => e.logic d .w32 (fun l =>
    BitVec.ofNat 64 (permute mode (e.int32 a l).toNat (e.int32 b l).toNat (e.int32 sel l).toNat)))

end Sys2Proof.Machine
end

