-- ==== Sys2Proof/Machine/Power.lean ====
section
/-! DEFINITION. Power.lean: the brake, reset and the loss of power, and the failures of boundaries and links (R19, R347,
R386, R395 to R400). -/
namespace Sys2Proof.Machine

-- the brake (R398)

/-- R398: 1 ms in DT ticks (R26). -/
def brakeRelease : Nat := 1000000

/-- R396: a BRAKE_ON record. -/
def brakeOnRecord (s : State) (watts : Nat) : BitVec 256 :=
  record256 [(192, s.dt), (32, s.power.capW % 2 ^ 16), (16, watts % 2 ^ 16), (8, s.power.level), (0, 0x55)]

/-- BRAKE_ON (R398): measured power has stood above the cap for 100 µs, which the event says; the device brakes. -/
def execBrakeOn (milliwatts : Nat) (s : State) : Host.Outcome State Fault Refusal :=
  if s.power.brake.isSome || milliwatts ≤ 1000 * s.power.capW then .next s
  else
    let x := brakeOnRecord s (milliwatts / 1000)
    .next (barPost .evt { s with power := { s.power with brake := some { level := s.power.level, since := s.dt } } } x)

/-- R396: a BRAKE_OFF record. -/
def brakeOffRecord (s : State) (b : Brake) : BitVec 256 :=
  record256 [(192, s.dt), (128, b.since), (8, b.level), (0, 0x56)]

/-- BRAKE_OFF (R398): power has stayed below the cap for 1 ms, so the brake ends. -/
def execBrakeOff (milliwatts : Nat) (s : State) : Host.Outcome State Fault Refusal :=
  match s.power.brake with
  | none => .next s
  | some b =>
    if 1000 * s.power.capW ≤ milliwatts || s.dt < b.since + brakeRelease then .next s
    else .next (barPost .evt { s with power := { s.power with brake := none } } (brakeOffRecord s b))

-- reset and power (R23, R265, R347, R351, R399, R400)

/-- R337, R347: what a stack keeps for the life of the module: its repairs and its retirement. A retirement under way at a
reset is given up (log entry 48). -/
def Stack.lasting (x : Stack) : Stack :=
  { state := match x.state with
      | .retired => .retired
      | _ => .active
    failed := x.failed, unlisted := x.unlisted, spare := x.spare, remap := x.remap, spare2k := x.spare2k, sick := x.sick, bad := x.bad }

/-- R347, R399: a stack whose module has lost power: nothing but its retirement remains. -/
def Stack.unpowered (x : Stack) : Stack := { state := x.lasting.state }

/-- R340, R341, R347: the interleave after a reset: over the stacks that are not retired, no migration, and MIGPHASE 0;
CAPLIVE is that of the active stacks, also where R340's Reset column names another (log entry 48: DESIGN CHOICE). -/
def Migration.afterReset (m : Migration) : Migration :=
  let act := if m.mig then m.old else m.act
  { act := act, old := act, capMiB := if act.length = 6 then 0x60000 else 0x70000 }

/-- DEVICE_RESET (R400): the module is in BOOT, and the boot ROM verifies the firmware (`bootDone`). Device memory and the
stacks' repairs stay as they stand, and the log of lane repairs and CAPLIVE of six stacks are as log entry 48 says (DESIGN
CHOICE); after a device error no state is carried forward (R19). -/
def execDeviceReset (verified : Bool) (s : State) : Host.Outcome State Fault Refusal :=
  let r : State :=
    { State.reset with
      agenda := s.agenda, fresh := s.fresh + 1, nextId := s.nextId, hostMem := s.hostMem, images := s.images
      laneRepairs := s.laneRepairs, mig := s.mig.afterReset
      devReason := if verified then 0 else 1 + (Config.freeWord s.fresh).toNat % 3 }
  .next (if s.failedBoundary.isSome || s.devState = .deviceError then { r with dramStacks := s.dramStacks.mapAll (fun _ x => x.unpowered) }
    else { r with mem := s.mem, mig := { r.mig with todo := s.mig.todo }, touched := s.touched, badPages := s.badPages
                  dramStacks := s.dramStacks.mapAll (fun _ x => x.lasting) })

/-- R400: the boot ROM has verified the firmware: the device is READY, or stays in BOOT_FAIL. -/
def bootDone (s : State) : State :=
  if s.devState = .boot then { s with devState := if s.devReason = 0 then .ready else .bootFail } else s

/-- POWER_REMOVE (R399): every state not written to a Cudric image is lost. -/
def execPowerRemove (s : State) : Host.Outcome State Fault Refusal :=
  .next { State.reset with
    powered := false, agenda := s.agenda, fresh := s.fresh, nextId := s.nextId, hostMem := s.hostMem, images := s.images
    mig := s.mig.afterReset, dramStacks := s.dramStacks.mapAll (fun _ x => x.unpowered) }

-- boundaries and links (R17, R19, R386, R395)

/-- R17: the dies of a boundary, the lower-numbered first; none for an index that names no boundary. -/
def boundaryDies : Nat → Option (Nat × Nat)
  | 0 => some (0, 1)
  | 1 => some (2, 3)
  | 2 => some (0, 2)
  | 3 => some (1, 3)
  | _ => none

/-- LANE_REPAIR (R19): a boundary fault that lane repair absorbs is logged. -/
def execLaneRepair (boundary : Nat) (s : State) : Host.Outcome State Fault Refusal :=
  .next { s with laneRepairs := changeAt s.laneRepairs boundary (· + 1) }

/-- R396: a DEVICE_ERROR record. -/
def deviceErrorRecord (s : State) : DeviceFailure → BitVec 256
  | .boundary b => record256 [(192, s.dt), (56, 1), (48, b), (0, 0x58)]
  | .hostLink => record256 [(192, s.dt), (56, 2), (0, 0x58)]

/-- R17: whether a failure is one that the package can have: of one of its four boundaries, or of the host link. -/
def realFailure : DeviceFailure → Bool
  | .boundary b => (boundaryDies b).isSome
  | .hostLink => true

/-- DEVICE_ERROR (R19, R395, R396): every context ends, and the device, unless it already accepts only a reset, accepts
nothing else from then on. The event waits until its record is held. -/
def execDeviceError (what : DeviceFailure) (s : State) : Host.Outcome State Fault Refusal :=
  if !realFailure what || !evtTakes s then .next s
  else
    let s := s.ctxs.keys.foldl failContext s
    let s := match what with
      | .boundary b => { s with failedBoundary := some b }
      | .hostLink => s
    .next { barPost .evt s (deviceErrorRecord s what) with
      devState := if s.devState = .bootFail then .bootFail else .deviceError }

/-- PEER_LINK_FAIL (R386): the link carries nothing more; each access on its way over it ends as a violation
(`serveRemote`, `storeRemote`). -/
def execPeerLinkFail (link : Nat) (s : State) : Host.Outcome State Fault Refusal :=
  if 24 ≤ link || s.peersDown.contains link then .next s else .next { s with peersDown := link :: s.peersDown }

end Sys2Proof.Machine
end

