-- ==== Sys2Proof/Machine/Observe.lean ====
section
/-! DEFINITION. Observe.lean: the divergence of a replay, the retries of hotness notifications, the invariant monitors
and the flushes of trace sessions (R323, R364, R371 to R375). -/
namespace Sys2Proof.Machine

-- divergence of a replay (R364)

/-- R364: the DT ticks for which a head may stand unmatched. -/
def replayLimit : Nat := 2 ^ 24

/-- R364: the DT from which record i has headed its stream, whose records satisfy a test. -/
def headSince (s : State) (c : Context) (i : Nat) (p : BitVec 256 → Bool) : Nat :=
  match (List.range i).reverse.find? (fun j => c.matched.contains j && p (traceRec s c j)) with
  | some j => SMap.getD c.headClk j c.repFrom
  | none => c.repFrom

/-- R364: the head of a stream that has stood unmatched beyond the limit: its event index. -/
def overdueHead (s : State) (ctx : Nat) (p : BitVec 256 → Bool) : Option Nat :=
  match s.ctxs.find ctx, traceHead s ctx p with
  | some c, some (i, _) => if !c.preempted && decide (replayLimit < ticksSince s (headSince s c i p)) then some i else none
  | _, _ => none

/-- R364: the waiters of the lines whose head is overdue diverge. -/
def divergeLocks (s : State) (ctx : Nat) : State :=
  ((s.locks.vals.flatMap (·.queue)).filter (fun w => ctxOf s w.crew == ctx && !w.absent)).foldl (fun s w =>
    let vline := accVLine s w.acc
    match overdueHead s ctx (fun r => recField r 0 8 == 0x62 && recField r 120 72 == vline * 128) with
    | some i => divergeLock s w i
    | none => s) s

/-- R364: the splits of a crew that wait at a BALLOT whose group's head is overdue diverge. -/
def divergeBallots (s : State) (ctx : Nat) : State :=
  (s.crews.filter (fun p => p.2.ctx == ctx && crewRuns s p.2)).foldl (fun s p =>
    let g := p.2.sib.toNat / 64
    match overdueHead s ctx (fun r => recField r 0 8 == 0x63 && recField r 24 12 == g) with
    | none => s
    | some i =>
      (p.2.splits.filter (fun sp => sp.state == .waitOperand .ballot)).foldl (fun s sp =>
        takeTrap s p.1 sp.id sp.place { code := 0x0E, addr := BitVec.ofNat 64 i }) s) s

/-- R51: the launches of a context with a cohort to place. -/
def waitingLaunches (s : State) (ctx : Nat) : List Launch :=
  s.launches.vals.filter (fun l => l.ctx == ctx && !l.error && (decide (l.next < l.total) || !l.again.isEmpty))

/-- R364: whether no record of the trace that is not matched names the next new cohort of a launch. -/
def placeMissing (s : State) (ln : Launch) : Bool :=
  !placeRecorded s ln ((leastBy (fun i => i) ln.again).getD ln.next)

/-- R364: the event index of a PLACE record that makes a context diverge, with the launch that waits: the one which the
record names, else the first. -/
def placeDiverges (s : State) (ctx : Nat) : Option (Nat × Launch) :=
  let lns := waitingLaunches s ctx
  match lns.find? (placeMissing s) with
  | some ln => some (((s.ctxs.find ctx).map (·.trCount)).getD 0, ln)
  | none =>
    ((List.range Config.ncores).findSome? (fun u =>
      overdueHead s ctx (fun r => recField r 0 8 == 0x61 && recField r 36 8 == u))).bind (fun i =>
        let named (ln : Launch) : Bool := match s.ctxs.find ctx with
          | some c => nodeNamed s ctx (traceRec s c i) ln.interval
          | none => false
        (match lns.find? named with
          | some ln => some ln
          | none => lns.head?).map (fun ln => (i, ln)))

/-- R364, R371, R396: a PLACE record that is not matched: a debug record, and a context error. -/
def divergePlace (s : State) (ctx : Nat) : State :=
  match s.ctxs.find ctx, placeDiverges s ctx with
  | some c, some (i, ln) =>
    if c.err.isSome || c.preempted then s
    else
      let s := barPost .dbg s (record256 [(192, s.dt), (8, i % 2 ^ 24), (0, 0x64)])
      updCtx s ctx (fun c => { c with err := some { cause := 0x23, queue := ln.queue, cseq := ln.cseq, ekind := 5, eid := 0 } })
  | _, _ => s

/-- REPLAY_TIMEOUT (R364). -/
def execReplayTimeout (ctx : Nat) (s : State) : Host.Outcome State Fault Refusal :=
  if !replaying s ctx || !pumpRuns s ctx then .next s
  else .next (divergePlace (divergeBallots (divergeLocks s ctx) ctx) ctx)

-- hotness notifications (R323)

/-- COUNTING_RETRY (R323): at each tick where DT[15:0] is 0, PENDING notifications are retried. -/
def execCountingRetry (s : State) : Host.Outcome State Fault Refusal :=
  if s.dt % 2 ^ 16 ≠ 0 then .next s
  else
    let due := (s.dies.zipIdx).flatMap (fun p =>
      (p.1.hot.filter (fun h => h.2.state == .pending)).map (fun h => (p.2, h.1, h.2)))
    .next (due.foldl (fun s h => hotNotify s h.1 h.2.1 h.2.2) s)

-- monitors (R372, R373)

/-- R17, R372: the dies that the link of a LINKFREE selector runs from and to: of 2b + dir, those of boundary b, from the
lower-numbered one where dir is 0; none for the transmit side of a peer link. -/
def linkDies (sel : Nat) : Option (Nat × Nat) :=
  (boundaryDies (sel / 2)).map (fun p => if sel % 2 = 0 then p else (p.2, p.1))

/-- R372: the free transmit slots of a link at a sample, which are a free value (log entry 2): of a direction of a boundary
by its dies, of a peer link by its number. -/
def linkFree (free sel : Nat) : Nat :=
  match linkDies sel with
  | some (a, b) => (Config.freeWord (free + 4 * a + b)).toNat
  | none => (Config.freeWord (free + 8 + sel)).toNat

/-- R372: a quantity of a monitor. -/
def quantity (s : State) (free : Nat) (v : W32) : Nat :=
  match fieldOf v 28 4 with
  | 1 =>
    match s.queues.find (fieldOf v 0 12) with
    | some x => (x.doorbell - x.cons).toNat - (if x.graph.isSome then 1 else 0)
    | none => 0
  | 2 => linkFree free (fieldOf v 0 5)
  | 3 =>
    match s.cohorts.find? (fun p => p.2.slot == some (fieldOf v 6 3) && p.2.core / 4 == fieldOf v 0 6) with
    | some p => arrivedCount s (barrierScope s p.1 (fieldOf v 9 4)) (fieldOf v 9 4)
    | none => 0
  | 4 =>
    sumOf (s.locks.map (fun p => if syncSliceOf s (p.1 * 128) = fieldOf v 0 2 * 16 + fieldOf v 2 4 then p.2.queue.length else 0))
  | _ => 0

/-- R22, R314: the engine identity, of logical ids, that a free number stands for. -/
def anyEngine (n : Nat) : Nat × Nat :=
  let eids : Nat := match n % 8 with
    | 0 => 256
    | 1 => 64
    | 2 => 64
    | 3 => 256
    | 4 => 512
    | 7 => 64
    | _ => 1
  (n % 8, n / 8 % eids)

/-- R372: A REL B; a reserved REL never fails. -/
def relationHolds (rel a b : Nat) : Bool :=
  match rel with
  | 0 => decide (a < b)
  | 1 => decide (a ≤ b)
  | 2 => decide (a = b)
  | 3 => decide (a ≠ b)
  | 4 => decide (b ≤ a)
  | 5 => decide (b < a)
  | _ => true

/-- R375: what an action of a monitor does to a session. -/
def Session.act (x : Session) (a : Nat) (cseq : W32) : Session :=
  match a, x.state with
  | 1, .armed => { x with state := .capturing }
  | 2, .capturing => { x with state := .armed }
  | 3, .capturing => { x with filter := some cseq }
  | 4, .armed => { x with state := .frozen }
  | 4, .capturing => { x with state := .frozen }
  | _, _ => x

/-- R373 to R375: an action is applied to a queue's session, which takes a MONITOR record while it is CAPTURING, whatever its filter. No rule
names the engine of that record: it is a free value (log entry 2), the identity of some logical engine (R23). -/
def applyAction (s : State) (q a count : Nat) : State :=
  if a = 0 || 4 < a then s
  else
    match s.queues.find q with
    | none => s
    | some x =>
      let e := anyEngine (Config.freeWord s.fresh).toNat
      let s := sessionAppend { s with fresh := s.fresh + 1 } q (traceRecord s q x.lastCseq 4 count e.1 e.2)
      updQueue s q (fun y => { y with sess := y.sess.act a x.lastCseq })

/-- R371, R373: a monitor fires. -/
def fireMonitor (s : State) (k : Nat) (m : Monitor) : State :=
  let count := Nat.min (fieldOf m.w3 0 16 + 1) 65535
  let a := fieldOf m.w0 28 3
  let s := { s with monitors := s.monitors.put k { m with w3 := BitVec.ofNat 32 (2 ^ 31 + count), run := 0 } }
  let s := barPost .dbg s (record256 [(192, s.dt), (27, k), (24, a), (8, count), (0, 0x71)])
  applyAction s (fieldOf m.w0 0 12) a count

/-- R373: a monitor takes a sample. -/
def sampleMonitor (free : Nat) (s : State) (k : Nat) : State :=
  let m := monitorOf s k
  if !m.w0.getLsbD 31 then s
  else
    let a := quantity s free m.w1
    let b := if m.w0.getLsbD 24 then quantity s free m.w2 else m.w2.toNat
    if relationHolds (fieldOf m.w0 25 3) a b then { s with monitors := s.monitors.put k { m with run := 0 } }
    else if fieldOf m.w0 16 8 ≤ m.run + 1 then fireMonitor s k m
    else { s with monitors := s.monitors.put k { m with run := m.run + 1 } }

/-- MONITOR_SAMPLE (R373): at each tick where DT[7:0] is 0, in ascending order. -/
def execMonitorSample (s : State) : Host.Outcome State Fault Refusal :=
  if s.dt % 2 ^ 8 ≠ 0 then .next s
  else .next ((List.range 32).foldl (sampleMonitor s.fresh) { s with fresh := s.fresh + 40 })

-- trace sessions (R375)

/-- TRACE_FLUSH (R375): at each tick where DT[15:0] is 0, the tail of each session is flushed. -/
def execTraceFlush (s : State) : Host.Outcome State Fault Refusal :=
  if s.dt % 2 ^ 16 ≠ 0 then .next s
  else .next ((s.queues.keys.filter (fun q => (s.queues.find q).any (fun x => !quiesced s x.ctx))).foldl flushSession s)

end Sys2Proof.Machine
end

