-- ==== Sys2Proof/Machine/Dispatch.lean ====
section
/-! DEFINITION. Dispatch.lean: one arm per constructor of Instr, each one call of its meaning. -/
namespace Sys2Proof.Machine

def exec (i : Instr) (s : State) : Host.Outcome State Fault Refusal :=
  match i with
  | .nop x1 => Sys2Proof.Machine.execNop x1 s
  | .bra x1 => Sys2Proof.Machine.execBra x1 s
  | .brc x1 x2 => Sys2Proof.Machine.execBrc x1 x2 s
  | .call x1 => Sys2Proof.Machine.execCall x1 s
  | .ret => Sys2Proof.Machine.execRet s
  | .exit x1 => Sys2Proof.Machine.execExit x1 s
  | .exitSuccessor x1 x2 => Sys2Proof.Machine.execExitSuccessor x1 x2 s
  | .yield x1 x2 x3 => Sys2Proof.Machine.execYield x1 x2 x3 s
  | .waitc x1 x2 x3 => Sys2Proof.Machine.execWaitc x1 x2 x3 s
  | .bar x1 x2 => Sys2Proof.Machine.execBar x1 x2 s
  | .trap x1 x2 => Sys2Proof.Machine.execTrap x1 x2 s
  | .rtt => Sys2Proof.Machine.execRtt s
  | .gsig x1 x2 => Sys2Proof.Machine.execGsig x1 x2 s
  | .iadd x1 x2 x3 x4 x5 x6 => Sys2Proof.Machine.execIadd x1 x2 x3 x4 x5 x6 s
  | .isub x1 x2 x3 x4 x5 x6 => Sys2Proof.Machine.execIsub x1 x2 x3 x4 x5 x6 s
  | .imul x1 x2 x3 x4 x5 x6 => Sys2Proof.Machine.execImul x1 x2 x3 x4 x5 x6 s
  | .imulh x1 x2 x3 x4 x5 => Sys2Proof.Machine.execImulh x1 x2 x3 x4 x5 s
  | .imad x1 x2 x3 x4 x5 x6 x7 => Sys2Proof.Machine.execImad x1 x2 x3 x4 x5 x6 x7 s
  | .idiv x1 x2 x3 x4 x5 x6 x7 x8 => Sys2Proof.Machine.execIdiv x1 x2 x3 x4 x5 x6 x7 x8 s
  | .imin x1 x2 x3 x4 x5 => Sys2Proof.Machine.execImin x1 x2 x3 x4 x5 s
  | .imax x1 x2 x3 x4 x5 => Sys2Proof.Machine.execImax x1 x2 x3 x4 x5 s
  | .iabs x1 x2 x3 x4 x5 => Sys2Proof.Machine.execIabs x1 x2 x3 x4 x5 s
  | .ineg x1 x2 x3 x4 x5 => Sys2Proof.Machine.execIneg x1 x2 x3 x4 x5 s
  | .icmp x1 x2 x3 x4 x5 x6 x7 => Sys2Proof.Machine.execIcmp x1 x2 x3 x4 x5 x6 x7 s
  | .idp4 x1 x2 x3 x4 x5 x6 x7 x8 => Sys2Proof.Machine.execIdp4 x1 x2 x3 x4 x5 x6 x7 x8 s
  | .sel x1 x2 x3 x4 x5 x6 x7 => Sys2Proof.Machine.execSel x1 x2 x3 x4 x5 x6 x7 s
  | .mov x1 x2 x3 x4 => Sys2Proof.Machine.execMov x1 x2 x3 x4 s
  | .movi x1 x2 x3 x4 x5 => Sys2Proof.Machine.execMovi x1 x2 x3 x4 x5 s
  | .cvt x1 x2 x3 x4 x5 x6 => Sys2Proof.Machine.execCvt x1 x2 x3 x4 x5 x6 s
  | .andL x1 x2 x3 x4 x5 => Sys2Proof.Machine.execAndL x1 x2 x3 x4 x5 s
  | .orL x1 x2 x3 x4 x5 => Sys2Proof.Machine.execOrL x1 x2 x3 x4 x5 s
  | .xorL x1 x2 x3 x4 x5 => Sys2Proof.Machine.execXorL x1 x2 x3 x4 x5 s
  | .notL x1 x2 x3 x4 => Sys2Proof.Machine.execNotL x1 x2 x3 x4 s
  | .bool3 x1 x2 x3 x4 x5 x6 x7 => Sys2Proof.Machine.execBool3 x1 x2 x3 x4 x5 x6 x7 s
  | .shl x1 x2 x3 x4 x5 => Sys2Proof.Machine.execShl x1 x2 x3 x4 x5 s
  | .shr x1 x2 x3 x4 x5 => Sys2Proof.Machine.execShr x1 x2 x3 x4 x5 s
  | .sar x1 x2 x3 x4 x5 => Sys2Proof.Machine.execSar x1 x2 x3 x4 x5 s
  | .rot x1 x2 x3 x4 x5 x6 => Sys2Proof.Machine.execRot x1 x2 x3 x4 x5 x6 s
  | .fsh x1 x2 x3 x4 x5 x6 x7 => Sys2Proof.Machine.execFsh x1 x2 x3 x4 x5 x6 x7 s
  | .bfx x1 x2 x3 x4 x5 x6 => Sys2Proof.Machine.execBfx x1 x2 x3 x4 x5 x6 s
  | .bfi x1 x2 x3 x4 x5 x6 => Sys2Proof.Machine.execBfi x1 x2 x3 x4 x5 x6 s
  | .popc x1 x2 x3 x4 => Sys2Proof.Machine.execPopc x1 x2 x3 x4 s
  | .clz x1 x2 x3 x4 => Sys2Proof.Machine.execClz x1 x2 x3 x4 s
  | .brev x1 x2 x3 x4 => Sys2Proof.Machine.execBrev x1 x2 x3 x4 s
  | .prmt x1 x2 x3 x4 x5 x6 => Sys2Proof.Machine.execPrmt x1 x2 x3 x4 x5 x6 s
  | .fadd x1 x2 x3 x4 x5 x6 => Sys2Proof.Machine.execFadd x1 x2 x3 x4 x5 x6 s
  | .fsub x1 x2 x3 x4 x5 x6 => Sys2Proof.Machine.execFsub x1 x2 x3 x4 x5 x6 s
  | .fmul x1 x2 x3 x4 x5 x6 => Sys2Proof.Machine.execFmul x1 x2 x3 x4 x5 x6 s
  | .ffma x1 x2 x3 x4 x5 x6 x7 => Sys2Proof.Machine.execFfma x1 x2 x3 x4 x5 x6 x7 s
  | .fmin x1 x2 x3 x4 x5 x6 x7 => Sys2Proof.Machine.execFmin x1 x2 x3 x4 x5 x6 x7 s
  | .fmax x1 x2 x3 x4 x5 x6 x7 => Sys2Proof.Machine.execFmax x1 x2 x3 x4 x5 x6 x7 s
  | .fcmp x1 x2 x3 x4 x5 x6 x7 x8 => Sys2Proof.Machine.execFcmp x1 x2 x3 x4 x5 x6 x7 x8 s
  | .fclass x1 x2 x3 x4 => Sys2Proof.Machine.execFclass x1 x2 x3 x4 s
  | .frcp x1 x2 x3 x4 x5 => Sys2Proof.Machine.execFrcp x1 x2 x3 x4 x5 s
  | .frsq x1 x2 x3 x4 x5 => Sys2Proof.Machine.execFrsq x1 x2 x3 x4 x5 s
  | .fsqrt x1 x2 x3 x4 x5 => Sys2Proof.Machine.execFsqrt x1 x2 x3 x4 x5 s
  | .flog2 x1 x2 x3 x4 x5 => Sys2Proof.Machine.execFlog2 x1 x2 x3 x4 x5 s
  | .fexp2 x1 x2 x3 x4 x5 => Sys2Proof.Machine.execFexp2 x1 x2 x3 x4 x5 s
  | .ftanh x1 x2 x3 x4 x5 => Sys2Proof.Machine.execFtanh x1 x2 x3 x4 x5 s
  | .fsig x1 x2 x3 x4 x5 => Sys2Proof.Machine.execFsig x1 x2 x3 x4 x5 s
  | .hadd2 x1 x2 x3 x4 x5 x6 => Sys2Proof.Machine.execHadd2 x1 x2 x3 x4 x5 x6 s
  | .hmul2 x1 x2 x3 x4 x5 x6 => Sys2Proof.Machine.execHmul2 x1 x2 x3 x4 x5 x6 s
  | .hfma2 x1 x2 x3 x4 x5 x6 x7 => Sys2Proof.Machine.execHfma2 x1 x2 x3 x4 x5 x6 x7 s
  | .shfl x1 x2 x3 x4 x5 x6 => Sys2Proof.Machine.execShfl x1 x2 x3 x4 x5 x6 s
  | .vote x1 x2 x3 x4 x5 => Sys2Proof.Machine.execVote x1 x2 x3 x4 x5 s
  | .red x1 x2 x3 x4 x5 x6 => Sys2Proof.Machine.execRed x1 x2 x3 x4 x5 x6 s
  | .rmaxi x1 x2 x3 x4 x5 x6 => Sys2Proof.Machine.execRmaxi x1 x2 x3 x4 x5 x6 s
  | .scan x1 x2 x3 x4 x5 x6 x7 => Sys2Proof.Machine.execScan x1 x2 x3 x4 x5 x6 x7 s
  | .reform x1 x2 => Sys2Proof.Machine.execReform x1 x2 s
  | .elect x1 x2 x3 x4 => Sys2Proof.Machine.execElect x1 x2 x3 x4 s
  | .ld x1 x2 x3 x4 => Sys2Proof.Machine.execLd x1 x2 x3 x4 s
  | .st x1 x2 x3 x4 => Sys2Proof.Machine.execSt x1 x2 x3 x4 s
  | .lds x1 x2 x3 => Sys2Proof.Machine.execLds x1 x2 x3 s
  | .sts x1 x2 x3 => Sys2Proof.Machine.execSts x1 x2 x3 s
  | .gather x1 x2 x3 => Sys2Proof.Machine.execGather x1 x2 x3 s
  | .scatter x1 x2 x3 => Sys2Proof.Machine.execScatter x1 x2 x3 s
  | .pref x1 x2 x3 => Sys2Proof.Machine.execPref x1 x2 x3 s
  | .fence x1 x2 x3 x4 x5 => Sys2Proof.Machine.execFence x1 x2 x3 x4 x5 s
  | .icsync x1 x2 x3 x4 => Sys2Proof.Machine.execIcsync x1 x2 x3 x4 s
  | .copy x1 x2 x3 x4 x5 x6 => Sys2Proof.Machine.execCopy x1 x2 x3 x4 x5 x6 s
  | .brld x1 x2 x3 x4 x5 x6 => Sys2Proof.Machine.execBrld x1 x2 x3 x4 x5 x6 s
  | .brmk x1 x2 x3 x4 x5 x6 x7 x8 => Sys2Proof.Machine.execBrmk x1 x2 x3 x4 x5 x6 x7 x8 s
  | .spgrow x1 x2 x3 => Sys2Proof.Machine.execSpgrow x1 x2 x3 s
  | .spfree x1 x2 => Sys2Proof.Machine.execSpfree x1 x2 s
  | .pin x1 x2 x3 x4 x5 x6 => Sys2Proof.Machine.execPin x1 x2 x3 x4 x5 x6 s
  | .unpin x1 x2 => Sys2Proof.Machine.execUnpin x1 x2 s
  | .atom x1 x2 x3 x4 x5 x6 x7 x8 x9 x10 => Sys2Proof.Machine.execAtom x1 x2 x3 x4 x5 x6 x7 x8 x9 x10 s
  | .atomo x1 x2 x3 x4 x5 x6 x7 x8 x9 x10 => Sys2Proof.Machine.execAtomo x1 x2 x3 x4 x5 x6 x7 x8 x9 x10 s
  | .reds x1 x2 x3 x4 x5 x6 x7 x8 => Sys2Proof.Machine.execReds x1 x2 x3 x4 x5 x6 x7 x8 s
  | .combine x1 x2 => Sys2Proof.Machine.execCombine x1 x2 s
  | .llock x1 x2 x3 x4 x5 x6 => Sys2Proof.Machine.execLlock x1 x2 x3 x4 x5 x6 s
  | .lunlock x1 x2 x3 x4 => Sys2Proof.Machine.execLunlock x1 x2 x3 x4 s
  | .mma x1 x2 x3 x4 x5 x6 x7 x8 x9 => Sys2Proof.Machine.execMma x1 x2 x3 x4 x5 x6 x7 x8 x9 s
  | .mmas x1 x2 x3 x4 x5 x6 x7 x8 x9 => Sys2Proof.Machine.execMmas x1 x2 x3 x4 x5 x6 x7 x8 x9 s
  | .mgrp x1 x2 x3 x4 x5 x6 x7 => Sys2Proof.Machine.execMgrp x1 x2 x3 x4 x5 x6 x7 s
  | .mzero x1 => Sys2Proof.Machine.execMzero x1 s
  | .mdrain x1 x2 x3 x4 x5 x6 x7 x8 x9 x10 x11 => Sys2Proof.Machine.execMdrain x1 x2 x3 x4 x5 x6 x7 x8 x9 x10 x11 s
  | .mmask x1 x2 x3 => Sys2Proof.Machine.execMmask x1 x2 x3 s
  | .mwait x1 x2 => Sys2Proof.Machine.execMwait x1 x2 s
  | .tilepost x1 x2 => Sys2Proof.Machine.execTilepost x1 x2 s
  | .tilewait x1 x2 x3 x4 => Sys2Proof.Machine.execTilewait x1 x2 x3 x4 s
  | .wload x1 x2 x3 x4 x5 x6 x7 x8 x9 x10 => Sys2Proof.Machine.execWload x1 x2 x3 x4 x5 x6 x7 x8 x9 x10 s
  | .wbias x1 x2 x3 x4 x5 => Sys2Proof.Machine.execWbias x1 x2 x3 x4 x5 s
  | .wclamp x1 x2 x3 x4 x5 => Sys2Proof.Machine.execWclamp x1 x2 x3 x4 x5 s
  | .wsweep x1 x2 x3 x4 x5 x6 x7 => Sys2Proof.Machine.execWsweep x1 x2 x3 x4 x5 x6 x7 s
  | .wread x1 x2 x3 x4 x5 => Sys2Proof.Machine.execWread x1 x2 x3 x4 x5 s
  | .wkey x1 x2 x3 x4 x5 => Sys2Proof.Machine.execWkey x1 x2 x3 x4 x5 s
  | .wkeyPhys x1 x2 x3 => Sys2Proof.Machine.execWkeyPhys x1 x2 x3 s
  | .wkeyDraw x1 x2 x3 => Sys2Proof.Machine.execWkeyDraw x1 x2 x3 s
  | .wnoise x1 x2 x3 => Sys2Proof.Machine.execWnoise x1 x2 x3 s
  | .wstat x1 x2 x3 => Sys2Proof.Machine.execWstat x1 x2 x3 s
  | .wlink x1 x2 x3 x4 x5 x6 => Sys2Proof.Machine.execWlink x1 x2 x3 x4 x5 x6 s
  | .accept x1 x2 x3 x4 x5 x6 x7 x8 x9 => Sys2Proof.Machine.execAccept x1 x2 x3 x4 x5 x6 x7 x8 x9 s
  | .ballot x1 x2 x3 => Sys2Proof.Machine.execBallot x1 x2 x3 s
  | .sibchk x1 x2 x3 => Sys2Proof.Machine.execSibchk x1 x2 x3 s
  | .ringput x1 x2 x3 x4 x5 => Sys2Proof.Machine.execRingput x1 x2 x3 x4 x5 s
  | .csrr x1 x2 x3 x4 => Sys2Proof.Machine.execCsrr x1 x2 x3 x4 s
  | .csrw x1 x2 x3 x4 => Sys2Proof.Machine.execCsrw x1 x2 x3 x4 s
  | .stamp x1 x2 => Sys2Proof.Machine.execStamp x1 x2 s
  | .trace x1 x2 => Sys2Proof.Machine.execTrace x1 x2 s
  | .leasesetWrite x1 => Sys2Proof.Machine.execLeasesetWrite x1 s
  | .repmodeWrite x1 => Sys2Proof.Machine.execRepmodeWrite x1 s
  | .repmodeTakeEffect x1 => Sys2Proof.Machine.execRepmodeTakeEffect x1 s
  | .mondataWrite x1 => Sys2Proof.Machine.execMondataWrite x1 s
  | .requalify x1 => Sys2Proof.Machine.execRequalify x1 s
  | .hotcfgWrite x1 => Sys2Proof.Machine.execHotcfgWrite x1 s
  | .patternTest x1 => Sys2Proof.Machine.execPatternTest x1 s
  | .patternTestDone x1 x2 x3 => Sys2Proof.Machine.execPatternTestDone x1 x2 x3 s
  | .trnHoldWrite x1 => Sys2Proof.Machine.execTrnHoldWrite x1 s
  | .trnResRead => Sys2Proof.Machine.execTrnResRead s
  | .registerWrite x1 x2 => Sys2Proof.Machine.execRegisterWrite x1 x2 s
  | .doorbell x1 x2 => Sys2Proof.Machine.execDoorbell x1 x2 s
  | .windowViolation x1 x2 => Sys2Proof.Machine.execWindowViolation x1 x2 s
  | .violRead x1 => Sys2Proof.Machine.execViolRead x1 s
  | .evtdropRead x1 => Sys2Proof.Machine.execEvtdropRead x1 s
  | .evtconsWrite x1 x2 => Sys2Proof.Machine.execEvtconsWrite x1 x2 s
  | .ctxCreate => Sys2Proof.Machine.execCtxCreate s
  | .ctxDestroy => Sys2Proof.Machine.execCtxDestroy s
  | .queueBind => Sys2Proof.Machine.execQueueBind s
  | .queueReset => Sys2Proof.Machine.execQueueReset s
  | .preempt => Sys2Proof.Machine.execPreempt s
  | .resume => Sys2Proof.Machine.execResume s
  | .invalidate => Sys2Proof.Machine.execInvalidate s
  | .faultAnswer => Sys2Proof.Machine.execFaultAnswer s
  | .retireStack => Sys2Proof.Machine.execRetireStack s
  | .retireAck => Sys2Proof.Machine.execRetireAck s
  | .breakCmd => Sys2Proof.Machine.execBreakCmd s
  | .continueCmd => Sys2Proof.Machine.execContinueCmd s
  | .stampBind => Sys2Proof.Machine.execStampBind s
  | .traceOpen => Sys2Proof.Machine.execTraceOpen s
  | .traceClose => Sys2Proof.Machine.execTraceClose s
  | .quiesce => Sys2Proof.Machine.execQuiesce s
  | .release => Sys2Proof.Machine.execRelease s
  | .image => Sys2Proof.Machine.execImage s
  | .restore => Sys2Proof.Machine.execRestore s
  | .power => Sys2Proof.Machine.execPower s
  | .applyMargin => Sys2Proof.Machine.execApplyMargin s
  | .hotAck => Sys2Proof.Machine.execHotAck s
  | .attest => Sys2Proof.Machine.execAttest s
  | .deviceReset x1 => Sys2Proof.Machine.execDeviceReset x1 s
  | .powerRemove => Sys2Proof.Machine.execPowerRemove s
  | .brakeOn x1 => Sys2Proof.Machine.execBrakeOn x1 s
  | .brakeOff x1 => Sys2Proof.Machine.execBrakeOff x1 s
  | .laneRepair x1 => Sys2Proof.Machine.execLaneRepair x1 s
  | .deviceError x1 => Sys2Proof.Machine.execDeviceError x1 s
  | .peerLinkFail x1 => Sys2Proof.Machine.execPeerLinkFail x1 s
  | .hostMemRead x1 x2 x3 => Sys2Proof.Machine.execHostMemRead x1 x2 x3 s
  | .hostMemWrite x1 x2 x3 => Sys2Proof.Machine.execHostMemWrite x1 x2 x3 s
  | .issueSelect x1 => Sys2Proof.Machine.execIssueSelect x1 s
  | .priorityAge x1 x2 => Sys2Proof.Machine.execPriorityAge x1 x2 s
  | .cohortPlace => Sys2Proof.Machine.execCohortPlace s
  | .cohortStart x1 => Sys2Proof.Machine.execCohortStart x1 s
  | .spillEvict x1 => Sys2Proof.Machine.execSpillEvict x1 s
  | .registerFill x1 x2 => Sys2Proof.Machine.execRegisterFill x1 x2 s
  | .resultArrive x1 => Sys2Proof.Machine.execResultArrive x1 s
  | .lineRequestHome x1 x2 => Sys2Proof.Machine.execLineRequestHome x1 x2 s
  | .storeArrive x1 x2 => Sys2Proof.Machine.execStoreArrive x1 x2 s
  | .storeLand x1 => Sys2Proof.Machine.execStoreLand x1 s
  | .storeQueueSend x1 => Sys2Proof.Machine.execStoreQueueSend x1 s
  | .pageWalk x1 => Sys2Proof.Machine.execPageWalk x1 s
  | .pendingFaultPost x1 => Sys2Proof.Machine.execPendingFaultPost x1 s
  | .operandLogReplay x1 => Sys2Proof.Machine.execOperandLogReplay x1 s
  | .trapDelivery x1 => Sys2Proof.Machine.execTrapDelivery x1 s
  | .contextError x1 => Sys2Proof.Machine.execContextError x1 s
  | .cohortKill x1 => Sys2Proof.Machine.execCohortKill x1 s
  | .syncAccess x1 x2 => Sys2Proof.Machine.execSyncAccess x1 x2 s
  | .atomoRequest x1 x2 => Sys2Proof.Machine.execAtomoRequest x1 x2 s
  | .atomoResend x1 x2 => Sys2Proof.Machine.execAtomoResend x1 x2 s
  | .redsContribution x1 x2 => Sys2Proof.Machine.execRedsContribution x1 x2 s
  | .lockRequest x1 => Sys2Proof.Machine.execLockRequest x1 s
  | .lockTimeout x1 => Sys2Proof.Machine.execLockTimeout x1 s
  | .deadlockScan => Sys2Proof.Machine.execDeadlockScan s
  | .copyComplete x1 x2 => Sys2Proof.Machine.execCopyComplete x1 x2 s
  | .copyViolation x1 => Sys2Proof.Machine.execCopyViolation x1 s
  | .gatherExpand x1 x2 => Sys2Proof.Machine.execGatherExpand x1 x2 s
  | .stackRequest x1 => Sys2Proof.Machine.execStackRequest x1 s
  | .stackCompletion x1 x2 x3 => Sys2Proof.Machine.execStackCompletion x1 x2 x3 s
  | .scrub x1 x2 => Sys2Proof.Machine.execScrub x1 x2 s
  | .rowRepair x1 => Sys2Proof.Machine.execRowRepair x1 s
  | .regionClose => Sys2Proof.Machine.execRegionClose s
  | .regionReopen => Sys2Proof.Machine.execRegionReopen s
  | .staleRequest x1 x2 => Sys2Proof.Machine.execStaleRequest x1 x2 s
  | .fadeTick => Sys2Proof.Machine.execFadeTick s
  | .passGrant x1 => Sys2Proof.Machine.execPassGrant x1 s
  | .passComplete x1 => Sys2Proof.Machine.execPassComplete x1 s
  | .matrixFaultLimit x1 => Sys2Proof.Machine.execMatrixFaultLimit x1 s
  | .matrixPriorityAge x1 => Sys2Proof.Machine.execMatrixPriorityAge x1 s
  | .mzeroPerform x1 => Sys2Proof.Machine.execMzeroPerform x1 s
  | .mmaskPerform x1 => Sys2Proof.Machine.execMmaskPerform x1 s
  | .mdrainPerform x1 => Sys2Proof.Machine.execMdrainPerform x1 s
  | .drainComplete x1 => Sys2Proof.Machine.execDrainComplete x1 s
  | .wellCommandPerform x1 => Sys2Proof.Machine.execWellCommandPerform x1 s
  | .wellClassUpdate x1 => Sys2Proof.Machine.execWellClassUpdate x1 s
  | .boundaryStateArrive x1 x2 => Sys2Proof.Machine.execBoundaryStateArrive x1 x2 s
  | .healthWindow x1 x2 x3 => Sys2Proof.Machine.execHealthWindow x1 x2 x3 s
  | .queueEntryStart x1 => Sys2Proof.Machine.execQueueEntryStart x1 s
  | .kernelNodeStart x1 => Sys2Proof.Machine.execKernelNodeStart x1 s
  | .copyNode x1 => Sys2Proof.Machine.execCopyNode x1 s
  | .condNode x1 => Sys2Proof.Machine.execCondNode x1 s
  | .loopIteration x1 => Sys2Proof.Machine.execLoopIteration x1 s
  | .endNode x1 => Sys2Proof.Machine.execEndNode x1 s
  | .phaseArrive x1 => Sys2Proof.Machine.execPhaseArrive x1 s
  | .waitEvaluate x1 => Sys2Proof.Machine.execWaitEvaluate x1 s
  | .waitTick => Sys2Proof.Machine.execWaitTick s
  | .waitTimeout x1 => Sys2Proof.Machine.execWaitTimeout x1 s
  | .signalNode x1 => Sys2Proof.Machine.execSignalNode x1 s
  | .ringNode x1 => Sys2Proof.Machine.execRingNode x1 s
  | .nodeComplete x1 => Sys2Proof.Machine.execNodeComplete x1 s
  | .ringAppend x1 x2 => Sys2Proof.Machine.execRingAppend x1 x2 s
  | .ringCoalesceTimeout x1 x2 => Sys2Proof.Machine.execRingCoalesceTimeout x1 x2 s
  | .ballotPost x1 => Sys2Proof.Machine.execBallotPost x1 s
  | .siblingPageRelease x1 x2 x3 => Sys2Proof.Machine.execSiblingPageRelease x1 x2 x3 s
  | .spgrowGrant x1 => Sys2Proof.Machine.execSpgrowGrant x1 s
  | .replayTimeout x1 => Sys2Proof.Machine.execReplayTimeout x1 s
  | .countingRetry => Sys2Proof.Machine.execCountingRetry s
  | .monitorSample => Sys2Proof.Machine.execMonitorSample s
  | .traceFlush => Sys2Proof.Machine.execTraceFlush s
  | .quiesceComplete x1 => Sys2Proof.Machine.execQuiesceComplete x1 s
  | .imageComplete x1 x2 => Sys2Proof.Machine.execImageComplete x1 x2 s
  | .illegalOpcode x1 => Sys2Proof.Machine.execIllegalOpcode x1 s

end Sys2Proof.Machine
end

