-- ==== Sys2Proof/Machine/Waits.lean ====
section
/-! DEFINITION. Waits.lean: the events that end the waits of a split in WAIT_OPERAND for a queue entry or a unit (R45,
R58), seen after each move of the machine. -/
namespace Sys2Proof.Machine

/-- R318, R330: whether a crew may issue again as far as its operand log goes. -/
def logFree (s : State) (cr : Crew) : Bool := !faultHeld s cr.cid (unitOf s cr) && !replayOwed s cr

/-- R314, R316: whether a page's fault finds a tag: the page has one, or one is free. -/
def tagFree (s : State) (ctx va : Nat) : Bool :=
  match s.ctxs.find ctx with
  | none => true
  | some c => c.faults.any (fun p => p.2.page == va / 8192) || decide (c.faults.length < 65536)

/-- R332, R344: whether a line that a split asked for can be asked for again with success: it, or the entry of its page, is
in no closed region, and its stack has read it. One whose page is not present needs a fault tag (R316). -/
def pageHere (s : State) (cr : Crew) (va : Nat) : Bool :=
  let u := unitOf s cr
  match (translate s (some u) (Config.dieOfUnit u) cr.ctx va {} false).1 with
  | .ok pa => !isClosed s pa && (!needsFill s (lineOf pa) || askFree s (lineOf pa))
  | .stall pa => !isClosed s pa && askFree s (lineOf pa)
  | .notPresent _ => tagFree s cr.ctx va
  | .violation | .bad _ => true

/-- The matrix stream of a crew's cohort, with its key. -/
def crewStream (s : State) (cr : Crew) : Option (Nat × Stream) :=
  ((s.cohorts.find cr.cohort).bind streamKey).bind (fun k => (s.streams.find k).map (fun st => (k, st)))

/-- R45: whether what holds a split of a crew in WAIT_OPERAND, other than registers, records, acquires, times and faults,
holds it no more. -/
def HeldBy.isOver (h : HeldBy) (s : State) (cr : Crew) : Bool :=
  match h with
  | .storeRoom => decide (cr.storeQ.length < storeQueueSize)
  | .copyRoom => decide (copiesOn s (unitOf s cr) < copyEntries)
  | .commandRoom => (crewStream s cr).all (fun p => decide (p.2.cmds.length < 16))
  | .wellRoom w => decide ((wellOf s w).queue.length < 8)
  | .postRoom n => (crewStream s cr).all (fun p => (postSlot s p.1 n).isSome)
  | .entry n false => (crewStream s cr).all (fun p => (postEntry s p.1 n).all (fun x => x.2.second))
  | .entry n true => (crewStream s cr).all (fun p =>
      ((SMap.getD s.clusters (p.1 / 8) {}).resv.find (p.1 % 8 * 4 + 3)).any (fun r => r.handle == n && r.second))
  | .stream => (crewStream s cr).all (fun p => p.2.cmds.isEmpty || p.2.stop.isSome)
  | .fence mark paths => !incomplete s cr mark paths
  | .linkAck => cr.hostAck
  | .region pa => !isClosed s pa
  | .range lo hi => !rangeBusy s cr.cohort lo hi
  | .log => logFree s cr
  | .page va => pageHere s cr va
  | .walk acc => (s.accs.find acc).all (fun a => !a.rep)
  | .full _ _ _ | .acquire | .untilDT _ | .fetch _ | .ballot => false

/-- Whether a split of a crew waits for a unit that holds it no more. -/
def Split.unitOver (sp : Split) (s : State) (cr : Crew) : Bool :=
  match sp.state with
  | .waitOperand h => h.isOver s cr
  | _ => false

/-- R45, R58: the splits of the machine's crews whose wait for a queue entry or a unit has ended are READY. -/
def wakeUnits (s : State) : State :=
  s.crews.foldl (fun s p =>
    if p.2.splits.any (fun sp => sp.unitOver s p.2) then wakeSplits s p.1 (fun sp => sp.unitOver s p.2) else s) s

end Sys2Proof.Machine
end

