-- ==== Sys2Proof/Machine/Step.lean ====
section
/-! DEFINITION. Step.lean: one step of the machine (log entry 1). -/
namespace Sys2Proof.Machine

/-- R38: after a chosen split's instruction the next member of its group is chosen; a group breaks up where the split
waits, diverges or stands at a block header. -/
def moveOn (f : Focus) (s : State) : State :=
  let u := ((s.crews.find f.crew).map (unitOf s)).getD Config.noUnit
  let s := { s with focus := f.next }
  if (inPack s u f.crew).isSome then s
  else { s with cores := s.cores.mapAll (fun _ c =>
      if c.packs.any (fun g => g.contains f.crew) then { c with packs := c.packs.filter (fun g => !g.contains f.crew) } else c) }

/-- The outcome of a chosen split's instruction. -/
def unfocus (f : Focus) (r : Host.Outcome State Fault Refusal) : Host.Outcome State Fault Refusal :=
  match r with
  | .next s => .next (moveOn f s)
  | .fault f => .fault f
  | .refused r => .refused r

/-- The chosen split's move: its instruction is fetched, decoded and executed. -/
def stepFocus (s : State) (f : Focus) : Host.Outcome State Fault Refusal :=
  match issueFocus s f with
  | .done s => .next (moveOn f s)
  | .run i s => unfocus f (exec i s)

/-- The end of a DT tick: the windows' interval is counted first where the tick ends one (R159). -/
def leaveTick (s s' : State) : Host.Outcome State Fault Refusal := if fadeDue s then exec .fadeTick s else .next (tick s')

/-- A move of the device's own choice; where it makes none, a DT tick passes. In BOOT the boot ending is such a move. -/
def stepFree (s : State) : Host.Outcome State Fault Refusal :=
  if s.devState = .boot && Config.freeBit s.fresh then .next (bootDone { s with fresh := s.fresh + 1 })
  else
    match choose s with
    | (some i, s) => exec i s
    | (none, s) => leaveTick s s

/-- A move of the agenda whose time has come: an event of the outside or of the device, or a free move. -/
def stepCue (s : State) : Option Instr → Host.Outcome State Fault Refusal
  | some i => if i.isEvent then exec i s else .next s
  | none => stepFree s

/-- A step of the agenda's first move: a tick of the time before it, or the move, after the host's own stores. -/
def stepAgenda (s : State) (c : Cue) (cs : List Cue) : Host.Outcome State Fault Refusal :=
  match c.elapse with
  | n + 1 => leaveTick s { s with agenda := { c with elapse := n } :: cs }
  | 0 =>
    let s := { s with agenda := cs, hostMem := hostStores s.hostMem c.host
                      mig := { s.mig with found := s.mig.found ++ c.found } }
    stepCue (match c.service with
      | some ln => startService s ln
      | none => s) c.ev

/-- One step of a module with power: the agenda's first move; with an empty agenda, the chosen split's; with none
chosen, a move of the device's own choice. -/
def stepOn (s : State) : Host.Outcome State Fault Refusal :=
  match s.agenda with
  | c :: cs => stepAgenda s c cs
  | [] =>
    match s.focus with
    | some f => stepFocus s f
    | none => stepFree s

/-- The outcome of a move, after which overflow waiters have taken the table entries it has freed (R163), and the splits
whose wait for a unit it has ended are READY (R45). -/
def woken (r : Host.Outcome State Fault Refusal) : Host.Outcome State Fault Refusal :=
  match r with
  | .next s => .next (wakeUnits (refillOverflow s))
  | .fault f => .fault f
  | .refused r => .refused r

/-- One step. A module without power makes none (R399), but for the reset that follows when power returns. -/
def step (s : State) : Host.Outcome State Fault Refusal :=
  if s.powered || powerReturns s then woken (stepOn s) else .fault .noPower

/-- The state with an instruction stored where the next step fetches: in the code of the chosen split, where one
executes; else in a loaded program whose crew is chosen (log entry 1). -/
def State.withFetchWord (s : State) (nbits w : Nat) : State :=
  let bs := tableBytes nbits w
  match executing s with
  | some (_, _, cr, _, off) =>
    match launchOf s cr with
    | some ln => placeAt s cr (ln.seg + off) bs
    | none => s
  | none =>
    let op := w / 2 ^ 56 % 256
    withProgram s (decide (0x70 ≤ op) && decide (op ≤ 0x76)) bs

end Sys2Proof.Machine
end

