-- ==== Sys2Proof/Safety.lean ====
section
/-! DEFINITION. Safety.lean: the terms that claims use: the invariant of memory, when an instruction executes, and what
an instruction that completes leaves. -/
namespace Sys2Proof.Machine

/-- Device and host memory are in canonical form. -/
def State.memOk (s : State) : Bool := Memory.wf s.mem && Memory.wf s.hostMem

-- when an instruction executes (R57, R72, R74, R80, R98 to R100, R181)

/-- The active lanes of an instruction of a split (R91). -/
def activeLanes (cr : Crew) (sp : Split) (i : Instr) : List Nat := sp.active cr.width i.sig.guard

/-- The named registers that an instruction reads: none without an active lane. -/
def srcRegs (cr : Crew) (sp : Split) (i : Instr) : List Nat :=
  if (activeLanes cr sp i).isEmpty then [] else i.sig.srcs.flatMap SrcUse.regs

/-- The named registers that an instruction writes: none without an active lane. -/
def destRegs (cr : Crew) (sp : Split) (i : Instr) : List Nat :=
  if (activeLanes cr sp i).isEmpty then [] else i.sig.dest.regs

/-- The buffer records that an instruction reads or writes (R80). -/
def usedRecs (i : Instr) : List (BitVec 4) := i.sig.recs ++ destRecord i

/-- Nothing holds a crew back from issuing but its instruction: its restore time has come (R188), and none of its
accesses stands in its core's fault buffer (R318) or is owed a replay (R330). -/
structure Free (s : State) (cid : Nat) (cr : Crew) : Prop where
  time     : cr.restore ≤ crewDT s cr
  buffer   : faultHeld s cid (unitOf s cr) = false
  replayed : replayOwed s cr = false

/-- The split `sid` of crew `cid` executes instruction `i` at `off`, and every check of R100 passes: it runs on this
engine, may touch the CSR it names, its fields are legal, its registers and records are full, resident and not
failed, an acquire of its split is not outstanding where it makes an access, and its destination finds rows. -/
structure Ready (s : State) (i : Instr) (cid sid : Nat) (cr : Crew) (sp : Split) (off : Nat) : Prop where
  executes : executing s = some (cid, sid, cr, sp, off)
  free     : Free s cid cr
  engine   : i.sig.eng.runsOn cr.engine = true
  csr      : ∀ n, i.sig.csr = some n →
    (0x400 ≤ n.toNat → ((s.ctxs.find cr.ctx).map (·.priv)).getD false = true) ∧ (n.toNat = 0x405 → cr.engine = .service)
  fields   : i.wf = true
  full     : ∀ r ∈ srcRegs cr sp i ++ destRegs cr sp i, ∀ l ∈ activeLanes cr sp i, cr.isFull r l = true
  recsFull : ∀ b ∈ usedRecs i, (cr.record b.toNat).full = true
  acquired : Instr.isAccess i = true → sp.acq = []
  srcHere  : ∀ r ∈ srcRegs cr sp i, cr.isSpilled r = false
  destHere : ∀ r ∈ destRegs cr sp i, cr.isSpilled r = true → cr.covers r (activeLanes cr sp i) = true
  srcGood  : ∀ r ∈ srcRegs cr sp i, ∀ l ∈ activeLanes cr sp i, (cr.cell r l).bind (·.failed) = none
  recsGood : ∀ b ∈ i.sig.recs, (cr.record b.toNat).failed = none
  rows     : (prepare s cid (srcRegs cr sp i ++ destRegs cr sp i) (destRegs cr sp i)).isSome = true

/-- The environment in which a ready instruction has its effect, in a table of crews where its own differs from
before at most in where its registers lie and when they were used (R67, R69). -/
def envOf (s : State) (i : Instr) (cid sid : Nat) (cr : Crew) (sp : Split) (off : Nat) (m : SMap Crew)
    (rm : SMap RegPlace) (lu : SMap Nat) : Env :=
  { s := { s with crews := m }, cid := cid, sid := sid, crew := { cr with rmap := rm, lastUse := lu }, split := sp
    off := off, words := Instr.words i, all := sp.lanes cr.width, lanes := activeLanes cr sp i }

/-- The environment of an instruction that is ready, as its operands are read: before rows are given. -/
def envAt (s : State) (i : Instr) (cid sid : Nat) (cr : Crew) (sp : Split) (off : Nat) : Env :=
  envOf s i cid sid cr sp off s.crews cr.rmap cr.lastUse

-- what an instruction that completes leaves (R62, R66, R73, R78, R79)

/-- Between `b` and `t` only the crew `cid` changes, and of it only where the registers of `dest` lie and when
registers were used, its register values, records, flags, draw index and store queue, and its split `sid`; and of that
only its place, queue, predicates, outstanding acquires and state. -/
structure Moved (b t : State) (cid sid : Nat) (cr cr' : Crew) (sp sp' : Split) (dest : List Nat) : Prop where
  state  : t = { b with crews := t.crews }
  found  : t.crews.find cid = some cr'
  others : ∀ k, k ≠ cid → t.crews.find k = b.crews.find k
  crew   : cr' = { cr with
    regs := cr'.regs, rmap := cr'.rmap, lastUse := cr'.lastUse, scalars := cr'.scalars, recs := cr'.recs
    fpflags := cr'.fpflags, drawIdx := cr'.drawIdx, storeQ := cr'.storeQ, splits := cr'.splits }
  places : ∀ r, r ∉ dest → cr'.rmap.find r = cr.rmap.find r
  split  : cr'.split sid = some sp'
  splits : ∀ k, k ≠ sid → cr'.split k = cr.split k
  rest   : sp' = { sp with
    place := sp'.place, mark := none, queue := sp'.queue, preds := sp'.preds, acq := sp'.acq, state := sp'.state }

/-- R62, R78: the value that an active lane's entry takes: with a scalar destination, the leading lane's. -/
def entryOf (d : Dest) (w : Width) (act : List Nat) (val : Nat → W64) (l : Nat) : W64 :=
  match d with
  | .scalar _ => cutTo w (val (act.headD 0))
  | _ => cutTo w (val l)

/-- R66: a lane of a named register after a result of width `w` for the lanes `act`. -/
def cellAfter (d : Dest) (w : Width) (act : List Nat) (val : Nat → W64) (r l : Nat) (old : Option RegCell) :
    Option RegCell :=
  match d with
  | .named n =>
    if l ∈ act ∧ r = n.toNat then some { val := lo32 (val l), full := true }
    else if l ∈ act ∧ w = .w64 ∧ r = n.toNat + 1 then some { val := hi32 (val l), full := true }
    else old
  | _ => old

/-- R78: a scalar after a result of width `w` for the lanes `act`: the leading lane's. -/
def scalarAfter (d : Dest) (w : Width) (act : List Nat) (val : Nat → W64) (k : Nat) (old : W32) : W32 :=
  match d with
  | .scalar n =>
    if act = [] then old
    else if w ≠ .w32 ∧ k = n.toNat + 1 then hi32 (val (act.headD 0))
    else if k = n.toNat then lo32 (val (act.headD 0))
    else old
  | _ => old

/-- An instruction of class Q is complete: every lane of its split has one more queue entry, with the result where it
was active and a copy of q0 elsewhere; its destination holds the result; its flags are set, its draws counted, its
predicates are those of `pr`; and nothing else changes but where the split stands. -/
def ResultOf (b t : State) (i : Instr) (cid sid : Nat) (cr : Crew) (sp : Split) (off : Nat) (d : Dest) (w : Width)
    (val : Nat → W64) (fl : Flags) (draws : W32) (pr : Nat → Nat → Bool) : Prop :=
  ∃ cr' sp', Moved b t cid sid cr cr' sp sp' (destRegs cr sp i)
    ∧ (∀ l ∈ sp.lanes cr.width, sp'.qread 0 l =
        if l ∈ activeLanes cr sp i then entryOf d w (activeLanes cr sp i) val l else sp.qread 0 l)
    ∧ (∀ n, n < 15 → ∀ l, sp'.qread (n + 1) l = sp.qread n l)
    ∧ (∀ r l, l < 1024 → cr'.cell r l = cellAfter d w (activeLanes cr sp i) val r l (cr.cell r l))
    ∧ (∀ k, k < cr.scalars.length → cr'.scalar k = scalarAfter d w (activeLanes cr sp i) val k (cr.scalar k))
    ∧ cr'.fpflags = cr.fpflags ||| fl ∧ cr'.drawIdx = cr.drawIdx + draws ∧ cr'.recs = cr.recs
    ∧ cr'.storeQ = cr.storeQ ∧ sp'.place = afterWord sp.block off (Instr.words i) ∧ sp'.state = sp.state
    ∧ sp'.acq = sp.acq ∧ sp'.preds.length = sp.preds.length
    ∧ ∀ p, p < sp.preds.length → ∀ l, l < 1024 → sp'.pred p l = pr p l

/-- A ready instruction `i` completes with the value and flags that `f` gives each active lane. -/
def Computes (i : Instr) (d : Dest) (w : Width) (f : Env → Nat → Res) : Prop :=
  ∀ s cid sid cr sp off, Ready s i cid sid cr sp off → ∃ t, exec i s = .next t ∧
    ResultOf s t i cid sid cr sp off d w (fun l => (f (envAt s i cid sid cr sp off) l).bits)
      ((activeLanes cr sp i).foldl (fun fl l => fl ||| (f (envAt s i cid sid cr sp off) l).flags) 0) 0 sp.pred

/-- R79: a predicate of a lane after an instruction with PW = `pw` gave the active lanes a bit each. -/
def predAfter (pw : Option (BitVec 3)) (act : List Nat) (bit : Nat → Bool) (p l : Nat) (old : Bool) : Bool :=
  match pw with
  | some q => if p = q.toNat ∧ p ≠ 7 ∧ l ∈ act then bit l else old
  | none => old

/-- A ready instruction `i` completes with the values `val`, the bits `bit` for the predicate of `pw`, and flags. -/
def Decides (i : Instr) (d : Dest) (pw : Option (BitVec 3)) (val : Env → Nat → W64) (bit : Env → Nat → Bool)
    (fl : Env → Flags) : Prop :=
  ∀ s cid sid cr sp off, Ready s i cid sid cr sp off → ∃ t, exec i s = .next t ∧
    ResultOf s t i cid sid cr sp off d .w32 (val (envAt s i cid sid cr sp off)) (fl (envAt s i cid sid cr sp off)) 0
      (fun p l => predAfter pw (activeLanes cr sp i) (bit (envAt s i cid sid cr sp off)) p l (sp.pred p l))

/-- R118, R260: the draws of an instruction that rounds by `rnd`: one noise word for each active lane, which are
stochastic rounding's alone. -/
def drawsOf (e : Env) (rnd : Rnd) : List (Nat × W32) :=
  match rnd with
  | .sr => e.lanes.zipIdx.map (fun p => (p.1, noiseWord e.s e.crew false p.2 p.1))
  | _ => []

/-- A ready instruction `i` that rounds by `rnd` completes with the value and flags that `f` gives each active lane
and its noise word; with stochastic rounding the draw index advances by 1, and as many free values are used as lanes are
active. -/
def Rounds (i : Instr) (d : Dest) (w : Width) (rnd : Rnd) (f : Env → Nat → Nat → Res) : Prop :=
  ∀ s cid sid cr sp off, Ready s i cid sid cr sp off → ∃ t, exec i s = .next t ∧
    let e := envAt s i cid sid cr sp off
    let r (l : Nat) : Res := f e (noiseOf (drawsOf e rnd) l) l
    ResultOf (if rnd = .sr then { s with fresh := s.fresh + e.lanes.length } else s) t i cid sid cr sp off d w
      (fun l => (r l).bits) (e.lanes.foldl (fun fl l => fl ||| (r l).flags) 0) (if rnd = .sr then 1 else 0) sp.pred

-- instructions that push no entry: they move the split on, or leave a result due (R73, R87, R90)

/-- The state in which a ready instruction has its effect: its destination has rows, and its register uses are noted
(R67, R69, R72). -/
def stood (s : State) (i : Instr) (cid : Nat) (cr : Crew) (sp : Split) : State :=
  (prepare s cid (srcRegs cr sp i ++ destRegs cr sp i) (destRegs cr sp i)).getD s

/-- A ready instruction `i`, where `cond` holds of its environment and of the state that `stood` names, answers the next
state `t`, which is written over that state. -/
def Does (i : Instr) (cond : Env → State → Prop) (t : Env → State → State) : Prop :=
  ∀ s cid sid cr sp off, Ready s i cid sid cr sp off →
    cond (envAt s i cid sid cr sp off) (stood s i cid cr sp) →
    exec i s = .next (t (envAt s i cid sid cr sp off) (stood s i cid cr sp))

/-- Some lane is active. -/
def Env.active (e : Env) : Prop := e.lanes ≠ []

/-- The split goes on at a place; `f` is what else changes of it. -/
def Env.moves (e : Env) (b : State) (p : Place) (f : Split → Split) : State :=
  updSplit b e.cid e.sid (fun sp => f { sp with place := p, mark := none })

/-- The split goes on after its instruction. -/
def Env.goesOn (e : Env) (b : State) : State := e.moves b e.after id

/-- The split takes a precise trap: nothing of the instruction has happened (R14, R325). -/
def Env.traps (e : Env) (r : Report) : State := takeTrap e.s e.cid e.sid (.word e.off) r

/-- The instruction has not begun: nothing but what `f` changes of its split has happened, and the split waits (R37, R45). -/
def Env.waits (e : Env) (w : SplitState) (f : Split → Split) : State :=
  updSplit e.s e.cid e.sid (fun sp => { f sp with state := w })

/-- R73, R356: a result is due: the access takes the next number, its crew's context and race identity, and the destination
is empty in the active lanes until it arrives. -/
def Env.awaits (e : Env) (b : State) (d : DestUse) (a : Access) : State :=
  { b with nextId := b.nextId + 1, accs := b.accs.put b.nextId
             { a with id := b.nextId, dest := d.span, ctx := ctxOf b e.cid, who := crewIdent b e.cid }
           crews := b.crews.change e.cid (fun cr => cr.emptyRegs b.nextId e.lanes d.regs) }

/-- R73: the access of an instruction whose results are known where it issues, and due with it. -/
def Env.known (e : Env) (kind : AccKind) (res : List (Nat × BitVec 128)) (fl : Flags) : Access :=
  { id := 0, crew := e.cid, lanesM := e.split.mask, kind := kind, path := 0, result := res, ready := true, flags := fl
    dtIssue := crewDT e.s e.crew, lanes := e.lanes.map (fun l => { lane := l, va := 0 }) }
/-- R619: a header's word lies within the code segment. -/
def Env.inside (e : Env) (h : Int) : Prop := ∃ ln, launchOf e.s e.crew = some ln ∧ 0 ≤ h ∧ h + 8 ≤ ln.seglen

/-- R619: a header's word lies outside the code segment. -/
def Env.beyond (e : Env) (h : Int) : Prop := ∃ ln, launchOf e.s e.crew = some ln ∧ (h < 0 ∨ (ln.seglen : Int) < h + 8)

/-- R134, R135: an access of some bytes at the offset `o` of each active lane passes the checks of its record. -/
def Env.reaches (e : Env) (r : BitVec 128) (n : Need) (size al : Nat) (o : Nat → Int) : Prop :=
  recMalformed r = false ∧ recGrants r n = true
    ∧ ∀ l ∈ e.lanes, 0 ≤ o l ∧ o l + size ≤ recSpan r ∧ recAddr r (o l).toNat % al = 0

/-- R357, R359, R360: the split goes on after the access that its instruction has made in `b`; where the access is
`tracked`, in a repeatable context, it waits there until every granule of the access is checked, and what the destination
was is kept for a RACE (log entry 21). -/
def Env.goesTracked (e : Env) (tracked : Bool) (b : State) (f : Split → Split) : State :=
  if tracked && repeatable e.s e.crew.ctx then
    e.moves (keepUndo e.s (updAcc b e.s.nextId (fun a => { a with rep := true })) e.cid) e.after
      (fun x => { f x with state := .waitOperand (.walk e.s.nextId) })
  else e.moves b e.after f

/-- R178, R180: a fence over the paths of `src` is done: what came before it has completed, and its scope's time has
come. -/
def Env.fenceDone (e : Env) (b : State) (scope : Scope) (src : BitVec 8) : Prop :=
  incomplete b e.crew (e.split.mark.getD b.nextId) src = false
    ∧ (scope = .crew ∨ twmaxOf e.crew src + 2 ≤ crewDT e.s e.crew)
    ∧ (scope = .sys → src.getLsbD 7 = true → e.crew.hostAck = true)

end Sys2Proof.Machine
end

