-- ==== Sys2Proof/Certificates/Slice0/Obligations.lean ====
section
/-! DEFINITION. Obligations.lean: the statements for the provers. -/

open Sys2Proof
open Sys2Proof.Machine

-- decoding and stepping

/-- R82 to R96: the words that the encoding tables give some instructions, one of each group, decode to those
instructions. -/
def Obligations.DecodeWords : Prop :=
  decodeTableWord 64 0x10A8500287000000 = some (.iadd ⟨true, 2⟩ (.named 5) .s32 false (.queue 0) (.named 7 true))
  ∧ decodeTableWord 64 0x2F78521180230006 = some (.prmt ⟨false, 7⟩ (.named 5) .nxs (.named 4 false) (.const 0) (.named 12 false))
  ∧ decodeTableWord 64 0x3278A209FE002980
      = some (.fmul ⟨false, 7⟩ (.named 10) .bf16 ⟨.rup, false, false⟩ (.named 2 false) (.const (-2)))
  ∧ decodeTableWord 64 0x4570021400000028 = some (.vote ⟨false, 7⟩ .push .any (some 2) (.named 5 false))
  ∧ decodeTableWord 64 0x507832040020C7FE
      = some (.ld ⟨false, 7⟩ (.named 3) { a := .named 1 false, br := 2, sz := .s16, off := -2 } none)
  ∧ decodeTableWord 128 0x00000000000000F30570000100000006 = some (.exitSuccessor 6 0xF3)
  ∧ decodeTableWord 128 0x20100400000000006078421888000000
      = some (.atom ⟨false, 7⟩ (.named 4) .add .n32 2 2 none (.named 6 false) (.named 8 false) (.queue 0))
  ∧ decodeTableWord 128 0x00900A0005F000007070060180600002
      = some (.mma ⟨false, 7⟩ (.const 0) (.const 0) (.const 0) 9 10 0x5F false true)
  ∧ decodeTableWord 64 0x9478600000001014 = some (.csrr ⟨false, 7⟩ (.named 6) 0x405 false)

/-- Every well-formed instruction of a split decodes from its own words, whatever its operands: no bit of its encoding
is lost. -/
def Obligations.DecodeEncode : Prop :=
  ∀ i : Instr, i.isEvent = false → (∀ op, i ≠ .illegalOpcode op) → i.wf = true →
    decode ((encode i).headD 0) ((encode i)[1]?) = .instr i

/-- R97: the opcodes 0x0C to 0x0F, 0x3F, 0x43, 0x4B to 0x4F, 0x66 to 0x6F, 0x79 to 0x7F, 0x89 to 0x8F and 0x98 to
0xFF, and no others, are reserved: a word with one decodes to the illegal opcode, whatever its other fields and what
follows it, and that raises ILLEGAL_OPCODE on every engine. -/
def Obligations.UndefinedOpcodes : Prop :=
  (∀ op : Nat, op < 256 → (opDefined op = false ↔
    (0x0C ≤ op ∧ op ≤ 0x0F) ∨ op = 0x3F ∨ op = 0x43 ∨ (0x4B ≤ op ∧ op ≤ 0x4F) ∨ (0x66 ≤ op ∧ op ≤ 0x6F)
      ∨ (0x79 ≤ op ∧ op ≤ 0x7F) ∨ (0x89 ≤ op ∧ op ≤ 0x8F) ∨ 0x98 ≤ op))
  ∧ (∀ (w : W64) (next : Option W64), opDefined (w.extractLsb' 56 8).toNat = false →
    decode w next = .instr (.illegalOpcode (w.extractLsb' 56 8)))
  ∧ ∀ (s : State) (op : BitVec 8) (cid sid : Nat) (cr : Crew) (sp : Split) (off : Nat),
    executing s = some (cid, sid, cr, sp, off) → Free s cid cr →
    exec (.illegalOpcode op) s = .next (takeTrap s cid sid (.word off) { code := 0x01 })

/-- A step runs the decoded instruction: with no move on the agenda, where the chosen split stands at a word that is
fetched and decodes, with its extension word where it takes one, to an instruction, the step is that instruction's
execution in the state that the fetches leave, after which the next member of its packed group is chosen, or no split
(log entry 1), overflow waiters have taken free table entries (R163), and splits whose wait is over are READY (R45). -/
def Obligations.StepRunsInstruction : Prop :=
  ∀ (s s1 s2 : State) (f : Focus) (cr : Crew) (sp : Split) (off : Nat) (ln : Launch) (w x : W64) (i : Instr),
    let ext := hasExt (w.extractLsb' 56 8).toNat
    s.powered = true → s.agenda = [] → s.focus = some f → executing s = some (f.crew, f.split, cr, sp, off)
    → launchOf s cr = some ln → deferredFor cr sp.id = false → fetchWord s cr (ln.seg + off) = (.word w, s1)
    → opDefined (w.extractLsb' 56 8).toNat = true → extBeyond sp off w = false
    → (if ext then fetchWord s1 cr (ln.seg + off + 8) else (.word 0, s1)) = (.word x, s2)
    → decode w (if ext then some x else none) = .instr i
    → step s = (match exec i s2 with
        | .next t => .next (wakeUnits (refillOverflow (moveOn f t)))
        | .fault e => .fault e
        | .refused r => .refused r)

/-- R186, R187: a fetch answers the eight bytes, least significant first, of the code line that the instruction cache
holds, and changes nothing; where it holds none, of the line that memory holds at the translated address, once a cache
above the DRAM or the line's stack has answered it without a lost granule. -/
def Obligations.FetchReadsCode : Prop :=
  ∀ (s s1 : State) (cr : Crew) (va pa : Nat) (e : ILine),
    let word (bs : List Byte) : W64 := BitVec.ofNat 64 (leNat ((bs.drop (va % 128)).take 8))
    let u := unitOf s cr
    (icFind s u cr.ctx (va / 128) = some e → fetchWord s cr va = (.word (word e.bytes), s))
    ∧ (icFind s u cr.ctx (va / 128) = none
        → translate s (some u) (Config.dieOfUnit u) cr.ctx (va / 128 * 128) { x := true } true = (.ok pa, s1)
        → isClosed s1 pa = false → needsFill s1 (lineOf pa) = false → lostGranule s1 pa = false
        → lostGranule s1 (pa + 64) = false → unitOf s1 cr = u
        → (fetchWord s cr va).1 = .word (word (readHome s1 pa 128)))

/-- R390, R400; log entries 4 to 7 and 62 (the model's choices where the spec gives no value): the state after reset has
power and is in BOOT, has no failure, every table empty and memory with nothing listed. -/
def Obligations.ResetState : Prop :=
  State.reset.powered = true ∧ State.reset.devState = .boot ∧ bar0Value State.reset 0 = 0 ∧ bar0Value State.reset 0x108 = 0x80000000 ∧ State.reset.dt = 0 ∧ State.reset.mem = []
  ∧ State.reset.crews = [] ∧ State.reset.cohorts = [] ∧ State.reset.accs = [] ∧ State.reset.ctxs = []
  ∧ State.reset.queues = [] ∧ State.reset.launches = [] ∧ State.reset.csrs = {} ∧ State.reset.cmd = {}
  ∧ State.reset.focus = none ∧ State.reset.agenda = [] ∧ State.reset.memOk = true

-- the checks before an instruction, traps and the return from one

/-- R100, checks 3 to 5: an instruction of a split on an engine that does not execute it takes ENGINE; else one that
names a CSR it may not touch takes PRIVILEGE with the CSR's number; else one with an illegal field takes
ILLEGAL_OPERAND: whatever its guard, and with no other effect. -/
def Obligations.ChecksInOrder : Prop :=
  ∀ (s : State) (i : Instr) (cid sid : Nat) (cr : Crew) (sp : Split) (off : Nat), i.isEvent = false →
    executing s = some (cid, sid, cr, sp, off) → Free s cid cr →
    let priv := ((s.ctxs.find cr.ctx).map (·.priv)).getD false
    let forbidden (n : BitVec 12) : Prop := (0x400 ≤ n.toNat ∧ priv = false) ∨ (n.toNat = 0x405 ∧ cr.engine ≠ .service)
    (i.sig.eng.runsOn cr.engine = false → exec i s = .next (takeTrap s cid sid (.word off) { code := 0x10 }))
    ∧ (i.sig.eng.runsOn cr.engine = true → ∀ n, i.sig.csr = some n → forbidden n →
        exec i s = .next (takeTrap s cid sid (.word off) { code := 0x04, addr := n.setWidth 64 }))
    ∧ (i.sig.eng.runsOn cr.engine = true → (∀ n, i.sig.csr = some n → ¬ forbidden n) → i.wf = false →
        exec i s = .next (takeTrap s cid sid (.word off) { code := 0x03 }))

/-- R74: where the checks before it pass, an instruction takes EMPTY_READ with the register's number when its first
source with T = 1 that is empty in an active lane is that register. -/
def Obligations.EmptyRead : Prop :=
  ∀ (s : State) (i : Instr) (cid sid : Nat) (cr : Crew) (sp : Split) (off : Nat) (us vs : List SrcUse) (u : SrcUse) (r : Nat),
    i.isEvent = false → executing s = some (cid, sid, cr, sp, off) → Free s cid cr → staticCheck s cr i = none →
    let empty (x : SrcUse) : Prop := x.traps = true ∧ ∃ k ∈ x.regs, ∃ l ∈ activeLanes cr sp i, cr.isFull k l = false
    i.sig.srcs = us ++ u :: vs → (∀ x ∈ us, ¬ empty x) → empty u → u.regs.head? = some r →
    exec i s = .next (takeTrap s cid sid (.word off) { code := 0x05, addr := BitVec.ofNat 64 r })

/-- R327: a trap delivered to a split outside a handler sends it to the header at TRAPOFF with its mask unchanged, sets
the four trap CSRs, and saves its queue and resume point; named registers, scalars and predicates are kept, and nothing
else changes (after CANCELLED the crew ignores its cancellation). -/
def Obligations.TrapDelivered : Prop :=
  ∀ (s : State) (cid sid : Nat) (cr : Crew) (sp : Split) (ln : Launch) (off : Nat) (resume : Place) (r : Report),
    s.crews.find cid = some cr → cr.split sid = some sp → launchOf s cr = some ln → ln.trapoff = some off →
    sp.trap.inHandler = false →
    ∃ cr' sp', (takeTrap s cid sid resume r) = { s with crews := (takeTrap s cid sid resume r).crews }
      ∧ (takeTrap s cid sid resume r).crews.find cid = some cr'
      ∧ (∀ k, k ≠ cid → (takeTrap s cid sid resume r).crews.find k = s.crews.find k)
      ∧ cr' = { cr with splits := cr'.splits, ignoreCancel := cr.ignoreCancel || decide (r.code = 0x15) }
      ∧ cr'.split sid = some sp' ∧ (∀ k, k ≠ sid → cr'.split k = cr.split k)
      ∧ sp' = { sp with
          place := .header off .trapDelivery, state := .ready, mark := none
          trap := { inHandler := true, code := BitVec.ofNat 32 (r.code + (if r.defer then 256 else 0))
                    pc := BitVec.ofInt 32 resume.offset, addr := r.addr, addrh := r.addrh.setWidth 32, written := false
                    savedQueue := sp.queue, resume := resume, block := sp.block
                    cancelled := decide (r.code = 0x15) && !r.defer } }

/-- R327, R328: a trap that meets no handler, or is raised inside one, ends the crew with a context error of its code,
unless it is UNCORRECTABLE, which kills the cohort; a service-core crew has no cohort, and its context fails (R24). -/
def Obligations.TrapUnhandled : Prop :=
  ∀ (s : State) (cid sid : Nat) (cr : Crew) (sp : Split) (resume : Place) (r : Report),
    s.crews.find cid = some cr → cr.split sid = some sp →
    ((launchOf s cr).bind (·.trapoff) = none ∨ sp.trap.inHandler = true) →
    takeTrap s cid sid resume r
      = if r.code = 0x0F ∧ cr.engine ≠ .service then killCohort s cr.cohort else raiseCtxError s cr.ctx r.code (some cid)

-- integer, logic, floating and crew instructions

/-- R62: a push moves the entries of ages 0 to 14 to ages 1 to 15; at age 0 a lane whose guard is true receives the
result, cut to 32 bits where it is a 32-bit one, or the scalar value written where the destination is a scalar; and a
lane whose guard is false receives a copy of its q0. -/
def Obligations.QueuePush : Prop :=
  ∀ (s : State) (cid sid : Nat) (cr : Crew) (sp : Split) (d : Dest) (w : Width) (lanes act : List Nat) (val : Nat → W64),
    s.crews.find cid = some cr → cr.split sid = some sp → lanes.Nodup → act.Nodup → (∀ l ∈ act, l < 1024) →
    ∃ cr' sp', (writeQ s cid sid d w lanes (act.map (fun l => (l, val l)))).crews.find cid = some cr'
      ∧ cr'.split sid = some sp'
      ∧ (∀ n, n < 15 → ∀ l, sp'.qread (n + 1) l = sp.qread n l)
      ∧ (∀ l ∈ lanes, l ∉ act → sp'.qread 0 l = sp.qread 0 l)
      ∧ (∀ l ∈ lanes, l ∈ act → sp'.qread 0 l = cutTo w (match d with | .scalar _ => val (act.headD 0) | _ => val l))
      ∧ (w = .w32 → ∀ l ∈ lanes, l ∈ act → hi32 (sp'.qread 0 l) = 0)

/-- R484, R485: sums, differences, products, negation, magnitude, minimum and maximum are the exact values, reduced to
the type; IMULH is the high half of the exact product. -/
def Obligations.IntegerArithmetic : Prop :=
  ∀ (g : Guard) (d : Dest) (ty : IntTy) (sat : Bool) (a b c : Src),
    let v (e : Env) (x : Src) (l : Nat) : Int := readInt ty (e.int ty.operand x l)
    Computes (.iadd g d ty sat a b) d ty.operand (fun e l => finishInt ty sat (v e a l + v e b l))
    ∧ Computes (.isub g d ty sat a b) d ty.operand (fun e l => finishInt ty sat (v e a l - v e b l))
    ∧ Computes (.imul g d ty sat a b) d ty.operand (fun e l => finishInt ty sat (v e a l * v e b l))
    ∧ Computes (.imad g d ty sat a b c) d ty.operand (fun e l => finishInt ty sat (v e a l * v e b l + v e c l))
    ∧ Computes (.imulh g d ty a b) d ty.operand
        (fun e l => finishInt ty false (v e a l * v e b l / (2 ^ intWidth ty : Nat)))
    ∧ Computes (.imin g d ty a b) d ty.operand (fun e l => finishInt ty false (min (v e a l) (v e b l)))
    ∧ Computes (.imax g d ty a b) d ty.operand (fun e l => finishInt ty false (max (v e a l) (v e b l)))
    ∧ Computes (.iabs g d ty sat a) d ty.operand (fun e l => finishInt ty sat (v e a l).natAbs)
    ∧ Computes (.ineg g d ty sat a) d ty.operand (fun e l => finishInt ty sat (-(v e a l)))

/-- R485, R105: how an exact value becomes a result. -/
def Obligations.IntegerResult : Prop :=
  ∀ (ty : IntTy) (x : Int),
    (readInt ty (finishInt ty true x).bits = max (intMin ty) (min (intMax ty) x))
    ∧ ((finishInt ty true x).flags = if intMin ty ≤ x ∧ x ≤ intMax ty then 0 else Flags.sat)
    ∧ (intMin ty ≤ readInt ty (finishInt ty false x).bits ∧ readInt ty (finishInt ty false x).bits ≤ intMax ty)
    ∧ ((2 ^ intWidth ty : Nat) : Int) ∣ readInt ty (finishInt ty false x).bits - x
    ∧ (finishInt ty false x).flags = 0
    ∧ ∀ sat, intWidth ty < 64 →
        (finishInt ty sat x).bits = (BitVec.ofInt 32 (readInt ty (finishInt ty sat x).bits)).setWidth 64

/-- R487, R466, R467: comparisons give 1 or 0 in each active lane, and PW's predicate takes the same bit. -/
def Obligations.Comparisons : Prop :=
  (∀ (g : Guard) (d : Dest) (ty : IntTy) (cond : ICond) (pw : Option (BitVec 3)) (a b : Src),
    let bit (e : Env) (l : Nat) : Bool :=
      let x := e.int ty.operand a l
      let y := e.int ty.operand b l
      intCond cond (readInt ty x) (readInt ty y) (intBits ty x) (intBits ty y)
    Decides (.icmp g d ty cond pw a b) d pw (fun e l => if bit e l then 1 else 0) bit (fun _ => 0))
  ∧ (∀ (g : Guard) (d : Dest) (ty : FTy) (cond : FCond) (ftz : Bool) (pw : Option (BitVec 3)) (a b : Src),
    let v (e : Env) (x : Src) (l : Nat) : FVal := (fmtOf ty).read (e.flush ty ftz) (e.flt ty x l)
    let bit (e : Env) (l : Nat) : Bool := fltCond cond (v e a l) (v e b l)
    Decides (.fcmp g d ty cond ftz pw a b) d pw (fun e l => if bit e l then 1 else 0) bit
      (fun e => if e.lanes.any (fun l => (v e a l).snan || (v e b l).snan) then Flags.nv else 0))

/-- R492, R517, R518, R545: dot products, selection and moves. -/
def Obligations.Moves : Prop :=
  ∀ (g : Guard) (d : Dest) (sat w64 neg : Bool) (p : BitVec 3) (a b c : Src) (imm : W32) (aty bty : NumTy),
    Computes (.idp4 g d aty bty sat a b c) d .w32 (fun e l => finishInt .s32 sat (readInt .s32 (e.int .w32 c l)
      + dotProduct aty bty (e.int .w32 a l).toNat (e.int .w32 b l).toNat (if idp4Bits aty = 8 then 4 else 8)))
    ∧ Computes (.sel g d w64 neg p a b) d (widthOf w64)
        (fun e l => { bits := if e.split.pred p.toNat l != neg then e.int (widthOf w64) a l else e.int (widthOf w64) b l })
    ∧ Computes (.mov g d w64 a) d (widthOf w64) (fun e l => { bits := e.int (widthOf w64) a l })
    ∧ Computes (.movi g d .plain a imm) d .w32 (fun _ _ => { bits := imm.setWidth 64 })
    ∧ Computes (.movi g d .sx64 a imm) d .w64 (fun _ _ => { bits := imm.signExtend 64 })
    ∧ Computes (.movi g d .hi a imm) d .w64 (fun e l => { bits := imm ++ e.int32 a l })

/-- R411, R425: the bit-wise functions of each lane, a bit at a time. -/
def Obligations.Bitwise : Prop :=
  ∀ (g : Guard) (d : Dest) (ty : BTy) (lut : BitVec 8) (a b c : Src),
    Computes (.andL g d ty a b) d ty.operand (fun e l => { bits := e.int ty.operand a l &&& e.int ty.operand b l })
    ∧ Computes (.orL g d ty a b) d ty.operand (fun e l => { bits := e.int ty.operand a l ||| e.int ty.operand b l })
    ∧ Computes (.xorL g d ty a b) d ty.operand (fun e l => { bits := e.int ty.operand a l ^^^ e.int ty.operand b l })
    ∧ Computes (.notL g d ty a) d ty.operand (fun e l => { bits := ~~~(e.int ty.operand a l) })
    ∧ Computes (.bool3 g d ty lut a b c) d ty.operand
        (fun e l => { bits := lutBits lut (e.int ty.operand a l) (e.int ty.operand b l) (e.int ty.operand c l) })
    ∧ ∀ (x y z : W64) (k : Nat), k < 64 → (lutBits lut x y z).getLsbD k
        = lut.getLsbD ((if x.getLsbD k then 4 else 0) + (if y.getLsbD k then 2 else 0) + (if z.getLsbD k then 1 else 0))

/-- R477, R478: shifts and rotations of a value of `w` bits, a bit at a time: counts beyond the width are clamped, or
taken modulo the width by a rotation; no flag is set. -/
def Obligations.Shifts : Prop :=
  (∀ (g : Guard) (d : Dest) (ty : BTy) (right : Bool) (a b c : Src),
    let x (e : Env) (s : Src) (l : Nat) : Nat := (e.int ty.operand s l).toNat
    let n (e : Env) (s : Src) (l : Nat) : Nat := (e.int32 s l).toNat
    let val (v : Nat) : Res := { bits := BitVec.ofNat 64 v, flags := 0 }
    Computes (.shl g d ty a b) d ty.operand (fun e l => val (shiftLeft (bitsOf ty) (x e a l) (n e b l)))
    ∧ Computes (.shr g d ty a b) d ty.operand (fun e l => val (shiftRight (bitsOf ty) (x e a l) (n e b l)))
    ∧ Computes (.sar g d ty a b) d ty.operand (fun e l => val (shiftArith (bitsOf ty) (x e a l) (n e b l)))
    ∧ Computes (.rot g d ty right a b) d ty.operand (fun e l => val (rotate (bitsOf ty) (x e a l) (n e b l) right))
    ∧ Computes (.fsh g d ty right a b c) d ty.operand
        (fun e l => val (funnel (bitsOf ty) (x e a l) (x e b l) (n e c l) right)))
  ∧ ∀ (w x y n k : Nat), 0 < w → x < 2 ^ w → y < 2 ^ w → k < w →
    (shiftLeft w x n).testBit k = (decide (n ≤ k) && x.testBit (k - n))
    ∧ (shiftRight w x n).testBit k = x.testBit (k + n)
    ∧ (shiftArith w x n).testBit k = x.testBit (if k + n < w then k + n else w - 1)
    ∧ (rotate w x n false).testBit k = x.testBit ((k + (w - n % w)) % w)
    ∧ (rotate w x n true).testBit k = x.testBit ((k + n) % w)
    ∧ (funnel w x y n false).testBit k = (if n ≤ k then x.testBit (k - n) else y.testBit (k + w - Nat.min n w))
    ∧ (funnel w x y n true).testBit k = (if k + n < w then y.testBit (k + n) else x.testBit (k + Nat.min n w - w))

/-- R424, R431, R529: bit fields, the number of set bits, leading zeros, reversal and permutation, with what the
first five are a bit at a time. -/
def Obligations.BitFields : Prop :=
  (∀ (g : Guard) (d : Dest) (ty : BTy) (ity : IntTy) (mode : PrmtMode) (a b c : Src),
    let x (e : Env) (s : Src) (l : Nat) : Nat := (e.int ty.operand s l).toNat
    let y (e : Env) (s : Src) (l : Nat) : Nat := (e.int ity.operand s l).toNat
    let n (e : Env) (s : Src) (l : Nat) : Nat := (e.int32 s l).toNat
    let val (v : Nat) : Res := { bits := BitVec.ofNat 64 v }
    Computes (.bfx g d ity a b c) d ity.operand
        (fun e l => { bits := BitVec.ofInt 64 (extractField ity (y e a l) (n e b l) (n e c l)) })
    ∧ Computes (.bfi g d ty a b c) d ty.operand
        (fun e l => val (insertField (bitsOf ty) (x e a l) (x e b l) (n e c l)))
    ∧ Computes (.popc g d ty a) d .w32 (fun e l => val (popCount (x e a l) (bitsOf ty)))
    ∧ Computes (.clz g d ty a) d .w32 (fun e l => val (leadingZeros (bitsOf ty) (x e a l)))
    ∧ Computes (.brev g d ty a) d ty.operand (fun e l => val (reverseBits (bitsOf ty) (x e a l) (bitsOf ty)))
    ∧ Computes (.prmt g d mode a b c) d .w32 (fun e l => val (permute mode (n e a l) (n e b l) (n e c l))))
  ∧ ∀ (w a b c k : Nat), a < 2 ^ w → b < 2 ^ w → k < w →
    let pos := Nat.min (c % 256) w
    let len := Nat.min (c / 256 % 256) (w - pos)
    (insertField w a b c).testBit k
      = (if pos ≤ k ∧ k < pos + len then b.testBit (k - pos) else a.testBit k)
    ∧ (reverseBits w a w).testBit k = a.testBit (w - 1 - k)
    ∧ popCount a w = ((List.range w).filter (fun j => a.testBit j)).length
    ∧ leadingZeros w a ≤ w ∧ (w - leadingZeros w a ≤ k → a.testBit k = false)
    ∧ (a ≠ 0 → a.testBit (w - 1 - leadingZeros w a) = true)

/-- R461 to R463, R483: sums, differences, products and fused products, scalar and packed, are rounded once from the
exact value of their sources by the instruction's rounding; subtraction negates b exactly before the sum. -/
def Obligations.FloatArithmetic : Prop :=
  ∀ (g : Guard) (d : Dest) (ty : FTy) (m : FMod) (a b c : Src),
    let r (e : Env) (n : Nat) : Rounding := e.rounding ty m n 32
    let v (e : Env) (x : Src) (l : Nat) : FVal := (fmtOf ty).read (e.flush ty m.ftz) (e.flt ty x l)
    let r16 (e : Env) (n k : Nat) : Rounding := e.rounding ty m (n / 65536 ^ k % 65536) 16
    let h (e : Env) (x : Src) (l k : Nat) : FVal := (fmtOf ty).read (e.flush ty m.ftz) (e.half ty x l k)
    let both (x y : Nat × Flags) : Res := { bits := BitVec.ofNat 64 (x.1 + y.1 * 65536), flags := x.2 ||| y.2 }
    Rounds (.fadd g d ty m a b) d .w32 m.rnd (fun e n l => fltRes ((fmtOf ty).addV (r e n) (v e a l) (v e b l)))
    ∧ Rounds (.fsub g d ty m a b) d .w32 m.rnd
        (fun e n l => fltRes ((fmtOf ty).addV (r e n) (v e a l) (v e b l).negate))
    ∧ Rounds (.fmul g d ty m a b) d .w32 m.rnd (fun e n l => fltRes ((fmtOf ty).mulV (r e n) (v e a l) (v e b l)))
    ∧ Rounds (.ffma g d ty m a b c) d .w32 m.rnd
        (fun e n l => fltRes ((fmtOf ty).fmaV (r e n) (v e a l) (v e b l) (v e c l)))
    ∧ Rounds (.hadd2 g d ty m a b) d .w32 m.rnd (fun e n l =>
        both ((fmtOf ty).addV (r16 e n 0) (h e a l 0) (h e b l 0)) ((fmtOf ty).addV (r16 e n 1) (h e a l 1) (h e b l 1)))
    ∧ Rounds (.hmul2 g d ty m a b) d .w32 m.rnd (fun e n l =>
        both ((fmtOf ty).mulV (r16 e n 0) (h e a l 0) (h e b l 0)) ((fmtOf ty).mulV (r16 e n 1) (h e a l 1) (h e b l 1)))
    ∧ Rounds (.hfma2 g d ty m a b c) d .w32 m.rnd (fun e n l =>
        both ((fmtOf ty).fmaV (r16 e n 0) (h e a l 0) (h e b l 0) (h e c l 0))
          ((fmtOf ty).fmaV (r16 e n 1) (h e a l 1) (h e b l 1) (h e c l 1)))

/-- R474 to R476, R465, R450 to R453: the functions, extremes and class of a value, and conversion between formats. -/
def Obligations.FloatFunctions : Prop :=
  ∀ (g : Guard) (d : Dest) (ty : FTy) (ftz nanp : Bool) (a b : Src) (dty sty : NumTy) (m : FMod),
    let fn (k : Fn) (e : Env) (l : Nat) : Res :=
      fltRes ((fmtOf ty).apply k (e.rounding ty { rnd := .rne, ftz := ftz, sat := false } 0 32)
        ((fmtOf ty).read (e.flush ty ftz) (e.flt ty a l)))
    Computes (.frcp g d ty ftz a) d .w32 (fn .rcp) ∧ Computes (.frsq g d ty ftz a) d .w32 (fn .rsq)
    ∧ Computes (.fsqrt g d ty ftz a) d .w32 (fn .sqrt) ∧ Computes (.flog2 g d ty ftz a) d .w32 (fn .log2)
    ∧ Computes (.fexp2 g d ty ftz a) d .w32 (fn .exp2) ∧ Computes (.ftanh g d ty ftz a) d .w32 (fn .tanh)
    ∧ Computes (.fsig g d ty ftz a) d .w32 (fn .sig)
    ∧ Computes (.fmin g d ty nanp ftz a b) d .w32 (fun e l =>
        fltRes ((fmtOf ty).minMax false (e.nanp nanp) (e.flush ty ftz) (e.flt ty a l) (e.flt ty b l)))
    ∧ Computes (.fmax g d ty nanp ftz a b) d .w32 (fun e l =>
        fltRes ((fmtOf ty).minMax true (e.nanp nanp) (e.flush ty ftz) (e.flt ty a l) (e.flt ty b l)))
    ∧ Computes (.fclass g d ty a) d .w32 (fun e l => { bits := BitVec.ofNat 64 (2 ^ (fmtOf ty).classify (e.flt ty a l)) })
    ∧ Rounds (.cvt g d dty sty m a) d (cvtDestWidth dty sty) m.rnd (fun e n l => e.convert dty sty m a n l)

/-- R128, R129, R455, R530 to R533, R546, R547, R566: the operations of a whole crew. -/
def Obligations.CrewOperations : Prop :=
  ∀ (g : Guard) (d : Dest) (ty : BTy) (sm : ShflMode) (pw : Option (BitVec 3)) (a b : Src) (cnd : Option Src)
    (rty : RedTy) (op : RedOp) (excl ftz : Bool) (m : FMod),
    let set (e : Env) : List Nat := e.lanes.filter (fun l => e.int32 a l != 0)
    let cand (e : Env) : List Nat := e.lanes.filter (fun l => match cnd with | some x => e.int32 x l != 0 | none => true)
    let vote (mode : VoteMode) (bit : Env → Bool) : Prop :=
      Decides (.vote g d mode pw a) d pw (fun e _ => if bit e then 1 else 0) (fun e _ => bit e) (fun _ => 0)
    Computes (.shfl g d ty sm a b) d ty.operand (fun e l =>
      { bits := e.int ty.operand a (match shflSource sm e.crew.width l (e.int32 b l).toNat with
          | some j => if j ∈ e.lanes then j else l
          | none => l) })
    ∧ vote .any (fun e => !(set e).isEmpty) ∧ vote .all (fun e => (set e).length == e.lanes.length)
    ∧ vote .uni (fun e => e.lanes.all (fun l => e.int32 a l == e.int32 a e.lead))
    ∧ Computes (.vote g d .ballot pw a) d .w32 (fun e l => { bits := ballotWord (set e) (l / 32) })
    ∧ Decides (.elect g d pw cnd) d pw
        (fun e _ => match cand e with | [] => 0xFFFFFFFF | l :: _ => BitVec.ofNat 64 l)
        (fun e l => (cand e).head? == some l) (fun _ => 0)
    ∧ Computes (.red g d rty op m a) d rty.operand
        (fun e _ => (tree (e.comb rty op m) (e.position rty a) e.crew.w0 0).getD { bits := 0 })
    ∧ Computes (.scan g d rty op excl m a) d rty.operand (fun e l =>
        (prefixOf (e.comb rty op m) (e.position rty a) (if excl then l else l + 1)).getD { bits := redIdentity rty op })
    ∧ Computes (.rmaxi g d rty ftz a b) d .w64 (fun e _ =>
        e.maxIndex rty ftz (e.lanes.map (fun l => (e.redValue rty a l, e.int32 b l))))

-- control

/-- R426, R428, R429, R437, R438, R619: where branches, calls and returns send their split: to the header named, where
its word lies in the code segment, else to the BOUNDS trap; a branch no lane takes falls through; one that some take
parts the split; calls and returns keep the return stack, and trap where it is full or empty. -/
def Obligations.Branches : Prop :=
  ∀ (g : Guard) (off : BitVec 32) (blk : Block) (ret : Nat) (rest : List Nat),
    let h (e : Env) : Int := (e.off : Int) + 8 * off.toInt
    let bounds (e : Env) (_ : State) : State := e.traps { code := 0x06, addr := BitVec.ofInt 64 (h e) }
    let parted (e : Env) : List Split :=
      let x : Split := { e.split with
        mark := none
        recon := if blk.rcv = 0 then e.split.recon
          else { target := (blk.off + 8 * blk.rcv.toInt).toNat, setter := e.crew.nextSplit } :: e.split.recon }
      [{ x with id := e.crew.nextSplit, age := e.crew.nextSplit, mask := maskOf e.lanes, place := .header (h e) .branch },
       { x with id := e.crew.nextSplit + 1, age := e.crew.nextSplit + 1, mask := e.split.mask &&& ~~~(maskOf e.lanes)
                place := .header (blk.off + 8 * (blk.len + 1) : Nat) .fall }]
    Does (.bra off) (fun e _ => e.inside (h e)) (fun e b => e.moves b (.header (h e) .branch) id)
    ∧ Does (.bra off) (fun e _ => e.beyond (h e)) bounds
    ∧ Does (.brc g off) (fun e _ => e.lanes = e.all ∧ e.inside (h e)) (fun e b => e.moves b (.header (h e) .branch) id)
    ∧ Does (.brc g off) (fun e _ => e.lanes = e.all ∧ e.beyond (h e)) bounds
    ∧ Does (.brc g off) (fun e _ => e.lanes = [] ∧ e.all ≠ [] ∧ e.split.block = some blk)
        (fun e b => e.moves b (.header (blk.off + 8 * (blk.len + 1) : Nat) .fall) id)
    ∧ Does (.brc g off)
        (fun e _ => e.active ∧ e.lanes.length ≠ e.all.length ∧ e.inside (h e) ∧ e.crew.splits.length < 16
          ∧ e.split.block = some blk ∧ 0 ≤ (blk.off : Int) + 8 * blk.rcv.toInt)
        (fun e b => updSplits b e.cid (fun cr =>
          { cr with splits := cr.splits.filter (fun x => x.id != e.sid) ++ parted e, nextSplit := e.crew.nextSplit + 2 }))
    ∧ Does (.call off) (fun e _ => e.split.rstack.length < 16 ∧ e.inside (h e) ∧ e.split.block = some blk)
        (fun e b => e.moves b (.header (h e) .call)
          (fun x => { x with rstack := (blk.off + 8 * (blk.len + 1)) :: x.rstack }))
    ∧ Does (.call off) (fun e _ => 16 ≤ e.split.rstack.length) (fun e _ => e.traps { code := 0x03 })
    ∧ Does .ret (fun e _ => e.split.rstack = ret :: rest ∧ e.inside ret)
        (fun e b => e.moves b (.header ret .ret) (fun x => { x with rstack := rest }))
    ∧ Does .ret (fun e _ => e.split.rstack = []) (fun e _ => e.traps { code := 0x03 })

/-- R47, R422, R543, R564, R567, R580, R581, R328: NOP goes on; counted waits and yields go on where the counter has
reached the target and wait where it has not; BAR arrives at its barrier; TRAP raises SOFTWARE; RTT restores the queue
and goes to the resume point, or to TRAPPC where the handler wrote it. -/
def Obligations.Waiting : Prop :=
  ∀ (g : Guard) (off : BitVec 32) (t : Src) (k : BitVec 3) (n : BitVec 4) (imm : W32),
    let h (e : Env) : Int := (e.off : Int) + 8 * off.toInt
    let there (e : Env) : Prop := 0 ≤ (e.crew.counters.getD k.toNat 0 - e.int32 t e.lead).toInt
    let stays (e : Env) (b : State) (w : SplitState) : State := e.moves b e.after (fun x => { x with state := w })
    let arrives (e : Env) (b : State) (w : SplitState) : State :=
      barrierCheck (e.moves b e.after (fun x =>
        { x with arrived := x.arrived ||| BitVec.twoPow 16 n.toNat, state := w })) e.crew.cohort n.toNat
    Does (.nop g) (fun _ _ => True) Env.goesOn
    ∧ Does (.waitc g t k) (fun e _ => e.lanes = [] ∨ there e) Env.goesOn
    ∧ Does (.waitc g t k) (fun e _ => e.active ∧ ¬ there e)
        (fun e b => stays e b (.waitCount k.toNat (e.int32 t e.lead)))
    ∧ Does (.yield t k off) (fun e _ => e.inside (h e) ∧ there e) (fun e b => e.moves b (.header (h e) .resume) id)
    ∧ Does (.yield t k off) (fun e _ => e.inside (h e) ∧ ¬ there e)
        (fun e b => stays e b (.waitYield k.toNat (e.int32 t e.lead) (h e)))
    ∧ Does (.bar n false) (fun _ _ => True) (fun e b => arrives e b (.waitBar n.toNat))
    ∧ Does (.bar n true) (fun _ _ => True) (fun e b => arrives e b .ready)
    ∧ Does (.trap g imm) (fun e _ => e.lanes = []) Env.goesOn
    ∧ Does (.trap g imm) (fun e _ => e.active)
        (fun e _ => takeTrap e.s e.cid e.sid e.after { code := 0x11, addr := imm.setWidth 64 })
    ∧ Does .rtt (fun e _ => e.split.trap.inHandler = true ∧ e.split.trap.cancelled = false)
        (fun e b => updSplit b e.cid e.sid (fun x =>
          { x with
            queue := x.trap.savedQueue
            place := if x.trap.written then .header x.trap.pc.toNat .rtt else x.trap.resume
            block := if x.trap.written then none else x.trap.block
            trap := { x.trap with inHandler := false, savedQueue := [] } }))
    ∧ Does .rtt (fun e _ => e.split.trap.inHandler = false) (fun e _ => e.traps { code := 0x03 })

/-- R49, R456 to R458, R50, R537, R538: EXIT frees the registers of the lanes it ends, which leave their split; a split
that it empties leaves the crew, whose other splits then go on where they waited for it; a successor EXIT and a REFORM
wait with their mask for the crew's other splits, and for the cohort's. -/
def Obligations.Ending : Prop :=
  (∀ (g : Guard) (off : BitVec 32) (keep : W64) (blk : Block),
    let h (e : Env) : Int := (e.off : Int) + 8 * off.toInt
    let next : Place := .header (blk.off + 8 * (blk.len + 1) : Nat) .fall
    let rest (e : Env) : Mask := e.split.mask &&& ~~~(maskOf e.lanes)
    let freed (e : Env) (cr : Crew) : Crew := cr.freeRegs e.lanes (fun _ => false)
    Does (.exit g) (fun e _ => e.lanes = [] ∧ e.split.block = some blk) (fun e b => e.moves b next id)
    ∧ Does (.exit g) (fun e _ => e.active ∧ rest e ≠ 0 ∧ e.split.block = some blk)
        (fun e b => wakeRows (updSplits b e.cid (fun cr => (freed e cr).updSplit e.sid (fun x =>
          { x with mask := rest e, place := next, mark := none }))) (unitOf b e.crew))
    ∧ Does (.exit g) (fun e _ => e.active ∧ rest e = 0)
        (fun e b => splitEnded (wakeRows (updSplits b e.cid (fun cr =>
          { freed e cr with splits := cr.splits.filter (fun x => x.id != e.sid) })) (unitOf b e.crew)) e.cid e.crew.cohort)
    ∧ Does (.exitSuccessor off keep)
        (fun e _ => e.inside (h e) ∧ ∀ x ∈ e.crew.splits, ∀ t k f, x.state = .exitWait t k f → t = h e ∧ k = keep)
        (fun e b => exitCheck (updSplit b e.cid e.sid (fun x =>
          { x with mark := none, state := .exitWait (h e) keep e.off })) e.cid)
    ∧ Does (.exitSuccessor off keep) (fun e _ => e.beyond (h e))
        (fun e _ => e.traps { code := 0x06, addr := BitVec.ofInt 64 (h e) }))
  ∧ ∀ (ps : BitVec 3) (keep : W64),
    Does (.reform ps keep)
      (fun e b => ∀ p ∈ barrierCrews b [e.crew.cohort], ∀ x ∈ p.2.splits, ∀ a q k, x.state = .reformWait a q k →
        a = e.off ∧ q = ps.toNat ∧ k = keep)
      (fun e b => reformCheck (e.moves b e.after (fun x => { x with state := .reformWait e.off ps.toNat keep }))
        e.crew.cohort)

-- accesses to global memory and the tile store

/-- R73: marking registers empty for an access changes, of a crew, only the cells of those registers in those lanes: each
keeps its value, is empty, and waits for that access. -/
def Obligations.EmptiedRegisters : Prop :=
  ∀ (cr : Crew) (acc : Nat) (ls rs : List Nat), (∀ l ∈ ls, l < 1024) →
    cr.emptyRegs acc ls rs = { cr with regs := (cr.emptyRegs acc ls rs).regs }
    ∧ ∀ r l, l < 1024 → (cr.emptyRegs acc ls rs).cell r l =
      if r ∈ rs ∧ l ∈ ls then some { val := cr.named r l, full := false, pend := some acc } else cr.cell r l

/-- R134 to R136, R493 to R496, R480, R432, R526, R406: LD, GATHER, BRLD, ACCEPT and PREF whose offsets pass the checks
of their record put their access in flight, with the address of each active lane; the destination is empty until it
returns, and an acquire holds its split's later accesses. Through a tracked record of a repeatable context the split
waits for the access's race check (log entry 21). -/
def Obligations.Loads : Prop :=
  ∀ (g : Guard) (d : Dest) (m : MemRef) (acq : Option Scope) (bd br : BitVec 4) (a padlo n : Src)
    (off : BitVec 11) (tgt : PrefTarget) (vm1 padhi : BitVec 24) (sq : Bool),
    let rec_ (e : Env) : BitVec 128 := (e.crew.record m.br.toNat).bits
    let o (e : Env) (l : Nat) : Int := ((e.int32 m.a l).toNat : Int) * recStride (rec_ e) + m.off.toInt * m.sz.bytes
    let va (e : Env) (l : Nat) : Nat := recBase (rec_ e) + swz (o e l).toNat (recSwz (rec_ e))
    let qs (e : Env) : List LaneReq := e.lanes.map (fun l => { lane := l, va := va e l })
    let ok (e : Env) (_ : State) : Prop := e.active ∧ e.reaches (rec_ e) { r := true } m.sz.bytes m.sz.bytes (o e)
    let held (on : Bool) (b : State) (x : Split) : Split := if on then { x with acq := b.nextId :: x.acq } else x
    let rec1 (e : Env) : BitVec 128 := (e.crew.record br.toNat).bits
    let o1 (e : Env) : Int := ((e.int32 a e.lead).toNat : Int) * recStride (rec1 e) + off.toInt * 16
    let o2 (e : Env) (l : Nat) : Int := ((e.int32 a l).toNat : Int) * recStride (rec1 e)
    let blocks (e : Env) : List LaneReq := e.lanes.map (fun l =>
      { lane := l, va := recAddr (rec1 e) (o2 e l).toNat, aux := (e.int32 n l).toNat, aux2 := (e.int32 padlo l).toNat
        res := BitVec.ofInt 64 (o2 e l) })
    Does (.ld g d m acq) ok (fun e b =>
        e.goesTracked (recRep (rec_ e)) (e.awaits b (.l d m.sz.operand) (e.access (.load m.sz acq.isSome) 0 (rec_ e) (qs e) 0))
          (held acq.isSome b))
    ∧ Does (.gather g d m) ok (fun e b =>
        e.goesTracked (recRep (rec_ e)) (e.awaits b (.l d m.sz.operand) (e.access (.gather m.sz) 0 (rec_ e) (qs e) 0)) id)
    ∧ Does (.brld g bd a br off acq)
        (fun e _ => e.active ∧ recMalformed (rec1 e) = false ∧ recR (rec1 e) = true ∧ 0 ≤ o1 e
          ∧ o1 e + 16 ≤ recSpan (rec1 e) ∧ recAddr (rec1 e) (o1 e).toNat % 16 = 0)
        (fun e b => e.goesTracked (recRep (rec1 e)) (updCrew (e.awaits b (.record bd) (e.access (.record bd.toNat acq.isSome) 0 (rec1 e)
            [{ lane := e.lead, va := recAddr (rec1 e) (o1 e).toNat }] 0)) e.cid
          (fun cr => { cr with recs := changeAt cr.recs bd.toNat (fun r => { r with full := false, pend := some b.nextId }) }))
          (held acq.isSome b))
    ∧ Does (.accept g d a padlo n vm1 padhi br sq)
        (fun e _ => e.active ∧ (∀ l ∈ e.lanes, 1 ≤ (e.int32 n l).toNat ∧ (e.int32 n l).toNat ≤ 64)
          ∧ e.reaches (rec1 e) { r := true } 640 64 (o2 e))
        (fun e b => e.goesTracked (recRep (rec1 e)) (e.awaits b (.l d .w64)
          { e.access (.accept padhi.toNat (vm1.toNat + 1) sq) 0 (rec1 e) (blocks e) 0 with
            lines := acceptLines (rec1 e) (blocks e) }) id)
    ∧ Does (.pref g m tgt)
        (fun e _ => e.active
          ∧ e.reaches (rec_ e) (if tgt = .icache then { x := true } else { r := true }) m.sz.bytes m.sz.bytes (o e))
        (fun e b => e.goesOn (e.awaits b .none
          (e.access (.pref tgt) (if tgt = .icache then 6 else 0) (rec_ e) (qs e) 0)))
    ∧ Does (.pref g m tgt)
        (fun e _ => e.active ∧ (recMalformed (rec_ e) = true ∨ ∀ l ∈ e.lanes, o e l < 0)) Env.goesOn

/-- R174, R544, R554 to R556, R558, R497, R498: ST and SCATTER whose offsets pass the checks enter the crew's store queue
with the address and the bytes of each active lane, and leave memory as it is until they arrive; a store with a scope
waits for its fence first. STS writes the tile store at once, and LDS answers the bytes that stand there. -/
def Obligations.Stores : Prop :=
  ∀ (g : Guard) (d : Dest) (m : MemRef) (x : SpadRef) (data : Src) (rel : Option Scope),
    let rec_ (e : Env) : BitVec 128 := (e.crew.record m.br.toNat).bits
    let o (e : Env) (l : Nat) : Int := ((e.int32 m.a l).toNat : Int) * recStride (rec_ e) + m.off.toInt * m.sz.bytes
    let va (e : Env) (l : Nat) : Nat := recBase (rec_ e) + swz (o e l).toNat (recSwz (rec_ e))
    let bytes (e : Env) (sz : Size) (l : Nat) : List Byte := storeBytes e.s e.crew e.split sz sz.bytes data l
    let qs (e : Env) : List LaneReq := e.lanes.map (fun l => { lane := l, va := va e l, data := bytes e m.sz l })
    let ok (e : Env) : Prop := e.active ∧ e.crew.storeQ.length < 32
      ∧ e.reaches (rec_ e) { w := true } m.sz.bytes m.sz.bytes (o e)
    let queued (e : Env) (b : State) (scatter : Bool) : State :=
      let t := if e.crew.engine = .core then dropL1 b e.crew (e.lanes.map (va e)) else b
      e.goesTracked (recRep (rec_ e)) (updCrew (e.awaits t .none (e.access (.store m.sz.bytes scatter) 0 (rec_ e) (qs e) 0)) e.cid
        (fun cr => { cr with storeQ := cr.storeQ ++ [b.nextId] })) id
    let t (e : Env) (l : Nat) : Int := ((e.int32 x.a l).toNat : Int) + x.off.toInt * x.sz.bytes
    let tileOk (e : Env) : Prop := ∃ c, e.s.cohorts.find e.crew.cohort = some c
      ∧ ∀ l ∈ e.lanes, 0 ≤ t e l ∧ t e l + x.sz.bytes ≤ c.alloc ∧ swz (t e l).toNat x.xs.toNat % x.sz.bytes = 0
    let tile (e : Env) : Mem := ((e.s.cohorts.find e.crew.cohort).map (·.tile)).getD []
    Does (.st g m data rel) (fun e b => ok e ∧ ∀ sc, rel = some sc → e.fenceDone b sc 0xFF)
      (fun e b => queued e b false)
    ∧ Does (.scatter g m data) (fun e _ => ok e) (fun e b => queued e b true)
    ∧ Does (.sts g x data) (fun e _ => tileOk e)
        (fun e b => e.goesOn (updCohort b e.crew.cohort (fun c =>
          { c with tile := e.lanes.foldl (fun mem l =>
              Memory.setN mem (swz (t e l).toNat x.xs.toNat) (bytes e x.sz l)) c.tile })))
    ∧ Does (.lds g d x) (fun e _ => tileOk e ∧ e.active)
        (fun e b => e.goesOn (e.awaits b (.l d x.sz.operand) (e.known (.load x.sz false) (e.lanes.map (fun l =>
          (l, loadValue x.sz (Memory.getN (tile e) (swz (t e l).toNat x.xs.toNat) x.sz.bytes)))) 0)))

/-- R135: an access whose record is malformed or lacks a right takes ACCESS; else one with a lane out of range takes
BOUNDS; else one with a misaligned lane takes ALIGNMENT: nothing is accessed. -/
def Obligations.AccessTraps : Prop :=
  ∀ (g : Guard) (d : Dest) (m : MemRef) (acq : Option Scope) (data : Src) (pre post : List Nat) (l : Nat),
    let rec_ (e : Env) : BitVec 128 := (e.crew.record m.br.toNat).bits
    let o (e : Env) (l : Nat) : Int := ((e.int32 m.a l).toNat : Int) * recStride (rec_ e) + m.off.toInt * m.sz.bytes
    let inRange (e : Env) (l : Nat) : Prop := 0 ≤ o e l ∧ o e l + m.sz.bytes ≤ recSpan (rec_ e)
    let aligned (e : Env) (l : Nat) : Prop := recAddr (rec_ e) (o e l).toNat % m.sz.bytes = 0
    let denied (n : Need) (e : Env) : Prop := e.active ∧ (recMalformed (rec_ e) = true ∨ recGrants (rec_ e) n = false)
    let allowed (n : Need) (e : Env) : Prop := recMalformed (rec_ e) = false ∧ recGrants (rec_ e) n = true
    let first (e : Env) (p : Env → Nat → Prop) : Prop := e.lanes = pre ++ l :: post ∧ (∀ k ∈ pre, p e k) ∧ ¬ p e l
    let here (e : Env) (_ : State) (code : Nat) (v : W64) : State := e.traps { code := code, addr := v }
    let all (i : Instr) (n : Need) : Prop :=
      Does i (fun e _ => denied n e) (fun e b => here e b 0x09 (m.br.setWidth 64))
      ∧ Does i (fun e _ => allowed n e ∧ first e inRange) (fun e b => here e b 0x06 (BitVec.ofInt 64 (o e l)))
      ∧ Does i (fun e _ => allowed n e ∧ (∀ k ∈ e.lanes, inRange e k) ∧ first e aligned)
          (fun e b => here e b 0x07 (BitVec.ofInt 64 (o e l)))
    all (.ld g d m acq) { r := true } ∧ all (.gather g d m) { r := true } ∧ all (.st g m data acq) { w := true }
      ∧ all (.scatter g m data) { w := true }

/-- R150, R441 to R445, R143, R551, R145, R552, R553: a COPY whose sides pass their checks enters its core's copy engine
with the rectangle's rows and bytes, and the counter it names has one more to count; its yielding form waits until all
of them have counted. SPGROW's request joins its core's; SPFREE gives back the top of the allocation. -/
def Obligations.CopiesAndTiles : Prop :=
  ∀ (g : Guard) (d : Dest) (dir : CopyDir) (src dst shape n : Src) (x : CopyExt) (c : Cohort),
    let w (e : Env) (a : Src) : W64 := e.int .w64 a e.lead
    let rows (e : Env) : Nat := (e.int32 shape e.lead).toNat / 65536
    let rb (e : Env) : Nat := (e.int32 shape e.lead).toNat % 65536
    let rect (e : Env) (a : Src) : CopyRect :=
      { off := (lo32 (w e a)).toNat, stride := (hi32 (w e a)).toNat, rows := rows e, rb := rb e }
    let side (e : Env) (tile : Bool) (br : BitVec 4) (a : Src) : CopySide :=
      if tile then .tile (rect e a).off (rect e a).stride x.xs.toNat
      else .global (e.crew.record br.toNat).bits (rect e a).off (rect e a).stride
    let sideOk (e : Env) (tile : Bool) (br : BitVec 4) (nd : Need) (a : Src) : Prop :=
      if tile then e.copyTile x.xs (rect e a) = none else e.copyGlobal br nd (rect e a) = none
    let s1 (e : Env) : CopySide := side e (dir = .s2g) x.brs src
    let d1 (e : Env) : CopySide := side e (dir = .g2s) x.brd dst
    let ok (e : Env) : Prop := e.active ∧ rows e ≠ 0 ∧ rb e ≠ 0 ∧ sideOk e (dir = .s2g) x.brs { r := true } src
      ∧ sideOk e (dir = .g2s) x.brd { w := true } dst ∧ copiesOn e.s (unitOf e.s e.crew) < 64
    let begun (e : Env) (b : State) : State :=
      updCrew (noteCopy { b with
        nextId := b.nextId + 1
        copies := b.copies.put b.nextId
          { id := b.nextId, crew := some e.cid, cohort := e.crew.cohort, ctx := e.crew.ctx, core := unitOf e.s e.crew
            lanes := e.split.mask, kc := x.kc.toNat, src := s1 e, dst := d1 e, rows := rows e, rb := rb e
            who := crewIdent e.s e.cid
            task := (((e.s.cohorts.find e.crew.cohort).bind streamKey).bind e.s.streams.find).elim 0 Stream.taskNow } }
          e.crew.cohort (s1 e) (d1 e)) e.cid
        (fun cr => { cr with pendCnt := changeAt cr.pendCnt x.kc.toNat (· + 1) })
    let k (e : Env) : Nat := (e.int32 n e.lead).toNat
    Does (.copy g dir src dst shape x) (fun e _ => ok e ∧ x.cont = none) (fun e b => e.goesOn (begun e b))
    ∧ (∀ off, Does (.copy g dir src dst shape x)
        (fun e _ => ok e ∧ x.cont = some off ∧ e.inside ((e.off : Int) + 8 * off.toInt))
        (fun e b =>
          let t : W32 := e.crew.counters.getD x.kc.toNat 0 + BitVec.ofNat 32 (e.crew.pendCnt.getD x.kc.toNat 0 + 1)
          let w : SplitState := .waitYield x.kc.toNat t ((e.off : Int) + 8 * off.toInt)
          e.moves (begun e b) e.after (fun sp => { sp with state := w })))
    ∧ Does (.copy g dir src dst shape x) (fun e _ => e.active ∧ x.cont = none ∧ (rows e = 0 ∨ rb e = 0))
        (fun e _ => e.traps { code := 0x03 })
    ∧ Does (.spgrow g d n) (fun e _ => e.active ∧ 128 ≤ k e ∧ k e ≤ 262144 ∧ k e % 128 = 0)
        (fun e b =>
          let b' := e.awaits b (.l d .w32) { e.access .spgrow 0 0 (e.lanes.map (fun l => { lane := l, va := 0 })) 0 with
            lines := [], xlated := true }
          e.goesOn { b' with spgrow := b.spgrow ++
            [{ acc := b.nextId, cohort := e.crew.cohort, core := unitOf e.s e.crew, n := k e }] })
    ∧ Does (.spfree g n)
        (fun e b => e.active ∧ e.s.cohorts.find e.crew.cohort = some c ∧ 0 < k e ∧ k e % 128 = 0
          ∧ c.staticReq + k e ≤ c.alloc ∧ rangeBusy b e.crew.cohort (c.alloc - k e) c.alloc = false)
        (fun e b => e.goesOn (updCohort b e.crew.cohort (fun c =>
          { c with alloc := c.alloc - k e, tile := c.tile.filter (fun p => decide (p.1 < c.alloc - k e)) })))
    ∧ Does (.spfree g n)
        (fun e _ => e.active ∧ e.s.cohorts.find e.crew.cohort = some c ∧ 0 < k e ∧ (k e % 128 ≠ 0 ∨ c.alloc < c.staticReq + k e))
        (fun e _ => e.traps { code := 0x06, addr := BitVec.ofNat 64 (k e) })

/-- R435, R436, R468 to R473, R488, R489, R523, R524, R565: BRMK writes its record at once; a FENCE whose sources have
completed drops what its destinations name; ICSYNC removes the code lines of its range; PIN translates the pages of its
window; UNPIN drops a window. -/
def Obligations.RecordsAndFences : Prop :=
  ∀ (g : Guard) (d : Dest) (bd br : BitVec 4) (base extent a n : Src) (baseHi fade sm dm : BitVec 8) (stride : BitVec 16)
    (rights : BitVec 5) (sw : BitVec 3) (scope : Scope) (spadw : Bool),
    let made (e : Env) : BitVec 128 :=
      rights ++ sw ++ e.int32 extent e.lead ++ stride ++ baseHi ++ e.int .w64 base e.lead
    let rec_ (e : Env) : BitVec 128 := (e.crew.record br.toNat).bits
    let o (e : Env) : Nat := (e.int32 a e.lead).toNat
    let k (e : Env) : Nat := (e.int32 n e.lead).toNat
    let o64 (e : Env) : Nat := (e.int .w64 a e.lead).toNat
    let len (e : Env) : Nat := k e * 2 ^ 21
    Does (.brmk g bd base extent baseHi stride rights sw) (fun e _ => e.active ∧ recMalformed (made e) = false)
        (fun e b => e.goesOn (updCrew b e.cid (fun cr => { cr with recs := setAt cr.recs bd.toNat { bits := made e } })))
    ∧ Does (.brmk g bd base extent baseHi stride rights sw) (fun e _ => e.active ∧ recMalformed (made e) = true)
        (fun e _ => e.traps { code := 0x03 })
    ∧ Does (.fence g sm dm scope spadw)
        (fun e b => e.active ∧ (spadw = true → e.crew.engine = .core) ∧ e.fenceDone b scope sm)
        (fun e b =>
          let b := if dm.getLsbD 5 then dropLayouts b (layoutScope b e.crew scope) else b
          e.goesOn (if spadw then dropTileEntries b (unitOf b e.crew) else b))
    ∧ Does (.fence g sm dm scope spadw)
        (fun e b => e.active ∧ (spadw = true → e.crew.engine = .core)
          ∧ incomplete b e.crew (e.split.mark.getD b.nextId) sm = true)
        (fun e b => e.waits (.waitOperand (.fence (e.split.mark.getD b.nextId) sm))
            (fun x => { x with mark := some (e.split.mark.getD b.nextId) }))
    ∧ Does (.icsync g br a n)
        (fun e _ => e.active ∧ 0 < k e ∧ recMalformed (rec_ e) = false ∧ (recX (rec_ e) || recW (rec_ e)) = true
          ∧ o e + k e ≤ recSpan (rec_ e))
        (fun e b => e.goesOn { b with cores := b.cores.mapAll (fun _ c => { c with icache := c.icache.filter (fun l =>
          !(l.ctx == e.crew.ctx && decide ((recBase (rec_ e) + o e) / 128 ≤ l.vline)
            && decide (l.vline ≤ (recBase (rec_ e) + o e + k e - 1) / 128))) }) })
    ∧ Does (.pin g d br fade a n)
        (fun e _ => e.active ∧ fade ≠ 0 ∧ k e ≠ 0 ∧ recMalformed (rec_ e) = false ∧ recR (rec_ e) = true
          ∧ o64 e + len e ≤ recSpan (rec_ e) ∧ (recBase (rec_ e) + o64 e) % 2 ^ 21 = 0)
        (fun e b => e.goesOn (e.awaits b (.l d .w32)
          { e.access (.pin (recBase (rec_ e) + o64 e) (len e) fade.toNat) 0 (rec_ e)
              (e.lanes.map (fun l => { lane := l, va := recBase (rec_ e) + o64 e })) 0 with
            lines := (List.range (len e / 8192)).map (fun i => { vline := (recBase (rec_ e) + o64 e) / 128 + 64 * i }) }))
    ∧ Does (.unpin g a) (fun e _ => e.active)
        (fun e b => e.goesOn (dropWindow b e.crew.ctx (o e)))
    ∧ ∀ (s : State) (ctx h : Nat),
      dropWindow s ctx h = { s with ctxs := (dropWindow s ctx h).ctxs, dramStacks := (dropWindow s ctx h).dramStacks }
      ∧ ((dropWindow s ctx h).ctxs.find ctx).bind (fun c => c.windows.find h) = none
      ∧ ∀ x, x ≠ ctx → (dropWindow s ctx h).ctxs.find x = s.ctxs.find x

/-- R490, R491: IDIV's quotient or remainder is due in each active lane; a divisor of 0 without Z takes
ILLEGAL_OPERAND. The quotient is truncated and the remainder takes the rest; the quotient 2^(W-1) wraps, or with
SAT is 2^(W-1) - 1; division by 0 gives all ones and the dividend, and DZ. -/
def Obligations.Division : Prop :=
  (∀ (g : Guard) (d : Dest) (ty : IntTy) (sat z rem : Bool) (a b : Src),
    let num (e : Env) (x : Src) (l : Nat) : Int := readInt ty (e.int ty.operand x l)
    let r (e : Env) (l : Nat) : Res := divide ty sat rem (num e a l) (num e b l)
    Does (.idiv g d ty sat z rem a b) (fun e _ => e.active ∧ (z = true ∨ ∀ l ∈ e.lanes, num e b l ≠ 0))
        (fun e s => e.goesOn (e.awaits s (.l d ty.operand) (e.known .value
          (e.lanes.map (fun l => (l, (r e l).bits.setWidth 128))) (e.lanes.foldl (fun f l => f ||| (r e l).flags) 0))))
    ∧ Does (.idiv g d ty sat z rem a b) (fun e _ => z = false ∧ ∃ l ∈ e.lanes, num e b l = 0)
        (fun e _ => e.traps { code := 0x03 }))
  ∧ ∀ (ty : IntTy) (sat : Bool) (a b : Int), intMin ty ≤ a → a ≤ intMax ty → intMin ty ≤ b → b ≤ intMax ty →
    let q : Res := divide ty sat false a b
    let m : Res := divide ty sat true a b
    (b ≠ 0 → a.tdiv b ≤ intMax ty →
      readInt ty q.bits = a.tdiv b ∧ readInt ty m.bits = a - a.tdiv b * b ∧ q.flags = 0 ∧ m.flags = 0)
    ∧ (b ≠ 0 → intMax ty < a.tdiv b →
        readInt ty q.bits = (if sat then intMax ty else intMin ty) ∧ readInt ty m.bits = 0
        ∧ q.flags = (if sat then Flags.sat else 0) ∧ m.flags = 0)
    ∧ (b = 0 → q.bits.toNat % 2 ^ intWidth ty = 2 ^ intWidth ty - 1 ∧ readInt ty m.bits = a ∧ q.flags = Flags.dz
        ∧ m.flags = Flags.dz)

/-- R195, R197, R201, R174, R412 to R416, R440, R534 to R536: ATOM, ATOMO and REDS whose offsets pass the checks, and
COMBINE, put their request in flight to the synchronisation engines, after its fence where it has a scope; it holds its
split's later accesses then. In a repeatable context an ATOM's split waits for its race check, whatever its record (R357).
REDS and COMBINE enter the crew's store queue, and wait while it is full. -/
def Obligations.Atomics : Prop :=
  ∀ (g : Guard) (d : Dest) (op : AtomOp) (rop : RedsOp) (ty : AtomTy) (br : BitVec 4) (off : BitVec 11)
    (scope : Option Scope) (a x y : Src) (grp : BitVec 12),
    let rec_ (e : Env) : BitVec 128 := (e.crew.record br.toNat).bits
    let o (e : Env) (n l : Nat) : Int := ((e.int32 a l).toNat : Int) * recStride (rec_ e) + off.toInt * n
    let va (e : Env) (n l : Nat) : Nat := recAddr (rec_ e) (o e n l).toNat
    let rws : Need := { r := true, w := true, s := true }
    let fenced (e : Env) (b : State) : Prop := ∀ sc, scope = some sc → e.fenceDone b sc 0xFF
    let sent (e : Env) (b : State) (du : DestUse) (kind : AccKind) (qs : List LaneReq) (tracked acq : Bool) : State :=
      e.goesTracked tracked (e.awaits b du { e.access kind 3 (rec_ e) qs 0 with lines := syncLines qs })
        (fun sp => if acq then { sp with acq := b.nextId :: sp.acq } else sp)
    let room (e : Env) : Prop := e.active ∧ e.crew.storeQ.length < 32
    let queued (e : Env) (b : State) (a : Access) : State :=
      e.goesOn (updCrew (e.awaits b .none a) e.cid (fun cr => { cr with storeQ := cr.storeQ ++ [b.nextId] }))
    Does (.atom g d op ty br off scope a x y)
      (fun e b => e.active ∧ fenced e b ∧ e.reaches (rec_ e) rws (atomBytes ty) (atomBytes ty) (o e (atomBytes ty)))
      (fun e b => sent e b (.l d ty.operand) (.atom op ty) (e.lanes.map (fun l =>
        { lane := l, va := va e (atomBytes ty) l, data := leBytes (atomBytes ty) (e.atomInt ty x l), aux := e.atomInt ty y l }))
        true scope.isSome)
    ∧ Does (.atomo g d op ty br off scope a x y) (fun e b => e.active ∧ fenced e b ∧ e.reaches (rec_ e) rws 8 8 (o e 8))
      (fun e b => sent e b (.l d .w64) (.atomo op ty) (e.lanes.map (fun l =>
        { lane := l, va := va e 8 l, data := leBytes 4 (e.atomInt ty x l), aux := (e.int32 y l).toNat })) false scope.isSome)
    ∧ Does (.reds g rop ty br off a x y)
      (fun e _ => room e ∧ e.reaches (rec_ e) { w := true, s := true } (atomBytes ty) (atomBytes ty) (o e (atomBytes ty)))
      (fun e b =>
        let qs : List LaneReq := e.lanes.map (fun l =>
          { lane := l, va := va e (atomBytes ty) l, data := leBytes (atomBytes ty) (e.atomInt ty x l)
            aux := (e.int32 y l).toNat % 4096, aux2 := (e.int32 y l).toNat / 4096 % 256 })
        queued e b { e.access (.reds rop ty) 3 (rec_ e) qs 0 with lines := syncLines qs })
    ∧ Does (.combine g grp) (fun e _ => room e)
      (fun e b => queued e b { e.access (.combine grp.toNat) 3 0 [] 0 with
        lines := (List.range 64).map (fun i => { vline := i }), xlated := true })
    ∧ Does (.combine g grp) (fun e _ => e.active ∧ 32 ≤ e.crew.storeQ.length)
      (fun e _ => e.waits (.waitOperand .storeRoom) id)

/-- R206 to R209, R499 to R504, R183: an LLOCK sends its request and waits for its status; of a line that its crew holds
the status is HELD at once. An LUNLOCK whose fence is done releases the lock; of a line that its crew does not hold it
traps. -/
def Obligations.Locks : Prop :=
  ∀ (g : Guard) (d : Dest) (br : BitVec 4) (off : BitVec 11) (off10 : BitVec 10) (limit : W32) (a : Src) (hl : HeldLock),
    let rec_ (e : Env) : BitVec 128 := (e.crew.record br.toNat).bits
    let o (e : Env) (disp : Int) : Int := ((e.int32 a e.lead).toNat : Int) * recStride (rec_ e) + disp
    let va (e : Env) (disp : Int) : Nat := recAddr (rec_ e) (o e disp).toNat
    let ok (e : Env) (disp : Int) : Prop := e.active ∧ recMalformed (rec_ e) = false ∧ recS (rec_ e) = true
      ∧ 0 ≤ o e disp ∧ o e disp + 1 ≤ recSpan (rec_ e)
    let qs (e : Env) : List LaneReq := e.lanes.map (fun l => { lane := l, va := va e off.toInt })
    let access (e : Env) : Access := { e.access (.lock limit.toNat) 3 (rec_ e) (qs e) 0 with lines := syncLines (qs e) }
    let waits (e : Env) (b : State) (acc : Access) : State :=
      e.moves (keepUndo e.s (e.awaits b (.l d .w32) acc) e.cid) e.after (fun sp => { sp with state := .waitLock b.nextId })
    let mine (e : Env) (disp : Int) : Prop := ∃ h ∈ e.crew.locks, h.vline = va e disp / 128
    Does (.llock g d br off limit a)
      (fun e b => ok e off.toInt ∧ ¬ mine e off.toInt ∧ e.crew.locks.length + lockRequests e.s e.cid < 4
        ∧ noGrantLeft e.s e.crew.ctx (va e off.toInt / 128) = false
        ∧ ∀ pa, peek b (some (unitOf b e.crew)) (Config.dieOfUnit (unitOf b e.crew)) e.crew.ctx (va e off.toInt) = some pa →
            waiterRoom b e.crew.ctx pa = true)
      (fun e b => waits e b (access e))
    ∧ Does (.llock g d br off limit a) (fun e _ => ok e off.toInt ∧ mine e off.toInt)
      (fun e b => waits e b { access e with
        ready := true, xlated := true, lines := [], result := e.lanes.map (fun l => (l, 3)) })
    ∧ Does (.llock g d br off limit a)
      (fun e _ => ok e off.toInt ∧ ¬ mine e off.toInt ∧ 4 ≤ e.crew.locks.length + lockRequests e.s e.cid)
      (fun e _ => e.traps (reportVA 0x12 (va e off.toInt)))
    ∧ Does (.lunlock g br off10 a)
      (fun e b => ok e off10.toInt ∧ e.crew.locks.find? (fun h => h.vline == va e off10.toInt / 128) = some hl
        ∧ e.fenceDone b .pkg 0xFF ∧ isClosed b (hl.pline * 128) = false)
      (fun e b => e.goesOn (releaseLock (updSplit b e.cid e.sid (fun sp =>
        { sp with mark := some (e.split.mark.getD b.nextId) })) e.cid hl.pline))
    ∧ Does (.lunlock g br off10 a) (fun e _ => ok e off10.toInt ∧ ¬ mine e off10.toInt)
      (fun e _ => e.traps { code := 0x03 })

/-- R221, R505, R506, R510 to R516, R521: a matrix command whose operands are legal joins the end of its stream's queue
with the next command sequence number, its operands read at issue, and an idle stream becomes ACTIVE; nothing else of the
stream, and no other stream, changes. -/
def Obligations.MatrixCommands : Prop :=
  ∀ (g : Guard) (a x y : Src) (ha hb : BitVec 12) (km1 : BitVec 20) (lastA lastB off : Bool) (rnd : Rnd) (epi : Epi)
    (merge clr notile keyed : Bool) (ch : Cohort) (slot : Nat) (st : Stream),
    let key : Nat := ch.core / 4 * 8 + slot
    let n (e : Env) (v : Src) : Nat := (e.int32 v e.lead).toNat
    let w (e : Env) (v : Src) : W64 := e.int .w64 v e.lead
    let room (e : Env) : Prop := e.active ∧ e.s.cohorts.find e.crew.cohort = some ch ∧ ch.slot = some slot
      ∧ e.s.streams.find key = some st ∧ st.cmds.length < 16
    let joins (c : Env → MCmd) (e : Env) (b : State) : State := e.goesOn { b with
      nextId := b.nextId + 1
      streams := b.streams.change key (fun x => { x with
        cmds := x.cmds ++ [{ seq := x.lastSeq + 1, cmd := c e, id := b.nextId }]
        lastSeq := x.lastSeq + 1
        last := !(c e).isDrain
        run := if x.run = .idle then .active else x.run }) }
    let illegal (e : Env) (_ : State) : State := e.traps { code := 0x03 }
    let misaligned (e : Env) (_ : State) : State := e.traps { code := 0x07, addr := w e a }
    Does (.mma g a x y ha hb km1 lastA lastB) (fun e _ => room e)
        (joins (fun e => .mma (n e a) (n e x) (n e y) ha.toNat hb.toNat (km1.toNat + 1) lastA lastB false))
    ∧ Does (.mmas g a x y ha hb km1 lastA lastB) (fun e _ => room e ∧ n e y % 64 = 0)
        (joins (fun e => .mma (n e a) (n e x) (n e y) ha.toNat hb.toNat (km1.toNat + 1) lastA lastB true))
    ∧ Does (.mmas g a x y ha hb km1 lastA lastB) (fun e _ => e.active ∧ n e y % 64 ≠ 0) illegal
    ∧ Does (.mgrp g a x y ha km1 lastA) (fun e _ => room e ∧ 1 ≤ n e y ∧ n e y ≤ 64 ∧ (w e a).toNat % 16 = 0)
        (joins (fun e => .mgrp (w e a).toNat (n e x) (n e y) ha.toNat (km1.toNat + 1) lastA))
    ∧ Does (.mgrp g a x y ha km1 lastA) (fun e _ => e.active ∧ (n e y < 1 ∨ 64 < n e y)) illegal
    ∧ Does (.mgrp g a x y ha km1 lastA)
        (fun e _ => e.active ∧ 1 ≤ n e y ∧ n e y ≤ 64 ∧ (w e a).toNat % 16 ≠ 0) misaligned
    ∧ Does (.mzero g) (fun e _ => room e) (joins (fun _ => .mzero))
    ∧ Does (.mdrain g a x y rnd epi merge clr notile keyed ha)
        (fun e _ => room e ∧ (epi ≠ .none → (w e a).toNat % 8 = 0))
        (joins (fun e => .mdrain (w e a).toNat (w e x) (lo32 (w e y)) (hi32 (w e y)) rnd epi merge clr notile keyed ha.toNat))
    ∧ Does (.mdrain g a x y rnd epi merge clr notile keyed ha)
        (fun e _ => e.active ∧ epi ≠ .none ∧ (w e a).toNat % 8 ≠ 0) misaligned
    ∧ Does (.mmask g a off) (fun e _ => room e ∧ (off = false → (w e a).toNat % 64 = 0))
        (joins (fun e => .mmask (w e a).toNat off))
    ∧ Does (.mmask g a off) (fun e _ => e.active ∧ off = false ∧ (w e a).toNat % 64 ≠ 0) misaligned

/-- R233 to R235, R519, R520, R559 to R562: MWAIT of an empty queue answers the sequence number of the last command done;
TILEPOST gives a handle's tile its next generation; TILEWAIT answers the generation of a consumed tile, which it frees,
all ones where the handle has no tile posted, and 256 more than the generation of a drained tile. The register is full
when they complete. -/
def Obligations.TileHandshake : Prop :=
  ∀ (g : Guard) (d : BitVec 6) (h : BitVec 12) (ch : Cohort) (slot i : Nat) (st : Stream) (r : Resv),
    let key : Nat := ch.core / 4 * 8 + slot
    let here (e : Env) : Prop := e.active ∧ e.s.cohorts.find e.crew.cohort = some ch ∧ ch.slot = some slot
      ∧ e.s.streams.find key = some st
    let writes (v : W32) (e : Env) (b : State) : State :=
      e.goesOn (updCrew b e.cid (fun cr => cr.writeReg d.toNat (e.lanes.map (fun l => (l, v)))))
    let freed (b : State) (k : Nat) : State := updCluster b (key / 8) (fun c => { c with resv := c.resv.del k })
    let gen : Nat := (SMap.getD st.gens h.toNat 0 + 1) % 256
    Does (.mwait g (.named d)) (fun e _ => here e ∧ st.stop = none ∧ st.cmds = []) (writes st.doneSeq)
    ∧ Does (.tilepost g h) (fun e _ => here e ∧ postSlot e.s key h.toNat = some i)
        (fun e b => e.goesOn (updCluster (updStream b key (fun x => { x with gens := x.gens.put h.toNat gen })) (key / 8)
          (fun c => { c with
            resv := c.resv.put i { drain := false, second := false, gen := gen, handle := h.toNat }
            opTiles := (key % 8, h.toNat, gen, ch.tile)
              :: c.opTiles.filter (fun t => !(t.1 == key % 8 && t.2.1 == h.toNat)) })))
    ∧ Does (.tilewait g (.named d) h false) (fun e _ => here e ∧ postEntry e.s key h.toNat = none) (writes 0xFFFFFFFF)
    ∧ Does (.tilewait g (.named d) h false) (fun e _ => here e ∧ postEntry e.s key h.toNat = some (i, r) ∧ r.second = true)
        (fun e b => writes (BitVec.ofNat 32 r.gen) e (wakeCohort (freed b i) e.crew.cohort))
    ∧ Does (.tilewait g (.named d) h true)
        (fun e _ => here e ∧ (e.resv key).find (key % 8 * 4 + 3) = some r ∧ r.handle = h.toNat ∧ r.second = true)
        (fun e b => writes (BitVec.ofNat 32 (0x100 + r.gen)) e
          (retireTask (ackTw (freed b (key % 8 * 4 + 3)) e.cid 2 r.tw) e.cid key ch))
    ∧ Does (.tilepost g h) (fun e _ => e.stream = none) (fun e _ => e.traps { code := 0x03 })

/-- R248, R260, R570 to R579: a well command whose operands are legal, for a well of the crew's context whose queue has
room, joins the end of that queue with its operands read at issue, and the counter it names has one more to count. One
for a well above 511 takes ILLEGAL_OPERAND, one for a well of another context ACCESS. WSTAT answers the status word and
clears its sticky bits; WKEY.DRAW sets the crew's draw key and starts its draw index. -/
def Obligations.WellCommands : Prop :=
  ∀ (g : Guard) (d : Dest) (a x y : Src) (kind : WloadKind) (rk : WreadKind) (tile : Bool) (cnt : WellCount)
    (br : BitVec 4) (xs ncls : BitVec 3) (count : BitVec 18) (sx : SweepExt) (imm : Option W64) (stale : BitVec 4),
    let n (e : Env) (v : Src) : Nat := (e.int32 v e.lead).toNat
    let mine (e : Env) : Prop := e.active ∧ n e a ≤ 511 ∧ (wellOf e.s (n e a)).owner = some e.crew.ctx
    let room (e : Env) : Prop := mine e ∧ (wellOf e.s (n e a)).queue.length < 8
    let joins (kc : Option Nat) (body : Env → WellBody) (e : Env) (b : State) : State :=
      e.goesOn (updCrew (updWell { b with nextId := b.nextId + 1 } (n e a) (fun w =>
        { w with queue := w.queue ++
          [{ id := b.nextId, crew := e.cid, lanes := e.split.mask, kc := kc, body := body e, core := unitOf e.s e.crew
             who := crewIdent b e.cid
             node := ((b.cohorts.find e.crew.cohort).map (fun c => (c.queue, c.cseq))).getD (0, 0) }] }))
        e.cid (fun cr => match kc with
          | some k => { cr with pendCnt := changeAt cr.pendCnt k (· + 1) }
          | none => cr))
    let counter : Option Nat := if cnt.ce then some cnt.kc.toNat else none
    let key (e : Env) (v : Src) : W64 := imm.getD (e.int .w64 v e.lead)
    let classes (e : Env) : List Nat := (List.range (ncls.toNat + 1)).map (fun i => n e y / 2 ^ (3 * i) % 8)
    let cells (e : Env) (v : Src) (lim : Nat) : Prop := ∀ l ∈ e.lanes, (e.int32 v l).toNat < lim
    let stray (i : Instr) : Prop :=
      Does i (fun e _ => e.active ∧ 511 < n e a) (fun e _ => e.traps { code := 0x03 })
    let foreign (i : Instr) : Prop :=
      Does i (fun e _ => e.active ∧ n e a ≤ 511 ∧ (wellOf e.s (n e a)).owner ≠ some e.crew.ctx)
        (fun e _ => e.traps { code := 0x09, addr := BitVec.ofNat 64 (n e a) })
    Does (.wload g a x y kind tile cnt br xs count)
        (fun e _ => room e ∧ count ≠ 0 ∧ n e y + count.toNat ≤ loadLimit kind
          ∧ e.wellSource tile br xs (n e x) (count.toNat * loadSize kind) (loadSize kind) = none)
        (joins counter (fun e => .load kind (e.source tile br xs (n e x)) (n e y) count.toNat 0))
    ∧ Does (.wbias g a x y cnt) (fun e _ => room e ∧ cells e x 4096)
        (joins counter (fun e => .bias (e.lanes.map (fun l => ((e.int32 x l).toNat, (e.int32 y l).setWidth 16)))))
    ∧ Does (.wclamp g a x y cnt) (fun e _ => room e ∧ cells e x 4096)
        (joins counter (fun e => .clamp (e.lanes.map (fun l =>
          ((e.int32 x l).toNat, (e.int32 y l).getLsbD 1, (e.int32 y l).getLsbD 0)))))
    ∧ Does (.wsweep g a x y ncls cnt sx)
        (fun e _ => room e ∧ (classes e).Nodup
          ∧ (sx.str = true → e.wellSource sx.ssp sx.br sx.xs (n e x) (64 + 8 * sx.len.toNat) 8 = none))
        (joins counter (fun e => .sweep sx.beta sx.sweeps.toNat (classes e) sx.phys
          (if sx.str then some (e.source sx.ssp sx.br sx.xs (n e x), sx.len.toNat) else none)))
    ∧ Does (.wkey g a x imm cnt) (fun e _ => room e) (joins counter (fun e => .key (key e x)))
    ∧ Does (.wkeyPhys g a cnt) (fun e _ => room e) (joins counter (fun _ => .phys))
    ∧ Does (.wlink g a x y cnt stale)
        (fun e _ => room e ∧ cells e x 4096 ∧ ∀ l ∈ e.lanes, (e.int32 y l).extractLsb' 21 10 = 0
          ∧ (slotValid (e.int32 y l) = true → (wellOf e.s (slotWell (e.int32 y l))).owner = some e.crew.ctx))
        (joins counter (fun e => .link (e.lanes.map (fun l => ((e.int32 x l).toNat, e.int32 y l))) stale.toNat))
    ∧ Does (.wread g d a x rk) (fun e _ => room e ∧ cells e x (readLimit rk))
        (fun e b => joins none (fun e => .read rk (e.lanes.map (fun l => (l, (e.int32 x l).toNat))) b.nextId) e
          (e.awaits b (.l d (readWidth rk)) { e.access (.wread (n e a)) 0 0 (e.lanes.map (fun l => { lane := l, va := 0 })) 0
            with lines := [], xlated := true }))
    ∧ Does (.wstat g d a) (fun e _ => mine e)
        (fun e b => e.goesOn (e.awaits (updWell b (n e a) (fun w =>
            { w with pnan := false, isat := false, cerr := false, linkerr := false })) (.l d .w32)
          (e.known .value (e.lanes.map (fun l => (l, (wellStatus e.s (n e a)).setWidth 128))) 0)))
    ∧ Does (.wkeyDraw g x imm) (fun e _ => e.active)
        (fun e b => e.goesOn (updCrew b e.cid (fun cr => { cr with drawKey := key e x, drawIdx := 0 })))
    ∧ stray (.wload g a x y kind tile cnt br xs count) ∧ stray (.wbias g a x y cnt) ∧ stray (.wclamp g a x y cnt)
    ∧ stray (.wsweep g a x y ncls cnt sx) ∧ stray (.wkey g a x imm cnt) ∧ stray (.wkeyPhys g a cnt)
    ∧ stray (.wlink g a x y cnt stale) ∧ stray (.wread g d a x rk) ∧ stray (.wstat g d a)
    ∧ foreign (.wkey g a x imm cnt) ∧ foreign (.wkeyPhys g a cnt) ∧ foreign (.wstat g d a)

/-- R259, R260, R575: WNOISE answers one word for each active lane, and the draw index advances by 1. The word of a keyed
draw is word 0 of the keyed stream at the lane, the draw index, the crew's index and 1; a physical one is a free value
(log entry 2). -/
def Obligations.NoiseWords : Prop :=
  (∀ (g : Guard) (d : Dest) (keyed : Bool),
    Does (.wnoise g d keyed) (fun e _ => e.active) (fun e b =>
      e.goesOn (e.awaits (updCrew { b with fresh := b.fresh + e.lanes.length } e.cid
          (fun cr => { cr with drawIdx := cr.drawIdx + 1 })) (.l d .w32)
        (e.known .noise (e.lanes.zipIdx.map (fun p => (p.1, (noiseWord e.s e.crew keyed p.2 p.1).setWidth 128))) 0))))
  ∧ (∀ (s : State) (cr : Crew) (n l : Nat),
    noiseWord s cr true n l
      = BitVec.ofNat 32 (philox cr.drawKey (BitVec.ofNat 32 l) cr.drawIdx (drawCrew s cr) 1).c0)
  ∧ ∀ (p : Philox),
    p.round = { c0 := (0xCD9E8D57 * p.c2 / 2 ^ 32) ^^^ p.c1 ^^^ p.k0, c1 := 0xCD9E8D57 * p.c2 % 2 ^ 32
                c2 := (0xD2511F53 * p.c0 / 2 ^ 32) ^^^ p.c3 ^^^ p.k1, c3 := 0xD2511F53 * p.c0 % 2 ^ 32
                k0 := (p.k0 + 0x9E3779B9) % 2 ^ 32, k1 := (p.k1 + 0xBB67AE85) % 2 ^ 32 }

/-- R417 to R420, R482, R540 to R542, R557, R563, R357, R360: BALLOT of a crew with a sibling posts its request, and traps
without one; RINGPUT sends an 8-byte entry for each lane, and in a repeatable context its write of PROD is checked at
issue, or is owed its check while PROD's page is absent; STAMP posts its record to the queue's ring; both enter the crew's store
queue, and wait while it is full; TRACE gives its record to
the queue's session; GSIG, once its fence is done, wakes the queue's WAIT node, and traps for a queue of another
context. -/
def Obligations.RingsAndRecords : Prop :=
  ∀ (g : Guard) (d : Dest) (hash : Option Src) (sq pos token a : Src) (rh : BitVec 6) (ch : Cohort) (b' : State) (x : Nat),
    let va (e : Env) : Nat := ((e.s.ctxs.find e.crew.ctx).map (·.gtBase)).getD 0 + 4096 * (e.crew.sib.toNat / 64)
    let qs (e : Env) : List LaneReq := e.lanes.map (fun l => { lane := l, va := va e })
    let puts (e : Env) : List LaneReq := e.lanes.map (fun l =>
      { lane := l, va := 0
        data := leBytes 8 ((e.int32 sq l).toNat % 2 ^ 24 * 2 ^ 40 + (e.int32 pos l).toNat % 2 ^ 16 * 2 ^ 24
          + (e.int32 token l).toNat % 2 ^ 24) })
    let cb (e : Env) : Option Nat := if repeatable e.s e.crew.ctx then
        ((e.s.ctxs.find e.crew.ctx).bind (fun c => c.rings.find rh.toNat)).map (·.ring.cb)
      else none
    let prod (e : Env) (b : State) : Option (Nat × Nat) := (cb e).bind (fun va =>
      (peek b (some (unitOf b e.crew)) (Config.dieOfUnit (unitOf b e.crew)) e.crew.ctx va).map (fun pa => (pa, va)))
    let v (e : Env) : W32 := e.int32 a e.lead
    let here (e : Env) : Prop := e.active ∧ e.s.cohorts.find e.crew.cohort = some ch
    let names (e : Env) : Nat := if v e = 0xFFFFFFFF then ch.queue else (v e).toNat
    let queued (e : Env) (b : State) (id : Nat) : State := updCrew b e.cid (fun cr => { cr with storeQ := cr.storeQ ++ [id] })
    let stamp (e : Env) : BitVec 512 := record512 [(448, crewDT e.s e.crew), (416, (v e).toNat),
      (160, ch.cseq.toNat), (148, ch.queue % 4096), (136, ch.ctx), (132, 0), (120, unitOf e.s e.crew),
      (104, Nat.min (currentTask e.s ch) 65535), (72, ch.index % 4294967296), (0, 2)]
    Does (.ballot g d hash)
        (fun e _ => e.active ∧ e.crew.sib ≠ BitVec.allOnes 32 ∧ replaying e.s e.crew.ctx = false)
        (fun e b => e.goesOn (e.awaits b (.l d .w32)
          { e.access (.ballot (hash.map (fun x => e.int .w64 x e.lead))) 3 0 (qs e) 0 with lines := syncLines (qs e) }))
    ∧ Does (.ballot g d hash) (fun e _ => e.active ∧ e.crew.sib = BitVec.allOnes 32)
        (fun e _ => e.traps { code := 0x03 })
    ∧ Does (.ringput g sq pos token rh)
        (fun e b => e.active ∧ e.crew.storeQ.length < 32
          ∧ match prod e b with
          | none => b' = b
          | some p => raceAccess b e.crew.ctx (crewIdent b e.cid) false true [p] = .ok b')
        (fun e b => e.goesOn (queued e (e.awaits b' .none { e.access (.ring rh.toNat) 3 0 (puts e) 0 with
          lines := [], xlated := true, rep := (cb e).isSome && (prod e b).isNone }) b'.nextId))
    ∧ Does (.ringput g sq pos token rh)
        (fun e b => e.active ∧ ∃ p va, prod e b = some p ∧ raceAccess b e.crew.ctx (crewIdent b e.cid) false true [p] = .error va
          ∧ x = va)
        (fun e _ => e.traps (reportVA 0x0A x))
    ∧ Does (.stamp g a) (fun e _ => here e ∧ e.crew.storeQ.length < 32 ∧ (e.s.queues.find ch.queue).bind (·.stamp) ≠ none)
        (fun e b => e.goesOn (queued e { b with
          nextId := b.nextId + 1
          accs := b.accs.put b.nextId { id := b.nextId, crew := e.cid, lanesM := 0, kind := .stamp ch.queue (stamp e), path := 3
                                        lanes := [{ lane := 0, va := 0 }], dtIssue := b.dt
                                        ctx := ctxOf b e.cid, who := crewIdent b e.cid } } b.nextId))
    ∧ Does (.stamp g a) (fun e _ => here e ∧ e.crew.storeQ.length < 32 ∧ (e.s.queues.find ch.queue).bind (·.stamp) = none)
        (fun e b => e.goesOn b)
    ∧ Does (.stamp g a) (fun e _ => here e ∧ 32 ≤ e.crew.storeQ.length) (fun e _ => e.waits (.waitOperand .storeRoom) id)
    ∧ Does (.trace g a) (fun e _ => here e)
        (fun e b => e.goesOn (sessionTake b ch.queue ch.cseq (record256 [(192, crewDT e.s e.crew),
          (128, (e.int .w64 a e.lead).toNat), (116, ch.queue % 4096), (84, ch.cseq.toNat),
          (80, engineKind e.crew.engine), (68, engineId e.s e.crew), (0, 1)])))
    ∧ Does (.gsig g a)
        (fun e b => here e ∧ (v e = 0xFFFFFFFF ∨ ∃ q, e.s.queues.find (v e).toNat = some q ∧ q.ctx = e.crew.ctx)
          ∧ e.fenceDone b .sys 0xFF)
        (fun e b => e.goesOn (wakeWait b (names e)))
    ∧ Does (.gsig g a)
        (fun e _ => e.active ∧ v e ≠ 0xFFFFFFFF ∧ ∀ q, e.s.queues.find (v e).toNat = some q → q.ctx ≠ e.crew.ctx)
        (fun e _ => e.traps { code := 0x09, addr := BitVec.ofNat 64 (v e).toNat })

/-- R302, R548 to R550: SIBCHK of a crew without a sibling answers 0; one whose sibling was cancelled at least 64 ticks
ago traps CANCELLED in its trapping form, and ends its crew in the other. -/
def Obligations.SiblingChecks : Prop :=
  ∀ (g : Guard) (d : Dest) (trp : Bool) (ctx : Context) (x : Sibling),
    let cancelled (e : Env) : Prop := e.crew.sib ≠ BitVec.allOnes 32 ∧ e.s.ctxs.find e.crew.ctx = some ctx
      ∧ ctx.sibs.find e.crew.sib.toNat = some x ∧ x.state = .cancelling ∧ e.crew.ignoreCancel = false
      ∧ x.ddt + 64 ≤ crewDT e.s e.crew
    Does (.sibchk g d trp) (fun e _ => e.crew.sib = BitVec.allOnes 32)
        (fun e b => e.goesOn (writeQ b e.cid e.sid d .w32 e.all (e.lanes.map (fun l => (l, 0)))))
    ∧ Does (.sibchk g d true) (fun e _ => cancelled e) (fun e _ => e.traps { code := 0x15 })
    ∧ Does (.sibchk g d false) (fun e _ => cancelled e) (fun e b => endCrew b e.cid .released)

/-- R446 to R449, R124: CSRR gives every active lane the CSR's value, and CSRW writes the leading lane's; what each
writable CSR of a crew or of the package takes, and that the others ignore a write. -/
def Obligations.ControlRegisters : Prop :=
  (∀ (g : Guard) (d : Dest) (n : BitVec 12) (w64 : Bool) (a : Src),
    let w : Width := if w64 then .w64 else .w32
    Does (.csrr g d n w64) (fun e _ => e.active)
        (fun e b =>
          let v := (readCsr e.s e.crew e.split n.toNat).1
          e.goesOn (addFlags (writeQ (readCsr b e.crew e.split n.toNat).2 e.cid e.sid d w e.all
            (e.lanes.map (fun l => (l, v)))) e.cid 0))
    ∧ Does (.csrw g n w64 a) (fun e _ => e.active)
        (fun e b => e.goesOn (writeCsr b e.cid e.sid n.toNat (lo32 (e.int w a e.lead)))))
  ∧ ∀ (s : State) (cid sid : Nat) (v : W32),
    writeCsr s cid sid 0x002 v = updCrew s cid (fun c => { c with fpflags := v.setWidth 7 })
    ∧ writeCsr s cid sid 0x003 v = updCrew s cid (fun c => { c with fpmode := v.setWidth 2 })
    ∧ (∀ n ∈ [0x000, 0x001, 0x004, 0x010, 0x011, 0x012, 0x030, 0x032, 0x033], writeCsr s cid sid n v = s)
    ∧ ∀ (cr : Crew) (sp : Split) (n : Nat), n ≠ 0x405 → (readCsr s cr sp n).2 = s

-- scheduling

/-- R36 to R38, R53 to R55: a slot of a pipe whose instruction has passes left takes the next of them; one with no candidate
is lost. Else R53's choice, of the candidates that the other pipe does not run, is the oldest of those passed over for 64
slots, where there is one, and else the oldest of those of the highest priority; it is taken unless that would keep
another beyond the bound of R55 which the one that has waited longest would keep, where that one is (log entry 57: the model's choice). What is
taken holds the pipe for its passes, and its splits issue next, in turn; no slot is taken while they have not. A packed group is two to four crews of one
launch at one block header. -/
def Obligations.IssueSelection : Prop :=
  (∀ (s : State) (core : Nat),
    let u : CoreUnit := coreUnit s core
    let even : Bool := u.slots % 2 == 0
    let mine : Pipe := if even then u.pipe0 else u.pipe1
    let taken : List (Nat × Nat) := if even then (if u.pipe1.left = 0 then [] else u.pipe1.members) else u.pipe0.members
    let after (p : Pipe) (packs : List (List Nat)) : State := updCore s core (fun u => { u with
      slots := u.slots + 1, packs := packs, pipe0 := if even then p else u.pipe0, pipe1 := if even then u.pipe1 else p })
    let packs : List (List Nat) := standingPacks s core
    let cs : List Cand := (candidatesOf s core).filter (fun c => c.members.all (fun m => !taken.contains m))
    let older (c x : Cand) : Prop := c.ord < x.ord ∨ (c.ord = x.ord ∧ c.age ≤ x.age)
    let policy (c : Cand) : Prop :=
      ((∃ x ∈ cs, 64 ≤ x.since) → 64 ≤ c.since ∧ ∀ x ∈ cs, 64 ≤ x.since → older c x)
      ∧ ((∀ x ∈ cs, x.since < 64) → ∀ x ∈ cs, x.prio ≤ c.prio ∧ (x.prio = c.prio → older c x))
    let crews (c : Cand) : List Nat := c.members.map (·.1)
    let left : Nat := u.pipe0.left + u.pipe1.left
    let kept (n : Nat) (long : Bool) (xs : List Cand) : Bool := inBound s (64 + (splitsOn s core - 1)) n long (bySince xs)
    (s.focus ≠ none → exec (.issueSelect core) s = .next s)
    ∧ (s.focus = none → 0 < mine.left → exec (.issueSelect core) s = .next (updCore
        (after { mine with left := mine.left - 1 } packs) core (fun u => { u with passAt := u.slots })))
    ∧ (s.focus = none → mine.left = 0 → cs = [] → exec (.issueSelect core) s = .next (after {} packs))
    ∧ (s.focus = none → mine.left = 0 → cs ≠ [] → ∃ p ∈ cs, policy p ∧ ∃ c ∈ cs,
        (if kept (left + p.passes s) (decide (0 < left) || decide (1 < p.passes s)) (cs.erase p) then c = p
          else if kept left (decide (0 < left)) cs then ∀ x ∈ cs, x.since ≤ c.since
          else c = p)
        ∧ exec (.issueSelect core) s = .next (chooseCand (after { members := c.members, left := c.passes s - 1 }
            (if (crews c).length < 2 ∨ crews c ∈ packs then packs else packs ++ [crews c])) core c)))
  ∧ (∀ (b : State) (core : Nat) (c : Cand) (m : Nat × Nat) (ms : List (Nat × Nat)), c.members = m :: ms →
    let t : State := chooseCand b core c
    t = { b with issues := b.issues + 1, crews := t.crews, focus := some { crew := m.1, split := m.2, more := ms } }
    ∧ (∀ k, k ∉ c.members.map (·.1) → t.crews.find k = b.crews.find k)
    ∧ ∀ k i cr sp, (k, i) ∈ c.members → b.crews.find k = some cr → cr.split i = some sp →
      ∃ cr' sp', t.crews.find k = some cr' ∧ cr' = { cr with splits := cr'.splits, issuedAt := b.issues + 1 }
        ∧ cr'.split i = some sp' ∧ sp' = { sp with lastSlot := (coreUnit b core).slots, issuedAt := b.issues + 1, prioUp := 0, readyClk := sp'.readyClk })
  ∧ ∀ (s : State) (core : Nat), ∀ g ∈ newPacks s core, 2 ≤ g.length ∧ g.length ≤ 4
    ∧ ∃ key, ∀ k ∈ g, ∃ cr, (k, cr) ∈ s.crews ∧ packKey s core cr = some key

/-- R54, R51, R52, R33, R42, R143, R144: a split that has waited rises a level; the next cohort of a launch is placed on
the core chosen for it; the first cohort of a core's launch queue starts with its crews, each with one split of all its
lanes at the entry header; the oldest request for tile store that fits is granted, and one that never can fails. -/
def Obligations.CohortScheduling : Prop :=
  (∀ (s : State) (cid sid : Nat) (cr : Crew) (sp : Split),
    s.crews.find cid = some cr → cr.split sid = some sp → sp.state = .ready →
    sp.readyClk + 1024 * (sp.prioUp + 1) ≤ crewClk s cr → crewPrio s cr + sp.prioUp < 3 →
    exec (.priorityAge cid sid) s = .next (updSplit s cid sid (fun x => { x with prioUp := x.prioUp + 1 })))
  ∧ (∀ (s : State) (lid u : Nat) (ln : Launch) (rest : SMap Launch), s.launches = (lid, ln) :: rest →
      pumpRuns s ln.ctx = true → ln.error = false → savedOf s lid = none → ln.again = [] → ln.fused = false →
      ln.cores = false → ln.next < ln.total → sumpFits s ln 1 = true → coreFor s ln ln.next ln.scratch = some u →
      (∀ x, s.ctxs.find ln.ctx = some x → x.mode = .off ∨ x.mode = .free) →
      ∃ t c, exec .cohortPlace s = .next t ∧ t.cohorts.find s.nextId = some c
        ∧ c.launch = lid ∧ c.index = ln.next ∧ c.core = u ∧ c.alloc = ln.scratch ∧ c.state = .queued
        ∧ t.launches.find lid = some { ln with next := ln.next + 1, live := ln.live + 1 } ∧ t.mem = s.mem)
  ∧ (∀ (s : State) (core k : Nat) (ks : List Nat) (c : Cohort) (ln : Launch), (coreUnit s core).launchQ = k :: ks →
      s.cohorts.find k = some c → pumpRuns s c.ctx = true → s.launches.find c.launch = some ln → crewsOf s k = [] →
      exec (.cohortStart core) s = .next (startCohort (updCore s core (fun x => { x with launchQ := ks })) k ln c))
  ∧ (∀ (s : State) (k i entry : Nat) (ln : Launch) (c : Cohort) (g : Engine), g ≠ .control →
      ∃ cr, (startCrew s k ln c i g entry).crews.find s.nextId = some cr ∧ cr.cohort = k ∧ cr.index = i ∧ cr.engine = g
        ∧ cr.state = .running ∧ cr.w0 = ln.widths.getD 0 3 ∧ cr.regs = [] ∧ cr.fpflags = 0 ∧ cr.locks = []
        ∧ ∃ sp, cr.splits = [sp] ∧ sp.place = .header entry .launch ∧ sp.state = .ready ∧ sp.queue = []
          ∧ ∀ l, sp.mask.getLsbD l = decide (l < 2 ^ cr.w0 ∧ l < 1024))
  ∧ (∀ (s : State) (core : Nat) (p : Spgrow) (rest : List Spgrow) (c : Cohort), pendingSpgrow s core = p :: rest →
      s.cohorts.find p.cohort = some c →
      (∀ x ∈ p :: rest, ((s.cohorts.find x.cohort).map (·.alloc)).getD 0 + x.n ≤ 262144) → p.n ≤ freeTile s core →
      exec (.spgrowGrant core) s = .next (spgrowAnswer (updCohort s p.cohort (fun c =>
        { c with alloc := c.alloc + p.n })) p (c.alloc + p.n)))
  ∧ ∀ (s : State) (core : Nat) (p : Spgrow) (rest : List Spgrow) (c : Cohort), pendingSpgrow s core = p :: rest →
      s.cohorts.find p.cohort = some c → 262144 < c.alloc + p.n →
      exec (.spgrowGrant core) s = .next (spgrowAnswer s p 0)

-- memory

/-- Log entry 5: a byte that is written reads back, and no other byte changes; memory stays in canonical form, in which
equal contents are equal lists. -/
def Obligations.MemoryBytes : Prop :=
  (∀ (m : Mem) (a : Nat) (bs : List Byte), Memory.wf m = true →
    Memory.wf (Memory.setN m a bs) = true
    ∧ Memory.getN (Memory.setN m a bs) a bs.length = bs
    ∧ ∀ k, k < a ∨ a + bs.length ≤ k → Memory.get (Memory.setN m a bs) k = Memory.get m k)
  ∧ ∀ m n : Mem, Memory.wf m = true → Memory.wf n = true → (∀ k, Memory.get m k = Memory.get n k) → m = n

/-- R169, R170: a store takes as its Tw the largest of home DT, its line's lease horizon and the Tw before it, and joins
the stores of its line that are pending; what home DT has reached becomes visible in order of arrival: its bytes replace
the line's, no other byte of memory changes, and its interrupt is raised where its condition then holds. -/
def Obligations.StoreOrder : Prop :=
  ∀ (s : State) (line src : Nat) (ws : List (Nat × Byte)),
    let h : Home := homeOf s line
    let seen (p : Pend) : Bool := decide (p.tw ≤ homeDT s line)
    let bytes (ps : List Pend) : List (Nat × Byte) := ps.flatMap (fun p => p.bytes.map (fun q => (line * 128 + q.1, q.2)))
    let tw : Nat := Nat.max (homeDT s line) (Nat.max (horizon s line) h.tprev)
    let ps : List Pend := h.pending.dropWhile seen ++ [{ tw := tw, src := src, bytes := ws }]
    exec (.storeLand line) s = .next (settle s line)
    ∧ (settle s line).mem = Memory.setAll s.mem (bytes (h.pending.takeWhile seen))
    ∧ homeOf (settle s line) line = { h with pending := h.pending.dropWhile seen }
    ∧ (settle s line).irqs
        = ((h.pending.takeWhile seen).foldl (fun t p => raiseNotice (landBytes t line p.bytes) p.vec) s).irqs
    ∧ (∀ (t : State) (n : Notice), (raiseNotice t (some n)).irqs = if n.when_.holds t then t.irqs ++ [n.vec] else t.irqs)
    ∧ (arriveStore s line src ws).2 = tw
    ∧ (homeOf (arriveStore s line src ws).1 line).tprev = tw
    ∧ (homeOf (arriveStore s line src ws).1 line).pending = ps.dropWhile seen
    ∧ (arriveStore s line src ws).1.mem = Memory.setAll s.mem (bytes (h.pending.takeWhile seen ++ ps.takeWhile seen))
    ∧ ((∀ p ∈ h.pending, ∀ q ∈ p.bytes, q.1 < 128) → (∀ q ∈ ws, q.1 < 128) → ∀ k, k / 128 ≠ line →
        Memory.get (arriveStore s line src ws).1.mem k = Memory.get s.mem k)

/-- R310, R317, R359, R360, R165, R174, R169, R73, R345, R316, R69, R72: what moves an access on: its lines are translated,
and one of a tracked access whose check finds a conflict is withdrawn; a load's line is served at its home, with those of
its other passes for that line, a queued store is sent and arrives, a result returns to its registers, an entry of the
operand log is walked again, and a register is evicted or filled. -/
def Obligations.AccessEvents : Prop :=
  ∀ (s s1 : State) (id i pa k reg : Nat) (a : Access) (cr : Crew) (l : LineReq) (c : Context) (row : Nat),
    let busy : Bool := logBlocks s id a l || stalePhase s l pa || isClosed s pa
    let held : Prop := s.accs.find id = some a ∧ s.crews.find a.crew = some cr
    let at_ : Prop := held ∧ a.lines[i]? = some l ∧ busy = false
    let allOver (u : State) : Bool := ((u.accs.find id).map (fun a => a.lines.all LineReq.isOver)).getD false
    let ls : List LineReq := (xlateLines s cr a a.lines).1
    let here : Prop := ∀ x ∈ ls, x.pa.isSome = true
    let walk : Prop := held ∧ a.xlated = false ∧ inLog s id a = false ∧ ∀ t, a.kind ≠ .pref t
    (walk → walkLines s cr a a.lines = .done → here → exec (.pageWalk id) s = .next (raceWalk (pinPerform (dropStored
        (updAcc (xlateLines s cr a a.lines).2 id (fun x => { x with lines := ls, xlated := !x.rep })) cr a ls) id) id))
    ∧ (∀ r, walk → walkLines s cr a a.lines = .report r → exec (.pageWalk id) s = .next (violate s id r))
    ∧ (s.accs.find id = some a → (a.rep = false → raceWalk s id = s)
      ∧ (a.rep = true → (∀ x ∈ a.lines, x.pa.isSome = true) →
        (∀ r, raceCheck s a = .error r → raceWalk s id = withdraw s id a r)
        ∧ ∀ t, raceCheck s a = .ok t → raceWalk s id = updAcc t id (fun x => { x with rep := false, xlated := true })))
    ∧ (at_ → l.st = .ready pa → a.xlated = true → a.kind.readsLines = true → (∀ t, a.kind ≠ .pref t) →
      (∀ x ∈ a.lines, x.st ≠ .sent pa) → (a.path = 0 → lineBehind s id a l AccKind.isLoad = false ∧ lineBehind s id a l AccKind.isStore = false
        ∧ ownPending s a.crew (lineOf pa) = false) → remoteOf pa = none →
      (∀ e, l1Hit s a cr pa = some e → exec (.lineRequestHome id i) s = .next (a.lines.zipIdx.foldl (fun s p =>
          if p.1.st == .ready pa then serve s id p.2 pa a cr p.1 e.bytes else s) (l1Fill s (l1Unit s cr pa) e)))
      ∧ (l1Hit s a cr pa = none → (inSync s (lineOf pa) || inL2 s (lineOf pa)) = true →
          exec (.lineRequestHome id i) s = .next (servePasses s id pa a cr)))
    ∧ (s.crews.find k = some cr → cr.state ≠ .saved → sendable s cr = some id →
      exec (.storeQueueSend k) s = .next (wakeCrew (updCrew (updAcc s id (fun x => if x.kind.isStore then { x with
          lines := x.lines.map (fun l => match l.st with
            | .ready pa => { l with st := .sent pa }
            | _ => l) } else x)) k (fun c => { c with storeQ := c.storeQ.filter (· != id) })) k))
    ∧ (at_ → sentPA cr id l = some pa → a.kind.isStore = true → lineBehind s id a l AccKind.isStore = false →
      remoteOf pa = none →
        let r := storeLine s (lineOf pa) (storeSrc a.crew a.path) (a.storeBytesOn pa)
        let u := a.lines.zipIdx.foldl (fun s p => if sentPA cr id p.1 == some pa then
            updLine (countCore s cr (p.1.vline * 128) 1) id p.2 (fun l => { l with st := .done pa })
          else s) (ackTw r.1 a.crew a.path r.2)
        exec (.storeArrive id i) s = .next (if allOver u then endAccess u id else u))
    ∧ (held → a.returns = true → waitCancels s a cr = (false, s1) →
      exec (.resultArrive id) s = .next (returnValues s1 id a.values))
    ∧ (∀ sz, s.accs.find id = some a → a.kind = .gather sz → exec (.gatherExpand id k) s =
      .next (a.lines.zipIdx.foldl (fun s p =>
        match p.1.st with
        | .sent pa =>
          if s.dramStacks.any (fun x => x.2.reqs.any (fun r => r.acc == some (id, p.2))) || (locate s pa).1 != k
            || isClosed s pa then s
          else (sendGranules s (some (id, p.2)) (gatherGranules a p.1 pa sz.bytes)).getD s
        | _ => s) s))
    ∧ (s.accs.find id = some a → a.lines[i]? = some l → l.pa = some pa → l.isOver = false → stalePhase s l pa = true →
      exec (.staleRequest id i) s = .next (updLine s id i (fun x =>
        { x with epoch := s.mig.epoch, phase := s.mig.phase, under := s.mig.setOf pa })))
    ∧ (∀ rest f, s.ctxs.find k = some c → c.pendFlt = id :: rest → ringBusy s c.fltRing = false →
      c.faults.find id = some f →
      exec (.pendingFaultPost k) s = .next (updCtx (ringPost s c.fltRing f.record) k (fun c =>
        { c with pendFlt := rest, sumpUsed := c.sumpUsed - 32
                 faults := c.faults.change id (fun f => { f with posted := true }) })))
    ∧ (∀ rest, s.crews.find k = some cr → cr.oplog = id :: rest → s.accs.find id = none →
      exec (.operandLogReplay k) s = .next (updCrew s k (fun c => { c with oplog := c.oplog.filter (· != id) })))
    ∧ (∀ rest, s.crews.find k = some cr → cr.oplog = id :: rest → s.accs.find id = some a →
      (cr.state = .running ∨ cr.state = .ended) → (∀ x ∈ a.lines, ∀ tag, x.st ≠ .faulted tag) → (∃ x ∈ a.lines, x.st = .new) →
      walkLines s cr a a.lines = .done → exec (.operandLogReplay k) s = .next (wakeCrew (raceWalk (pinPerform (updAcc
        (dropStored (xlateLines s cr a a.lines).2 cr a ls) id (fun x => { x with lines := ls })) id) id) k))
    ∧ (∀ rs v r, rowRequest s k = some (id, rs) → spillVictim s k id = some (v, r) →
      exec (.spillEvict k) s = .next (wakeRows (spillTo s v r) k))
    ∧ (s.crews.find k = some cr → cr.state = .running → cr.isSpilled reg = true →
      (slotFills s cr reg ≠ [] → exec (.registerFill k reg) s = .next ((slotFills s cr reg).foldl askFill s))
      ∧ (slotFills s cr reg = [] → slotFailed s cr reg = true → exec (.registerFill k reg) s = .next (killCrew s cr))
      ∧ (slotFills s cr reg = [] → slotFailed s cr reg = false →
        findRows (usedRows s (unitOf s cr)) (rowsOf cr.w0) = some row →
        exec (.registerFill k reg) s = .next (wakeFills (updCrew s k (fun c => c.fillReg reg row)) k)))

/-- R70, R72 to R74: a register that is evicted and filled again has the value it had in every live lane, and its other
lanes are dead as before; a result that arrives fills exactly the lanes of its destination that still wait for it: each
takes its value and is full; every other lane, of this register and of others, is as it was. -/
def Obligations.RegisterContents : Prop :=
  (∀ (cr : Crew) (r row : Nat), SMap.rising cr.regs = true → cr.w0 ≤ 10 →
    (∀ l, cr.cell r l ≠ none → l < 2 ^ cr.w0) →
    ∀ l, l < 1024 → ((cr.spillReg r).fillReg r row).cell r l =
      (cr.cell r l).map (fun c => { val := c.val, full := true, failed := c.failed }))
  ∧ ∀ (cr : Crew) (acc r0 n : Nat) (vals : List (Nat × BitVec 128 × Option Nat)),
    (vals.map (·.1)).Nodup → (∀ v ∈ vals, v.1 < 1024) →
    cr.fillDest acc r0 n vals = { cr with regs := (cr.fillDest acc r0 n vals).regs }
    ∧ (∀ k v c, k < n → v ∈ vals → cr.cell (r0 + k) v.1 = some c → c.pend = some acc →
        (cr.fillDest acc r0 n vals).cell (r0 + k) v.1
          = some { val := v.2.1.extractLsb' (32 * k) 32, full := true, failed := v.2.2 })
    ∧ ∀ r l, l < 1024 → ((cr.cell r l).bind (·.pend) ≠ some acc ∨ r < r0 ∨ r0 + n ≤ r ∨ l ∉ vals.map (·.1)) →
        (cr.fillDest acc r0 n vals).cell r l = cr.cell r l

-- synchronisation engines and copies

/-- R413: the new value of an element under each operation of an atomic access on integers: sums modulo the width, the
lesser and greater by the type's signedness, bit-wise functions, exchange, and compare-and-swap. -/
def Obligations.AtomicValues : Prop :=
  ∀ (ty : AtomTy) (old b c k : Nat), ty ≠ .f32 → old < 2 ^ (8 * atomBytes ty) → b < 2 ^ (8 * atomBytes ty) →
    let v (x : Nat) : Int := readInt (atomInt ty) (BitVec.ofNat 64 x)
    atomNew .add ty old b c = (old + b) % 2 ^ (8 * atomBytes ty)
    ∧ v (atomNew .min ty old b c) = min (v old) (v b) ∧ v (atomNew .max ty old b c) = max (v old) (v b)
    ∧ (atomNew .and ty old b c).testBit k = (old.testBit k && b.testBit k)
    ∧ (atomNew .or ty old b c).testBit k = (old.testBit k || b.testBit k)
    ∧ (atomNew .xor ty old b c).testBit k = (old.testBit k != b.testBit k)
    ∧ atomNew .exch ty old b c = b
    ∧ atomNew .cas ty old b c = (if old = c then b else old)
    ∧ (∀ op, atomNew op ty old b c < 2 ^ (8 * atomBytes ty) ∨ op = .fadd ∨ op = .fmin ∨ op = .fmax)
    ∧ ∀ op, atomWrites op old c = false ↔ op = .cas ∧ old ≠ c

/-- R182, R193, R195, R198 to R200, R202, R204, R206 to R208, R213, R215: what the slices perform: the lanes of an ATOM on
a line that its slice takes, at one instant; an ordered request at its turn, before it, or after it; a contribution to its
staging slot, of which a repeated or foreign one is discarded; a lock request, which joins its line's queue, is answered
DEADLOCK where its crew holds the line, or finds no room; waiters whose limit has passed leave with
TIMEOUT at the end of the tick, and so do the youngest of the wait cycles that the scan finds, with DEADLOCK. -/
def Obligations.SyncEvents : Prop :=
  ∀ (s s' : State) (id i pa lane : Nat) (a : Access) (cr : Crew) (l : LineReq) (q : LaneReq) (op : AtomOp) (ty : AtomTy)
    (rop : RedsOp) (st : Staging) (limit : Nat),
    let held : Prop := s.accs.find id = some a ∧ s.crews.find a.crew = some cr
    let free : Prop := remoteOf pa = none ∧ syncBlocked s id a l pa = false ∧ syncFill s id i pa l = .filled
    let lower (p : LaneReq → Bool) : Bool := a.lanes.any (fun x => decide (x.lane < lane) && a.laneOn x (lineOf pa) && !p x)
    let spent (s : State) (discard : Bool) : State := redsEnd (settleLanes (updLane s id lane (fun q =>
      { q with done := true, held := discard })) id) id
    (held → a.lines[i]? = some l → l.st = .ready pa → a.kind = .atom op ty → free → syncTake s (lineOf pa) = some s' →
      exec (.syncAccess id i) s
        = .next (settleLanes (countCore (atomPerform s' id pa a l op ty) cr (l.vline * 128) a.kind.acc) id))
    ∧ (remoteOf pa = none →
       let old := leNat (readNewest s pa (atomBytes ty))
       let answered (s : State) : State := updLane s id q.lane (fun q => { q with done := true, res := BitVec.ofNat 64 old })
       atomLane s id pa a op ty q
         = if op = .cas ∧ old ≠ q.aux then answered s
           else
             let r := arriveStore s (lineOf pa) 0
               (numbered (pa % 128) (leBytes (atomBytes ty) (atomNew op ty old (leNat q.data) q.aux)))
             answered (ackTw r.1 a.crew 3 r.2))
    ∧ (held → a.kind = .atomo op ty → a.lanes.find? (fun x => x.lane == lane) = some q →
      a.lines.zipIdx.find? (fun p => p.1.vline == q.va / 128) = some (l, i) → l.st = .ready pa → q.reached = false →
      q.aux2 ≠ 1 → lower (fun x => x.reached || x.aux2 != 0) = false → free → syncTake s (lineOf pa) = some s' →
      a.laneFailed q 8 (q.va + ·) = none →
      exec (.atomoRequest id lane) s = .next (settleLanes (countCore
        (orderedAt (touchWindows s' pa) id (pa + q.va % 128) cr.ctx a q op ty) cr q.va a.kind.acc) id))
    ∧ (let d : Int := (BitVec.ofNat 32 q.aux - BitVec.ofNat 32 (leNat (readNewest s (pa + 4) 4))).toInt
       let seen : Nat := leNat (readNewest s pa 4) + leNat (readNewest s (pa + 4) 4) * 4294967296
       let lanes : List LaneReq := a.lanes.map (fun x =>
         if x.lane = q.lane then { x with done := true, held := false, res := BitVec.ofNat 64 seen } else x)
       (d = 0 → orderedAt s id pa i a q op ty = examineHeld (orderedPerform s id a q op ty pa) (lineOf pa))
       ∧ (0 < d → orderedAt s id pa i a q op ty = holdOrdered s id q.lane pa i)
       ∧ (d < 0 → q.held = false → orderedAt s id pa i a q op ty = { s with
           accs := s.accs.put id { a with lanes := lanes, lines := doneLines lanes a.lines, ready := lanes.all (·.done) } }))
    ∧ (s.accs.find id = some a → a.kind = .atomo op ty →
      exec (.atomoResend id lane) s = .next (updLane s id lane (fun x =>
        if x.aux2 = 1 ∧ x.held = false then { x with aux2 := 3 } else x)))
    ∧ (held → a.kind = .reds rop ty → a.lanes.find? (fun x => x.lane == lane) = some q →
      a.lines.find? (fun x => x.vline == q.va / 128) = some l → l.st = .ready pa → q.done = false →
      lower (·.done) = false → inStoreQ s id a = false → syncBlocked s id a l pa = false → remoteOf pa = none →
      let key := slotKey (lineOf pa) a.ctx q.aux q.aux2
      let new : Staging := { ctx := a.ctx, home := syncSliceOf s pa, grp := q.aux, line := lineOf pa, src := q.aux2, ty := ty
                             op := rop, owner := a.crew, elems := [] }
      let b : State := if a.lanes.any (fun x => a.laneOn x (lineOf pa) && x.done) then s
        else countCore (touchWindows s pa) cr (l.vline * 128) a.kind.acc
      (s.slots.find key = some st → st.owner = a.crew → st.ty = ty → st.op = rop →
        touchFrame b (syncSliceOf s pa) (.slot key) = some s' →
        exec (.redsContribution id lane) s
          = .next (spent { s' with slots := s'.slots.put key (st.combine (q.va % 128) (leNat q.data)) } false))
      ∧ (s.slots.find key = none → touchFrame b (syncSliceOf s pa) (.slot key) = some s' →
        exec (.redsContribution id lane) s = .next (spent { s' with slots := s'.slots.put key (new.combine (q.va % 128) (leNat q.data)) } false))
      ∧ (s.slots.find key = some st → st.owner ≠ a.crew ∨ st.ty ≠ ty ∨ st.op ≠ rop →
        exec (.redsContribution id lane) s = .next (spent b true)))
    ∧ (∀ ls, held → a.kind = .lock limit → a.lines = l :: ls → l.st = .ready pa → a.ready = false →
      a.lanes.any (·.held) = false → syncBlocked s id a l pa = false → remoteOf pa = none →
      let holds : Prop := ∃ x, s.locks.find (lineOf pa) = some x ∧ x.holder = some a.crew
      let queued : Bool := (s.locks.find (lineOf pa)).any (fun x => x.holder.isSome || !x.queue.isEmpty)
      (holds → exec (.lockRequest id) s = .next (holdsAlready s id))
      ∧ (¬ holds → waiterRoom s cr.ctx pa = true → (if queued then some s else syncTake s (lineOf pa)) = some s' →
        let b : State := enqueueLock (countCore (touchWindows s' pa) cr (l.vline * 128) a.kind.acc) id pa a cr limit
        exec (.lockRequest id) s
          = .next (if siblingCancelling b cr && !replaying b cr.ctx then markLeaving b id 4 0 else b))
      ∧ (¬ holds → waiterRoom s cr.ctx pa = false → exec (.lockRequest id) s = .next (withdraw s id a
          (reportVA 0x14 ((a.lanes.head?.map (·.va)).getD 0)))))
    ∧ (replaying s (ctxOf s i) = false → exec (.lockTimeout i) s = .next
      (((s.locks.vals.flatMap (·.queue)).filter (fun w => w.crew == i && limitPassed s w)).foldl
        (fun s w => markLeaving s w.acc 2 0) s))
    ∧ (∀ w : Waiter,
      let b : State := dropIdleLocks { s with locks := s.locks.mapAll (fun _ l =>
        { l with queue := l.queue.filter (fun x => x.acc != w.acc) }) }
      (w.leaving = 5 → leaveQueue s w = freeEntry b w.inSump) ∧ (w.leaving = 2 ∨ w.leaving = 4 → leaveQueue s w = lockStatus b w w.leaving)
      ∧ (w.leaving = 3 → leaveQueue s w = lockStatus (barPost .dbg b (deadlockRecord b w)) w 3))
    ∧ (s.dt % 65536 = 0 → waitCycle (waitEdges s) = none → exec .deadlockScan s = .next s)
    ∧ (∀ e c, s.dt % 65536 = 0 → waitCycle (waitEdges s) = some c → greatestBy (fun e => youth s e.w) c = some e →
      ∃ n, exec .deadlockScan s
        = .next (breakCycles n (markLeaving s e.w.acc 3 (nubNat (c.map (·.w.crew))).length)))

/-- R47: one more completion raises a crew's counter by 1 modulo 2^32, and of the splits that wait for that counter
exactly those go on whose target it has reached: those that wait in WAITC after it, those that yielded at their header. -/
def Obligations.CounterCounts : Prop :=
  ∀ (s : State) (cid k : Nat) (cr : Crew), s.crews.find cid = some cr → k < cr.counters.length →
    let v : W32 := cr.counters.getD k 0 + 1
    ∃ c, (addCount s cid k).crews.find cid = some c ∧ addCount s cid k = { s with crews := (addCount s cid k).crews }
      ∧ c.counters = cr.counters.set k v ∧ c.splits.length = cr.splits.length
      ∧ (∀ j, j ≠ cid → (addCount s cid k).crews.find j = s.crews.find j)
      ∧ ∀ (n : Nat) (sp : Split), cr.splits[n]? = some sp → ∃ sp', c.splits[n]? = some sp' ∧
        (∀ t, sp.state = .waitCount k t → 0 ≤ (v - t).toInt → sp'.state = .ready ∧ sp'.place = sp.place)
        ∧ (∀ t h, sp.state = .waitYield k t h → 0 ≤ (v - t).toInt → sp'.state = .ready ∧ sp'.place = .header h .resume)
        ∧ (∀ t, sp.state = .waitCount k t → (v - t).toInt < 0 → sp' = sp)
        ∧ (∀ t h, sp.state = .waitYield k t h → (v - t).toInt < 0 → sp' = sp)
        ∧ ((∀ t, sp.state ≠ .waitCount k t) → (∀ t h, sp.state ≠ .waitYield k t h) → sp' = sp)

-- stacks, windows and the migration

/-- R159, R332 to R338, R344, R345, R348: a base die answers a request of its own, whose granule goes back to the line
request it serves, and whose tag goes to a write that waits; a read that arrived before a write of its whole granule
lists nothing; a scrub goes on to the next granule; a repair takes the first tier with a spare, and without one retires
the page; an interval of DT fades every window; and the running migration closes its next region from the top, and opens
it again under the next phase once it is quiet, when what stalled on it goes on. -/
def Obligations.StackEvents : Prop :=
  (∀ (s : State) (k : Nat) (r : StackReq), let st := SMap.getD s.dramStacks k {}
    st.reqs.find? (fun r => !r.served && granuleOpen s r.granule) = some r →
    exec (.stackRequest k) s = .next (updStack s k (fun x =>
      { x with reqs := x.reqs.map (fun q => if q.tag = r.tag then { q with served := true } else q) })))
  ∧ (∀ (s : State) (k tag acc i : Nat) (r : StackReq) (ecc : EccOutcome), let st := SMap.getD s.dramStacks k {}
      let done (b : State) : State := sendHeld st.heldW.length
        (updStack b k (fun x => { x with reqs := x.reqs.filter (fun q => q.tag != tag) })) k
      let read : Bool × State := match r.late with
        | some listed => readBefore s r.granule listed ecc
        | none => readGranule s r.granule ecc
      let gather : Bool := (s.accs.find acc).any (fun a => match a.kind with | .gather _ => true | _ => false)
      st.reqs.find? (fun r => r.tag == tag && r.served) = some r →
      (∀ q ∈ st.reqs.takeWhile (fun q => q.tag != tag), q.granule ≠ r.granule) → (ecc = .clean ∨ evtTakes s = true) →
      (r.write = true → exec (.stackCompletion k tag ecc) s = .next (done s))
      ∧ (r.write = false →
          exec (.stackCompletion k tag ecc) s
            = .next (completeRead (done read.2) r read.1))
      ∧ (r.acc = none → ∀ b bad, completeRead b r bad = wakeAll (fillCistern b r bad))
      ∧ (r.acc = some (acc, i) → ∀ bad, ∃ more : Bool,
          completeRead s r bad = updLine (if gather then s else fillCistern s r bad) acc i (fun l =>
            { l with got := some ((l.got.getD []) ++ (if bad then [r.granule] else []))
                     st := match l.st with
                       | .sent pa => if more then .sent pa else .ready pa
                       | x => x }))
      ∧ readBefore s r.granule true ecc = (true, s) ∧ readBefore s r.granule false .clean = (false, s)
      ∧ readBefore s r.granule false .uncorrectable = (true, failRow s r.granule)
      ∧ (granuleListed s r.granule = true → readGranule s r.granule ecc = (true, s))
      ∧ (granuleListed s r.granule = false → readGranule s r.granule .clean = (false, s)
          ∧ (readGranule s r.granule .corrected).1 = false ∧ (readGranule s r.granule .uncorrectable).1 = true))
  ∧ (∀ (s : State) (k : Nat) (ecc : EccOutcome), let n := (SMap.getD s.dramStacks k {}).scrubAt
      let g := granuleAt s k n
      (isClosed s (g * 64) = false → channelHeld s g = false → (ecc = .clean ∨ evtTakes s = true) →
        exec (.scrub k ecc) s
          = .next (updStack (readGranule s g ecc).2 k (fun x => { x with scrubAt := (n + 1) % 2 ^ 30 })))
      ∧ (isClosed s (g * 64) = true ∨ channelHeld s g = true → exec (.scrub k ecc) s = .next s))
  ∧ (∀ (s : State) (k n : Nat) (gs : List Nat), let st := SMap.getD s.dramStacks k {}
      let g := granuleAt s k (n % 2 ^ 30)
      st.sick = n :: gs → isClosed s (g * 64) = false → evtTakes s = true →
      let bank := Config.bankOf (Config.dramRow n)
      let pch := Config.pchOf n % 128
      let done (f : Stack → Stack) : State :=
        updStack s k (fun x => f { x with sick := gs, corrDT := x.corrDT.del (Config.dramRow n) })
      exec (.rowRepair k) s = .next (
        if SMap.getD st.spare bank 0 < 32 then
          done (fun x => { x with spare := x.spare.put bank (SMap.getD x.spare bank 0 + 1) })
        else if SMap.getD st.remap pch 0 < 1024 then
          done (fun x => { x with remap := x.remap.put pch (SMap.getD x.remap pch 0 + 1) })
        else if st.spare2k < 8192 then done (fun x => { x with spare2k := x.spare2k + 1 })
        else retirePage (done id) g))
  ∧ (∀ s : State, s.dt % 2 ^ 20 = 0 → s.faded < s.dt →
      let b : State := fadeWindows { s with faded := s.dt }
      exec .fadeTick s = .next ((windowKeys b).foldl (fun s k =>
          match (s.ctxs.find k.1).bind (fun c => c.windows.find k.2) with
          | some w => if w.fade = 0 then releaseWindow s k.1 k.2 (if w.remap then 2 else 1) else s
          | none => s) b)
      ∧ ((∀ p ∈ b.ctxs, ∀ w ∈ p.2.windows, w.2.fade ≠ 0) → exec .fadeTick s = .next b))
  ∧ (∀ s : State, s.mig.mig = true → s.mig.paused = false → s.mig.closed = none → s.mig.phase < s.mig.nreg →
      exec .regionClose s = .next { s with mig := { s.mig with closing := true } }
      ∧ (s.mig.closing = true → closeRegion s
        = { s with mig := { s.mig with closing := false, closed := some (s.mig.nreg - 1 - s.mig.phase, s.dt) } }))
  ∧ ∀ (s : State) (r t k : Nat), s.mig.closed = some (r, t) → s.mig.stack = some k → regionQuiet s r = true →
      regionHeld s r = false → evtTakes s = true →
      let s1 := (s.homes.keys.filter (inRegion r)).foldl settle s
      let s2 := { s1 with l2 := s1.l2.mapAll (fun _ l => l.filter (fun n => !inRegion r n)) }
      let sc := { s2 with dramStacks := s2.dramStacks.mapAll (fun _ x =>
        { x with cistern := x.cistern.filter (fun n => !inRegion r n) }) }
      let s3 := { sc with homes := sc.homes.mapAll (fun n h => if inRegion r n then { h with h := 0 } else h) }
      let s4 := { s3 with mig := { s3.mig with phase := s3.mig.phase + 1, closed := none } }
      let s5 := moveFrames (moveFailed (recallReads s4 r) r) r
      let s6 := if s5.mig.phase = s5.mig.nreg then migrationDone s5 k else s5
      exec .regionReopen s = .next (wakeAll (drainEventsDue (2 * s6.mig.todo.length) (postHeld (postStalled s6))))

-- matrix streams

/-- R237, R222, R244, R506, R516, R521, R235: a pass boundary grants the best request of a cluster, and the granted pass is
run; a request that waits rises; MZERO clears the tile; MMASK off clears the mask's mode; a drain whose writes are all
made marks its entry READY with their largest Tw; a stream that has waited too long for a page is killed. -/
def Obligations.MatrixEvents : Prop :=
  ∀ (s : State) (cl k tw t : Nat) (g : Eng) (st : Stream) (c : MQueued),
    let keys : List Nat := (List.range 8).map (cl * 8 + ·)
    let s1 : State := keys.foldl scout (noteRequests s keys)
    let head : Prop := headCommand s k = some (g, st, c)
    (keys.any (fun k => ((s1.streams.find k).map (·.granted)).getD false) = false → bestRequest s1 cl = some k →
      exec (.passGrant cl) s = .next (updStream s1 k (fun st =>
        { st with granted := true, inPass := true, request := none, prioUp := 0
                  marks := { st.marks with pfg := if st.marks.pfg.isSome then st.marks.pfg else some s1.dt
                                           passes := st.marks.passes + 1 } })))
    ∧ (keys.find? (fun k => ((s.streams.find k).map (·.granted)).getD false) = some k →
      exec (.passComplete cl) s = .next (endIdleStream (runPass s k) k))
    ∧ (s.streams.find k = some st → st.request = some t → t + 4096 * (st.prioUp + 1) ≤ clusterClk s (k / 8) →
      ((s.cohorts.find st.cohort).map (·.prio)).getD 0 + st.prioUp < 3 →
      exec (.matrixPriorityAge k) s = .next (updStream s k (fun st => { st with prioUp := st.prioUp + 1 })))
    ∧ (s.streams.find k = some st → st.run = .faulted → st.doom = false → 2 ^ 20 < ticksSince s st.faultDT →
      exec (.matrixFaultLimit k) s = .next (doomStream s k))
    ∧ (s.streams.find k = some st → (st.run ≠ .faulted ∨ st.doom = true ∨ ticksSince s st.faultDT ≤ 2 ^ 20) →
      exec (.matrixFaultLimit k) s = .next s)
    ∧ (head → c.cmd = .mzero →
      exec (.mzeroPerform k) s = .next (endCommand (updStream s k (fun st => { st with tile := [] })) k))
    ∧ (∀ a, head → c.cmd = .mmask a true → exec (.mmaskPerform k) s
      = .next (endCommand (updStream s k (fun st => { st with mask := { st.mask with mode := 0 } })) k))
    ∧ (∀ d, head → drainOf c.cmd = some d → st.drainTw = none →
      loadsReturned s ((controlOf s g.cohort).getD 0) c.id = true →
      let taken : Bool := ((SMap.getD s.clusters g.cl {}).resv.find (k % 8 * 4 + 3)).isSome
      let b : State := if st.inDrain then s else takeDrainEntry (noteProgress s k 0 0 c.seq) k d.hd
      (st.inDrain = false → taken = true → exec (.mdrainPerform k) s = .next s)
      ∧ (d.notile = true → st.inDrain = true ∨ taken = false → exec (.mdrainPerform k) s
        = .next { drainFrom g d 0 129 (updStream b k (fun st => { st with started := true })) with fresh := b.fresh + 65536 }))
    ∧ (head → st.drainTw = some tw →
      let b : State := updStream (updCluster s g.cl (fun c =>
          { c with resv := c.resv.change (k % 8 * 4 + 3) (fun e => { e with second := true, tw := tw }) })) k (fun st =>
        { st with pend := changeAt st.pend (st.pend.length - 1) (fun m => { m with coc := some s.dt }) })
      exec (.drainComplete k) s = .next (endIdleStream (endCommand (match controlOf s g.cohort with
        | some j => ackTw b j 2 tw
        | none => b) k) k))
    ∧ (∀ ch q qs, s.streams.find k = some st → st.cmds = q :: qs → s.cohorts.find st.cohort = some ch →
      crewsOf s st.cohort = [] → endCommand s k = { s with streams := s.streams.change k (fun x => { x with
        cmds := qs, doneSeq := q.seq, started := false, recA := 0, groups := [], granted := false, request := none
        prioUp := 0, prog := {}, inPass := false, inDrain := false, seen := [], run := if qs = [] then .idle else .active, drainTw := none, drainMax := 0 }) })

-- wells

/-- R248, R254 to R256, R261, R263, R267, R571 to R573, R576: a well performs the command at the head of its queue; a
class of cells is updated at once, each of its cells that is not clamped to the state its probability and its noise give,
from the states that the well held before; a boundary state that arrives is kept by its tag; a health window is judged. -/
def Obligations.WellEvents : Prop :=
  (∀ (s : State) (w ctx : Nat) (c : WellCmd) (cs : List WellCmd), let x := wellOf s w
    x.queue = c :: cs → x.owner = some ctx → wellRuns x = true → x.sweep = none →
    exec (.wellCommandPerform w) s = .next (performWell s w ctx c)
    ∧ (∀ xs, c.body = .bias xs → performWell s w ctx c = wellDone (updWell s w (fun x =>
        { x with cells := xs.foldl (fun m p => m.put p.1 { (SMap.getD m p.1 {} : Cell) with h := p.2 }) x.cells })) w none)
    ∧ (∀ k, c.body = .key k → performWell s w ctx c
        = wellDone (updWell s w (fun x => { x with key := k, keyed := true, swp := 0 })) w none)
    ∧ (c.body = .phys → performWell s w ctx c
        = wellDone (updWell s w (fun x => { x with keyed := false, swp := 0 })) w none))
  ∧ (∀ (s : State) (w ctx : Nat) (c : WellCmd) (cs : List WellCmd) (classes : List Nat) (p : SweepPos), let x := wellOf s w
      x.queue = c :: cs → (∃ b n, c.body = .sweep b n classes false none) → x.owner = some ctx → x.sweep = some p →
      wellRuns x = true → linkWaits s w = false →
      exec (.wellClassUpdate w) s = .next (classStep s w ctx c classes none p))
  ∧ (∀ (s : State) (w cls i : Nat) (x : Well) (bound : SMap Bool) (recs : List W64), i < 4096 →
      let y := updateClass s w x bound recs cls
      let u := (updateCell s w x bound (recs.filter (goodRecord x cls)) i).1
      y.cell i = (if (x.cell i).col.toNat = cls ∧ (x.cell i).clf = false then u else x.cell i)
      ∧ (∃ k : Int, -8388608 ≤ k ∧ k ≤ 8388607 ∧ u.m = decide (noise16 s w x i <
          if nan32 (updateArg x.beta x.scale k) then 0 else updateProb (updateArg x.beta x.scale k)))
      ∧ u = { x.cell i with m := u.m } ∧ y.key = x.key ∧ y.queue = x.queue ∧ y.swp = x.swp ∧ y.coup = x.coup)
  ∧ (∀ (s : State) (w slot tag : Nat) (m : Bool) (fs : List (Nat × Nat × Bool)), let x := wellOf s w
      x.flight = (slot, tag, m) :: fs →
      exec (.boundaryStateArrive w slot) s = .next (updWell s w (fun x =>
        { x with flight := fs
                 hist := x.hist.put slot (SMap.put ((SMap.getD x.hist slot []).filter (fun p =>
                   decide (p.1 ≤ tag) && decide (tag ≤ p.1 + 15))) tag m) })))
  ∧ ∀ (s : State) (w ones corr : Nat), w < 512 → (wellOf s w).gated = false → windowFails s ones corr = 0 →
      (wellOf s w).requal = none → exec (.healthWindow w ones corr) s = .next (updWell s w (fun x => { x with fails := 0 }))

-- the pump

/-- R275, R277 to R280, R282, R284 to R291, R367, R387: a queue entry starts its graph, and an event of a node's kind
starts that node, with what the node then does; evaluations of WAIT nodes; and the completion of nodes and entries. -/
def Obligations.PumpEvents : Prop :=
  (∀ (s : State) (q : Nat) (x : Queue), s.queues.find q = some x → x.graph = none → x.cons ≠ x.doorbell →
    x.state = .idle ∨ x.state = .running → pumpRuns s x.ctx = true → x.resetting = false → modeDue s x.ctx = false →
    let addr : Nat := leNat (readPhys s (x.base + 64 * (x.cons.toNat % 2 ^ x.log2)) 9)
    let t : State := updQueue s q (fun y =>
      { y with state := .running, graph := some { entry := y.cons.toNat, node := addr } })
    exec (.queueEntryStart q) s = .next (if addr % 64 = 0 then t else completeEntry t q 3 addr))
  ∧ (∀ (s s1 s2 s3 : State) (q pa : Nat) (x : Queue) (g : GraphRun) (bs : List Byte),
      startNode s q = .begun s1 x g →
      let f : Nat → Nat → Nat := nodeField g.word
      let kind (n : Nat) : Prop := nodeKind g.word = n
      let goes (status next : Nat) (t : State) : State := finishNode t q status next
      (∀ st, kind 1 → launchCheck s1 (launchOfNode s1 x q g []) (g.word.getLsbD 128) = some st →
        exec (.kernelNodeStart q) s = .next (goes st 0 s1))
      ∧ (kind 1 → launchCheck s1 (launchOfNode s1 x q g []) (g.word.getLsbD 128) = none → g.word.getLsbD 8 = false →
        let b : State := nextInterval s1 x.ctx
        exec (.kernelNodeStart q) s = .next (updGraph { b with
            launches := b.launches.put b.nextId (launchOfNode b x q g []), nextId := b.nextId + 1 } q (fun y =>
          { y with run := .kernel b.nextId })))
      ∧ (kind 2 → ∃ t op, exec (.copyNode q) s = .next t ∧ t.copies.find s1.nextId = some op
        ∧ op.rb = f 367 328 ∧ op.rows = 1 ∧ op.moved = 0 ∧ op.queue = some q ∧ op.ctx = x.ctx
        ∧ op.src = .global (flatRecord (f 511 440)) 0 0 ∧ op.dst = .global (flatRecord (f 439 368)) 0 0
        ∧ t.mem = s1.mem ∧ t.nextId = s1.nextId + 1)
      ∧ (kind 3 → pumpRead s1 x.ctx q (f 511 440) 4 g = .ok bs s2 →
        exec (.condNode q) s = .next (goes 1 (if leNat bs = 0 then f 439 368 else if leNat bs = 1 then f 367 296
          else if leNat bs = 2 then f 295 224 else f 127 56) s2))
      ∧ (kind 4 → 8 ≤ g.loops.length → exec (.loopIteration q) s = .next (goes 13 0 s1))
      ∧ (kind 5 → phaseArrive s1 x.ctx q g.word false = (true, s2) → exec (.phaseArrive q) s = .next s2)
      ∧ (kind 5 → phaseArrive s1 x.ctx q g.word false = (false, s2) → exec (.phaseArrive q) s = .next (goes 11 0 s2))
      ∧ (kind 6 → exec (.waitEvaluate q) s = .next (evaluateWait (updGraph s1 q (fun y =>
        { y with run := .waiting s1.dt true })) q x g s1.dt))
      ∧ (kind 7 → pumpXlate s1 x.ctx q (f 511 440) g true = .ok pa s2 → syncTake s2 (lineOf pa) = some s3 →
        let old : Nat := leNat (readNewest s3 pa 8)
        let v : Nat := if g.word.getLsbD 375 then (old + f 439 376) % 2 ^ 64 else f 439 376
        let r := storeLine s3 (lineOf pa) 0 (numbered (pa % 128) (leBytes 8 v))
        exec (.signalNode q) s = .next (wakeWaits (goes 1 (f 127 56) (updGraph r.1 q (fun y =>
          { y with tw := Nat.max y.tw r.2, irq := if g.word.getLsbD 374 then some (f 373 363) else none }))) x.ctx))
      ∧ (kind 8 → pumpWrite s1 x.ctx q (f 439 368) (leBytes 4 0) g = .ok () s2 →
        exec (.ringNode q) s = .next (goes 1 (f 127 56) (updCtx (ringInterrupt s2 x.ctx (f 319 314)) x.ctx (fun c =>
          { c with rings := c.rings.put (f 319 314) {
              ring := { base := f 511 440, cb := f 439 368, log2 := f 324 320, vec := some (f 335 325) }
              n := f 367 352, t := f 351 336, queue := q } }))))
      ∧ (kind 9 → exec (.endNode q) s = .next (goes 1 0 s1)))
  ∧ (∀ (s s1 : State) (q : Nat), startNode s q = .isOver s1 →
      exec (.kernelNodeStart q) s = .next s1 ∧ exec (.copyNode q) s = .next s1 ∧ exec (.condNode q) s = .next s1)
  ∧ (∀ (s s2 : State) (q : Nat) (x : Queue) (g : GraphRun) (fr : LoopFrame) (frs : List LoopFrame) (bs : List Byte),
      graphOf s q = some (x, g) → g.loops = fr :: frs → nodeDue s x g = true →
      let f : Nat → Nat → Nat := nodeField fr.word
      let leaves (status : Nat) : State := finishNode (updGraph s2 q (fun y =>
        { y with loops := y.loops.drop 1, node := fr.node, word := fr.word, cseq := fr.cseq })) q status (f 127 56)
      (g.run = .ended → exec (.endNode q) s = .next (updGraph s q (fun y =>
        { y with loops := { fr with i := fr.i + 1 } :: frs, run := .loopNext })))
      ∧ (g.run = .loopNext → pumpRead s x.ctx q (f 439 368) 4 g = .ok bs s2 →
        (leNat bs = 0 → exec (.loopIteration q) s = .next (leaves 1))
        ∧ (leNat bs ≠ 0 → fr.i = f 295 264 → exec (.loopIteration q) s = .next (leaves (if f 295 264 = 0 then 1 else 14)))
        ∧ (leNat bs ≠ 0 → fr.i ≠ f 295 264 → f 367 296 = 0 → f 511 440 ≠ 0 → ∃ t x' g',
            exec (.loopIteration q) s = .next t ∧ t.mem = s2.mem
            ∧ ((graphOf s2 q).isSome = true → graphOf t q = some (x', g') ∧ g'.run = .start ∧ g'.node = f 511 440))))
  ∧ (∀ (s : State) (q : Nat) (x : Queue) (g : GraphRun), graphOf s q = some (x, g) → g.run = .ended → g.loops = [] →
      nodeDue s x g = true → exec (.endNode q) s = .next (completeEntry s q 1 0))
  ∧ (∀ (s s2 : State) (q since : Nat) (x : Queue) (g : GraphRun) (bs : List Byte), graphOf s q = some (x, g) →
      g.run = .waiting since true → g.fault = none → pumpRuns s x.ctx = true →
      pumpRead s x.ctx q (nodeField g.word 511 440) 8 g = .ok bs s2 →
      exec (.waitEvaluate q) s = .next (if nodeField g.word 439 376 ≤ leNat bs then finishNode s2 q 1 (nodeNext g.word)
        else updGraph s2 q (fun y => { y with run := .waiting since false })))
  ∧ (∀ s : State, s.dt % 4096 = 0 → exec .waitTick s = .next (s.queues.keys.foldl wakeWait s))
  ∧ (∀ (s : State) (q since : Nat) (x : Queue) (g : GraphRun) (due : Bool), graphOf s q = some (x, g) →
      g.run = .waiting since due → nodeField g.word 375 344 ≠ 0 → since + 1000 * nodeField g.word 375 344 ≤ s.dt →
      pumpRuns s x.ctx = true → exec (.waitTimeout q) s = .next (finishNode s q 12 0))
  ∧ (∀ (s s2 : State) (q status next : Nat) (x : Queue) (g : GraphRun), graphOf s q = some (x, g) → g.fault = none →
      pumpRuns s x.ctx = true → x.resetting = false → g.run = .finishing status next → (g.tw = 0 ∨ g.tw + 2 ≤ s.dt) →
      pumpWrite (updGraph (raiseIrq s g.irq) q (fun y => { y with irq := none })) x.ctx q (g.node + 2) (leBytes 2 status)
        { g with irq := none } = .ok () s2 →
      let t : State := sessionNode s2 q g.cseq 3 g.node
      exec (.nodeComplete q) s = .next (
        if status ≠ 1 ∧ status ≠ 2 ∧ status ≠ 14 then completeEntry t q status g.node
        else if (g.cseq, true) ∈ x.breaks then stopHit (updGraph t q (fun y => { y with run := .stopAfter next })) q g.cseq true
        else goTo t q next))
  ∧ ∀ (s : State) (q id : Nat) (x : Queue) (g : GraphRun) (l : Launch), graphOf s q = some (x, g) → g.fault = none →
      pumpRuns s x.ctx = true → x.resetting = false → g.run = .kernel id → s.launches.find id = some l →
      exec (.nodeComplete q) s = .next (if launchEnded s id l = true ∧ launchTw s id l + 2 ≤ s.dt then
        finishNode (dropLaunch s id) q 1 (nodeNext g.word) else s)

-- the host's registers, windows and memory, and the CSRs that act

/-- R385, R386, R388, R390: what the host's accesses do while the link is open: registers, doorbells, violation counts,
and device memory. -/
def Obligations.HostAccesses : Prop :=
  ∀ (s : State) (q off : Nat) (v : W64) (link : Option Nat) (addr len : Nat) (bytes : List Byte), s.devState = .ready →
    let up : Prop := ∀ l, link = some l → l < 24 ∧ l ∉ s.peersDown
    (exec (.registerWrite (.bar0 off) v) s = .next (writeBar0 s off v))
    ∧ (∀ x d, s.queues.find q = some x → 0 < (d - x.doorbell).toNat →
        (d - x.doorbell).toNat ≤ 2 ^ x.log2 - (x.doorbell - x.cons).toNat →
        exec (.doorbell q d) s = .next (updQueue s q (fun y =>
          { y with doorbell := d, state := if y.state = .idle then .running else y.state })))
    ∧ (∀ x d, s.queues.find q = some x →
        ((d - x.doorbell).toNat = 0 ∨ 2 ^ x.log2 - (x.doorbell - x.cons).toNat < (d - x.doorbell).toNat) →
        exec (.doorbell q d) s = .next (updQueue s q (fun y => { y with state := .badDoorbell })))
    ∧ (q < 4096 → off < 65536 → off ≠ 0 → off ≠ 8 → off ≠ 16 → ∃ n : W32,
        exec (.windowViolation q off) s = .next { s with reply := some (.word 0), viols := s.viols.put q n }
        ∧ n.toNat = Nat.min ((SMap.getD s.viols q 0).toNat + 1) (2 ^ 32 - 1))
    ∧ (q < 4096 → exec (.violRead q) s
        = .next { s with reply := some (.word ((SMap.getD s.viols q 0).setWidth 64)), viols := s.viols.del q })
    ∧ exec (.evtdropRead false) s
        = .next { s with reply := some (.word (s.evt.drop.setWidth 64)), evt := { s.evt with drop := 0 } }
    ∧ exec (.evtdropRead true) s
        = .next { s with reply := some (.word (s.dbg.drop.setWidth 64)), dbg := { s.dbg with drop := 0 } }
    ∧ (∀ d, exec (.evtconsWrite true d) s = .next { s with dbg := { s.dbg with cons := d } })
    ∧ (∀ d, exec (.evtconsWrite false d) s = .next (drainEvents { s with evt := { s.evt with cons := d } }))
    ∧ (up → 0 < len → hostBad s addr len = true →
        exec (.hostMemRead link addr len) s = .next { s with reply := some .unsupported })
    ∧ (up → 0 < len → hostBad s addr len = false → hostStalled s addr len = false → rangeFills s addr len = [] → ∃ t,
        exec (.hostMemRead link addr len) s = .next t ∧
          let b : State := { s with ctxs := t.ctxs }
          t = { b with reply := some (.bytes (readPhys b addr len) (hostPoison b addr len)) })
    ∧ (up → 0 < len → hostBad s addr len = false → hostStalled s addr len = false → rangeFills s addr len ≠ [] →
        exec (.hostMemRead link addr len) s = .next ((rangeFills s addr len).foldl askFill s))
    ∧ (up → bytes ≠ [] → hostBad s addr bytes.length = false → hostStalled s addr bytes.length = false →
        exec (.hostMemWrite link addr bytes) s = .next (devWrite s addr bytes).1)
    ∧ (up → bytes ≠ [] → hostBad s addr bytes.length = true →
        exec (.hostMemWrite link addr bytes) s = .next { s with reply := some .unsupported })

/-- R168, R265, R324, R350 to R352, R355, R372: a write of a CSR that acts: the lease length is held between 64 and
8,192; a mode is requested, and REPLAY without a valid trace requests FREE; a word of a monitor; the thresholds of wells,
and their requalification; a context's hotness fields within their ranges; a pattern test starts where HOLD is set and
its kinds are defined, and else sets ERR; its end; the return to service; and the read of TRN_RES, which clears it. -/
def Obligations.CsrEvents : Prop :=
  ∀ (s : State) (v : W32) (k : Nat) (c : Context) (m : RepMode) (x : Stack) (p : Nat) (t : Train) (fails : BitVec 17),
    let fld (lo n : Nat) : Nat := v.toNat / 2 ^ lo % 2 ^ n
    let ctx : Nat := fld 16 12
    let sel : Train := trainOf s (trnStack s) (trnPch s)
    (∀ (n : BitVec 12) (d : W64), exec (.registerWrite (.csr n) d) s
        = .next (if 0x400 ≤ n.toNat then writeCsr s 0 0 n.toNat (d.setWidth 32) else s))
    ∧ (exec (.leasesetWrite v) s = .next { s with
          csrs := { s.csrs with leaseCtx := ctx }
          ctxs := s.ctxs.change ctx (fun c => { c with lease := Nat.min (Nat.max (fld 0 14) 64) 8192 }) }
        ∧ exec (.hotcfgWrite v) s = .next { s with
          csrs := { s.csrs with hotCtx := ctx }
          ctxs := s.ctxs.change ctx (fun c => { c with
            hotEn := v.getLsbD 15, hotLogN := Nat.min (Nat.max (fld 10 5) 6) 20, hotThresh := Nat.max (fld 0 10) 1 }) })
    ∧ (s.ctxs.find ctx = some c → fld 0 2 = 3 → c.valid = false → ∃ u c', exec (.repmodeWrite v) s = .next u
        ∧ u.ctxs.find ctx = some c' ∧ c' = { c with pendMode := some .free } ∧ u.csrs.repCtx = ctx ∧ u.mem = s.mem)
    ∧ (s.ctxs.find ctx = some c → (fld 0 2 ≠ 3 ∨ c.valid = true) → ∃ u c', exec (.repmodeWrite v) s = .next u
        ∧ u.ctxs.find ctx = some c' ∧ c' = { c with pendMode := some (modeOf (fld 0 2)) } ∧ u.csrs.repCtx = ctx
        ∧ u.mem = s.mem)
    ∧ (s.ctxs.find k = some c → c.pendMode = some m → (∀ q y, (q, y) ∈ s.queues → y.ctx = k → y.graph = none) →
        ∃ u c', exec (.repmodeTakeEffect k) s = .next u ∧ u.ctxs.find k = some c' ∧ c'.mode = m ∧ c'.pendMode = none
        ∧ (m = .record → c'.trCount = 0 ∧ c'.ovf = false ∧ c'.valid = false)
        ∧ (m = .replay → c'.matched = [] ∧ c'.repFrom = s.dt)
        ∧ (c.mode = .record → m ≠ .record → c'.valid = !c.ovf) ∧ (c.mode ≠ .record → m ≠ .record → c'.valid = c.valid))
    ∧ (∃ n, exec (.mondataWrite v) s = .next { s with monitors := s.monitors.put (s.csrs.moncfg.toNat % 32) n } ∧
        let o := monitorOf s (s.csrs.moncfg.toNat % 32)
        (s.csrs.moncfg.toNat / 32 = 0 → n.run = 0 ∧ n.w1 = o.w1 ∧ n.w2 = o.w2 ∧ n.w3 = o.w3
          ∧ fieldOf n.w0 12 4 = 0 ∧ fieldOf n.w0 16 8 = (if fld 16 8 = 0 then 1 else fld 16 8)
          ∧ fieldOf n.w0 0 12 = fld 0 12 ∧ fieldOf n.w0 24 4 = fld 24 4 ∧ n.w0.getLsbD 31 = v.getLsbD 31
          ∧ fieldOf n.w0 28 3 = (if 4 < fld 28 3 then 0 else fld 28 3))
        ∧ (s.csrs.moncfg.toNat / 32 = 1 → n = { o with w1 := v, run := 0 })
        ∧ (s.csrs.moncfg.toNat / 32 = 2 → n = { o with w2 := v, run := 0 })
        ∧ (s.csrs.moncfg.toNat / 32 = 3 → n.w0 = o.w0 ∧ n.w1 = o.w1 ∧ n.w2 = o.w2 ∧ n.run = o.run
          ∧ fieldOf n.w3 0 16 = fld 0 16 ∧ n.w3.getLsbD 31 = (o.w3.getLsbD 31 && !v.getLsbD 31)))
    ∧ (∃ u, exec (.requalify v) s = .next u ∧ u.csrs.corrThr = fld 16 12 ∧ u.csrs.biasThr = fld 0 16
        ∧ (v.getLsbD 31 = false → u.wells = s.wells ∧ u.csrs.requal = s.csrs.requal)
        ∧ (v.getLsbD 31 = true → s.csrs.requal = false → ∀ w y, (w, y) ∈ s.wells →
            ∃ y', (w, y') ∈ u.wells ∧ y' = { y with requal := if y.subst.isSome then some 0 else y.requal }))
    ∧ (∃ n, exec (.patternTest v) s = .next (updTrain s (trnStack s) (trnPch s) (fun _ => n)) ∧
        let starts : Prop := v.getLsbD 31 = true
        let good : Prop := sel.hold = true ∧ fld 28 3 < 3 ∧ fld 24 4 < 3
        n.pat0.getLsbD 31 = (sel.pat0.getLsbD 31 || (v.getLsbD 31 && sel.hold && decide (fld 28 3 < 3) && decide (fld 24 4 < 3))) ∧ n.pat1 = sel.pat1 ∧ n.hold = sel.hold
        ∧ (starts → ¬good → n.res = sel.res ||| 0x40000000) ∧ (¬starts ∨ good → n.res = sel.res)
        ∧ fieldOf n.pat0 0 16 = fld 0 16)
    ∧ (s.dramStacks.find k = some x → x.train.find p = some t → t.pat0.getLsbD 31 = true → ∃ n,
        exec (.patternTestDone k p fails) s
          = .next { s with dramStacks := s.dramStacks.put k { x with train := x.train.put p n } }
        ∧ n.pat0 = t.pat0 &&& 0x7FFFFFFF ∧ n.res.getLsbD 31 = true ∧ n.res.getLsbD 30 = t.res.getLsbD 30
        ∧ (fieldOf t.pat0 28 3 ≠ 2 → n.res.extractLsb' 0 17 = fails))
    ∧ exec (.trnHoldWrite v) s = .next (updTrain s (trnStack s) (trnPch s) (fun t => { t with
        hold := v.getLsbD 0, live := if t.hold = true ∧ v.getLsbD 0 = false then t.written else t.live }))
    ∧ (∃ u, exec .trnResRead s = .next u ∧ u.reply = some (.word (sel.res.setWidth 64))
        ∧ trainOf u (trnStack u) (trnPch u) = { sel with res := 0 } ∧ u.mem = s.mem)

-- the driver's commands

/-- R389, R391, R392: a command event performs the record due, where it carries the event's OPC; a reserved OPC, or a byte
of ARGS outside the command's fields that is not 0, completes with BAD_ARG; a command that completes has its STATUS
written, its vector raised and CMDCONS advanced, and nothing else is changed by its completion. -/
def Obligations.CommandRing : Prop :=
  (∀ (s : State) (a : Nat) (bs : List Byte), commandDue s = some (a, bs) →
    ∀ p ∈ ([(.ctxCreate, 0x01, [(8, 2), (10, 1), (16, 8)]), (.ctxDestroy, 0x02, [(8, 2)]),
        (.queueBind, 0x03, [(8, 2), (10, 2), (16, 8), (24, 1)]), (.queueReset, 0x04, [(8, 2)]),
        (.preempt, 0x05, [(8, 2)]), (.resume, 0x06, [(8, 2)]), (.invalidate, 0x07, [(8, 2), (16, 9), (32, 8)]),
        (.faultAnswer, 0x08, [(8, 2), (10, 2), (12, 1)]), (.retireStack, 0x09, [(8, 1), (9, 1)]),
        (.retireAck, 0x0A, [(8, 1), (16, 7)]), (.breakCmd, 0x0B, [(8, 2), (12, 4), (16, 1)]),
        (.continueCmd, 0x0C, [(8, 2)]), (.stampBind, 0x0D, [(8, 2), (16, 9), (32, 9), (48, 1)]),
        (.traceOpen, 0x0E, [(8, 2), (10, 1), (11, 1), (16, 9), (32, 9)]), (.traceClose, 0x0F, [(8, 2)]),
        (.quiesce, 0x10, [(8, 1), (16, 8)]), (.release, 0x11, [(8, 1), (16, 8)]),
        (.image, 0x12, [(8, 1), (16, 8), (24, 8), (32, 8)]), (.restore, 0x13, [(8, 1), (16, 8), (24, 8), (32, 8)]),
        (.power, 0x14, [(8, 4), (12, 1), (13, 1), (14, 2), (16, 8), (24, 1)]), (.applyMargin, 0x15, []),
        (.hotAck, 0x16, [(8, 2), (16, 9)]), (.attest, 0x17, [(16, 8), (24, 32)])] : List (Instr × Nat × List (Nat × Nat))),
      (argOf bs 0 2 = 0 ∨ 0x17 < argOf bs 0 2 → exec p.1 s = .next (finishCommand s a 2))
      ∧ (argOf bs 0 2 = p.2.1 → (∃ i, i < 56 ∧ bs.getD (i + 8) 0 ≠ 0 ∧ ∀ u ∈ p.2.2, i + 8 < u.1 ∨ u.1 + u.2 ≤ i + 8) →
        exec p.1 s = .next (finishCommand s a 2)))
  ∧ (∀ (s : State), s.devState ≠ .ready ∨ s.cmd.prod = s.cmd.cons → commandDue s = none)
  ∧ ∀ (s : State) (a st : Nat), st < 65536 → Memory.wf s.hostMem = true →
      let t : State := finishCommand s a st
      t = { s with cmd := { s.cmd with cons := s.cmd.cons + 1 }, hostMem := t.hostMem, pba := t.pba
                   irqs := if s.cmd.novec then s.irqs else s.irqs ++ [s.cmd.vec] }
      ∧ t.pba = (if s.cmd.novec || !vecMasked s s.cmd.vec || s.pba.contains s.cmd.vec then s.pba else s.cmd.vec :: s.pba)
      ∧ leNat (Memory.getN t.hostMem (a + 2) 2) = st
      ∧ (∀ k, k ≠ a + 2 → k ≠ a + 3 → Memory.get t.hostMem k = Memory.get s.hostMem k)

/-- R313, R315, R323, R329, R338, R342, R346, R367, R370, R375, R377, R378, R384, R389, R393, R397 to R399, R402: what
each command does once its arguments are good, with its status, and when one is to wait. -/
def Obligations.Commands : Prop :=
  ∀ (s : State) (a : Nat) (bs : List Byte), commandDue s = some (a, bs) →
    let arg : Nat → Nat → Nat := argOf bs
    let done (t : State) (st : Nat) : Host.Outcome State Fault Refusal := .next (finishCommand t a st)
    let is (opc : Nat) (fs : List (Nat × Nat)) : Prop := arg 0 2 = opc ∧ argsClean bs fs = true
    let ctx : Nat := arg 8 2
    let held : Prop := (s.ctxs.find ctx).isSome = true
    let bound : Prop := (s.queues.find ctx).isSome = true
    let d : List Byte := readPhys s (arg 16 8) 512
    let ring (b c lg : Nat) : RingRef := { base := b, cb := c, log2 := lg, vec := none }
    (is 0x01 [(8, 2), (10, 1), (16, 8)] → ctx < 4096 → s.ctxs.find ctx = none → arg 10 1 ≤ 1 → arg 16 8 % 64 = 0 →
      arg 16 8 + 512 ≤ capBytes s → descOk (capBytes s) d = true → (∀ w ∈ descWells d, (wellOf s w).owner = none) →
      (∀ p ∈ s.ctxs, ∀ x ∈ p.2.areas, ∀ y ∈ (descContext d false).areas, areasMeet x y = false) →
      ∃ t, exec .ctxCreate s = done t 1
        ∧ t.ctxs.find ctx = some { descContext d (arg 10 1 == 1) with
            preempted := s.scopes.any (fun p => p.2.device), stoppedAt := s.dt }
        ∧ (∀ k, k ≠ ctx → t.ctxs.find k = s.ctxs.find k) ∧ t.mem = s.mem
        ∧ (∀ w ∈ descWells d, (wellOf t w).owner = some ctx) ∧ ∀ w, w ∉ descWells d → wellOf t w = { wellOf s w with sampleCnt := (wellOf t w).sampleCnt })
    ∧ (is 0x02 [(8, 2)] → held → let u := endContextWork s ctx
      ((∀ p ∈ u.accs, accIn ctx p.2 = false) → (∀ p ∈ u.copies, p.2.ctx ≠ ctx) →
        (∀ p ∈ u.cohorts, p.2.ctx = ctx → p.2.state = .ended) →
        exec .ctxDestroy s = done (freeContext u ctx) 1 ∧ (freeContext u ctx).ctxs.find ctx = none)
      ∧ ((∃ p ∈ u.copies, p.2.ctx = ctx) ∨ (∃ p ∈ u.cohorts, p.2.ctx = ctx ∧ p.2.state ≠ .ended) →
        exec .ctxDestroy s = .next u))
    ∧ (is 0x03 [(8, 2), (10, 2), (16, 8), (24, 1)] → ctx < 4096 → (s.ctxs.find (arg 10 2)).isSome = true →
      4 ≤ arg 24 1 → arg 24 1 ≤ 16 → arg 16 8 + 64 * 2 ^ arg 24 1 ≤ capBytes s →
      (∀ x, s.queues.find ctx = some x → x.graph = none ∧ x.cons = x.doorbell ∧ x.resetting = false) →
      exec .queueBind s = done { s with
        queues := s.queues.put ctx { ctx := arg 10 2, base := arg 16 8, log2 := arg 24 1 } } 1)
    ∧ (is 0x04 [(8, 2)] → bound → let u := closeSession (if ((s.queues.find ctx).map (·.resetting)).getD false then s else beginReset s ctx) ctx
      exec .queueReset s = (if (u.copies.any (fun p => p.2.queue == some ctx && p.2.fault.isNone) || markWaits u ctx
          || u.cohorts.any (fun p => p.2.queue == ctx && p.2.state != .ended)) = true then .next u
        else done (endReset u ctx) 1))
    ∧ (is 0x05 [(8, 2)] → held →
      let u := stopContext (updCtx s ctx (fun c => { c with hostPre := true })) ctx (!quiesced s ctx)
      exec .preempt s = (if contextQuiet u ctx = true ∧ copiesDone u ctx = true then done (saveAll u ctx) 1 else .next u))
    ∧ (is 0x06 [(8, 2)] → held →
      exec .resume s = done (resumeContext (updCtx s ctx (fun c => { c with hostPre := false })) ctx) 1)
    ∧ (is 0x07 [(8, 2), (16, 9), (32, 8)] → held → arg 16 9 % 8192 = 0 → arg 32 8 % 8192 = 0 →
      let u := forgetRange s ctx (arg 16 9) (arg 32 8)
      exec .invalidate s = (if rangeInFlight u ctx (arg 16 9) (arg 32 8) = true then .next u
        else done (wakeAll (dropRange u ctx (arg 16 9) (arg 32 8))) 1))
    ∧ (∀ ans t, is 0x08 [(8, 2), (10, 2), (12, 1)] →
      (arg 12 1 = 0 ∧ ans = .resolved ∨ arg 12 1 = 1 ∧ ans = .violation ∨ arg 12 1 = 2 ∧ ans = .deliver) →
      answerFault s ctx (arg 10 2) ans = some t → exec .faultAnswer s = done t 1)
    ∧ (is 0x09 [(8, 1), (9, 1)] → (arg 8 1 ∈ s.mig.act ∨ (s.mig.mig = true ∧ arg 8 1 ∈ s.mig.old)) → arg 9 1 ≤ 1 →
      exec .retireStack s = (match retireStackCmd s (arg 8 1) (arg 9 1 == 1) with
        | .accepted t => done t 1
        | .refused => done s 3
        | .needFree => done s 4))
    ∧ (∀ b, is 0x0A [(8, 1), (16, 7)] → arg 16 7 % 8192 = 0 → s.badPages.find (arg 16 7 / 8192) = some b →
      (arg 8 1 = 0x51 → b.release = false → b.acked = false → exec .retireAck s = done (failBad { s with
        badPages := s.badPages.put (arg 16 7 / 8192) { b with acked := true } }) 1)
      ∧ (arg 8 1 = 0x54 → b.release = true → exec .retireAck s = done { s with
        badPages := s.badPages.del (arg 16 7 / 8192) } 1))
    ∧ (is 0x0B [(8, 2), (12, 4), (16, 1)] → bound → arg 16 1 < 4 →
      let b : W32 × Bool := (BitVec.ofNat 32 (arg 12 4), arg 16 1 % 2 == 1)
      let now (l : List (W32 × Bool)) : List (W32 × Bool) := l.filter (· != b) ++ (if 2 ≤ arg 16 1 then [] else [b])
      exec .breakCmd s = done (updQueue s ctx (fun x => { x with breaks := now x.breaks })) 1)
    ∧ (is 0x0C [(8, 2)] → bound → exec .continueCmd s = done (continueQueue s ctx) 1)
    ∧ (is 0x0D [(8, 2), (16, 9), (32, 9), (48, 1)] → bound → (arg 48 1 = 0 ∨ (3 ≤ arg 48 1 ∧ arg 48 1 ≤ 20)) →
      exec .stampBind s = done (updQueue s ctx (fun x => { x with
        stamp := if arg 48 1 = 0 then none else some (ring (arg 16 9) (arg 32 9) (arg 48 1)) })) 1)
    ∧ (∀ x, is 0x0E [(8, 2), (10, 1), (11, 1), (16, 9), (32, 9)] → s.queues.find ctx = some x → x.sess.state = .closed →
      6 ≤ arg 11 1 → arg 11 1 ≤ 24 → arg 10 1 ≤ 1 →
      exec .traceOpen s = done (updQueue s ctx (fun x => { x with sess :=
        { state := if arg 10 1 = 1 then .capturing else .armed, ring := some (ring (arg 16 9) (arg 32 9) (arg 11 1)) } })) 1)
    ∧ (is 0x0F [(8, 2)] → bound →
      let u := closeSession (updQueue s ctx (fun x => { x with sess := { x.sess with state := .closed } })) ctx
      exec .traceClose s = (if (u.queues.find ctx).any (·.sess.ring.isSome) = true then .next u else done u 1))
    ∧ (∀ dev cs, is 0x10 [(8, 1), (16, 8)] → scopeArg s bs = some (dev, cs) →
      ((∃ p ∈ s.scopes, scopeMeets dev cs p.2 = true) → exec .quiesce s = done s 3)
      ∧ ((∀ p ∈ s.scopes, scopeMeets dev cs p.2 = false) →
        let x : QScope := { device := dev, ctxs := cs, since := s.dt }
        let scopes := s.scopes.put s.nextId x
        let mig : Migration := if dev then { s.mig with paused := s.mig.mig } else s.mig
        exec .quiesce s = done (stopScope { s with scopes := scopes, nextId := s.nextId + 1, mig := mig } x) 1))
    ∧ (∀ dev cs k x, is 0x11 [(8, 1), (16, 8)] → scopeArg s bs = some (dev, cs) →
      (s.scopes.find? (fun p => p.2.device == dev && (dev || p.2.ctxs == cs) && p.2.state == .quiesced) = some (k, x) →
        exec .release s = done (releaseScope s k x) 1)
      ∧ ((∀ p ∈ s.scopes, p.2.state ≠ .quiesced) → exec .release s = done s 3))
    ∧ (∀ k x, is 0x12 [(8, 1), (16, 8), (24, 8), (32, 8)] → (∀ p ∈ s.scopes, p.2.state ≠ .imaging) → arg 8 1 ≤ 1 →
      arg 32 8 % 1048576 = 0 → arg 32 8 ≤ capBytes s → imageScope s = some (k, x) →
      let used := usedOf s x (arg 32 8)
      (imageBytes s x (arg 8 1 == 1) used).length ≤ arg 24 8 →
      let job : ImageJob := { addr := arg 16 8, len := arg 24 8, sign := arg 8 1 == 1, used := used }
      exec .image s = .next { s with scopes := s.scopes.put k { x with state := .imaging, job := some job } })
    ∧ (∀ st, is 0x13 [(8, 1), (16, 8), (24, 8), (32, 8)] → arg 8 1 ≤ 1 →
      checkImage s (Memory.getN s.hostMem (arg 16 8) (arg 24 8)) (arg 8 1 == 1) = .error st →
      exec .restore s = done s st)
    ∧ (∀ p rs, is 0x13 [(8, 1), (16, 8), (24, 8), (32, 8)] → arg 8 1 ≤ 1 →
      checkImage s (Memory.getN s.hostMem (arg 16 8) (arg 24 8)) (arg 8 1 == 1) = .ok p →
      let im := imageContent s p.secs
      (p.device = true → arg 32 8 = 0 ∧ rs = []) →
      (p.device = false → restoreRoots s (arg 32 8) im.ctxs.keys = some rs) →
      exec .restore s = (if canTake s im = true then done (restoreState s p im rs) 1 else done s 10))
    ∧ (is 0x14 [(8, 4), (12, 1), (13, 1), (14, 2), (16, 8), (24, 1)] → arg 13 1 < 8 → arg 24 1 = 8 →
      arg 8 4 = 0 → arg 14 2 ≤ 3000 → exec .power s = done (setCap s (arg 14 2) (arg 13 1)) 1)
    ∧ (is 0x15 [] → exec .applyMargin s = done { s with
      dies := s.dies.zipIdx.map (fun p => { p.1 with halt := p.1.halt + clkStop s p.2 }),
      power := { s.power with margins := s.power.margins + 1 }, fresh := s.fresh + 4 } 1)
    ∧ (is 0x16 [(8, 2), (16, 9)] → held → exec .hotAck s = done (dropHot s (fun h =>
      h.ctx == ctx && h.page == arg 16 9 / 8192 && h.state == .queued)) 1)
    ∧ (is 0x17 [(16, 8), (24, 32)] → let r := reportContent s ((bs.drop 24).take 32)
      exec .attest s = done { s with hostMem := Memory.setN s.hostMem (arg 16 8) (r ++ Config.sign r) } 1)

-- the module: reset, power, the brake, failures and context errors

/-- R19, R245, R325, R347, R377, R378, R386, R395, R396, R398 to R400: a reset leaves the module in BOOT, keeps device and
host memory, the stacks' repairs and the interleave, but nothing of contexts, queues and crews (log entry 48), and no
device memory after a device error; boot ends in READY or BOOT_FAIL; the loss of power loses what is not in host
memory; the brake comes on above the cap and ends 1 ms later below it; a lane repair is logged; a device failure ends
every context and leaves DEVICE_ERROR; a link fails; a context error, the kill of a cohort and a deferred report are
performed; a scope whose engines have stopped is QUIESCED; the last of an image is written, or a part of it. -/
def Obligations.ModuleEvents : Prop :=
  ∀ (s : State) (n : Nat),
    let empty (t : State) : Prop := t.ctxs = [] ∧ t.queues = [] ∧ t.launches = [] ∧ t.cohorts = [] ∧ t.crews = []
      ∧ t.accs = [] ∧ t.copies = [] ∧ t.streams = [] ∧ t.wells = [] ∧ t.locks = [] ∧ t.slots = []
    (∀ ok : Bool, ∃ t, exec (.deviceReset ok) s = .next t ∧ empty t ∧ t.devState = .boot ∧ t.hostMem = s.hostMem
      ∧ (ok = true → t.devReason = 0) ∧ (ok = false → 1 ≤ t.devReason ∧ t.devReason ≤ 3)
      ∧ t.csrs = State.reset.csrs ∧ t.dt = 0 ∧ (migphase t.mig).toNat = 0 ∧ t.mig.mig = false
      ∧ t.mig.act = (if s.mig.mig then s.mig.old else s.mig.act)
      ∧ (s.failedBoundary = none → s.devState ≠ .deviceError → t.mem = s.mem ∧ t.badPages = s.badPages)
      ∧ (s.failedBoundary ≠ none ∨ s.devState = .deviceError → t.mem = [] ∧ t.badPages = []))
    ∧ (s.devState = .boot → bootDone s = { s with devState := if s.devReason = 0 then .ready else .bootFail })
    ∧ (∃ t, exec .powerRemove s = .next t ∧ empty t ∧ t.powered = false ∧ t.mem = [] ∧ t.hostMem = s.hostMem
      ∧ t.mig.mig = false ∧ t.mig.act = (if s.mig.mig then s.mig.old else s.mig.act))
    ∧ (s.power.brake = none → 1000 * s.power.capW < n → exec (.brakeOn n) s = .next (barPost .evt { s with
        power := { s.power with brake := some { level := s.power.level, since := s.dt } } } (brakeOnRecord s (n / 1000))))
    ∧ ((s.power.brake.isSome = true ∨ n ≤ 1000 * s.power.capW) → exec (.brakeOn n) s = .next s)
    ∧ (∀ b, s.power.brake = some b → exec (.brakeOff n) s = .next (
        if n < 1000 * s.power.capW ∧ b.since + 1000000 ≤ s.dt then
          barPost .evt { s with power := { s.power with brake := none } } (brakeOffRecord s b)
        else s))
    ∧ (n < s.laneRepairs.length → ∃ t, exec (.laneRepair n) s = .next t ∧ t = { s with laneRepairs := t.laneRepairs }
        ∧ t.laneRepairs[n]? = (s.laneRepairs[n]?).map (· + 1) ∧ ∀ k, k ≠ n → t.laneRepairs[k]? = s.laneRepairs[k]?)
    ∧ (∀ w, (∀ b, w = .boundary b → b < 4) →
        let u : State := match w with
          | .boundary b => { s.ctxs.keys.foldl failContext s with failedBoundary := some b }
          | .hostLink => s.ctxs.keys.foldl failContext s
        (evtTakes s = true → exec (.deviceError w) s = .next { barPost .evt u (deviceErrorRecord u w) with
          devState := if s.devState = .bootFail then .bootFail else .deviceError })
        ∧ (evtTakes s = false → exec (.deviceError w) s = .next s))
    ∧ (4 ≤ n → exec (.deviceError (.boundary n)) s = .next s)
    ∧ (n < 24 → n ∉ s.peersDown → exec (.peerLinkFail n) s = .next { s with peersDown := n :: s.peersDown })
    ∧ (∀ c e, s.ctxs.find n = some c → c.err = some e →
        (statusStalls s n = none →
          exec (.contextError n) s = .next (barPost .evt (failContext s n) (ctxErrorRecord s n e)))
        ∧ ∀ t, statusStalls s n = some t → exec (.contextError n) s = .next t)
    ∧ (∀ c, s.cohorts.find n = some c → c.kill = true → c.state ≠ .ended →
        let u : State := barriersCheck (endCohortCrews s n true) n
        let over_ : Prop := ∀ x, u.cohorts.find n = some x → x.state = .ended
        (¬over_ → exec (.cohortKill n) s = .next u)
        ∧ ∀ l, over_ → u.launches.find c.launch = some l → exec (.cohortKill n) s = .next (
          if l.error then u
          else if l.restart then
            { u with launches := u.launches.change c.launch (fun l => { l with again := l.again ++ [c.index] }) }
          else cohortError u c 0x22))
    ∧ (∀ cr, s.crews.find n = some cr → crewRuns s cr = true → deferredDue cr = true →
        exec (.trapDelivery n) s = .next (deliverDeferred s n))
    ∧ (∀ cr, s.crews.find n = some cr → deferredDue cr = false → exec (.trapDelivery n) s = .next s)
    ∧ (∀ x, s.scopes.find n = some x → x.state = .stopping →
        let u : State := stopScope s x
        let cs : List Nat := x.contexts u
        let cut : Prop := storesLanded u = true ∧ (∀ c ∈ cs, contextCut u c = true) ∧ (x.device = true → u.mig.closed = none)
        let qs : List Nat := (u.queues.filter (fun p => cs.contains p.2.ctx)).map (·.1)
        let v : State := qs.foldl flushSession (fetchVictims u (fun _ => true))
        (cut → x.flushed = false → exec (.quiesceComplete n) s = .next { v with
          scopes := v.scopes.put n { x with flushed := !qs.any (sessionFills v) } })
        ∧ (cut → x.flushed = true → exec (.quiesceComplete n) s = .next (quiescedRecords { u with
          scopes := u.scopes.put n { x with state := .quiesced, dtcut := u.dt } } x))
        ∧ (¬cut → exec (.quiesceComplete n) s = .next u))
    ∧ ∀ x j ok, s.scopes.find n = some x → x.state = .imaging → x.job = some j →
        let bs : List Byte := imageBytes s x j.sign j.used
        ∃ k t, (ok = true → k = bs.length) ∧ k ≤ bs.length
          ∧ t = { s with
              hostMem := Memory.setN s.hostMem j.addr (bs.take k), fresh := s.fresh + 1, images := t.images
              scopes := s.scopes.put n { x with state := .quiesced, job := none } }
          ∧ exec (.imageComplete n ok) s = .next (match commandDue t with
            | some (a, _) => finishCommand t a (if ok then 1 else 11)
            | none => t)

-- rings, ballots, siblings, replays and observation; copies

/-- R150, R154, R292, R293, R300, R304, R323, R364, R370, R372, R373, R375, R418, R541, R542: an append writes its record,
then its PROD; a ring's coalescing time passes; a BALLOT is performed at its group's record; a cancelled sibling's pages
are walked; a replay is examined for divergence; notifications are retried, monitors sampled and tails flushed at their
ticks; and a copy completes, or ends with ACCESS. -/
def Obligations.RecordEvents : Prop :=
  (∀ (s s1 s2 s3 : State) (id lane rh pa pc tw : Nat) (a : Access) (cr : Crew) (q : LaneReq) (b : Binding),
    s.accs.find id = some a → a.kind = .ring rh → s.crews.find a.crew = some cr →
    a.lanes.find? (fun x => x.lane == lane) = some q → q.done = false →
    a.lanes.any (fun x => decide (x.lane < lane) && !x.done) = false → inStoreQ s id a = false → cutMade s a.ctx = false →
    appendBehind s id a cr.ctx rh = false → (∀ l ∈ a.lines, ∀ t, l.st ≠ .faulted t) →
    let bound : Option Binding := (s.ctxs.find cr.ctx).bind (fun c => c.rings.find rh)
    let whole (t : State) : State :=
      if ((t.accs.find id).map (fun a => a.lanes.all (·.done))).getD false then endAccess t id else t
    let ws : Need := { w := true, s := true }
    (bound = none → exec (.ringAppend id lane) s
      = .next (deferReport (endAccess s id) a.crew a.lanesM { code := 0x03, addr := BitVec.ofNat 64 rh }))
    ∧ (bound = some b → q.aux2 = 0 → appendXlate s id cr cr.ctx b.queue b.ring.cb b.ring.cb ws = .ok pc s1 →
      let prod : Nat := leNat (readNewest s1 pc 4)
      let va : Nat := b.ring.base + 8 * (prod % 2 ^ b.ring.log2)
      let full : Prop := (prod + 2 ^ 32 - leNat (readHome s1 (pc + 64) 4)) % 2 ^ 32 = 2 ^ b.ring.log2
      (∀ va, a.rep = true → raceAccess s1 cr.ctx a.who false true [(pc, b.ring.cb)] = .error va →
        exec (.ringAppend id lane) s = .next (deferReport (endAccess s1 id) a.crew a.lanesM (reportVA 0x0A va)))
      ∧ (a.rep = false → full → exec (.ringAppend id lane) s = .next s1)
      ∧ (a.rep = false → ¬full → appendXlate s1 id cr cr.ctx b.queue va b.ring.cb ws = .ok pa s2 →
        appendWrite s2 id a va pa q.data none = some (s3, tw) →
        exec (.ringAppend id lane) s = .next (whole (updLane s3 id lane (fun x => { x with aux2 := 1, aux := tw })))))
    ∧ (bound = some b → q.aux2 ≠ 0 → s.dt < q.aux + 2 → exec (.ringAppend id lane) s = .next s)
    ∧ (bound = some b → q.aux2 ≠ 0 → q.aux + 2 ≤ s.dt →
      appendXlate s id cr cr.ctx b.queue b.ring.cb b.ring.cb ws = .ok pc s1 →
      appendWrite s1 id a b.ring.cb pc (leBytes 4 ((leNat (readNewest s1 pc 4) + 1) % 2 ^ 32)) none = some (s3, tw) →
      exec (.ringAppend id lane) s = .next (whole (updLane (tokCount (ringCount (ackTw s3 a.crew 3 tw) cr.ctx rh)
        cr.ctx cr a) id lane (fun x => { x with done := true })))))
  ∧ (∀ (s : State) (ctx rh : Nat) (c : Context) (b : Binding), s.ctxs.find ctx = some c → c.rings.find rh = some b →
      quiesced s ctx = false →
      ((b.t ≠ 0 ∧ b.c ≠ 0 ∧ 1000 * b.t ≤ ticksSince s b.first) → ∃ t, exec (.ringCoalesceTimeout ctx rh) s = .next t
        ∧ t.irqs = s.irqs ++ b.ring.vec.toList
        ∧ t.ctxs.find ctx = some { c with rings := c.rings.put rh { b with c := 0, first := 0 } })
      ∧ ((b.t = 0 ∨ b.c = 0 ∨ ticksSince s b.first < 1000 * b.t) → exec (.ringCoalesceTimeout ctx rh) s = .next s))
  ∧ (∀ (s s1 s2 : State) (id pa0 : Nat) (a : Access) (cr : Crew) (l : LineReq) (ls : List LineReq) (hash : Option W64),
      s.accs.find id = some a → a.kind = .ballot hash → a.lines = l :: ls → s.crews.find a.crew = some cr →
      l.st = .ready pa0 → a.ready = false → loadsReturned s a.crew id = true → syncBlocked s id a l pa0 = false → syncFill s id 0 pa0 l = .filled →
      let va : Nat := (a.lanes.head?.map (·.va)).getD 0
      let pa : Nat := pa0 + va % 128
      let g : Nat := cr.sib.toNat / 64
      let k : Nat := cr.sib.toNat % 64
      syncTake s (lineOf pa) = some s1 → syncTake s1 (lineOf (sibEntry pa k)) = some s2 →
      let b : State := countCore (touchWindows s2 pa) cr va a.kind.acc
      let done (s : State) (v : Nat) : State := logDone (updAcc s id (fun a =>
        { a with ready := true, lines := a.lines.map (fun l => { l with st := .done pa0 })
                 lanes := a.lanes.map (fun q => { q with done := true })
                 result := a.lanes.map (fun q => (q.lane, BitVec.ofNat 128 v)) })) id
      let void : Bool := ballotVoid b pa k
      (pa / 64 ∈ l.got.getD [] → exec (.ballotPost id) s = .next (done b 0))
      ∧ (let r := if void then (0, b) else ballotPerform b a.crew cr.ctx pa g k hash
        let ci : Nat := ((r.2.cohorts.find cr.cohort).map (·.index)).getD 0
        let u : State := traceEvent r.2 cr.ctx
          [(88, nodeInterval r.2 cr % 2 ^ 32), (56, ci % 2 ^ 32), (24, g), (18, k), (0, 0x63)]
        let w : State := if replaying u cr.ctx then
            match postHead u cr.ctx g with
            | some (i, _) => traceMatch u cr.ctx i
            | none => u
          else u
        let t : State := wakeBallots (done w r.1) cr.ctx
        pa / 64 ∉ l.got.getD [] → exec (.ballotPost id) s
          = .next (if void then deferReport t a.crew a.lanesM (reportVA 0x03 va) else t)))
  ∧ (∀ (s : State) (cid ctx pa g k : Nat) (hash : Option W64),
      (groupState s pa ≠ 0 → ballotPerform s cid ctx pa g k hash = (2, s))
      ∧ (groupState s pa = 0 → sibPosted s pa k = true → ballotPerform s cid ctx pa g k hash = (3, s)))
  ∧ (∀ (s s1 : State) (ctx group sib gpa : Nat) (c : Context) (x : Sibling), s.ctxs.find ctx = some c →
      c.sibs.find (group * 64 + sib) = some x → x.state = .cancelling → x.fault = none → quiesced s ctx = false →
      siblingLives s ctx (group * 64 + sib) = false → x.refused = false →
      walkXlate s ctx (group * 64 + sib) (groupVA s ctx group) ((peek s none 0 ctx (groupVA s ctx group)).getD 0)
        { r := true, w := true, s := true } = .ok gpa s1 →
      let k : Nat := group * 64 + sib
      let ent : Nat := sibEntry gpa (k % 64)
      let n : Nat := groupField s1 ent 8 4 / 2 ^ 8 % 2 ^ 16
      let list : Nat := groupField s1 ent 24 8 % 2 ^ 59 * 8192
      let i : Nat := x.walk.getD 0
      let counts : List (Nat × List Byte) :=
        [(ent + 12, leBytes 4 (x.tok + tokPending s1 ctx k x.ddt)), (ent + 16, leBytes 8 x.cyc)]
      let canc : List (Nat × List Byte) := [(ent + 8, leBytes 4 (groupField s1 ent 8 4 ||| 2 ^ 29))]
      (x.isOver = false → list = 0 ∨ n ≤ i → exec (.siblingPageRelease ctx group sib) s
        = .next ((walkWrites s1 ctx k counts).elim s1 (fun t => updSib t ctx k (fun x =>
            { x with isOver := true, walk := none, refused := false }))))
      ∧ (x.isOver = true → exec (.siblingPageRelease ctx group sib) s
        = .next (if s1.dt < x.walkTw + 2 then s1
          else (walkWrites s1 ctx k canc).elim s1 (fun t => updSib t ctx k (fun x => { x with state := .cancelled }))))
      ∧ ∀ s2 s3 p q, x.isOver = false → list ≠ 0 → i < n →
        walkXlate s1 ctx k (list + 8 * i) gpa { r := true, s := true } = .ok p s2 →
        needsFill s2 (lineOf p) = false → lostGranule s2 p = false →
        releaseEntry s2 ctx k gpa (leNat (readHome s2 p 8)) false = .ok q s3 →
        exec (.siblingPageRelease ctx group sib) s
          = .next (updSib (touchWindows (touchWindows s3 p) gpa) ctx k (fun x =>
              { x with walk := some (i + 1), refused := false })))
  ∧ (∀ (s : State) (ctx : Nat), (replaying s ctx = true → pumpRuns s ctx = true →
        exec (.replayTimeout ctx) s = .next (divergePlace (divergeBallots (divergeLocks s ctx) ctx) ctx))
      ∧ (replaying s ctx = false → exec (.replayTimeout ctx) s = .next s))
  ∧ (∀ s : State, (s.dt % 2 ^ 16 ≠ 0 → exec .countingRetry s = .next s ∧ exec .traceFlush s = .next s)
      ∧ (s.dt % 2 ^ 8 ≠ 0 → exec .monitorSample s = .next s)
      ∧ (s.dt % 2 ^ 8 = 0 → exec .monitorSample s
        = .next ((List.range 32).foldl (sampleMonitor s.fresh) { s with fresh := s.fresh + 40 }))
      ∧ (s.dt % 2 ^ 16 = 0 → exec .traceFlush s = .next ((s.queues.keys.filter (fun q =>
          (s.queues.find q).any (fun x => !quiesced s x.ctx))).foldl flushSession s))
      ∧ (s.dt % 2 ^ 16 = 0 → exec .countingRetry s = .next ((s.dies.zipIdx.flatMap (fun p =>
          (p.1.hot.filter (fun h => h.2.state == .pending)).map (fun h => (p.2, h.1, h.2)))).foldl (fun s h =>
            hotNotify s h.1 h.2.1 h.2.2) s)))
  ∧ (∀ (s : State) (q : Nat) (x : Queue), s.queues.find q = some x →
      (x.sess.ring = none ∨ (x.sess.tail = [] ∧ x.sess.lost = 0)) → flushSession s q = s)
  ∧ (∀ (s : State) (free k : Nat), let m := monitorOf s k
      let b : Nat := if m.w0.getLsbD 24 then quantity s free m.w2 else m.w2.toNat
      let rel : Bool := relationHolds (fieldOf m.w0 25 3) (quantity s free m.w1) b
      let run (n : Nat) : State := { s with monitors := s.monitors.put k { m with run := n } }
      (m.w0.getLsbD 31 = false → sampleMonitor free s k = s)
      ∧ (m.w0.getLsbD 31 = true → rel = true → sampleMonitor free s k = run 0)
      ∧ (m.w0.getLsbD 31 = true → rel = false → m.run + 1 < fieldOf m.w0 16 8 → sampleMonitor free s k = run (m.run + 1))
      ∧ (m.w0.getLsbD 31 = true → rel = false → fieldOf m.w0 16 8 ≤ m.run + 1 → sampleMonitor free s k = fireMonitor s k m))
  ∧ ∀ (s : State) (id n : Nat) (c : CopyOp),
    ((copyMove n s id n).copies.find id = some c → c.moved = c.total →
      exec (.copyComplete id n) s = .next (endCopy (copyMarks (copyMove n s id n) c) c .complete))
    ∧ ((copyMove n s id n).copies.find id = some c → c.moved ≠ c.total →
      exec (.copyComplete id n) s = .next (copyMove n s id n))
    ∧ (s.copies.find id = some c → c.failed = true → exec (.copyViolation id) s = .next (endCopy s c (.access c.pos)))

-- an invariant of the machine

/-- Every step keeps device and host memory in canonical form, whatever it runs: addresses strictly rising, and no byte
listed that an unlisted address reads as, so that equal contents are equal data (log entry 5). -/
def Obligations.MemoryStaysCanonical : Prop :=
  ∀ s t : State, s.memOk = true → step s = .next t → t.memOk = true
end

