-- ==== Sys2Proof/Laws/Codec.lean ====
section
/-! SUPPORT. Codec.lean: reading the fields of words that are written as concatenations: `ext_*` and `flag_*` reduce a
field of a concatenation (use them with `disch := decide` and without `Nat.reduceAdd` and `Nat.reduceSub`, which would
change the widths), `ofWord_*` give the fields of a word of each format, and `*.ofCode_code` each code read back. -/
namespace Sys2Proof

theorem ext_lo {v w : Nat} (x : BitVec v) (y : BitVec w) (s l : Nat) (h : s + l ≤ w) :
    (x ++ y).extractLsb' s l = y.extractLsb' s l := BitVec.extractLsb'_append_eq_of_add_le h
theorem ext_hi {v w : Nat} (x : BitVec v) (y : BitVec w) (s l : Nat) (h : w ≤ s) :
    (x ++ y).extractLsb' s l = x.extractLsb' (s - w) l := BitVec.extractLsb'_append_eq_of_le h
theorem ext_self {w : Nat} (x : BitVec w) (s : Nat) (h : s = 0) : x.extractLsb' s w = x := by subst h; exact BitVec.extractLsb'_eq_self
theorem flag_lo {v w : Nat} (x : BitVec v) (y : BitVec w) (i : Nat) (h : i < w) : flag (x ++ y) i = flag y i := by
  simp [flag, BitVec.getLsbD_append, h]
theorem flag_hi {v w : Nat} (x : BitVec v) (y : BitVec w) (i : Nat) (h : w ≤ i) : flag (x ++ y) i = flag x (i - w) := by
  simp [flag, BitVec.getLsbD_append, Nat.not_lt.mpr h]
theorem flag_bit (b : Bool) : flag (bit b) 0 = b := by cases b <;> rfl

theorem ofWord_encA (op : BitVec 8) (g : Guard) (d : BitVec 8) (a b c : BitVec 10) (m : BitVec 14) :
    Fields.ofWord (encA op g d a b c m) = { op := op, g := g.code, d := d, a := a, b := b, c := c, mod := m } := by
  simp (disch := decide) only [-Nat.reduceAdd, -Nat.reduceSub, Fields.ofWord, encA, Fields.toWord, ext_lo, ext_hi, ext_self]

theorem ofWord_encC (op : BitVec 8) (g : Guard) (k : BitVec 20) (off : BitVec 32) :
    (Fields.ofWord (encC op g k off)).op = op ∧ (Fields.ofWord (encC op g k off)).g = g.code
    ∧ (Fields.ofWord (encC op g k off)).kind20 = k ∧ (Fields.ofWord (encC op g k off)).off32 = off := by
  refine ⟨?_, ?_, ?_, ?_⟩
  · simp (disch := decide) only [-Nat.reduceAdd, -Nat.reduceSub, Fields.ofWord, encC, ext_lo, ext_hi, ext_self]
  · simp (disch := decide) only [-Nat.reduceAdd, -Nat.reduceSub, Fields.ofWord, encC, ext_lo, ext_hi, ext_self]
  · apply BitVec.eq_of_getLsbD_eq
    intro i hi
    simp only [Fields.kind20, Fields.ofWord, encC, BitVec.getLsbD_append, BitVec.getLsbD_extractLsb']
    grind
  · apply BitVec.eq_of_getLsbD_eq
    intro i hi
    simp only [Fields.off32, Fields.ofWord, encC, BitVec.getLsbD_append, BitVec.getLsbD_extractLsb']
    grind
theorem Src.ofCode_code (a : Src) : Src.ofCode a.code = some a := by
  cases a with
  | special k => cases k <;> decide
  | queue n => revert n; decide
  | named n t => revert n t; decide
  | scalar n => revert n; decide
  | const c => revert c; decide
theorem Dest.ofCode_code (d : Dest) : Dest.ofCode d.code = some d := by
  cases d with
  | push => decide
  | named n => revert n; decide
  | scalar n => revert n; decide
theorem Guard.ofCode_code (g : Guard) : Guard.ofCode g.code = g := by
  obtain ⟨n, p⟩ := g
  revert n p; decide
theorem IntTy.ofCode_code (t : IntTy) : IntTy.ofCode t.code = some t := by cases t <;> rfl

theorem decode_one (w : W64) (next : Option W64) (h : hasExt (Fields.ofWord w).op.toNat = false) :
    decode w next = checked (decodeFields (Fields.ofWord w) 0) := by
  unfold decode
  dsimp only
  generalize hasExt (Fields.ofWord w).op.toNat = b at h ⊢
  subst h
  rfl
theorem decode_two (w x : W64) (h : hasExt (Fields.ofWord w).op.toNat = true) :
    decode w (some x) = checked (decodeFields (Fields.ofWord w) x) := by
  unfold decode
  dsimp only
  generalize hasExt (Fields.ofWord w).op.toNat = b at h ⊢
  subst h
  rfl
theorem checked_ok (i : Instr) (h : i.wf = true) : checked (.ok i) = .instr i := by simp [checked, h]
theorem bind_ok {α β : Type} (a : α) (f : α → Dec β) : (Bind.bind (Except.ok a : Dec α) f) = f a := rfl
theorem need_true (r : Reject) : need true r = .ok () := rfl
theorem needSome_some {α} (x : α) (r : Reject) : needSome (some x) r = .ok x := rfl


theorem NumTy.ofCode_code (t : NumTy) : NumTy.ofCode t.code = some t := by
  cases t with
  | int t => cases t <;> rfl
  | flt t => cases t <;> rfl
  | nib t => cases t <;> rfl
theorem FTy.ofCode_code (t : FTy) : FTy.ofCode t.code = some t := by cases t <;> rfl
theorem BTy.ofCode_code (t : BTy) : BTy.ofCode t.code = some t := by cases t <;> rfl
theorem Rnd.ofCode_code (t : Rnd) : Rnd.ofCode t.code = some t := by cases t <;> rfl
theorem Size.ofCode_code (t : Size) : Size.ofCode t.code = some t := by cases t <;> rfl
theorem ICond.ofCode_code (t : ICond) : ICond.ofCode t.code = some t := by cases t <;> rfl
theorem FCond.ofCode_code (t : FCond) : FCond.ofCode t.code = some t := by cases t <;> rfl
theorem RedOp.ofCode_code (t : RedOp) : RedOp.ofCode t.code = some t := by cases t <;> rfl
theorem RedTy.ofCode_code (t : RedTy) : RedTy.ofCode t.code = some t := by cases t <;> rfl
theorem AtomTy.ofCode_code (t : AtomTy) : AtomTy.ofCode t.code = some t := by cases t <;> rfl
theorem AtomOp.ofCode_code (t : AtomOp) : AtomOp.ofCode t.code = some t := by cases t <;> rfl
theorem RedsOp.ofCode_code (t : RedsOp) : RedsOp.ofCode t.code = some t := by cases t <;> rfl
theorem PrefTarget.ofCode_code (t : PrefTarget) : PrefTarget.ofCode t.code = some t := by cases t <;> rfl
theorem PrmtMode.ofCode_code (t : PrmtMode) : PrmtMode.ofCode t.code = some t := by cases t <;> rfl
theorem MoviForm.ofCode_code (t : MoviForm) : MoviForm.ofCode t.code = some t := by cases t <;> rfl
theorem CopyDir.ofCode_code (t : CopyDir) : CopyDir.ofCode t.code = some t := by cases t <;> rfl
theorem Epi.ofCode_code (t : Epi) : Epi.ofCode t.code = some t := by cases t <;> rfl
theorem ShflMode.ofCode_code (t : ShflMode) : ShflMode.ofCode t.code = t := by cases t <;> rfl
theorem VoteMode.ofCode_code (t : VoteMode) : VoteMode.ofCode t.code = t := by cases t <;> rfl
theorem WloadKind.ofCode_code (t : WloadKind) : WloadKind.ofCode t.code = t := by cases t <;> rfl
theorem WreadKind.ofCode_code (t : WreadKind) : WreadKind.ofCode t.code = t := by cases t <;> rfl
theorem Scope.ofCode_code (t : Option Scope) : Scope.ofCode? (Scope.code? t) = some t := by
  cases t with
  | none => rfl
  | some t => cases t <;> rfl
theorem Scope.ofCode_code' (t : Scope) : Scope.ofCode? t.code = some (some t) := by cases t <;> rfl
theorem pw_code (p : Option (BitVec 3)) : pwOfCode p.isSome (pdCode p) = some p := by cases p <;> rfl
theorem flag_self (b : Bool) (i : Nat) (h : i = 0) : flag (bit b) i = b := by subst h; exact flag_bit b
theorem ext_zero (s l n : Nat) : (0 : BitVec n).extractLsb' s l = 0 := by simp
theorem flag_zero (n i : Nat) : flag (0 : BitVec n) i = false := by simp [flag]
theorem one20 : (1 : BitVec 20).extractLsb' 1 19 = 0 := by decide
theorem flag_one : flag (1 : BitVec 20) 0 = true := rfl
theorem always_code : Guard.always.code = 7 := rfl
theorem ofWord_encI (op : BitVec 8) (g : Guard) (d : BitVec 8) (a : BitVec 10) (i : BitVec 32) (m : BitVec 2) :
    (Fields.ofWord (encI op g d a i m)).op = op ∧ (Fields.ofWord (encI op g d a i m)).g = g.code
    ∧ (Fields.ofWord (encI op g d a i m)).d = d ∧ (Fields.ofWord (encI op g d a i m)).a = a
    ∧ (Fields.ofWord (encI op g d a i m)).imm32 = i ∧ (Fields.ofWord (encI op g d a i m)).mod.extractLsb' 0 2 = m
    ∧ flag (Fields.ofWord (encI op g d a i m)).mod 0 = flag m 0 ∧ flag (Fields.ofWord (encI op g d a i m)).mod 1 = flag m 1 := by
  refine ⟨?_, ?_, ?_, ?_, ?_, ?_, ?_, ?_⟩
  all_goals first
    | (apply BitVec.eq_of_getLsbD_eq; intro j hj
       simp only [Fields.imm32, Fields.ofWord, encI, BitVec.getLsbD_append, BitVec.getLsbD_extractLsb']; grind)
    | (simp only [flag, Fields.ofWord, encI, BitVec.getLsbD_append, BitVec.getLsbD_extractLsb']; grind)
theorem ofWord_encM (op : BitVec 8) (g : Guard) (d : BitVec 8) (a b : BitVec 10) (br : BitVec 4) (xs sz sc : BitVec 3) (off : BitVec 11) :
    (Fields.ofWord (encM op g d a b br xs sz sc off)).op = op ∧ (Fields.ofWord (encM op g d a b br xs sz sc off)).g = g.code
    ∧ (Fields.ofWord (encM op g d a b br xs sz sc off)).d = d ∧ (Fields.ofWord (encM op g d a b br xs sz sc off)).a = a
    ∧ (Fields.ofWord (encM op g d a b br xs sz sc off)).b = b ∧ (Fields.ofWord (encM op g d a b br xs sz sc off)).br = br
    ∧ (Fields.ofWord (encM op g d a b br xs sz sc off)).xs = xs ∧ (Fields.ofWord (encM op g d a b br xs sz sc off)).sz = sz
    ∧ (Fields.ofWord (encM op g d a b br xs sz sc off)).sc = sc ∧ (Fields.ofWord (encM op g d a b br xs sz sc off)).off11 = off := by
  refine ⟨?_, ?_, ?_, ?_, ?_, ?_, ?_, ?_, ?_, ?_⟩
  all_goals
    (apply BitVec.eq_of_getLsbD_eq; intro j hj
     simp only [Fields.br, Fields.xs, Fields.sz, Fields.sc, Fields.off11, Fields.ofWord, encM, BitVec.getLsbD_append, BitVec.getLsbD_extractLsb']; grind)

/-- The decoder's case of an opcode, by computation. -/
theorem decodeFields_integer (f : Fields) (x : W64) (op : Nat) (h : f.op.toNat = op) (h1 : 0x10 ≤ op) (h2 : op < 0x20) :
    decodeFields f x = decodeInteger op f := by
  subst h
  have hd : opDefined f.op.toNat = true := by simp [opDefined]; omega
  simp only [decodeFields, hd, Bool.not_true, Bool.false_eq_true, if_false]
  rw [if_neg (by omega), if_pos h2]

end Sys2Proof
end

