-- ==== Sys2Proof/Laws/SMap.lean ====
section
/-! SUPPORT. SMap.lean: what finding answers after each update of a table. -/
namespace Sys2Proof.Machine

variable {α : Type}

@[simp] theorem SMap.find_put_self (m : SMap α) (k : Nat) (v : α) : (m.put k v).find k = some v := by
  induction m with
  | nil => simp [SMap.put, SMap.find]
  | cons p m ih =>
    obtain ⟨j, w⟩ := p
    simp only [SMap.put]
    split
    · simp [SMap.find]
    · split
      · simp [SMap.find]
      · simp [SMap.find, *]

theorem SMap.find_put_ne (m : SMap α) {k j : Nat} (v : α) (h : j ≠ k) : (m.put k v).find j = m.find j := by
  induction m with
  | nil => simp [SMap.put, SMap.find, h]
  | cons p m ih =>
    obtain ⟨i, w⟩ := p
    simp only [SMap.put]
    split
    · simp [SMap.find, h]
    · split
      · subst_vars; simp [SMap.find, h]
      · simp [SMap.find, ih]

theorem SMap.find_put (m : SMap α) (k j : Nat) (v : α) : (m.put k v).find j = if j = k then some v else m.find j := by
  split
  · subst_vars; simp
  · exact SMap.find_put_ne m v ‹_›

@[simp] theorem SMap.find_del_self (m : SMap α) (k : Nat) : (m.del k).find k = none := by
  induction m with
  | nil => rfl
  | cons p m ih =>
    obtain ⟨i, w⟩ := p
    simp only [SMap.del]
    split
    · exact ih
    · simp [SMap.find, *]

theorem SMap.find_del_ne (m : SMap α) {k j : Nat} (h : j ≠ k) : (m.del k).find j = m.find j := by
  induction m with
  | nil => rfl
  | cons p m ih =>
    obtain ⟨i, w⟩ := p
    simp only [SMap.del]
    split
    · subst_vars; simp [SMap.find, ih, h]
    · simp [SMap.find, ih]

@[simp] theorem SMap.find_change_self (m : SMap α) (k : Nat) (f : α → α) : (m.change k f).find k = (m.find k).map f := by
  unfold SMap.change
  cases h : m.find k <;> simp [h]

theorem SMap.find_change_ne (m : SMap α) {k j : Nat} (f : α → α) (h : j ≠ k) : (m.change k f).find j = m.find j := by
  unfold SMap.change
  cases m.find k with
  | none => rfl
  | some v => exact SMap.find_put_ne m _ h

@[simp] theorem SMap.find_mapAll (m : SMap α) (f : Nat → α → α) (k : Nat) :
    (m.mapAll f).find k = (m.find k).map (f k) := by
  induction m with
  | nil => rfl
  | cons p m ih =>
    obtain ⟨i, w⟩ := p
    simp only [SMap.mapAll, List.map_cons, SMap.find] at ih ⊢
    split
    · subst_vars; simp
    · exact ih

theorem SMap.find_mem {m : SMap α} {k : Nat} {v : α} (h : m.find k = some v) : (k, v) ∈ m := by
  induction m with
  | nil => cases h
  | cons p m ih =>
    obtain ⟨i, w⟩ := p
    simp only [SMap.find] at h
    split at h
    · cases h; subst_vars; simp
    · exact List.mem_cons_of_mem _ (ih h)

@[simp] theorem SMap.getD_put_self (m : SMap α) (k : Nat) (v d : α) : SMap.getD (m.put k v) k d = v := by
  simp [SMap.getD]

theorem SMap.getD_put_ne (m : SMap α) {k j : Nat} (v d : α) (h : j ≠ k) :
    SMap.getD (m.put k v) j d = SMap.getD m j d := by
  simp [SMap.getD, SMap.find_put_ne m v h]

/-- Only the last of two values stored at a key stays. -/
@[simp] theorem SMap.put_put (m : SMap α) (k : Nat) (v w : α) : (m.put k v).put k w = m.put k w := by
  induction m with
  | nil => simp [SMap.put]
  | cons p m ih =>
    obtain ⟨i, x⟩ := p
    simp only [SMap.put]
    split
    · simp [SMap.put]
    · split
      · simp [SMap.put]
      · simp [SMap.put, *]

/-- A change stores the changed value. -/
theorem SMap.change_eq_put {m : SMap α} {k : Nat} {v : α} (f : α → α) (h : m.find k = some v) :
    m.change k f = m.put k (f v) := by simp only [SMap.change, h]

/-- Changes of one key compose. -/
theorem SMap.change_change (m : SMap α) (k : Nat) (f g : α → α) :
    (m.change k f).change k g = m.change k (fun x => g (f x)) := by
  unfold SMap.change
  cases h : m.find k <;> simp [h]

@[simp] theorem setAt_length (xs : List α) (n : Nat) (v : α) : (setAt xs n v).length = xs.length := by
  induction xs generalizing n with
  | nil => rfl
  | cons x xs ih => cases n <;> simp [setAt, ih]

@[simp] theorem changeAt_length (xs : List α) (n : Nat) (f : α → α) : (changeAt xs n f).length = xs.length := by
  induction xs generalizing n with
  | nil => rfl
  | cons x xs ih => cases n <;> simp [changeAt, ih]

theorem getD_setAt (xs : List α) (n k : Nat) (v d : α) :
    (setAt xs n v).getD k d = if k = n ∧ n < xs.length then v else xs.getD k d := by
  induction xs generalizing n k with
  | nil => simp [setAt]
  | cons x xs ih =>
    cases n <;> cases k <;> simp_all [setAt]

theorem getD_changeAt (xs : List α) (n k : Nat) (f : α → α) (d : α) :
    (changeAt xs n f).getD k d = if k = n ∧ n < xs.length then f (xs.getD k d) else xs.getD k d := by
  induction xs generalizing n k with
  | nil => simp [changeAt]
  | cons x xs ih =>
    cases n <;> cases k <;> simp_all [changeAt]

end Sys2Proof.Machine
end

