-- ==== Sys2Proof/Laws/Issue.lean ====
section
/-! SUPPORT. Issue.lean: what issuing does: a ready instruction has its own effect; one that fails a check of R100 takes
the trap of the first that fails, or waits. -/
namespace Sys2Proof.Machine

/-- A table of crews that differs from another at most in where the registers `dest` of a crew lie and when its
registers were used. -/
def RowsOnly (c0 : SMap Crew) (cid : Nat) (cr : Crew) (m : SMap Crew) (rm : SMap RegPlace) (lu : SMap Nat)
    (dest : List Nat) : Prop :=
  m.find cid = some { cr with rmap := rm, lastUse := lu } ∧ (∀ k, k ≠ cid → m.find k = c0.find k)
    ∧ (∀ r, r ∉ dest → rm.find r = cr.rmap.find r) ∧ ∀ v, m.put cid v = c0.put cid v

theorem dropSpill_rows (cr : Crew) (r : Nat) :
    ∃ rm, Crew.dropSpill cr r = { cr with rmap := rm } ∧ ∀ k, k ≠ r → rm.find k = cr.rmap.find k := by
  unfold Crew.dropSpill
  split
  · exact ⟨_, rfl, fun k hk => SMap.find_del_ne _ hk⟩
  · exact ⟨cr.rmap, rfl, fun _ _ => rfl⟩

theorem foldl_dropSpill_rows (rs : List Nat) (cr : Crew) :
    ∃ rm, rs.foldl Crew.dropSpill cr = { cr with rmap := rm } ∧ ∀ k, k ∉ rs → rm.find k = cr.rmap.find k := by
  induction rs generalizing cr with
  | nil => exact ⟨cr.rmap, rfl, fun _ _ => rfl⟩
  | cons r rs ih =>
    obtain ⟨rm, h, hk⟩ := dropSpill_rows cr r
    obtain ⟨rm', h', hk'⟩ := ih (Crew.dropSpill cr r)
    refine ⟨rm', by simp only [List.foldl_cons]; rw [h', h], fun k hn => ?_⟩
    simp only [List.mem_cons, not_or] at hn
    rw [hk' k hn.2, h, hk k hn.1]

theorem allocRow_rows {s s' : State} {cid r : Nat} {cr : Crew} (hc : s.crews.find cid = some cr)
    (h : allocRow s cid r = some s') :
    ∃ m rm, s' = { s with crews := m } ∧ RowsOnly s.crews cid cr m rm cr.lastUse [r] := by
  unfold allocRow at h
  rw [hc] at h
  simp only at h
  split at h
  · cases h
    exact ⟨_, cr.rmap, rfl, hc, fun _ _ => rfl, fun _ _ => rfl, fun _ => rfl⟩
  · split at h
    · cases h
    · cases h
      rename_i row _
      refine ⟨_, cr.rmap.put r (.resident row (rowsOf cr.w0)), rfl, ?_, fun k hk => SMap.find_change_ne _ _ hk,
        fun k hk => SMap.find_put_ne _ _ (by simpa using hk), fun v => by rw [SMap.change_eq_put _ hc, SMap.put_put]⟩
      rw [SMap.find_change_self, hc]
      rfl

theorem allocRows_rows {cid : Nat} (rs : List Nat) {s s' : State} {cr : Crew} (hc : s.crews.find cid = some cr)
    (h : allocRows s cid rs = some s') :
    ∃ m rm, s' = { s with crews := m } ∧ RowsOnly s.crews cid cr m rm cr.lastUse rs := by
  induction rs generalizing s cr with
  | nil =>
    cases h
    exact ⟨_, cr.rmap, rfl, hc, fun _ _ => rfl, fun _ _ => rfl, fun _ => rfl⟩
  | cons r rs ih =>
    simp only [allocRows] at h
    split at h
    · cases h
    · rename_i s1 h1
      obtain ⟨m, rm, rfl, hm, hk, hr, hp⟩ := allocRow_rows hc h1
      obtain ⟨m', rm', rfl, hm', hk', hr', hp'⟩ := ih hm h
      refine ⟨m', rm', rfl, hm', fun k hn => (hk' k hn).trans (hk k hn), fun k hn => ?_, fun v => (hp' v).trans (hp v)⟩
      simp only [List.mem_cons, not_or] at hn
      exact (hr' k hn.2).trans (hr k (by simpa using hn.1))

/-- Giving rows to an instruction's destination changes only where its crew's registers lie and when they were used. -/
theorem prepare_rows {s s' : State} {cid : Nat} {cr : Crew} {used dest : List Nat} (hc : s.crews.find cid = some cr)
    (h : prepare s cid used dest = some s') :
    ∃ m rm lu, s' = { s with crews := m } ∧ RowsOnly s.crews cid cr m rm lu dest := by
  unfold prepare at h
  simp only at h
  obtain ⟨rm0, h0, hr0⟩ := foldl_dropSpill_rows dest cr
  have hc1 : (updCrew s cid (fun c => { (dest.foldl Crew.dropSpill c) with
      lastUse := used.foldl (fun m r => m.put r s.issues) c.lastUse })).crews.find cid
      = some { cr with rmap := rm0, lastUse := used.foldl (fun m r => m.put r s.issues) cr.lastUse } := by
    simp only [updCrew, SMap.find_change_self, hc, Option.map_some]
    rw [h0]
  obtain ⟨m, rm, rfl, hm, hk, hr, hp⟩ := allocRows_rows dest hc1 h
  exact ⟨m, rm, _, rfl, hm, fun k hn => (hk k hn).trans (SMap.find_change_ne _ _ hn),
    fun k hn => (hr k hn).trans (hr0 k hn), fun v => by
      rw [hp v]; simp only [updCrew, SMap.change_eq_put _ hc, SMap.put_put]⟩

theorem executing_crew {s : State} {cid sid : Nat} {cr : Crew} {sp : Split} {off : Nat}
    (h : executing s = some (cid, sid, cr, sp, off)) :
    s.crews.find cid = some cr ∧ cr.split sid = some sp ∧ sp.place = .word off ∧ crewRuns s cr = true ∧ sp.state = .ready := by
  unfold executing at h
  split at h
  · cases h
  · split at h
    · cases h
    · rename_i hc
      split at h
      · cases h
      · rename_i hs
        split at h
        · rename_i hp
          split at h
          · rename_i hr
            simp only [Option.some.injEq, Prod.mk.injEq] at h
            obtain ⟨rfl, rfl, rfl, rfl, rfl⟩ := h
            simp only [Bool.and_eq_true, beq_iff_eq] at hr
            exact ⟨hc, hs, hp, hr.1, hr.2⟩
          · cases h
        · cases h

theorem emptyTrap_full {cr : Crew} {lanes : List Nat} (us : List SrcUse)
    (h : ∀ r ∈ us.flatMap SrcUse.regs, ∀ l ∈ lanes, cr.isFull r l = true) : emptyTrap cr lanes us = none := by
  induction us with
  | nil => rfl
  | cons u us ih =>
    simp only [List.flatMap_cons, List.mem_append] at h
    have hu : u.regs.any (fun r => lanes.any (fun l => !cr.isFull r l)) = false := by
      rw [List.any_eq_false]
      intro r hr
      rw [List.any_eq_true]
      rintro ⟨l, hl, hf⟩
      rw [h r (.inl hr) l hl] at hf
      cases hf
    simp [emptyTrap, hu, ih (fun r hr => h r (.inr hr))]

theorem failedSource_none {cr : Crew} {lanes : List Nat} (rs : List Nat)
    (h : ∀ r ∈ rs, ∀ l ∈ lanes, (cr.cell r l).bind (·.failed) = none) : failedSource cr lanes rs = none := by
  induction rs with
  | nil => rfl
  | cons r rs ih =>
    have hr : lanes.findSome? (fun l => (cr.cell r l).bind (·.failed)) = none := by
      rw [List.findSome?_eq_none_iff]
      exact h r (by simp)
    simp [failedSource, hr, ih (fun r hr => h r (List.mem_cons_of_mem _ hr))]

/-- Every instruction of a split issues, with its own effect as the body. -/
theorem exec_issue (i : Instr) (h : i.isEvent = false) : ∃ body, ∀ s, exec i s = issue s i body := by
  cases i <;> first | (cases h; done) | exact ⟨_, fun _ => rfl⟩

theorem mem_srcRegs {cr : Crew} {sp : Split} {i : Instr} {l r : Nat} (hl : l ∈ activeLanes cr sp i)
    (hr : r ∈ i.sig.srcs.flatMap SrcUse.regs) : r ∈ srcRegs cr sp i := by
  unfold srcRegs
  cases h : activeLanes cr sp i with
  | nil => rw [h] at hl; cases hl
  | cons a as => simpa using hr

/-- An instruction that is ready passes the checks, in an environment that differs from the state before only in where
its crew's registers lie and when they were used. -/
theorem vet_ready {s : State} {i : Instr} {cid sid : Nat} {cr : Crew} {sp : Split} {off : Nat}
    (h : Ready s i cid sid cr sp off) :
    ∃ m rm lu, RowsOnly s.crews cid cr m rm lu (destRegs cr sp i) ∧ stood s i cid cr sp = { s with crews := m }
      ∧ vet s i = .ok (envOf s i cid sid cr sp off m rm lu) := by
  obtain ⟨hc, -, -, -, -⟩ := executing_crew h.executes
  obtain ⟨s', hs'⟩ := Option.isSome_iff_exists.mp h.rows
  obtain ⟨m, rm, lu, rfl, hm, hk⟩ := prepare_rows hc hs'
  refine ⟨m, rm, lu, ⟨hm, hk⟩, by simp only [stood, hs', Option.getD_some], ?_⟩
  have hstatic : staticCheck s cr i = none := by
    have hf := h.fields
    simp only [Instr.wf] at hf
    simp only [staticCheck, h.engine, hf]
    cases hcsr : i.sig.csr with
    | none => simp
    | some n =>
      obtain ⟨h1, h2⟩ := h.csr n hcsr
      simp only [Option.filter, Bool.not_true]
      by_cases hp : 0x400 ≤ n.toNat
      · by_cases hq : n.toNat = 0x405
        · simp [h1 hp, h2 hq]
        · simp [h1 hp, hq]
      · have : n.toNat ≠ 0x405 := by omega
        simp [hp, this]
  have ht : ¬ crewDT s cr < cr.restore := Nat.not_lt.mpr h.free.time
  unfold vet
  rw [h.executes]
  simp only [ht, h.free.buffer, h.free.replayed, hstatic, if_false, Bool.false_eq_true, Bool.or_false]
  have hempty : emptyTrap cr (sp.active cr.width i.sig.guard) i.sig.srcs = none :=
    emptyTrap_full _ (fun r hr l hl => h.full r (List.mem_append_left _ (mem_srcRegs hl hr)) l hl)
  have hfull : (srcRegs cr sp i ++ destRegs cr sp i).any (fun r => (activeLanes cr sp i).any (fun l => !cr.isFull r l)) = false := by
    rw [List.any_eq_false]
    intro r hr
    simp only [List.any_eq_true, Bool.not_eq_true', not_exists, not_and, Bool.not_eq_false]
    exact h.full r hr
  have hrecs : ((i.sig.recs ++ destRecord i).map (·.toNat)).any (fun b => !(cr.record b).full) = false := by
    rw [List.any_map, List.any_eq_false]
    intro b hb
    simp only [Function.comp_apply, Bool.not_eq_true', Bool.not_eq_false]
    exact h.recsFull b hb
  have hacq : (Instr.isAccess i && !sp.acq.isEmpty) = false := by
    cases ha : Instr.isAccess i with
    | false => rfl
    | true => simp [h.acquired ha]
  have hspill : (srcRegs cr sp i).filter cr.isSpilled
      ++ (destRegs cr sp i).filter (fun r => cr.isSpilled r && !cr.covers r (activeLanes cr sp i)) = [] := by
    rw [List.append_eq_nil_iff, List.filter_eq_nil_iff, List.filter_eq_nil_iff]
    refine ⟨fun r hr => by simp [h.srcHere r hr], fun r hr => ?_⟩
    cases hs : cr.isSpilled r with
    | false => simp
    | true => simp [h.destHere r hr hs]
  have hfail : failedSource cr (activeLanes cr sp i) (srcRegs cr sp i) = none := failedSource_none _ h.srcGood
  have hrfail : i.sig.recs.findSome? (fun b => (cr.record b.toNat).failed) = none := by
    rw [List.findSome?_eq_none_iff]
    exact h.recsGood
  have hp : prepare s cid (srcRegs cr sp i ++ destRegs cr sp i) (destRegs cr sp i) = some { s with crews := m } := hs'
  unfold srcRegs at hfull hspill hfail hp
  unfold destRegs at hfull hspill hp
  unfold activeLanes at hfull hspill hfail hp
  simp only [operandCheck, hempty, hfull, hrecs, hacq, hspill, hfail, hrfail, hp, hm, Bool.or_false]
  rfl

/-- A ready instruction has its own effect. -/
theorem issue_stood {s : State} {i : Instr} {cid sid : Nat} {cr : Crew} {sp : Split} {off : Nat}
    (h : Ready s i cid sid cr sp off) :
    ∃ m rm lu, RowsOnly s.crews cid cr m rm lu (destRegs cr sp i) ∧ stood s i cid cr sp = { s with crews := m } ∧
      ∀ body, issue s i body = .next (Env.settle (envOf s i cid sid cr sp off m rm lu) s
        (body (envOf s i cid sid cr sp off m rm lu))) := by
  obtain ⟨m, rm, lu, hr, hs, hv⟩ := vet_ready h
  refine ⟨m, rm, lu, hr, hs, fun body => ?_⟩
  simp only [issue, hv]

/-- A ready instruction has its own effect. -/
theorem issue_ready {s : State} {i : Instr} {cid sid : Nat} {cr : Crew} {sp : Split} {off : Nat}
    (h : Ready s i cid sid cr sp off) :
    ∃ m rm lu, RowsOnly s.crews cid cr m rm lu (destRegs cr sp i) ∧
      ∀ body, issue s i body = .next (Env.settle (envOf s i cid sid cr sp off m rm lu) s
        (body (envOf s i cid sid cr sp off m rm lu))) := by
  obtain ⟨m, rm, lu, hr, -, hb⟩ := issue_stood h
  exact ⟨m, rm, lu, hr, hb⟩

/-- R37: an instruction that waits before it begins leaves its crew as it stood. -/
theorem settle_hold {s : State} {i : Instr} {cid sid : Nat} {cr : Crew} {sp : Split} {off : Nat} {m : SMap Crew}
    {rm : SMap RegPlace} {lu : SMap Nat} {dest : List Nat} (w : SplitState) (f : Split → Split)
    (hid : ∀ x, (f x).id = x.id) (hc : s.crews.find cid = some cr) (hm : RowsOnly s.crews cid cr m rm lu dest) :
    Env.settle (envOf s i cid sid cr sp off m rm lu) s (.hold w (updSplit { s with crews := m } cid sid f))
      = updSplit s cid sid (fun x => { f x with state := w }) := by
  obtain ⟨hf, -, -, hp⟩ := hm
  have hs (l : List Split) : (l.map (fun x => if x.id = sid then f x else x)).map
      (fun x => if x.id = sid then { x with state := w } else x)
      = l.map (fun x => if x.id = sid then { f x with state := w } else x) := by
    simp only [List.map_map]
    congr 1
    funext x
    by_cases h : x.id = sid <;> simp [h, hid]
  simp only [Env.settle, envOf, unprepare, hc, setState, updSplit, updCrew, SMap.change_change]
  rw [SMap.change_eq_put _ hf, SMap.change_eq_put _ hc, hp]
  simp only [Crew.updSplit, hs]

end Sys2Proof.Machine
end

