-- ==== Sys2Proof/Laws/Memory.lean ====
section
/-! SUPPORT. Memory.lean: what a byte of memory reads as after each write, and that every memory operation keeps the
canonical form (addresses strictly rising, and no byte listed that equals an unlisted one). -/
namespace Sys2Proof.Machine

variable {α : Type}

/-- Every key of a rising table's tail lies above its head. -/
theorem SMap.rising_cons {j : Nat} {w : α} {m : SMap α} :
    SMap.rising ((j, w) :: m) = true ↔ (∀ p ∈ m, j < p.1) ∧ SMap.rising m = true := by
  induction m generalizing j w with
  | nil => simp [SMap.rising]
  | cons p m ih =>
    obtain ⟨i, v⟩ := p
    simp only [SMap.rising, Bool.and_eq_true, decide_eq_true_eq, List.mem_cons, forall_eq_or_imp]
    constructor
    · rintro ⟨hji, hr⟩
      exact ⟨⟨hji, fun p hp => Nat.lt_trans hji ((ih.mp hr).1 p hp)⟩, hr⟩
    · rintro ⟨⟨hji, _⟩, hr⟩
      exact ⟨hji, hr⟩

/-- What is in a table after a value is stored was there or is the value. -/
theorem SMap.mem_put {m : SMap α} {k : Nat} {v : α} {p : Nat × α} (h : p ∈ m.put k v) : p = (k, v) ∨ p ∈ m := by
  induction m with
  | nil => simpa [SMap.put] using h
  | cons q m ih =>
    obtain ⟨j, w⟩ := q
    simp only [SMap.put] at h
    split at h
    · simpa using h
    · split at h <;> simp only [List.mem_cons] at h ⊢ <;> tauto

/-- What is in a table after a key is removed was there. -/
theorem SMap.mem_del {m : SMap α} {k : Nat} {p : Nat × α} (h : p ∈ m.del k) : p ∈ m := by
  induction m with
  | nil => cases h
  | cons q m ih =>
    obtain ⟨j, w⟩ := q
    simp only [SMap.del] at h
    split at h <;> simp only [List.mem_cons] at h ⊢ <;> tauto

/-- Storing a value keeps the rising order. -/
theorem SMap.rising_put {m : SMap α} (h : m.rising = true) (k : Nat) (v : α) : (m.put k v).rising = true := by
  induction m with
  | nil => rfl
  | cons q m ih =>
    obtain ⟨j, w⟩ := q
    have hm := SMap.rising_cons.mp h
    simp only [SMap.put]
    split
    · rename_i hk
      refine SMap.rising_cons.mpr ⟨fun p hp => ?_, h⟩
      obtain rfl | hp := List.mem_cons.mp hp
      · exact hk
      · exact Nat.lt_trans hk (hm.1 p hp)
    · split
      · subst_vars
        exact SMap.rising_cons.mpr hm
      · refine SMap.rising_cons.mpr ⟨fun p hp => ?_, ih hm.2⟩
        obtain rfl | hp := SMap.mem_put hp
        · show j < k
          omega
        · exact hm.1 p hp

/-- Removing a key keeps the rising order. -/
theorem SMap.rising_del {m : SMap α} (h : m.rising = true) (k : Nat) : (m.del k).rising = true := by
  induction m with
  | nil => rfl
  | cons q m ih =>
    obtain ⟨j, w⟩ := q
    have hm := SMap.rising_cons.mp h
    simp only [SMap.del]
    split
    · exact ih hm.2
    · exact SMap.rising_cons.mpr ⟨fun p hp => hm.1 p (SMap.mem_del hp), ih hm.2⟩

/-- What the canonical form says. -/
theorem Memory.wf_iff (m : Mem) : Memory.wf m = true ↔ SMap.rising m = true ∧ ∀ p ∈ m, p.2 ≠ emptyByte := by
  simp [Memory.wf]

/-- An empty memory is canonical. -/
@[simp] theorem Memory.wf_nil : Memory.wf [] = true := rfl

/-- A byte just written reads as written. -/
@[simp] theorem Memory.get_set_self (m : Mem) (a : Nat) (b : Byte) : Memory.get (Memory.set m a b) a = b := by
  unfold Memory.get Memory.set
  split
  · subst_vars
    simp [SMap.getD]
  · simp

/-- A byte's write leaves every other byte. -/
theorem Memory.get_set_ne (m : Mem) {a x : Nat} (b : Byte) (h : x ≠ a) :
    Memory.get (Memory.set m a b) x = Memory.get m x := by
  unfold Memory.get Memory.set
  split
  · simp [SMap.getD, SMap.find_del_ne m h]
  · exact SMap.getD_put_ne m b emptyByte h

/-- Writing a byte keeps the canonical form. -/
theorem Memory.wf_set {m : Mem} (h : Memory.wf m = true) (a : Nat) (b : Byte) : Memory.wf (Memory.set m a b) = true := by
  rw [Memory.wf_iff] at h ⊢
  unfold Memory.set
  split
  · exact ⟨SMap.rising_del h.1 a, fun p hp => h.2 p (SMap.mem_del hp)⟩
  · refine ⟨SMap.rising_put h.1 a b, fun p hp => ?_⟩
    obtain rfl | hp := SMap.mem_put hp
    · assumption
    · exact h.2 p hp

/-- Writing bytes from an address keeps the canonical form. -/
theorem Memory.wf_setN {m : Mem} (h : Memory.wf m = true) (a : Nat) (bs : List Byte) :
    Memory.wf (Memory.setN m a bs) = true := by
  induction bs generalizing m a with
  | nil => exact h
  | cons b bs ih => exact ih (Memory.wf_set h a b) (a + 1)

/-- Writing bytes at listed addresses keeps the canonical form. -/
theorem Memory.wf_setAll {m : Mem} (h : Memory.wf m = true) (ws : List (Nat × Byte)) :
    Memory.wf (Memory.setAll m ws) = true := by
  induction ws generalizing m with
  | nil => exact h
  | cons w ws ih => exact ih (Memory.wf_set h w.1 w.2)

/-- What the host's software stores keeps host memory's canonical form. -/
theorem hostStores_wf {m : Mem} (h : Memory.wf m = true) (ws : List (Nat × List Byte)) :
    Memory.wf (hostStores m ws) = true := by
  unfold hostStores
  induction ws generalizing m with
  | nil => exact h
  | cons w ws ih => exact ih (Memory.wf_setN h w.1 w.2)

/-- Bytes written from an address leave every byte outside them. -/
theorem Memory.get_setN_outside (m : Mem) (a : Nat) (bs : List Byte) {x : Nat} (h : x < a ∨ a + bs.length ≤ x) :
    Memory.get (Memory.setN m a bs) x = Memory.get m x := by
  induction bs generalizing m a with
  | nil => rfl
  | cons b bs ih =>
    simp only [List.length_cons] at h
    rw [Memory.setN, ih _ _ (by omega), Memory.get_set_ne m b (by omega)]

/-- Bytes written at listed addresses leave every address not listed. -/
theorem Memory.get_setAll_outside (m : Mem) (ws : List (Nat × Byte)) {x : Nat} (h : ∀ w ∈ ws, w.1 ≠ x) :
    Memory.get (Memory.setAll m ws) x = Memory.get m x := by
  induction ws generalizing m with
  | nil => rfl
  | cons w ws ih =>
    simp only [List.mem_cons, forall_eq_or_imp] at h
    rw [Memory.setAll, ih _ h.2, Memory.get_set_ne m w.2 (Ne.symm h.1)]

/-- Device and host memory are canonical right after reset. -/
theorem State.reset_memory_wf :
    Memory.wf State.reset.mem = true ∧ Memory.wf State.reset.hostMem = true := ⟨rfl, rfl⟩

/-- A granule request leaves memory. -/
theorem sendGranule_mem {s t : State} {pa : Nat} {write : Bool} {acc : Option (Nat × Nat)}
    (h : sendGranule s pa write acc = some t) : t.mem = s.mem := by
  dsimp only [sendGranule] at h
  split at h
  · cases h
  · obtain ⟨k, -, rfl⟩ := Option.map_eq_some_iff.mp h
    rfl

/-- A masked write, sent or held, leaves memory. -/
theorem sendWrite_mem (s : State) (g : Nat) : (sendWrite s g).mem = s.mem := by
  dsimp only [sendWrite]
  split
  · cases h : sendGranule s (g * 64) true none with
    | none => rfl
    | some t => exact sendGranule_mem h
  · rfl

/-- Sending a store's masked writes to its stack leaves memory. -/
theorem sendWrites_mem (s : State) (line : Nat) (ws : List (Nat × Byte)) : (sendWrites s line ws).mem = s.mem := by
  unfold sendWrites
  generalize List.filter _ [0, 1] = gs
  induction gs generalizing s with
  | nil => rfl
  | cons g gs ih => rw [List.foldl_cons, ih, sendWrite_mem]

/-- What a store's bytes leave in memory. -/
theorem landBytes_mem (s : State) (line : Nat) (ws : List (Nat × Byte)) :
    (landBytes s line ws).mem = Memory.setAll s.mem (ws.map (fun p => (line * 128 + p.1, p.2))) := by
  simp only [landBytes, clearFailed, sendWrites_mem]

/-- A store keeps device memory's canonical form. -/
theorem landBytes_wf {s : State} (h : Memory.wf s.mem = true) (line : Nat) (ws : List (Nat × Byte)) :
    Memory.wf (landBytes s line ws).mem = true := by
  rw [landBytes_mem]
  exact Memory.wf_setAll h _

/-- Restoring an image keeps device memory's canonical form. -/
theorem restoreMemory_wf {s : State} (h : Memory.wf s.mem = true) (bs : List Byte) :
    Memory.wf (restoreMemory s bs).mem = true := Memory.wf_setN h 0 bs

end Sys2Proof.Machine
end

