-- ==== Sys2Proof/Laws/PerInstr.lean ====
section
/-! SUPPORT. PerInstr.lean: the family `Words`, one lemma per constructor: how many words an instruction has, and that
its second word stands exactly where the first word's opcode takes an extension word (R91, R92). -/
namespace Sys2Proof.Laws

/-- The words of an instruction: one, or two where its opcode takes an extension word; none of an event's. An illegal
opcode is one that R97 leaves undefined. -/
def Words.Statement (i : Instr) : Prop :=
  (∀ op, i = .illegalOpcode op → opDefined op.toNat = false) →
    match encode i with
    | [] => i.isEvent = true
    | [w] => i.isEvent = false ∧ hasExt (Fields.ofWord w).op.toNat = false
    | [w, _] => i.isEvent = false ∧ hasExt (Fields.ofWord w).op.toNat = true
    | _ => False

theorem op_encA (op : BitVec 8) (g : Guard) (d : BitVec 8) (a b c : BitVec 10) (m : BitVec 14) :
    (Fields.ofWord (encA op g d a b c m)).op = op := by rw [ofWord_encA]
theorem op_encC (op : BitVec 8) (g : Guard) (k : BitVec 20) (off : BitVec 32) :
    (Fields.ofWord (encC op g k off)).op = op := (ofWord_encC op g k off).1
theorem op_encI (op : BitVec 8) (g : Guard) (d : BitVec 8) (a : BitVec 10) (imm : BitVec 32) (m : BitVec 2) :
    (Fields.ofWord (encI op g d a imm m)).op = op := by
  simp (disch := decide) only [-Nat.reduceAdd, -Nat.reduceSub, Fields.ofWord, encI, ext_lo, ext_hi, ext_self]
theorem op_encM (op : BitVec 8) (g : Guard) (d : BitVec 8) (a b : BitVec 10) (br : BitVec 4) (xs sz sc : BitVec 3)
    (off : BitVec 11) : (Fields.ofWord (encM op g d a b br xs sz sc off)).op = op := by
  simp (disch := decide) only [-Nat.reduceAdd, -Nat.reduceSub, Fields.ofWord, encM, ext_lo, ext_hi, ext_self]
theorem op_fence (op : BitVec 8) (g : BitVec 4) (z : BitVec 28) (s d : BitVec 8) (c : BitVec 3) (b : BitVec 1)
    (y : BitVec 4) : (Fields.ofWord (op ++ g ++ z ++ s ++ d ++ c ++ b ++ y)).op = op := by
  simp (disch := decide) only [-Nat.reduceAdd, -Nat.reduceSub, Fields.ofWord, ext_lo, ext_hi, ext_self]

/-- No opcode that takes an extension word is undefined. -/
theorem hasExt_of_undefined (op : BitVec 8) (h : opDefined op.toNat = false) : hasExt op.toNat = false := by
  revert op; decide

theorem Words.nop x0 : Words.Statement (.nop x0) := fun _ => ⟨rfl, by rw [op_encA]; rfl⟩
theorem Words.bra x0 : Words.Statement (.bra x0) := fun _ => ⟨rfl, by rw [op_encC]; rfl⟩
theorem Words.brc x0 x1 : Words.Statement (.brc x0 x1) := fun _ => ⟨rfl, by rw [op_encC]; rfl⟩
theorem Words.call x0 : Words.Statement (.call x0) := fun _ => ⟨rfl, by rw [op_encC]; rfl⟩
theorem Words.ret : Words.Statement (.ret) := fun _ => ⟨rfl, by rw [op_encC]; rfl⟩
theorem Words.exit x0 : Words.Statement (.exit x0) := fun _ => ⟨rfl, by rw [op_encC]; rfl⟩
theorem Words.exitSuccessor x0 x1 : Words.Statement (.exitSuccessor x0 x1) := fun _ => ⟨rfl, by rw [op_encC]; rfl⟩
theorem Words.yield x0 x1 x2 : Words.Statement (.yield x0 x1 x2) := fun _ => ⟨rfl, by rw [op_encC]; rfl⟩
theorem Words.waitc x0 x1 x2 : Words.Statement (.waitc x0 x1 x2) := fun _ => ⟨rfl, by rw [op_encA]; rfl⟩
theorem Words.bar x0 x1 : Words.Statement (.bar x0 x1) := fun _ => ⟨rfl, by rw [op_encA]; rfl⟩
theorem Words.trap x0 x1 : Words.Statement (.trap x0 x1) := fun _ => ⟨rfl, by rw [op_encI]; rfl⟩
theorem Words.rtt : Words.Statement (.rtt) := fun _ => ⟨rfl, by rw [op_encA]; rfl⟩
theorem Words.gsig x0 x1 : Words.Statement (.gsig x0 x1) := fun _ => ⟨rfl, by rw [op_encA]; rfl⟩
theorem Words.iadd x0 x1 x2 x3 x4 x5 : Words.Statement (.iadd x0 x1 x2 x3 x4 x5) := fun _ => ⟨rfl, by rw [op_encA]; rfl⟩
theorem Words.isub x0 x1 x2 x3 x4 x5 : Words.Statement (.isub x0 x1 x2 x3 x4 x5) := fun _ => ⟨rfl, by rw [op_encA]; rfl⟩
theorem Words.imul x0 x1 x2 x3 x4 x5 : Words.Statement (.imul x0 x1 x2 x3 x4 x5) := fun _ => ⟨rfl, by rw [op_encA]; rfl⟩
theorem Words.imulh x0 x1 x2 x3 x4 : Words.Statement (.imulh x0 x1 x2 x3 x4) := fun _ => ⟨rfl, by rw [op_encA]; rfl⟩
theorem Words.imad x0 x1 x2 x3 x4 x5 x6 : Words.Statement (.imad x0 x1 x2 x3 x4 x5 x6) :=
  fun _ => ⟨rfl, by rw [op_encA]; rfl⟩
theorem Words.idiv x0 x1 x2 x3 x4 x5 x6 x7 : Words.Statement (.idiv x0 x1 x2 x3 x4 x5 x6 x7) :=
  fun _ => ⟨rfl, by rw [op_encA]; rfl⟩
theorem Words.imin x0 x1 x2 x3 x4 : Words.Statement (.imin x0 x1 x2 x3 x4) := fun _ => ⟨rfl, by rw [op_encA]; rfl⟩
theorem Words.imax x0 x1 x2 x3 x4 : Words.Statement (.imax x0 x1 x2 x3 x4) := fun _ => ⟨rfl, by rw [op_encA]; rfl⟩
theorem Words.iabs x0 x1 x2 x3 x4 : Words.Statement (.iabs x0 x1 x2 x3 x4) := fun _ => ⟨rfl, by rw [op_encA]; rfl⟩
theorem Words.ineg x0 x1 x2 x3 x4 : Words.Statement (.ineg x0 x1 x2 x3 x4) := fun _ => ⟨rfl, by rw [op_encA]; rfl⟩
theorem Words.icmp x0 x1 x2 x3 x4 x5 x6 : Words.Statement (.icmp x0 x1 x2 x3 x4 x5 x6) :=
  fun _ => ⟨rfl, by rw [op_encA]; rfl⟩
theorem Words.idp4 x0 x1 x2 x3 x4 x5 x6 x7 : Words.Statement (.idp4 x0 x1 x2 x3 x4 x5 x6 x7) :=
  fun _ => ⟨rfl, by rw [op_encA]; rfl⟩
theorem Words.sel x0 x1 x2 x3 x4 x5 x6 : Words.Statement (.sel x0 x1 x2 x3 x4 x5 x6) :=
  fun _ => ⟨rfl, by rw [op_encA]; rfl⟩
theorem Words.mov x0 x1 x2 x3 : Words.Statement (.mov x0 x1 x2 x3) := fun _ => ⟨rfl, by rw [op_encA]; rfl⟩
theorem Words.movi x0 x1 x2 x3 x4 : Words.Statement (.movi x0 x1 x2 x3 x4) := fun _ => ⟨rfl, by rw [op_encI]; rfl⟩
theorem Words.cvt x0 x1 x2 x3 x4 x5 : Words.Statement (.cvt x0 x1 x2 x3 x4 x5) := fun _ => ⟨rfl, by rw [op_encA]; rfl⟩
theorem Words.andL x0 x1 x2 x3 x4 : Words.Statement (.andL x0 x1 x2 x3 x4) := fun _ => ⟨rfl, by rw [op_encA]; rfl⟩
theorem Words.orL x0 x1 x2 x3 x4 : Words.Statement (.orL x0 x1 x2 x3 x4) := fun _ => ⟨rfl, by rw [op_encA]; rfl⟩
theorem Words.xorL x0 x1 x2 x3 x4 : Words.Statement (.xorL x0 x1 x2 x3 x4) := fun _ => ⟨rfl, by rw [op_encA]; rfl⟩
theorem Words.notL x0 x1 x2 x3 : Words.Statement (.notL x0 x1 x2 x3) := fun _ => ⟨rfl, by rw [op_encA]; rfl⟩
theorem Words.bool3 x0 x1 x2 x3 x4 x5 x6 : Words.Statement (.bool3 x0 x1 x2 x3 x4 x5 x6) :=
  fun _ => ⟨rfl, by rw [op_encA]; rfl⟩
theorem Words.shl x0 x1 x2 x3 x4 : Words.Statement (.shl x0 x1 x2 x3 x4) := fun _ => ⟨rfl, by rw [op_encA]; rfl⟩
theorem Words.shr x0 x1 x2 x3 x4 : Words.Statement (.shr x0 x1 x2 x3 x4) := fun _ => ⟨rfl, by rw [op_encA]; rfl⟩
theorem Words.sar x0 x1 x2 x3 x4 : Words.Statement (.sar x0 x1 x2 x3 x4) := fun _ => ⟨rfl, by rw [op_encA]; rfl⟩
theorem Words.rot x0 x1 x2 x3 x4 x5 : Words.Statement (.rot x0 x1 x2 x3 x4 x5) := fun _ => ⟨rfl, by rw [op_encA]; rfl⟩
theorem Words.fsh x0 x1 x2 x3 x4 x5 x6 : Words.Statement (.fsh x0 x1 x2 x3 x4 x5 x6) :=
  fun _ => ⟨rfl, by rw [op_encA]; rfl⟩
theorem Words.bfx x0 x1 x2 x3 x4 x5 : Words.Statement (.bfx x0 x1 x2 x3 x4 x5) := fun _ => ⟨rfl, by rw [op_encA]; rfl⟩
theorem Words.bfi x0 x1 x2 x3 x4 x5 : Words.Statement (.bfi x0 x1 x2 x3 x4 x5) := fun _ => ⟨rfl, by rw [op_encA]; rfl⟩
theorem Words.popc x0 x1 x2 x3 : Words.Statement (.popc x0 x1 x2 x3) := fun _ => ⟨rfl, by rw [op_encA]; rfl⟩
theorem Words.clz x0 x1 x2 x3 : Words.Statement (.clz x0 x1 x2 x3) := fun _ => ⟨rfl, by rw [op_encA]; rfl⟩
theorem Words.brev x0 x1 x2 x3 : Words.Statement (.brev x0 x1 x2 x3) := fun _ => ⟨rfl, by rw [op_encA]; rfl⟩
theorem Words.prmt x0 x1 x2 x3 x4 x5 : Words.Statement (.prmt x0 x1 x2 x3 x4 x5) := fun _ => ⟨rfl, by rw [op_encA]; rfl⟩
theorem Words.fadd x0 x1 x2 x3 x4 x5 : Words.Statement (.fadd x0 x1 x2 x3 x4 x5) := fun _ => ⟨rfl, by rw [op_encA]; rfl⟩
theorem Words.fsub x0 x1 x2 x3 x4 x5 : Words.Statement (.fsub x0 x1 x2 x3 x4 x5) := fun _ => ⟨rfl, by rw [op_encA]; rfl⟩
theorem Words.fmul x0 x1 x2 x3 x4 x5 : Words.Statement (.fmul x0 x1 x2 x3 x4 x5) := fun _ => ⟨rfl, by rw [op_encA]; rfl⟩
theorem Words.ffma x0 x1 x2 x3 x4 x5 x6 : Words.Statement (.ffma x0 x1 x2 x3 x4 x5 x6) :=
  fun _ => ⟨rfl, by rw [op_encA]; rfl⟩
theorem Words.fmin x0 x1 x2 x3 x4 x5 x6 : Words.Statement (.fmin x0 x1 x2 x3 x4 x5 x6) :=
  fun _ => ⟨rfl, by rw [op_encA]; rfl⟩
theorem Words.fmax x0 x1 x2 x3 x4 x5 x6 : Words.Statement (.fmax x0 x1 x2 x3 x4 x5 x6) :=
  fun _ => ⟨rfl, by rw [op_encA]; rfl⟩
theorem Words.fcmp x0 x1 x2 x3 x4 x5 x6 x7 : Words.Statement (.fcmp x0 x1 x2 x3 x4 x5 x6 x7) :=
  fun _ => ⟨rfl, by rw [op_encA]; rfl⟩
theorem Words.fclass x0 x1 x2 x3 : Words.Statement (.fclass x0 x1 x2 x3) := fun _ => ⟨rfl, by rw [op_encA]; rfl⟩
theorem Words.frcp x0 x1 x2 x3 x4 : Words.Statement (.frcp x0 x1 x2 x3 x4) := fun _ => ⟨rfl, by rw [op_encA]; rfl⟩
theorem Words.frsq x0 x1 x2 x3 x4 : Words.Statement (.frsq x0 x1 x2 x3 x4) := fun _ => ⟨rfl, by rw [op_encA]; rfl⟩
theorem Words.fsqrt x0 x1 x2 x3 x4 : Words.Statement (.fsqrt x0 x1 x2 x3 x4) := fun _ => ⟨rfl, by rw [op_encA]; rfl⟩
theorem Words.flog2 x0 x1 x2 x3 x4 : Words.Statement (.flog2 x0 x1 x2 x3 x4) := fun _ => ⟨rfl, by rw [op_encA]; rfl⟩
theorem Words.fexp2 x0 x1 x2 x3 x4 : Words.Statement (.fexp2 x0 x1 x2 x3 x4) := fun _ => ⟨rfl, by rw [op_encA]; rfl⟩
theorem Words.ftanh x0 x1 x2 x3 x4 : Words.Statement (.ftanh x0 x1 x2 x3 x4) := fun _ => ⟨rfl, by rw [op_encA]; rfl⟩
theorem Words.fsig x0 x1 x2 x3 x4 : Words.Statement (.fsig x0 x1 x2 x3 x4) := fun _ => ⟨rfl, by rw [op_encA]; rfl⟩
theorem Words.hadd2 x0 x1 x2 x3 x4 x5 : Words.Statement (.hadd2 x0 x1 x2 x3 x4 x5) :=
  fun _ => ⟨rfl, by rw [op_encA]; rfl⟩
theorem Words.hmul2 x0 x1 x2 x3 x4 x5 : Words.Statement (.hmul2 x0 x1 x2 x3 x4 x5) :=
  fun _ => ⟨rfl, by rw [op_encA]; rfl⟩
theorem Words.hfma2 x0 x1 x2 x3 x4 x5 x6 : Words.Statement (.hfma2 x0 x1 x2 x3 x4 x5 x6) :=
  fun _ => ⟨rfl, by rw [op_encA]; rfl⟩
theorem Words.shfl x0 x1 x2 x3 x4 x5 : Words.Statement (.shfl x0 x1 x2 x3 x4 x5) := fun _ => ⟨rfl, by rw [op_encA]; rfl⟩
theorem Words.vote x0 x1 x2 x3 x4 : Words.Statement (.vote x0 x1 x2 x3 x4) := fun _ => ⟨rfl, by rw [op_encA]; rfl⟩
theorem Words.red x0 x1 x2 x3 x4 x5 : Words.Statement (.red x0 x1 x2 x3 x4 x5) := fun _ => ⟨rfl, by rw [op_encA]; rfl⟩
theorem Words.rmaxi x0 x1 x2 x3 x4 x5 : Words.Statement (.rmaxi x0 x1 x2 x3 x4 x5) :=
  fun _ => ⟨rfl, by rw [op_encA]; rfl⟩
theorem Words.scan x0 x1 x2 x3 x4 x5 x6 : Words.Statement (.scan x0 x1 x2 x3 x4 x5 x6) :=
  fun _ => ⟨rfl, by rw [op_encA]; rfl⟩
theorem Words.reform x0 x1 : Words.Statement (.reform x0 x1) := fun _ => ⟨rfl, by rw [op_encA]; rfl⟩
theorem Words.elect x0 x1 x2 x3 : Words.Statement (.elect x0 x1 x2 x3) := fun _ => ⟨rfl, by rw [op_encA]; rfl⟩
theorem Words.ld x0 x1 x2 x3 : Words.Statement (.ld x0 x1 x2 x3) := fun _ => ⟨rfl, by rw [op_encM]; rfl⟩
theorem Words.st x0 x1 x2 x3 : Words.Statement (.st x0 x1 x2 x3) := fun _ => ⟨rfl, by rw [op_encM]; rfl⟩
theorem Words.lds x0 x1 x2 : Words.Statement (.lds x0 x1 x2) := fun _ => ⟨rfl, by rw [op_encM]; rfl⟩
theorem Words.sts x0 x1 x2 : Words.Statement (.sts x0 x1 x2) := fun _ => ⟨rfl, by rw [op_encM]; rfl⟩
theorem Words.gather x0 x1 x2 : Words.Statement (.gather x0 x1 x2) := fun _ => ⟨rfl, by rw [op_encM]; rfl⟩
theorem Words.scatter x0 x1 x2 : Words.Statement (.scatter x0 x1 x2) := fun _ => ⟨rfl, by rw [op_encM]; rfl⟩
theorem Words.pref x0 x1 x2 : Words.Statement (.pref x0 x1 x2) := fun _ => ⟨rfl, by rw [op_encM]; rfl⟩
theorem Words.fence x0 x1 x2 x3 x4 : Words.Statement (.fence x0 x1 x2 x3 x4) := fun _ => ⟨rfl, by rw [op_fence]; rfl⟩
theorem Words.icsync x0 x1 x2 x3 : Words.Statement (.icsync x0 x1 x2 x3) := fun _ => ⟨rfl, by rw [op_encA]; rfl⟩
theorem Words.copy x0 x1 x2 x3 x4 x5 : Words.Statement (.copy x0 x1 x2 x3 x4 x5) := fun _ => ⟨rfl, by rw [op_encA]; rfl⟩
theorem Words.brld x0 x1 x2 x3 x4 x5 : Words.Statement (.brld x0 x1 x2 x3 x4 x5) := fun _ => ⟨rfl, by rw [op_encM]; rfl⟩
theorem Words.brmk x0 x1 x2 x3 x4 x5 x6 x7 : Words.Statement (.brmk x0 x1 x2 x3 x4 x5 x6 x7) :=
  fun _ => ⟨rfl, by rw [op_encA]; rfl⟩
theorem Words.spgrow x0 x1 x2 : Words.Statement (.spgrow x0 x1 x2) := fun _ => ⟨rfl, by rw [op_encA]; rfl⟩
theorem Words.spfree x0 x1 : Words.Statement (.spfree x0 x1) := fun _ => ⟨rfl, by rw [op_encA]; rfl⟩
theorem Words.pin x0 x1 x2 x3 x4 x5 : Words.Statement (.pin x0 x1 x2 x3 x4 x5) := fun _ => ⟨rfl, by rw [op_encA]; rfl⟩
theorem Words.unpin x0 x1 : Words.Statement (.unpin x0 x1) := fun _ => ⟨rfl, by rw [op_encA]; rfl⟩
theorem Words.atom x0 x1 x2 x3 x4 x5 x6 x7 x8 x9 : Words.Statement (.atom x0 x1 x2 x3 x4 x5 x6 x7 x8 x9) :=
  fun _ => ⟨rfl, by rw [op_encA]; rfl⟩
theorem Words.atomo x0 x1 x2 x3 x4 x5 x6 x7 x8 x9 : Words.Statement (.atomo x0 x1 x2 x3 x4 x5 x6 x7 x8 x9) :=
  fun _ => ⟨rfl, by rw [op_encA]; rfl⟩
theorem Words.reds x0 x1 x2 x3 x4 x5 x6 x7 : Words.Statement (.reds x0 x1 x2 x3 x4 x5 x6 x7) :=
  fun _ => ⟨rfl, by rw [op_encA]; rfl⟩
theorem Words.combine x0 x1 : Words.Statement (.combine x0 x1) := fun _ => ⟨rfl, by rw [op_encA]; rfl⟩
theorem Words.llock x0 x1 x2 x3 x4 x5 : Words.Statement (.llock x0 x1 x2 x3 x4 x5) :=
  fun _ => ⟨rfl, by rw [op_encA]; rfl⟩
theorem Words.lunlock x0 x1 x2 x3 : Words.Statement (.lunlock x0 x1 x2 x3) := fun _ => ⟨rfl, by rw [op_encA]; rfl⟩
theorem Words.mma x0 x1 x2 x3 x4 x5 x6 x7 x8 : Words.Statement (.mma x0 x1 x2 x3 x4 x5 x6 x7 x8) :=
  fun _ => ⟨rfl, by rw [op_encA]; rfl⟩
theorem Words.mmas x0 x1 x2 x3 x4 x5 x6 x7 x8 : Words.Statement (.mmas x0 x1 x2 x3 x4 x5 x6 x7 x8) :=
  fun _ => ⟨rfl, by rw [op_encA]; rfl⟩
theorem Words.mgrp x0 x1 x2 x3 x4 x5 x6 : Words.Statement (.mgrp x0 x1 x2 x3 x4 x5 x6) :=
  fun _ => ⟨rfl, by rw [op_encA]; rfl⟩
theorem Words.mzero x0 : Words.Statement (.mzero x0) := fun _ => ⟨rfl, by rw [op_encA]; rfl⟩
theorem Words.mdrain x0 x1 x2 x3 x4 x5 x6 x7 x8 x9 x10 : Words.Statement (.mdrain x0 x1 x2 x3 x4 x5 x6 x7 x8 x9 x10) :=
  fun _ => ⟨rfl, by rw [op_encA]; rfl⟩
theorem Words.mmask x0 x1 x2 : Words.Statement (.mmask x0 x1 x2) := fun _ => ⟨rfl, by rw [op_encA]; rfl⟩
theorem Words.mwait x0 x1 : Words.Statement (.mwait x0 x1) := fun _ => ⟨rfl, by rw [op_encA]; rfl⟩
theorem Words.tilepost x0 x1 : Words.Statement (.tilepost x0 x1) := fun _ => ⟨rfl, by rw [op_encA]; rfl⟩
theorem Words.tilewait x0 x1 x2 x3 : Words.Statement (.tilewait x0 x1 x2 x3) := fun _ => ⟨rfl, by rw [op_encA]; rfl⟩
theorem Words.wload x0 x1 x2 x3 x4 x5 x6 x7 x8 x9 : Words.Statement (.wload x0 x1 x2 x3 x4 x5 x6 x7 x8 x9) :=
  fun _ => ⟨rfl, by rw [op_encA]; rfl⟩
theorem Words.wbias x0 x1 x2 x3 x4 : Words.Statement (.wbias x0 x1 x2 x3 x4) := fun _ => ⟨rfl, by rw [op_encA]; rfl⟩
theorem Words.wclamp x0 x1 x2 x3 x4 : Words.Statement (.wclamp x0 x1 x2 x3 x4) := fun _ => ⟨rfl, by rw [op_encA]; rfl⟩
theorem Words.wsweep x0 x1 x2 x3 x4 x5 x6 : Words.Statement (.wsweep x0 x1 x2 x3 x4 x5 x6) :=
  fun _ => ⟨rfl, by rw [op_encA]; rfl⟩
theorem Words.wread x0 x1 x2 x3 x4 : Words.Statement (.wread x0 x1 x2 x3 x4) := fun _ => ⟨rfl, by rw [op_encA]; rfl⟩
theorem Words.wkey x0 x1 x2 x3 x4 : Words.Statement (.wkey x0 x1 x2 x3 x4) := fun _ => ⟨rfl, by rw [op_encA]; rfl⟩
theorem Words.wkeyPhys x0 x1 x2 : Words.Statement (.wkeyPhys x0 x1 x2) := fun _ => ⟨rfl, by rw [op_encA]; rfl⟩
theorem Words.wkeyDraw x0 x1 x2 : Words.Statement (.wkeyDraw x0 x1 x2) := fun _ => ⟨rfl, by rw [op_encA]; rfl⟩
theorem Words.wnoise x0 x1 x2 : Words.Statement (.wnoise x0 x1 x2) := fun _ => ⟨rfl, by rw [op_encA]; rfl⟩
theorem Words.wstat x0 x1 x2 : Words.Statement (.wstat x0 x1 x2) := fun _ => ⟨rfl, by rw [op_encA]; rfl⟩
theorem Words.wlink x0 x1 x2 x3 x4 x5 : Words.Statement (.wlink x0 x1 x2 x3 x4 x5) :=
  fun _ => ⟨rfl, by rw [op_encA]; rfl⟩
theorem Words.accept x0 x1 x2 x3 x4 x5 x6 x7 x8 : Words.Statement (.accept x0 x1 x2 x3 x4 x5 x6 x7 x8) :=
  fun _ => ⟨rfl, by rw [op_encA]; rfl⟩
theorem Words.ballot x0 x1 x2 : Words.Statement (.ballot x0 x1 x2) := fun _ => ⟨rfl, by rw [op_encA]; rfl⟩
theorem Words.sibchk x0 x1 x2 : Words.Statement (.sibchk x0 x1 x2) := fun _ => ⟨rfl, by rw [op_encA]; rfl⟩
theorem Words.ringput x0 x1 x2 x3 x4 : Words.Statement (.ringput x0 x1 x2 x3 x4) := fun _ => ⟨rfl, by rw [op_encA]; rfl⟩
theorem Words.csrr x0 x1 x2 x3 : Words.Statement (.csrr x0 x1 x2 x3) := fun _ => ⟨rfl, by rw [op_encI]; rfl⟩
theorem Words.csrw x0 x1 x2 x3 : Words.Statement (.csrw x0 x1 x2 x3) := fun _ => ⟨rfl, by rw [op_encI]; rfl⟩
theorem Words.stamp x0 x1 : Words.Statement (.stamp x0 x1) := fun _ => ⟨rfl, by rw [op_encA]; rfl⟩
theorem Words.trace x0 x1 : Words.Statement (.trace x0 x1) := fun _ => ⟨rfl, by rw [op_encA]; rfl⟩
theorem Words.leasesetWrite x0 : Words.Statement (.leasesetWrite x0) := fun _ => rfl
theorem Words.repmodeWrite x0 : Words.Statement (.repmodeWrite x0) := fun _ => rfl
theorem Words.repmodeTakeEffect x0 : Words.Statement (.repmodeTakeEffect x0) := fun _ => rfl
theorem Words.mondataWrite x0 : Words.Statement (.mondataWrite x0) := fun _ => rfl
theorem Words.requalify x0 : Words.Statement (.requalify x0) := fun _ => rfl
theorem Words.hotcfgWrite x0 : Words.Statement (.hotcfgWrite x0) := fun _ => rfl
theorem Words.patternTest x0 : Words.Statement (.patternTest x0) := fun _ => rfl
theorem Words.patternTestDone x0 x1 x2 : Words.Statement (.patternTestDone x0 x1 x2) := fun _ => rfl
theorem Words.trnHoldWrite x0 : Words.Statement (.trnHoldWrite x0) := fun _ => rfl
theorem Words.trnResRead : Words.Statement (.trnResRead) := fun _ => rfl
theorem Words.registerWrite x0 x1 : Words.Statement (.registerWrite x0 x1) := fun _ => rfl
theorem Words.doorbell x0 x1 : Words.Statement (.doorbell x0 x1) := fun _ => rfl
theorem Words.windowViolation x0 x1 : Words.Statement (.windowViolation x0 x1) := fun _ => rfl
theorem Words.violRead x0 : Words.Statement (.violRead x0) := fun _ => rfl
theorem Words.evtdropRead x0 : Words.Statement (.evtdropRead x0) := fun _ => rfl
theorem Words.evtconsWrite x0 x1 : Words.Statement (.evtconsWrite x0 x1) := fun _ => rfl
theorem Words.ctxCreate : Words.Statement (.ctxCreate) := fun _ => rfl
theorem Words.ctxDestroy : Words.Statement (.ctxDestroy) := fun _ => rfl
theorem Words.queueBind : Words.Statement (.queueBind) := fun _ => rfl
theorem Words.queueReset : Words.Statement (.queueReset) := fun _ => rfl
theorem Words.preempt : Words.Statement (.preempt) := fun _ => rfl
theorem Words.resume : Words.Statement (.resume) := fun _ => rfl
theorem Words.invalidate : Words.Statement (.invalidate) := fun _ => rfl
theorem Words.faultAnswer : Words.Statement (.faultAnswer) := fun _ => rfl
theorem Words.retireStack : Words.Statement (.retireStack) := fun _ => rfl
theorem Words.retireAck : Words.Statement (.retireAck) := fun _ => rfl
theorem Words.breakCmd : Words.Statement (.breakCmd) := fun _ => rfl
theorem Words.continueCmd : Words.Statement (.continueCmd) := fun _ => rfl
theorem Words.stampBind : Words.Statement (.stampBind) := fun _ => rfl
theorem Words.traceOpen : Words.Statement (.traceOpen) := fun _ => rfl
theorem Words.traceClose : Words.Statement (.traceClose) := fun _ => rfl
theorem Words.quiesce : Words.Statement (.quiesce) := fun _ => rfl
theorem Words.release : Words.Statement (.release) := fun _ => rfl
theorem Words.image : Words.Statement (.image) := fun _ => rfl
theorem Words.restore : Words.Statement (.restore) := fun _ => rfl
theorem Words.power : Words.Statement (.power) := fun _ => rfl
theorem Words.applyMargin : Words.Statement (.applyMargin) := fun _ => rfl
theorem Words.hotAck : Words.Statement (.hotAck) := fun _ => rfl
theorem Words.attest : Words.Statement (.attest) := fun _ => rfl
theorem Words.deviceReset x0 : Words.Statement (.deviceReset x0) := fun _ => rfl
theorem Words.powerRemove : Words.Statement (.powerRemove) := fun _ => rfl
theorem Words.brakeOn x0 : Words.Statement (.brakeOn x0) := fun _ => rfl
theorem Words.brakeOff x0 : Words.Statement (.brakeOff x0) := fun _ => rfl
theorem Words.laneRepair x0 : Words.Statement (.laneRepair x0) := fun _ => rfl
theorem Words.deviceError x0 : Words.Statement (.deviceError x0) := fun _ => rfl
theorem Words.peerLinkFail x0 : Words.Statement (.peerLinkFail x0) := fun _ => rfl
theorem Words.hostMemRead x0 x1 x2 : Words.Statement (.hostMemRead x0 x1 x2) := fun _ => rfl
theorem Words.hostMemWrite x0 x1 x2 : Words.Statement (.hostMemWrite x0 x1 x2) := fun _ => rfl
theorem Words.issueSelect x0 : Words.Statement (.issueSelect x0) := fun _ => rfl
theorem Words.priorityAge x0 x1 : Words.Statement (.priorityAge x0 x1) := fun _ => rfl
theorem Words.cohortPlace : Words.Statement (.cohortPlace) := fun _ => rfl
theorem Words.cohortStart x0 : Words.Statement (.cohortStart x0) := fun _ => rfl
theorem Words.spillEvict x0 : Words.Statement (.spillEvict x0) := fun _ => rfl
theorem Words.registerFill x0 x1 : Words.Statement (.registerFill x0 x1) := fun _ => rfl
theorem Words.resultArrive x0 : Words.Statement (.resultArrive x0) := fun _ => rfl
theorem Words.lineRequestHome x0 x1 : Words.Statement (.lineRequestHome x0 x1) := fun _ => rfl
theorem Words.storeArrive x0 x1 : Words.Statement (.storeArrive x0 x1) := fun _ => rfl
theorem Words.storeLand x0 : Words.Statement (.storeLand x0) := fun _ => rfl
theorem Words.storeQueueSend x0 : Words.Statement (.storeQueueSend x0) := fun _ => rfl
theorem Words.pageWalk x0 : Words.Statement (.pageWalk x0) := fun _ => rfl
theorem Words.pendingFaultPost x0 : Words.Statement (.pendingFaultPost x0) := fun _ => rfl
theorem Words.operandLogReplay x0 : Words.Statement (.operandLogReplay x0) := fun _ => rfl
theorem Words.trapDelivery x0 : Words.Statement (.trapDelivery x0) := fun _ => rfl
theorem Words.contextError x0 : Words.Statement (.contextError x0) := fun _ => rfl
theorem Words.cohortKill x0 : Words.Statement (.cohortKill x0) := fun _ => rfl
theorem Words.syncAccess x0 x1 : Words.Statement (.syncAccess x0 x1) := fun _ => rfl
theorem Words.atomoRequest x0 x1 : Words.Statement (.atomoRequest x0 x1) := fun _ => rfl
theorem Words.atomoResend x0 x1 : Words.Statement (.atomoResend x0 x1) := fun _ => rfl
theorem Words.redsContribution x0 x1 : Words.Statement (.redsContribution x0 x1) := fun _ => rfl
theorem Words.lockRequest x0 : Words.Statement (.lockRequest x0) := fun _ => rfl
theorem Words.lockTimeout x0 : Words.Statement (.lockTimeout x0) := fun _ => rfl
theorem Words.deadlockScan : Words.Statement (.deadlockScan) := fun _ => rfl
theorem Words.copyComplete x0 x1 : Words.Statement (.copyComplete x0 x1) := fun _ => rfl
theorem Words.copyViolation x0 : Words.Statement (.copyViolation x0) := fun _ => rfl
theorem Words.gatherExpand x0 x1 : Words.Statement (.gatherExpand x0 x1) := fun _ => rfl
theorem Words.stackRequest x0 : Words.Statement (.stackRequest x0) := fun _ => rfl
theorem Words.stackCompletion x0 x1 x2 : Words.Statement (.stackCompletion x0 x1 x2) := fun _ => rfl
theorem Words.scrub x0 x1 : Words.Statement (.scrub x0 x1) := fun _ => rfl
theorem Words.rowRepair x0 : Words.Statement (.rowRepair x0) := fun _ => rfl
theorem Words.regionClose : Words.Statement (.regionClose) := fun _ => rfl
theorem Words.regionReopen : Words.Statement (.regionReopen) := fun _ => rfl
theorem Words.staleRequest x0 x1 : Words.Statement (.staleRequest x0 x1) := fun _ => rfl
theorem Words.fadeTick : Words.Statement (.fadeTick) := fun _ => rfl
theorem Words.passGrant x0 : Words.Statement (.passGrant x0) := fun _ => rfl
theorem Words.passComplete x0 : Words.Statement (.passComplete x0) := fun _ => rfl
theorem Words.matrixFaultLimit x0 : Words.Statement (.matrixFaultLimit x0) := fun _ => rfl
theorem Words.matrixPriorityAge x0 : Words.Statement (.matrixPriorityAge x0) := fun _ => rfl
theorem Words.mzeroPerform x0 : Words.Statement (.mzeroPerform x0) := fun _ => rfl
theorem Words.mmaskPerform x0 : Words.Statement (.mmaskPerform x0) := fun _ => rfl
theorem Words.mdrainPerform x0 : Words.Statement (.mdrainPerform x0) := fun _ => rfl
theorem Words.drainComplete x0 : Words.Statement (.drainComplete x0) := fun _ => rfl
theorem Words.wellCommandPerform x0 : Words.Statement (.wellCommandPerform x0) := fun _ => rfl
theorem Words.wellClassUpdate x0 : Words.Statement (.wellClassUpdate x0) := fun _ => rfl
theorem Words.boundaryStateArrive x0 x1 : Words.Statement (.boundaryStateArrive x0 x1) := fun _ => rfl
theorem Words.healthWindow x0 x1 x2 : Words.Statement (.healthWindow x0 x1 x2) := fun _ => rfl
theorem Words.queueEntryStart x0 : Words.Statement (.queueEntryStart x0) := fun _ => rfl
theorem Words.kernelNodeStart x0 : Words.Statement (.kernelNodeStart x0) := fun _ => rfl
theorem Words.copyNode x0 : Words.Statement (.copyNode x0) := fun _ => rfl
theorem Words.condNode x0 : Words.Statement (.condNode x0) := fun _ => rfl
theorem Words.loopIteration x0 : Words.Statement (.loopIteration x0) := fun _ => rfl
theorem Words.endNode x0 : Words.Statement (.endNode x0) := fun _ => rfl
theorem Words.phaseArrive x0 : Words.Statement (.phaseArrive x0) := fun _ => rfl
theorem Words.waitEvaluate x0 : Words.Statement (.waitEvaluate x0) := fun _ => rfl
theorem Words.waitTick : Words.Statement (.waitTick) := fun _ => rfl
theorem Words.waitTimeout x0 : Words.Statement (.waitTimeout x0) := fun _ => rfl
theorem Words.signalNode x0 : Words.Statement (.signalNode x0) := fun _ => rfl
theorem Words.ringNode x0 : Words.Statement (.ringNode x0) := fun _ => rfl
theorem Words.nodeComplete x0 : Words.Statement (.nodeComplete x0) := fun _ => rfl
theorem Words.ringAppend x0 x1 : Words.Statement (.ringAppend x0 x1) := fun _ => rfl
theorem Words.ringCoalesceTimeout x0 x1 : Words.Statement (.ringCoalesceTimeout x0 x1) := fun _ => rfl
theorem Words.ballotPost x0 : Words.Statement (.ballotPost x0) := fun _ => rfl
theorem Words.siblingPageRelease x0 x1 x2 : Words.Statement (.siblingPageRelease x0 x1 x2) := fun _ => rfl
theorem Words.spgrowGrant x0 : Words.Statement (.spgrowGrant x0) := fun _ => rfl
theorem Words.replayTimeout x0 : Words.Statement (.replayTimeout x0) := fun _ => rfl
theorem Words.countingRetry : Words.Statement (.countingRetry) := fun _ => rfl
theorem Words.monitorSample : Words.Statement (.monitorSample) := fun _ => rfl
theorem Words.traceFlush : Words.Statement (.traceFlush) := fun _ => rfl
theorem Words.quiesceComplete x0 : Words.Statement (.quiesceComplete x0) := fun _ => rfl
theorem Words.imageComplete x0 x1 : Words.Statement (.imageComplete x0 x1) := fun _ => rfl
theorem Words.illegalOpcode op : Words.Statement (.illegalOpcode op) := fun h =>
  ⟨rfl, by rw [op_encA]; exact hasExt_of_undefined op (h op rfl)⟩

end Sys2Proof.Laws
end

