-- ==== Sys2Proof/Laws/Regs.lean ====
section
/-! SUPPORT. Regs.lean: what the register operations do: lanes, the queue, named registers, scalars, and what an
instruction of class Q writes. -/
namespace Sys2Proof.Machine

-- lanes

theorem mem_maskLanes {m : Mask} {w l : Nat} : l ∈ maskLanes m w ↔ l < w ∧ m.getLsbD l = true := by
  simp [maskLanes]

theorem maskLanes_lt {m : Mask} {w l : Nat} (h : l ∈ maskLanes m w) : l < 1024 := by
  apply Nat.lt_of_not_le
  intro hl
  have := (mem_maskLanes.mp h).2
  rw [BitVec.getLsbD_of_ge _ _ hl] at this
  cases this

theorem maskLanes_nodup (m : Mask) (w : Nat) : (maskLanes m w).Nodup := List.nodup_range.filter _

theorem activeLanes_sub {cr : Crew} {sp : Split} {i : Instr} {l : Nat} (h : l ∈ activeLanes cr sp i) :
    l ∈ sp.lanes cr.width := (List.mem_filter.mp h).1

theorem activeLanes_lt {cr : Crew} {sp : Split} {i : Instr} {l : Nat} (h : l ∈ activeLanes cr sp i) : l < 1024 :=
  maskLanes_lt (activeLanes_sub h)

theorem activeLanes_nodup (cr : Crew) (sp : Split) (i : Instr) : (activeLanes cr sp i).Nodup :=
  (maskLanes_nodup _ _).filter _

-- splits of a crew

theorem Crew.split_updSplit_self (cr : Crew) (sid : Nat) (f : Split → Split) (hf : ∀ sp, (f sp).id = sp.id) :
    (cr.updSplit sid f).split sid = (cr.split sid).map f := by
  unfold Crew.updSplit Crew.split
  simp only
  induction cr.splits with
  | nil => rfl
  | cons x xs ih =>
    by_cases h : x.id = sid
    · simp [h, hf]
    · simp [h, ih]

theorem Crew.split_updSplit_ne (cr : Crew) {sid k : Nat} (f : Split → Split) (hf : ∀ sp, (f sp).id = sp.id) (h : k ≠ sid) :
    (cr.updSplit sid f).split k = cr.split k := by
  unfold Crew.updSplit Crew.split
  simp only
  induction cr.splits with
  | nil => rfl
  | cons x xs ih =>
    by_cases hx : x.id = sid
    · have : (sid == k) = false := by simp [Ne.symm h]
      simp [hx, hf, this, ih]
    · by_cases hk : x.id = k
      · subst hk; simp [h]
      · have : (x.id == k) = false := by simp [hk]
        simp [hx, this, ih]

-- the queue

theorem getD_qrow {xs : List (Nat × W64)} (hn : (xs.map (·.1)).Nodup) (l : Nat) :
    SMap.getD (qrow xs) l 0 = (match xs.find? (fun p => p.1 == l) with | some p => p.2 | none => 0) := by
  induction xs with
  | nil => rfl
  | cons p xs ih =>
    obtain ⟨k, v⟩ := p
    simp only [List.map_cons, List.nodup_cons] at hn
    have ih := ih hn.2
    simp only [qrow]
    by_cases hkl : k = l
    · subst hkl
      split
      · subst_vars
        have : xs.find? (fun p => p.1 == k) = none := by
          rw [List.find?_eq_none]
          intro p hp h
          exact hn.1 (by simpa using ⟨p.2, by simpa [← (beq_iff_eq.mp h)] using hp⟩)
        rw [ih, this]; simp
      · simp
    · split
      · rw [ih, List.find?_cons_of_neg (by simp [hkl])]
      · rw [SMap.getD_put_ne _ _ _ (Ne.symm hkl), ih, List.find?_cons_of_neg (by simp [hkl])]

/-- R62: the entries of a split after a push. -/
theorem Split.qread_push_zero (sp : Split) {lanes : List Nat} (hn : lanes.Nodup) (vals : List (Nat × W64)) {l : Nat}
    (hl : l ∈ lanes) :
    (sp.push lanes vals).qread 0 l =
      (match vals.find? (fun p => p.1 == l) with | some p => p.2 | none => sp.qread 0 l) := by
  unfold Split.push Split.qread
  simp only [List.take_succ_cons, List.getD_cons_zero]
  rw [getD_qrow (by simpa [Function.comp_def] using hn)]
  have (g : Nat → W64) : (lanes.map (fun k => (k, g k))).find? (fun p => p.1 == l) = some (l, g l) := by
    clear hn
    induction lanes with
    | nil => cases hl
    | cons k ks ih =>
      by_cases h : k = l
      · simp [h]
      · simp only [List.mem_cons, Ne.symm h, false_or] at hl
        simp [h, ih hl]
  rw [this] <;> rfl

theorem Split.qread_push_succ (sp : Split) (lanes : List Nat) (vals : List (Nat × W64)) {n : Nat} (hn : n < 15) (l : Nat) :
    (sp.push lanes vals).qread (n + 1) l = sp.qread n l := by
  unfold Split.push Split.qread
  simp [List.getD_eq_getElem?_getD, hn]

-- named registers

theorem regKey_inj {r r' l l' : Nat} (hl : l < 1024) (hl' : l' < 1024) : regKey r l = regKey r' l' ↔ r = r' ∧ l = l' := by
  unfold regKey
  omega

/-- R67, R73: writing lanes of a register changes only its cells. -/
theorem Crew.writeReg_eq (cr : Crew) (r : Nat) (vs : List (Nat × W32)) :
    ∃ regs, cr.writeReg r vs = { cr with regs := regs } := by
  induction vs generalizing cr with
  | nil => exact ⟨cr.regs, rfl⟩
  | cons v vs ih =>
    obtain ⟨regs, h⟩ := ih { cr with regs := cr.regs.put (regKey r v.1) { val := v.2, full := true } }
    exact ⟨regs, h⟩

theorem Crew.cell_writeReg (cr : Crew) (r : Nat) (vs : List (Nat × W32)) (hlt : ∀ p ∈ vs, p.1 < 1024)
    (hn : (vs.map (·.1)).Nodup) {k l : Nat} (hl : l < 1024) :
    (cr.writeReg r vs).cell k l = (match vs.find? (fun p => p.1 == l) with
      | some p => if k = r then some { val := p.2, full := true } else cr.cell k l
      | none => cr.cell k l) := by
  induction vs generalizing cr with
  | nil => rfl
  | cons v vs ih =>
    obtain ⟨j, x⟩ := v
    simp only [List.map_cons, List.nodup_cons] at hn
    have hj : j < 1024 := hlt (j, x) (by simp)
    rw [show cr.writeReg r ((j, x) :: vs)
      = Crew.writeReg { cr with regs := cr.regs.put (regKey r j) { val := x, full := true } } r vs from rfl]
    rw [ih _ (fun p hp => hlt p (List.mem_cons_of_mem _ hp)) hn.2]
    by_cases h : j = l
    · subst h
      have : vs.find? (fun p => p.1 == j) = none := by
        rw [List.find?_eq_none]
        intro p hp h
        exact hn.1 (by simpa using ⟨p.2, by simpa [← (beq_iff_eq.mp h)] using hp⟩)
      rw [this]
      simp only [List.find?_cons, beq_self_eq_true, Crew.cell]
      rw [SMap.find_put]
      simp only [regKey_inj hl hl, and_true]
    · simp only [List.find?_cons, show (j == l) = false by simp [h], Crew.cell]
      have : (cr.regs.put (regKey r j) { val := x, full := true }).find (regKey k l) = cr.regs.find (regKey k l) :=
        SMap.find_put_ne _ _ (by rw [Ne, regKey_inj hl hj]; omega)
      rw [this]

/-- Writing a scalar changes only the scalars. -/
theorem Crew.writeScalar_eq (cr : Crew) (n : Nat) (w : Width) (v : W64) :
    ∃ ss, cr.writeScalar n w v = { cr with scalars := ss } := by
  cases w <;> exact ⟨_, rfl⟩

theorem Crew.scalar_writeScalar (cr : Crew) (n : Nat) (w : Width) (v : W64) {k : Nat} (hk : k < cr.scalars.length) :
    (cr.writeScalar n w v).scalar k =
      if w ≠ .w32 ∧ k = n + 1 then hi32 v else if k = n then lo32 v else cr.scalar k := by
  cases w <;> simp only [Crew.writeScalar, Crew.scalar, getD_setAt, setAt_length] <;> grind

end Sys2Proof.Machine
end

