-- ==== Sys2Proof/Laws/State.lean ====
section
/-! SUPPORT. State.lean: each update of State changes the one table it names. -/
namespace Sys2Proof.Machine

section
variable (s : State) (k : Nat) (f : Crew → Crew)

@[simp] theorem updCrew_agenda : (updCrew s k f).agenda = s.agenda := rfl
@[simp] theorem updCrew_focus : (updCrew s k f).focus = s.focus := rfl
@[simp] theorem updCrew_fresh : (updCrew s k f).fresh = s.fresh := rfl
@[simp] theorem updCrew_issues : (updCrew s k f).issues = s.issues := rfl
@[simp] theorem updCrew_nextId : (updCrew s k f).nextId = s.nextId := rfl
@[simp] theorem updCrew_images : (updCrew s k f).images = s.images := rfl
@[simp] theorem updCrew_faded : (updCrew s k f).faded = s.faded := rfl
@[simp] theorem updCrew_powered : (updCrew s k f).powered = s.powered := rfl
@[simp] theorem updCrew_dt : (updCrew s k f).dt = s.dt := rfl
@[simp] theorem updCrew_dies : (updCrew s k f).dies = s.dies := rfl
@[simp] theorem updCrew_power : (updCrew s k f).power = s.power := rfl
@[simp] theorem updCrew_devState : (updCrew s k f).devState = s.devState := rfl
@[simp] theorem updCrew_devReason : (updCrew s k f).devReason = s.devReason := rfl
@[simp] theorem updCrew_failedBoundary : (updCrew s k f).failedBoundary = s.failedBoundary := rfl
@[simp] theorem updCrew_laneRepairs : (updCrew s k f).laneRepairs = s.laneRepairs := rfl
@[simp] theorem updCrew_peersDown : (updCrew s k f).peersDown = s.peersDown := rfl
@[simp] theorem updCrew_mem : (updCrew s k f).mem = s.mem := rfl
@[simp] theorem updCrew_touched : (updCrew s k f).touched = s.touched := rfl
@[simp] theorem updCrew_homes : (updCrew s k f).homes = s.homes := rfl
@[simp] theorem updCrew_he : (updCrew s k f).he = s.he := rfl
@[simp] theorem updCrew_l2 : (updCrew s k f).l2 = s.l2 := rfl
@[simp] theorem updCrew_stalled : (updCrew s k f).stalled = s.stalled := rfl
@[simp] theorem updCrew_hostMem : (updCrew s k f).hostMem = s.hostMem := rfl
@[simp] theorem updCrew_irqs : (updCrew s k f).irqs = s.irqs := rfl
@[simp] theorem updCrew_msix : (updCrew s k f).msix = s.msix := rfl
@[simp] theorem updCrew_pba : (updCrew s k f).pba = s.pba := rfl
@[simp] theorem updCrew_reply : (updCrew s k f).reply = s.reply := rfl
@[simp] theorem updCrew_cores : (updCrew s k f).cores = s.cores := rfl
@[simp] theorem updCrew_clusters : (updCrew s k f).clusters = s.clusters := rfl
@[simp] theorem updCrew_cohorts : (updCrew s k f).cohorts = s.cohorts := rfl
@[simp] theorem updCrew_service : (updCrew s k f).service = s.service := rfl
@[simp] theorem updCrew_accs : (updCrew s k f).accs = s.accs := rfl
@[simp] theorem updCrew_copies : (updCrew s k f).copies = s.copies := rfl
@[simp] theorem updCrew_spgrow : (updCrew s k f).spgrow = s.spgrow := rfl
@[simp] theorem updCrew_streams : (updCrew s k f).streams = s.streams := rfl
@[simp] theorem updCrew_wells : (updCrew s k f).wells = s.wells := rfl
@[simp] theorem updCrew_sync : (updCrew s k f).sync = s.sync := rfl
@[simp] theorem updCrew_locks : (updCrew s k f).locks = s.locks := rfl
@[simp] theorem updCrew_slots : (updCrew s k f).slots = s.slots := rfl
@[simp] theorem updCrew_track : (updCrew s k f).track = s.track := rfl
@[simp] theorem updCrew_dramStacks : (updCrew s k f).dramStacks = s.dramStacks := rfl
@[simp] theorem updCrew_mig : (updCrew s k f).mig = s.mig := rfl
@[simp] theorem updCrew_badPages : (updCrew s k f).badPages = s.badPages := rfl
@[simp] theorem updCrew_ctxs : (updCrew s k f).ctxs = s.ctxs := rfl
@[simp] theorem updCrew_queues : (updCrew s k f).queues = s.queues := rfl
@[simp] theorem updCrew_launches : (updCrew s k f).launches = s.launches := rfl
@[simp] theorem updCrew_csrs : (updCrew s k f).csrs = s.csrs := rfl
@[simp] theorem updCrew_monitors : (updCrew s k f).monitors = s.monitors := rfl
@[simp] theorem updCrew_viols : (updCrew s k f).viols = s.viols := rfl
@[simp] theorem updCrew_cmd : (updCrew s k f).cmd = s.cmd := rfl
@[simp] theorem updCrew_evt : (updCrew s k f).evt = s.evt := rfl
@[simp] theorem updCrew_dbg : (updCrew s k f).dbg = s.dbg := rfl
@[simp] theorem updCrew_scopes : (updCrew s k f).scopes = s.scopes := rfl

end

section
variable (s : State) (k j : Nat) (f : Split → Split)

@[simp] theorem updSplit_agenda : (updSplit s k j f).agenda = s.agenda := rfl
@[simp] theorem updSplit_focus : (updSplit s k j f).focus = s.focus := rfl
@[simp] theorem updSplit_fresh : (updSplit s k j f).fresh = s.fresh := rfl
@[simp] theorem updSplit_issues : (updSplit s k j f).issues = s.issues := rfl
@[simp] theorem updSplit_nextId : (updSplit s k j f).nextId = s.nextId := rfl
@[simp] theorem updSplit_images : (updSplit s k j f).images = s.images := rfl
@[simp] theorem updSplit_faded : (updSplit s k j f).faded = s.faded := rfl
@[simp] theorem updSplit_powered : (updSplit s k j f).powered = s.powered := rfl
@[simp] theorem updSplit_dt : (updSplit s k j f).dt = s.dt := rfl
@[simp] theorem updSplit_dies : (updSplit s k j f).dies = s.dies := rfl
@[simp] theorem updSplit_power : (updSplit s k j f).power = s.power := rfl
@[simp] theorem updSplit_devState : (updSplit s k j f).devState = s.devState := rfl
@[simp] theorem updSplit_devReason : (updSplit s k j f).devReason = s.devReason := rfl
@[simp] theorem updSplit_failedBoundary : (updSplit s k j f).failedBoundary = s.failedBoundary := rfl
@[simp] theorem updSplit_laneRepairs : (updSplit s k j f).laneRepairs = s.laneRepairs := rfl
@[simp] theorem updSplit_peersDown : (updSplit s k j f).peersDown = s.peersDown := rfl
@[simp] theorem updSplit_mem : (updSplit s k j f).mem = s.mem := rfl
@[simp] theorem updSplit_touched : (updSplit s k j f).touched = s.touched := rfl
@[simp] theorem updSplit_homes : (updSplit s k j f).homes = s.homes := rfl
@[simp] theorem updSplit_he : (updSplit s k j f).he = s.he := rfl
@[simp] theorem updSplit_l2 : (updSplit s k j f).l2 = s.l2 := rfl
@[simp] theorem updSplit_stalled : (updSplit s k j f).stalled = s.stalled := rfl
@[simp] theorem updSplit_hostMem : (updSplit s k j f).hostMem = s.hostMem := rfl
@[simp] theorem updSplit_irqs : (updSplit s k j f).irqs = s.irqs := rfl
@[simp] theorem updSplit_msix : (updSplit s k j f).msix = s.msix := rfl
@[simp] theorem updSplit_pba : (updSplit s k j f).pba = s.pba := rfl
@[simp] theorem updSplit_reply : (updSplit s k j f).reply = s.reply := rfl
@[simp] theorem updSplit_cores : (updSplit s k j f).cores = s.cores := rfl
@[simp] theorem updSplit_clusters : (updSplit s k j f).clusters = s.clusters := rfl
@[simp] theorem updSplit_cohorts : (updSplit s k j f).cohorts = s.cohorts := rfl
@[simp] theorem updSplit_service : (updSplit s k j f).service = s.service := rfl
@[simp] theorem updSplit_accs : (updSplit s k j f).accs = s.accs := rfl
@[simp] theorem updSplit_copies : (updSplit s k j f).copies = s.copies := rfl
@[simp] theorem updSplit_spgrow : (updSplit s k j f).spgrow = s.spgrow := rfl
@[simp] theorem updSplit_streams : (updSplit s k j f).streams = s.streams := rfl
@[simp] theorem updSplit_wells : (updSplit s k j f).wells = s.wells := rfl
@[simp] theorem updSplit_sync : (updSplit s k j f).sync = s.sync := rfl
@[simp] theorem updSplit_locks : (updSplit s k j f).locks = s.locks := rfl
@[simp] theorem updSplit_slots : (updSplit s k j f).slots = s.slots := rfl
@[simp] theorem updSplit_track : (updSplit s k j f).track = s.track := rfl
@[simp] theorem updSplit_dramStacks : (updSplit s k j f).dramStacks = s.dramStacks := rfl
@[simp] theorem updSplit_mig : (updSplit s k j f).mig = s.mig := rfl
@[simp] theorem updSplit_badPages : (updSplit s k j f).badPages = s.badPages := rfl
@[simp] theorem updSplit_ctxs : (updSplit s k j f).ctxs = s.ctxs := rfl
@[simp] theorem updSplit_queues : (updSplit s k j f).queues = s.queues := rfl
@[simp] theorem updSplit_launches : (updSplit s k j f).launches = s.launches := rfl
@[simp] theorem updSplit_csrs : (updSplit s k j f).csrs = s.csrs := rfl
@[simp] theorem updSplit_monitors : (updSplit s k j f).monitors = s.monitors := rfl
@[simp] theorem updSplit_viols : (updSplit s k j f).viols = s.viols := rfl
@[simp] theorem updSplit_cmd : (updSplit s k j f).cmd = s.cmd := rfl
@[simp] theorem updSplit_evt : (updSplit s k j f).evt = s.evt := rfl
@[simp] theorem updSplit_dbg : (updSplit s k j f).dbg = s.dbg := rfl
@[simp] theorem updSplit_scopes : (updSplit s k j f).scopes = s.scopes := rfl

end

section
variable (s : State) (k : Nat) (f : Cohort → Cohort)

@[simp] theorem updCohort_agenda : (updCohort s k f).agenda = s.agenda := rfl
@[simp] theorem updCohort_focus : (updCohort s k f).focus = s.focus := rfl
@[simp] theorem updCohort_fresh : (updCohort s k f).fresh = s.fresh := rfl
@[simp] theorem updCohort_issues : (updCohort s k f).issues = s.issues := rfl
@[simp] theorem updCohort_nextId : (updCohort s k f).nextId = s.nextId := rfl
@[simp] theorem updCohort_images : (updCohort s k f).images = s.images := rfl
@[simp] theorem updCohort_faded : (updCohort s k f).faded = s.faded := rfl
@[simp] theorem updCohort_powered : (updCohort s k f).powered = s.powered := rfl
@[simp] theorem updCohort_dt : (updCohort s k f).dt = s.dt := rfl
@[simp] theorem updCohort_dies : (updCohort s k f).dies = s.dies := rfl
@[simp] theorem updCohort_power : (updCohort s k f).power = s.power := rfl
@[simp] theorem updCohort_devState : (updCohort s k f).devState = s.devState := rfl
@[simp] theorem updCohort_devReason : (updCohort s k f).devReason = s.devReason := rfl
@[simp] theorem updCohort_failedBoundary : (updCohort s k f).failedBoundary = s.failedBoundary := rfl
@[simp] theorem updCohort_laneRepairs : (updCohort s k f).laneRepairs = s.laneRepairs := rfl
@[simp] theorem updCohort_peersDown : (updCohort s k f).peersDown = s.peersDown := rfl
@[simp] theorem updCohort_mem : (updCohort s k f).mem = s.mem := rfl
@[simp] theorem updCohort_touched : (updCohort s k f).touched = s.touched := rfl
@[simp] theorem updCohort_homes : (updCohort s k f).homes = s.homes := rfl
@[simp] theorem updCohort_he : (updCohort s k f).he = s.he := rfl
@[simp] theorem updCohort_l2 : (updCohort s k f).l2 = s.l2 := rfl
@[simp] theorem updCohort_stalled : (updCohort s k f).stalled = s.stalled := rfl
@[simp] theorem updCohort_hostMem : (updCohort s k f).hostMem = s.hostMem := rfl
@[simp] theorem updCohort_irqs : (updCohort s k f).irqs = s.irqs := rfl
@[simp] theorem updCohort_msix : (updCohort s k f).msix = s.msix := rfl
@[simp] theorem updCohort_pba : (updCohort s k f).pba = s.pba := rfl
@[simp] theorem updCohort_reply : (updCohort s k f).reply = s.reply := rfl
@[simp] theorem updCohort_cores : (updCohort s k f).cores = s.cores := rfl
@[simp] theorem updCohort_clusters : (updCohort s k f).clusters = s.clusters := rfl
@[simp] theorem updCohort_crews : (updCohort s k f).crews = s.crews := rfl
@[simp] theorem updCohort_service : (updCohort s k f).service = s.service := rfl
@[simp] theorem updCohort_accs : (updCohort s k f).accs = s.accs := rfl
@[simp] theorem updCohort_copies : (updCohort s k f).copies = s.copies := rfl
@[simp] theorem updCohort_spgrow : (updCohort s k f).spgrow = s.spgrow := rfl
@[simp] theorem updCohort_streams : (updCohort s k f).streams = s.streams := rfl
@[simp] theorem updCohort_wells : (updCohort s k f).wells = s.wells := rfl
@[simp] theorem updCohort_sync : (updCohort s k f).sync = s.sync := rfl
@[simp] theorem updCohort_locks : (updCohort s k f).locks = s.locks := rfl
@[simp] theorem updCohort_slots : (updCohort s k f).slots = s.slots := rfl
@[simp] theorem updCohort_track : (updCohort s k f).track = s.track := rfl
@[simp] theorem updCohort_dramStacks : (updCohort s k f).dramStacks = s.dramStacks := rfl
@[simp] theorem updCohort_mig : (updCohort s k f).mig = s.mig := rfl
@[simp] theorem updCohort_badPages : (updCohort s k f).badPages = s.badPages := rfl
@[simp] theorem updCohort_ctxs : (updCohort s k f).ctxs = s.ctxs := rfl
@[simp] theorem updCohort_queues : (updCohort s k f).queues = s.queues := rfl
@[simp] theorem updCohort_launches : (updCohort s k f).launches = s.launches := rfl
@[simp] theorem updCohort_csrs : (updCohort s k f).csrs = s.csrs := rfl
@[simp] theorem updCohort_monitors : (updCohort s k f).monitors = s.monitors := rfl
@[simp] theorem updCohort_viols : (updCohort s k f).viols = s.viols := rfl
@[simp] theorem updCohort_cmd : (updCohort s k f).cmd = s.cmd := rfl
@[simp] theorem updCohort_evt : (updCohort s k f).evt = s.evt := rfl
@[simp] theorem updCohort_dbg : (updCohort s k f).dbg = s.dbg := rfl
@[simp] theorem updCohort_scopes : (updCohort s k f).scopes = s.scopes := rfl

end

section
variable (s : State) (k : Nat) (f : Access → Access)

@[simp] theorem updAcc_agenda : (updAcc s k f).agenda = s.agenda := rfl
@[simp] theorem updAcc_focus : (updAcc s k f).focus = s.focus := rfl
@[simp] theorem updAcc_fresh : (updAcc s k f).fresh = s.fresh := rfl
@[simp] theorem updAcc_issues : (updAcc s k f).issues = s.issues := rfl
@[simp] theorem updAcc_nextId : (updAcc s k f).nextId = s.nextId := rfl
@[simp] theorem updAcc_images : (updAcc s k f).images = s.images := rfl
@[simp] theorem updAcc_faded : (updAcc s k f).faded = s.faded := rfl
@[simp] theorem updAcc_powered : (updAcc s k f).powered = s.powered := rfl
@[simp] theorem updAcc_dt : (updAcc s k f).dt = s.dt := rfl
@[simp] theorem updAcc_dies : (updAcc s k f).dies = s.dies := rfl
@[simp] theorem updAcc_power : (updAcc s k f).power = s.power := rfl
@[simp] theorem updAcc_devState : (updAcc s k f).devState = s.devState := rfl
@[simp] theorem updAcc_devReason : (updAcc s k f).devReason = s.devReason := rfl
@[simp] theorem updAcc_failedBoundary : (updAcc s k f).failedBoundary = s.failedBoundary := rfl
@[simp] theorem updAcc_laneRepairs : (updAcc s k f).laneRepairs = s.laneRepairs := rfl
@[simp] theorem updAcc_peersDown : (updAcc s k f).peersDown = s.peersDown := rfl
@[simp] theorem updAcc_mem : (updAcc s k f).mem = s.mem := rfl
@[simp] theorem updAcc_touched : (updAcc s k f).touched = s.touched := rfl
@[simp] theorem updAcc_homes : (updAcc s k f).homes = s.homes := rfl
@[simp] theorem updAcc_he : (updAcc s k f).he = s.he := rfl
@[simp] theorem updAcc_l2 : (updAcc s k f).l2 = s.l2 := rfl
@[simp] theorem updAcc_stalled : (updAcc s k f).stalled = s.stalled := rfl
@[simp] theorem updAcc_hostMem : (updAcc s k f).hostMem = s.hostMem := rfl
@[simp] theorem updAcc_irqs : (updAcc s k f).irqs = s.irqs := rfl
@[simp] theorem updAcc_msix : (updAcc s k f).msix = s.msix := rfl
@[simp] theorem updAcc_pba : (updAcc s k f).pba = s.pba := rfl
@[simp] theorem updAcc_reply : (updAcc s k f).reply = s.reply := rfl
@[simp] theorem updAcc_cores : (updAcc s k f).cores = s.cores := rfl
@[simp] theorem updAcc_clusters : (updAcc s k f).clusters = s.clusters := rfl
@[simp] theorem updAcc_cohorts : (updAcc s k f).cohorts = s.cohorts := rfl
@[simp] theorem updAcc_crews : (updAcc s k f).crews = s.crews := rfl
@[simp] theorem updAcc_service : (updAcc s k f).service = s.service := rfl
@[simp] theorem updAcc_copies : (updAcc s k f).copies = s.copies := rfl
@[simp] theorem updAcc_spgrow : (updAcc s k f).spgrow = s.spgrow := rfl
@[simp] theorem updAcc_streams : (updAcc s k f).streams = s.streams := rfl
@[simp] theorem updAcc_wells : (updAcc s k f).wells = s.wells := rfl
@[simp] theorem updAcc_sync : (updAcc s k f).sync = s.sync := rfl
@[simp] theorem updAcc_locks : (updAcc s k f).locks = s.locks := rfl
@[simp] theorem updAcc_slots : (updAcc s k f).slots = s.slots := rfl
@[simp] theorem updAcc_track : (updAcc s k f).track = s.track := rfl
@[simp] theorem updAcc_dramStacks : (updAcc s k f).dramStacks = s.dramStacks := rfl
@[simp] theorem updAcc_mig : (updAcc s k f).mig = s.mig := rfl
@[simp] theorem updAcc_badPages : (updAcc s k f).badPages = s.badPages := rfl
@[simp] theorem updAcc_ctxs : (updAcc s k f).ctxs = s.ctxs := rfl
@[simp] theorem updAcc_queues : (updAcc s k f).queues = s.queues := rfl
@[simp] theorem updAcc_launches : (updAcc s k f).launches = s.launches := rfl
@[simp] theorem updAcc_csrs : (updAcc s k f).csrs = s.csrs := rfl
@[simp] theorem updAcc_monitors : (updAcc s k f).monitors = s.monitors := rfl
@[simp] theorem updAcc_viols : (updAcc s k f).viols = s.viols := rfl
@[simp] theorem updAcc_cmd : (updAcc s k f).cmd = s.cmd := rfl
@[simp] theorem updAcc_evt : (updAcc s k f).evt = s.evt := rfl
@[simp] theorem updAcc_dbg : (updAcc s k f).dbg = s.dbg := rfl
@[simp] theorem updAcc_scopes : (updAcc s k f).scopes = s.scopes := rfl

end

section
variable (s : State) (k : Nat) (f : Context → Context)

@[simp] theorem updCtx_agenda : (updCtx s k f).agenda = s.agenda := rfl
@[simp] theorem updCtx_focus : (updCtx s k f).focus = s.focus := rfl
@[simp] theorem updCtx_fresh : (updCtx s k f).fresh = s.fresh := rfl
@[simp] theorem updCtx_issues : (updCtx s k f).issues = s.issues := rfl
@[simp] theorem updCtx_nextId : (updCtx s k f).nextId = s.nextId := rfl
@[simp] theorem updCtx_images : (updCtx s k f).images = s.images := rfl
@[simp] theorem updCtx_faded : (updCtx s k f).faded = s.faded := rfl
@[simp] theorem updCtx_powered : (updCtx s k f).powered = s.powered := rfl
@[simp] theorem updCtx_dt : (updCtx s k f).dt = s.dt := rfl
@[simp] theorem updCtx_dies : (updCtx s k f).dies = s.dies := rfl
@[simp] theorem updCtx_power : (updCtx s k f).power = s.power := rfl
@[simp] theorem updCtx_devState : (updCtx s k f).devState = s.devState := rfl
@[simp] theorem updCtx_devReason : (updCtx s k f).devReason = s.devReason := rfl
@[simp] theorem updCtx_failedBoundary : (updCtx s k f).failedBoundary = s.failedBoundary := rfl
@[simp] theorem updCtx_laneRepairs : (updCtx s k f).laneRepairs = s.laneRepairs := rfl
@[simp] theorem updCtx_peersDown : (updCtx s k f).peersDown = s.peersDown := rfl
@[simp] theorem updCtx_mem : (updCtx s k f).mem = s.mem := rfl
@[simp] theorem updCtx_touched : (updCtx s k f).touched = s.touched := rfl
@[simp] theorem updCtx_homes : (updCtx s k f).homes = s.homes := rfl
@[simp] theorem updCtx_he : (updCtx s k f).he = s.he := rfl
@[simp] theorem updCtx_l2 : (updCtx s k f).l2 = s.l2 := rfl
@[simp] theorem updCtx_stalled : (updCtx s k f).stalled = s.stalled := rfl
@[simp] theorem updCtx_hostMem : (updCtx s k f).hostMem = s.hostMem := rfl
@[simp] theorem updCtx_irqs : (updCtx s k f).irqs = s.irqs := rfl
@[simp] theorem updCtx_msix : (updCtx s k f).msix = s.msix := rfl
@[simp] theorem updCtx_pba : (updCtx s k f).pba = s.pba := rfl
@[simp] theorem updCtx_reply : (updCtx s k f).reply = s.reply := rfl
@[simp] theorem updCtx_cores : (updCtx s k f).cores = s.cores := rfl
@[simp] theorem updCtx_clusters : (updCtx s k f).clusters = s.clusters := rfl
@[simp] theorem updCtx_cohorts : (updCtx s k f).cohorts = s.cohorts := rfl
@[simp] theorem updCtx_crews : (updCtx s k f).crews = s.crews := rfl
@[simp] theorem updCtx_service : (updCtx s k f).service = s.service := rfl
@[simp] theorem updCtx_accs : (updCtx s k f).accs = s.accs := rfl
@[simp] theorem updCtx_copies : (updCtx s k f).copies = s.copies := rfl
@[simp] theorem updCtx_spgrow : (updCtx s k f).spgrow = s.spgrow := rfl
@[simp] theorem updCtx_streams : (updCtx s k f).streams = s.streams := rfl
@[simp] theorem updCtx_wells : (updCtx s k f).wells = s.wells := rfl
@[simp] theorem updCtx_sync : (updCtx s k f).sync = s.sync := rfl
@[simp] theorem updCtx_locks : (updCtx s k f).locks = s.locks := rfl
@[simp] theorem updCtx_slots : (updCtx s k f).slots = s.slots := rfl
@[simp] theorem updCtx_track : (updCtx s k f).track = s.track := rfl
@[simp] theorem updCtx_dramStacks : (updCtx s k f).dramStacks = s.dramStacks := rfl
@[simp] theorem updCtx_mig : (updCtx s k f).mig = s.mig := rfl
@[simp] theorem updCtx_badPages : (updCtx s k f).badPages = s.badPages := rfl
@[simp] theorem updCtx_queues : (updCtx s k f).queues = s.queues := rfl
@[simp] theorem updCtx_launches : (updCtx s k f).launches = s.launches := rfl
@[simp] theorem updCtx_csrs : (updCtx s k f).csrs = s.csrs := rfl
@[simp] theorem updCtx_monitors : (updCtx s k f).monitors = s.monitors := rfl
@[simp] theorem updCtx_viols : (updCtx s k f).viols = s.viols := rfl
@[simp] theorem updCtx_cmd : (updCtx s k f).cmd = s.cmd := rfl
@[simp] theorem updCtx_evt : (updCtx s k f).evt = s.evt := rfl
@[simp] theorem updCtx_dbg : (updCtx s k f).dbg = s.dbg := rfl
@[simp] theorem updCtx_scopes : (updCtx s k f).scopes = s.scopes := rfl

end

section
variable (s : State) (k : Nat) (f : Queue → Queue)

@[simp] theorem updQueue_agenda : (updQueue s k f).agenda = s.agenda := rfl
@[simp] theorem updQueue_focus : (updQueue s k f).focus = s.focus := rfl
@[simp] theorem updQueue_fresh : (updQueue s k f).fresh = s.fresh := rfl
@[simp] theorem updQueue_issues : (updQueue s k f).issues = s.issues := rfl
@[simp] theorem updQueue_nextId : (updQueue s k f).nextId = s.nextId := rfl
@[simp] theorem updQueue_images : (updQueue s k f).images = s.images := rfl
@[simp] theorem updQueue_faded : (updQueue s k f).faded = s.faded := rfl
@[simp] theorem updQueue_powered : (updQueue s k f).powered = s.powered := rfl
@[simp] theorem updQueue_dt : (updQueue s k f).dt = s.dt := rfl
@[simp] theorem updQueue_dies : (updQueue s k f).dies = s.dies := rfl
@[simp] theorem updQueue_power : (updQueue s k f).power = s.power := rfl
@[simp] theorem updQueue_devState : (updQueue s k f).devState = s.devState := rfl
@[simp] theorem updQueue_devReason : (updQueue s k f).devReason = s.devReason := rfl
@[simp] theorem updQueue_failedBoundary : (updQueue s k f).failedBoundary = s.failedBoundary := rfl
@[simp] theorem updQueue_laneRepairs : (updQueue s k f).laneRepairs = s.laneRepairs := rfl
@[simp] theorem updQueue_peersDown : (updQueue s k f).peersDown = s.peersDown := rfl
@[simp] theorem updQueue_mem : (updQueue s k f).mem = s.mem := rfl
@[simp] theorem updQueue_touched : (updQueue s k f).touched = s.touched := rfl
@[simp] theorem updQueue_homes : (updQueue s k f).homes = s.homes := rfl
@[simp] theorem updQueue_he : (updQueue s k f).he = s.he := rfl
@[simp] theorem updQueue_l2 : (updQueue s k f).l2 = s.l2 := rfl
@[simp] theorem updQueue_stalled : (updQueue s k f).stalled = s.stalled := rfl
@[simp] theorem updQueue_hostMem : (updQueue s k f).hostMem = s.hostMem := rfl
@[simp] theorem updQueue_irqs : (updQueue s k f).irqs = s.irqs := rfl
@[simp] theorem updQueue_msix : (updQueue s k f).msix = s.msix := rfl
@[simp] theorem updQueue_pba : (updQueue s k f).pba = s.pba := rfl
@[simp] theorem updQueue_reply : (updQueue s k f).reply = s.reply := rfl
@[simp] theorem updQueue_cores : (updQueue s k f).cores = s.cores := rfl
@[simp] theorem updQueue_clusters : (updQueue s k f).clusters = s.clusters := rfl
@[simp] theorem updQueue_cohorts : (updQueue s k f).cohorts = s.cohorts := rfl
@[simp] theorem updQueue_crews : (updQueue s k f).crews = s.crews := rfl
@[simp] theorem updQueue_service : (updQueue s k f).service = s.service := rfl
@[simp] theorem updQueue_accs : (updQueue s k f).accs = s.accs := rfl
@[simp] theorem updQueue_copies : (updQueue s k f).copies = s.copies := rfl
@[simp] theorem updQueue_spgrow : (updQueue s k f).spgrow = s.spgrow := rfl
@[simp] theorem updQueue_streams : (updQueue s k f).streams = s.streams := rfl
@[simp] theorem updQueue_wells : (updQueue s k f).wells = s.wells := rfl
@[simp] theorem updQueue_sync : (updQueue s k f).sync = s.sync := rfl
@[simp] theorem updQueue_locks : (updQueue s k f).locks = s.locks := rfl
@[simp] theorem updQueue_slots : (updQueue s k f).slots = s.slots := rfl
@[simp] theorem updQueue_track : (updQueue s k f).track = s.track := rfl
@[simp] theorem updQueue_dramStacks : (updQueue s k f).dramStacks = s.dramStacks := rfl
@[simp] theorem updQueue_mig : (updQueue s k f).mig = s.mig := rfl
@[simp] theorem updQueue_badPages : (updQueue s k f).badPages = s.badPages := rfl
@[simp] theorem updQueue_ctxs : (updQueue s k f).ctxs = s.ctxs := rfl
@[simp] theorem updQueue_launches : (updQueue s k f).launches = s.launches := rfl
@[simp] theorem updQueue_csrs : (updQueue s k f).csrs = s.csrs := rfl
@[simp] theorem updQueue_monitors : (updQueue s k f).monitors = s.monitors := rfl
@[simp] theorem updQueue_viols : (updQueue s k f).viols = s.viols := rfl
@[simp] theorem updQueue_cmd : (updQueue s k f).cmd = s.cmd := rfl
@[simp] theorem updQueue_evt : (updQueue s k f).evt = s.evt := rfl
@[simp] theorem updQueue_dbg : (updQueue s k f).dbg = s.dbg := rfl
@[simp] theorem updQueue_scopes : (updQueue s k f).scopes = s.scopes := rfl

end

section
variable (s : State) (k : Nat) (f : CoreUnit → CoreUnit)

@[simp] theorem updCore_agenda : (updCore s k f).agenda = s.agenda := rfl
@[simp] theorem updCore_focus : (updCore s k f).focus = s.focus := rfl
@[simp] theorem updCore_fresh : (updCore s k f).fresh = s.fresh := rfl
@[simp] theorem updCore_issues : (updCore s k f).issues = s.issues := rfl
@[simp] theorem updCore_nextId : (updCore s k f).nextId = s.nextId := rfl
@[simp] theorem updCore_images : (updCore s k f).images = s.images := rfl
@[simp] theorem updCore_faded : (updCore s k f).faded = s.faded := rfl
@[simp] theorem updCore_powered : (updCore s k f).powered = s.powered := rfl
@[simp] theorem updCore_dt : (updCore s k f).dt = s.dt := rfl
@[simp] theorem updCore_dies : (updCore s k f).dies = s.dies := rfl
@[simp] theorem updCore_power : (updCore s k f).power = s.power := rfl
@[simp] theorem updCore_devState : (updCore s k f).devState = s.devState := rfl
@[simp] theorem updCore_devReason : (updCore s k f).devReason = s.devReason := rfl
@[simp] theorem updCore_failedBoundary : (updCore s k f).failedBoundary = s.failedBoundary := rfl
@[simp] theorem updCore_laneRepairs : (updCore s k f).laneRepairs = s.laneRepairs := rfl
@[simp] theorem updCore_peersDown : (updCore s k f).peersDown = s.peersDown := rfl
@[simp] theorem updCore_mem : (updCore s k f).mem = s.mem := rfl
@[simp] theorem updCore_touched : (updCore s k f).touched = s.touched := rfl
@[simp] theorem updCore_homes : (updCore s k f).homes = s.homes := rfl
@[simp] theorem updCore_he : (updCore s k f).he = s.he := rfl
@[simp] theorem updCore_l2 : (updCore s k f).l2 = s.l2 := rfl
@[simp] theorem updCore_stalled : (updCore s k f).stalled = s.stalled := rfl
@[simp] theorem updCore_hostMem : (updCore s k f).hostMem = s.hostMem := rfl
@[simp] theorem updCore_irqs : (updCore s k f).irqs = s.irqs := rfl
@[simp] theorem updCore_msix : (updCore s k f).msix = s.msix := rfl
@[simp] theorem updCore_pba : (updCore s k f).pba = s.pba := rfl
@[simp] theorem updCore_reply : (updCore s k f).reply = s.reply := rfl
@[simp] theorem updCore_clusters : (updCore s k f).clusters = s.clusters := rfl
@[simp] theorem updCore_cohorts : (updCore s k f).cohorts = s.cohorts := rfl
@[simp] theorem updCore_crews : (updCore s k f).crews = s.crews := rfl
@[simp] theorem updCore_service : (updCore s k f).service = s.service := rfl
@[simp] theorem updCore_accs : (updCore s k f).accs = s.accs := rfl
@[simp] theorem updCore_copies : (updCore s k f).copies = s.copies := rfl
@[simp] theorem updCore_spgrow : (updCore s k f).spgrow = s.spgrow := rfl
@[simp] theorem updCore_streams : (updCore s k f).streams = s.streams := rfl
@[simp] theorem updCore_wells : (updCore s k f).wells = s.wells := rfl
@[simp] theorem updCore_sync : (updCore s k f).sync = s.sync := rfl
@[simp] theorem updCore_locks : (updCore s k f).locks = s.locks := rfl
@[simp] theorem updCore_slots : (updCore s k f).slots = s.slots := rfl
@[simp] theorem updCore_track : (updCore s k f).track = s.track := rfl
@[simp] theorem updCore_dramStacks : (updCore s k f).dramStacks = s.dramStacks := rfl
@[simp] theorem updCore_mig : (updCore s k f).mig = s.mig := rfl
@[simp] theorem updCore_badPages : (updCore s k f).badPages = s.badPages := rfl
@[simp] theorem updCore_ctxs : (updCore s k f).ctxs = s.ctxs := rfl
@[simp] theorem updCore_queues : (updCore s k f).queues = s.queues := rfl
@[simp] theorem updCore_launches : (updCore s k f).launches = s.launches := rfl
@[simp] theorem updCore_csrs : (updCore s k f).csrs = s.csrs := rfl
@[simp] theorem updCore_monitors : (updCore s k f).monitors = s.monitors := rfl
@[simp] theorem updCore_viols : (updCore s k f).viols = s.viols := rfl
@[simp] theorem updCore_cmd : (updCore s k f).cmd = s.cmd := rfl
@[simp] theorem updCore_evt : (updCore s k f).evt = s.evt := rfl
@[simp] theorem updCore_dbg : (updCore s k f).dbg = s.dbg := rfl
@[simp] theorem updCore_scopes : (updCore s k f).scopes = s.scopes := rfl

end

section
variable (s : State) (k : Nat) (f : Cluster → Cluster)

@[simp] theorem updCluster_agenda : (updCluster s k f).agenda = s.agenda := rfl
@[simp] theorem updCluster_focus : (updCluster s k f).focus = s.focus := rfl
@[simp] theorem updCluster_fresh : (updCluster s k f).fresh = s.fresh := rfl
@[simp] theorem updCluster_issues : (updCluster s k f).issues = s.issues := rfl
@[simp] theorem updCluster_nextId : (updCluster s k f).nextId = s.nextId := rfl
@[simp] theorem updCluster_images : (updCluster s k f).images = s.images := rfl
@[simp] theorem updCluster_faded : (updCluster s k f).faded = s.faded := rfl
@[simp] theorem updCluster_powered : (updCluster s k f).powered = s.powered := rfl
@[simp] theorem updCluster_dt : (updCluster s k f).dt = s.dt := rfl
@[simp] theorem updCluster_dies : (updCluster s k f).dies = s.dies := rfl
@[simp] theorem updCluster_power : (updCluster s k f).power = s.power := rfl
@[simp] theorem updCluster_devState : (updCluster s k f).devState = s.devState := rfl
@[simp] theorem updCluster_devReason : (updCluster s k f).devReason = s.devReason := rfl
@[simp] theorem updCluster_failedBoundary : (updCluster s k f).failedBoundary = s.failedBoundary := rfl
@[simp] theorem updCluster_laneRepairs : (updCluster s k f).laneRepairs = s.laneRepairs := rfl
@[simp] theorem updCluster_peersDown : (updCluster s k f).peersDown = s.peersDown := rfl
@[simp] theorem updCluster_mem : (updCluster s k f).mem = s.mem := rfl
@[simp] theorem updCluster_touched : (updCluster s k f).touched = s.touched := rfl
@[simp] theorem updCluster_homes : (updCluster s k f).homes = s.homes := rfl
@[simp] theorem updCluster_he : (updCluster s k f).he = s.he := rfl
@[simp] theorem updCluster_l2 : (updCluster s k f).l2 = s.l2 := rfl
@[simp] theorem updCluster_stalled : (updCluster s k f).stalled = s.stalled := rfl
@[simp] theorem updCluster_hostMem : (updCluster s k f).hostMem = s.hostMem := rfl
@[simp] theorem updCluster_irqs : (updCluster s k f).irqs = s.irqs := rfl
@[simp] theorem updCluster_msix : (updCluster s k f).msix = s.msix := rfl
@[simp] theorem updCluster_pba : (updCluster s k f).pba = s.pba := rfl
@[simp] theorem updCluster_reply : (updCluster s k f).reply = s.reply := rfl
@[simp] theorem updCluster_cores : (updCluster s k f).cores = s.cores := rfl
@[simp] theorem updCluster_cohorts : (updCluster s k f).cohorts = s.cohorts := rfl
@[simp] theorem updCluster_crews : (updCluster s k f).crews = s.crews := rfl
@[simp] theorem updCluster_service : (updCluster s k f).service = s.service := rfl
@[simp] theorem updCluster_accs : (updCluster s k f).accs = s.accs := rfl
@[simp] theorem updCluster_copies : (updCluster s k f).copies = s.copies := rfl
@[simp] theorem updCluster_spgrow : (updCluster s k f).spgrow = s.spgrow := rfl
@[simp] theorem updCluster_streams : (updCluster s k f).streams = s.streams := rfl
@[simp] theorem updCluster_wells : (updCluster s k f).wells = s.wells := rfl
@[simp] theorem updCluster_sync : (updCluster s k f).sync = s.sync := rfl
@[simp] theorem updCluster_locks : (updCluster s k f).locks = s.locks := rfl
@[simp] theorem updCluster_slots : (updCluster s k f).slots = s.slots := rfl
@[simp] theorem updCluster_track : (updCluster s k f).track = s.track := rfl
@[simp] theorem updCluster_dramStacks : (updCluster s k f).dramStacks = s.dramStacks := rfl
@[simp] theorem updCluster_mig : (updCluster s k f).mig = s.mig := rfl
@[simp] theorem updCluster_badPages : (updCluster s k f).badPages = s.badPages := rfl
@[simp] theorem updCluster_ctxs : (updCluster s k f).ctxs = s.ctxs := rfl
@[simp] theorem updCluster_queues : (updCluster s k f).queues = s.queues := rfl
@[simp] theorem updCluster_launches : (updCluster s k f).launches = s.launches := rfl
@[simp] theorem updCluster_csrs : (updCluster s k f).csrs = s.csrs := rfl
@[simp] theorem updCluster_monitors : (updCluster s k f).monitors = s.monitors := rfl
@[simp] theorem updCluster_viols : (updCluster s k f).viols = s.viols := rfl
@[simp] theorem updCluster_cmd : (updCluster s k f).cmd = s.cmd := rfl
@[simp] theorem updCluster_evt : (updCluster s k f).evt = s.evt := rfl
@[simp] theorem updCluster_dbg : (updCluster s k f).dbg = s.dbg := rfl
@[simp] theorem updCluster_scopes : (updCluster s k f).scopes = s.scopes := rfl

end

section
variable (s : State) (k : Nat) (f : Stream → Stream)

@[simp] theorem updStream_agenda : (updStream s k f).agenda = s.agenda := rfl
@[simp] theorem updStream_focus : (updStream s k f).focus = s.focus := rfl
@[simp] theorem updStream_fresh : (updStream s k f).fresh = s.fresh := rfl
@[simp] theorem updStream_issues : (updStream s k f).issues = s.issues := rfl
@[simp] theorem updStream_nextId : (updStream s k f).nextId = s.nextId := rfl
@[simp] theorem updStream_images : (updStream s k f).images = s.images := rfl
@[simp] theorem updStream_faded : (updStream s k f).faded = s.faded := rfl
@[simp] theorem updStream_powered : (updStream s k f).powered = s.powered := rfl
@[simp] theorem updStream_dt : (updStream s k f).dt = s.dt := rfl
@[simp] theorem updStream_dies : (updStream s k f).dies = s.dies := rfl
@[simp] theorem updStream_power : (updStream s k f).power = s.power := rfl
@[simp] theorem updStream_devState : (updStream s k f).devState = s.devState := rfl
@[simp] theorem updStream_devReason : (updStream s k f).devReason = s.devReason := rfl
@[simp] theorem updStream_failedBoundary : (updStream s k f).failedBoundary = s.failedBoundary := rfl
@[simp] theorem updStream_laneRepairs : (updStream s k f).laneRepairs = s.laneRepairs := rfl
@[simp] theorem updStream_peersDown : (updStream s k f).peersDown = s.peersDown := rfl
@[simp] theorem updStream_mem : (updStream s k f).mem = s.mem := rfl
@[simp] theorem updStream_touched : (updStream s k f).touched = s.touched := rfl
@[simp] theorem updStream_homes : (updStream s k f).homes = s.homes := rfl
@[simp] theorem updStream_he : (updStream s k f).he = s.he := rfl
@[simp] theorem updStream_l2 : (updStream s k f).l2 = s.l2 := rfl
@[simp] theorem updStream_stalled : (updStream s k f).stalled = s.stalled := rfl
@[simp] theorem updStream_hostMem : (updStream s k f).hostMem = s.hostMem := rfl
@[simp] theorem updStream_irqs : (updStream s k f).irqs = s.irqs := rfl
@[simp] theorem updStream_msix : (updStream s k f).msix = s.msix := rfl
@[simp] theorem updStream_pba : (updStream s k f).pba = s.pba := rfl
@[simp] theorem updStream_reply : (updStream s k f).reply = s.reply := rfl
@[simp] theorem updStream_cores : (updStream s k f).cores = s.cores := rfl
@[simp] theorem updStream_clusters : (updStream s k f).clusters = s.clusters := rfl
@[simp] theorem updStream_cohorts : (updStream s k f).cohorts = s.cohorts := rfl
@[simp] theorem updStream_crews : (updStream s k f).crews = s.crews := rfl
@[simp] theorem updStream_service : (updStream s k f).service = s.service := rfl
@[simp] theorem updStream_accs : (updStream s k f).accs = s.accs := rfl
@[simp] theorem updStream_copies : (updStream s k f).copies = s.copies := rfl
@[simp] theorem updStream_spgrow : (updStream s k f).spgrow = s.spgrow := rfl
@[simp] theorem updStream_wells : (updStream s k f).wells = s.wells := rfl
@[simp] theorem updStream_sync : (updStream s k f).sync = s.sync := rfl
@[simp] theorem updStream_locks : (updStream s k f).locks = s.locks := rfl
@[simp] theorem updStream_slots : (updStream s k f).slots = s.slots := rfl
@[simp] theorem updStream_track : (updStream s k f).track = s.track := rfl
@[simp] theorem updStream_dramStacks : (updStream s k f).dramStacks = s.dramStacks := rfl
@[simp] theorem updStream_mig : (updStream s k f).mig = s.mig := rfl
@[simp] theorem updStream_badPages : (updStream s k f).badPages = s.badPages := rfl
@[simp] theorem updStream_ctxs : (updStream s k f).ctxs = s.ctxs := rfl
@[simp] theorem updStream_queues : (updStream s k f).queues = s.queues := rfl
@[simp] theorem updStream_launches : (updStream s k f).launches = s.launches := rfl
@[simp] theorem updStream_csrs : (updStream s k f).csrs = s.csrs := rfl
@[simp] theorem updStream_monitors : (updStream s k f).monitors = s.monitors := rfl
@[simp] theorem updStream_viols : (updStream s k f).viols = s.viols := rfl
@[simp] theorem updStream_cmd : (updStream s k f).cmd = s.cmd := rfl
@[simp] theorem updStream_evt : (updStream s k f).evt = s.evt := rfl
@[simp] theorem updStream_dbg : (updStream s k f).dbg = s.dbg := rfl
@[simp] theorem updStream_scopes : (updStream s k f).scopes = s.scopes := rfl

end

section
variable (s : State) (k : Nat) (f : Well → Well)

@[simp] theorem updWell_agenda : (updWell s k f).agenda = s.agenda := rfl
@[simp] theorem updWell_focus : (updWell s k f).focus = s.focus := rfl
@[simp] theorem updWell_fresh : (updWell s k f).fresh = s.fresh := rfl
@[simp] theorem updWell_issues : (updWell s k f).issues = s.issues := rfl
@[simp] theorem updWell_nextId : (updWell s k f).nextId = s.nextId := rfl
@[simp] theorem updWell_images : (updWell s k f).images = s.images := rfl
@[simp] theorem updWell_faded : (updWell s k f).faded = s.faded := rfl
@[simp] theorem updWell_powered : (updWell s k f).powered = s.powered := rfl
@[simp] theorem updWell_dt : (updWell s k f).dt = s.dt := rfl
@[simp] theorem updWell_dies : (updWell s k f).dies = s.dies := rfl
@[simp] theorem updWell_power : (updWell s k f).power = s.power := rfl
@[simp] theorem updWell_devState : (updWell s k f).devState = s.devState := rfl
@[simp] theorem updWell_devReason : (updWell s k f).devReason = s.devReason := rfl
@[simp] theorem updWell_failedBoundary : (updWell s k f).failedBoundary = s.failedBoundary := rfl
@[simp] theorem updWell_laneRepairs : (updWell s k f).laneRepairs = s.laneRepairs := rfl
@[simp] theorem updWell_peersDown : (updWell s k f).peersDown = s.peersDown := rfl
@[simp] theorem updWell_mem : (updWell s k f).mem = s.mem := rfl
@[simp] theorem updWell_touched : (updWell s k f).touched = s.touched := rfl
@[simp] theorem updWell_homes : (updWell s k f).homes = s.homes := rfl
@[simp] theorem updWell_he : (updWell s k f).he = s.he := rfl
@[simp] theorem updWell_l2 : (updWell s k f).l2 = s.l2 := rfl
@[simp] theorem updWell_stalled : (updWell s k f).stalled = s.stalled := rfl
@[simp] theorem updWell_hostMem : (updWell s k f).hostMem = s.hostMem := rfl
@[simp] theorem updWell_irqs : (updWell s k f).irqs = s.irqs := rfl
@[simp] theorem updWell_msix : (updWell s k f).msix = s.msix := rfl
@[simp] theorem updWell_pba : (updWell s k f).pba = s.pba := rfl
@[simp] theorem updWell_reply : (updWell s k f).reply = s.reply := rfl
@[simp] theorem updWell_cores : (updWell s k f).cores = s.cores := rfl
@[simp] theorem updWell_clusters : (updWell s k f).clusters = s.clusters := rfl
@[simp] theorem updWell_cohorts : (updWell s k f).cohorts = s.cohorts := rfl
@[simp] theorem updWell_crews : (updWell s k f).crews = s.crews := rfl
@[simp] theorem updWell_service : (updWell s k f).service = s.service := rfl
@[simp] theorem updWell_accs : (updWell s k f).accs = s.accs := rfl
@[simp] theorem updWell_copies : (updWell s k f).copies = s.copies := rfl
@[simp] theorem updWell_spgrow : (updWell s k f).spgrow = s.spgrow := rfl
@[simp] theorem updWell_streams : (updWell s k f).streams = s.streams := rfl
@[simp] theorem updWell_sync : (updWell s k f).sync = s.sync := rfl
@[simp] theorem updWell_locks : (updWell s k f).locks = s.locks := rfl
@[simp] theorem updWell_slots : (updWell s k f).slots = s.slots := rfl
@[simp] theorem updWell_track : (updWell s k f).track = s.track := rfl
@[simp] theorem updWell_dramStacks : (updWell s k f).dramStacks = s.dramStacks := rfl
@[simp] theorem updWell_mig : (updWell s k f).mig = s.mig := rfl
@[simp] theorem updWell_badPages : (updWell s k f).badPages = s.badPages := rfl
@[simp] theorem updWell_ctxs : (updWell s k f).ctxs = s.ctxs := rfl
@[simp] theorem updWell_queues : (updWell s k f).queues = s.queues := rfl
@[simp] theorem updWell_launches : (updWell s k f).launches = s.launches := rfl
@[simp] theorem updWell_csrs : (updWell s k f).csrs = s.csrs := rfl
@[simp] theorem updWell_monitors : (updWell s k f).monitors = s.monitors := rfl
@[simp] theorem updWell_viols : (updWell s k f).viols = s.viols := rfl
@[simp] theorem updWell_cmd : (updWell s k f).cmd = s.cmd := rfl
@[simp] theorem updWell_evt : (updWell s k f).evt = s.evt := rfl
@[simp] theorem updWell_dbg : (updWell s k f).dbg = s.dbg := rfl
@[simp] theorem updWell_scopes : (updWell s k f).scopes = s.scopes := rfl

end

section
variable (s : State) (k : Nat) (f : Stack → Stack)

@[simp] theorem updStack_agenda : (updStack s k f).agenda = s.agenda := rfl
@[simp] theorem updStack_focus : (updStack s k f).focus = s.focus := rfl
@[simp] theorem updStack_fresh : (updStack s k f).fresh = s.fresh := rfl
@[simp] theorem updStack_issues : (updStack s k f).issues = s.issues := rfl
@[simp] theorem updStack_nextId : (updStack s k f).nextId = s.nextId := rfl
@[simp] theorem updStack_images : (updStack s k f).images = s.images := rfl
@[simp] theorem updStack_faded : (updStack s k f).faded = s.faded := rfl
@[simp] theorem updStack_powered : (updStack s k f).powered = s.powered := rfl
@[simp] theorem updStack_dt : (updStack s k f).dt = s.dt := rfl
@[simp] theorem updStack_dies : (updStack s k f).dies = s.dies := rfl
@[simp] theorem updStack_power : (updStack s k f).power = s.power := rfl
@[simp] theorem updStack_devState : (updStack s k f).devState = s.devState := rfl
@[simp] theorem updStack_devReason : (updStack s k f).devReason = s.devReason := rfl
@[simp] theorem updStack_failedBoundary : (updStack s k f).failedBoundary = s.failedBoundary := rfl
@[simp] theorem updStack_laneRepairs : (updStack s k f).laneRepairs = s.laneRepairs := rfl
@[simp] theorem updStack_peersDown : (updStack s k f).peersDown = s.peersDown := rfl
@[simp] theorem updStack_mem : (updStack s k f).mem = s.mem := rfl
@[simp] theorem updStack_touched : (updStack s k f).touched = s.touched := rfl
@[simp] theorem updStack_homes : (updStack s k f).homes = s.homes := rfl
@[simp] theorem updStack_he : (updStack s k f).he = s.he := rfl
@[simp] theorem updStack_l2 : (updStack s k f).l2 = s.l2 := rfl
@[simp] theorem updStack_stalled : (updStack s k f).stalled = s.stalled := rfl
@[simp] theorem updStack_hostMem : (updStack s k f).hostMem = s.hostMem := rfl
@[simp] theorem updStack_irqs : (updStack s k f).irqs = s.irqs := rfl
@[simp] theorem updStack_msix : (updStack s k f).msix = s.msix := rfl
@[simp] theorem updStack_pba : (updStack s k f).pba = s.pba := rfl
@[simp] theorem updStack_reply : (updStack s k f).reply = s.reply := rfl
@[simp] theorem updStack_cores : (updStack s k f).cores = s.cores := rfl
@[simp] theorem updStack_clusters : (updStack s k f).clusters = s.clusters := rfl
@[simp] theorem updStack_cohorts : (updStack s k f).cohorts = s.cohorts := rfl
@[simp] theorem updStack_crews : (updStack s k f).crews = s.crews := rfl
@[simp] theorem updStack_service : (updStack s k f).service = s.service := rfl
@[simp] theorem updStack_accs : (updStack s k f).accs = s.accs := rfl
@[simp] theorem updStack_copies : (updStack s k f).copies = s.copies := rfl
@[simp] theorem updStack_spgrow : (updStack s k f).spgrow = s.spgrow := rfl
@[simp] theorem updStack_streams : (updStack s k f).streams = s.streams := rfl
@[simp] theorem updStack_wells : (updStack s k f).wells = s.wells := rfl
@[simp] theorem updStack_sync : (updStack s k f).sync = s.sync := rfl
@[simp] theorem updStack_locks : (updStack s k f).locks = s.locks := rfl
@[simp] theorem updStack_slots : (updStack s k f).slots = s.slots := rfl
@[simp] theorem updStack_track : (updStack s k f).track = s.track := rfl
@[simp] theorem updStack_mig : (updStack s k f).mig = s.mig := rfl
@[simp] theorem updStack_badPages : (updStack s k f).badPages = s.badPages := rfl
@[simp] theorem updStack_ctxs : (updStack s k f).ctxs = s.ctxs := rfl
@[simp] theorem updStack_queues : (updStack s k f).queues = s.queues := rfl
@[simp] theorem updStack_launches : (updStack s k f).launches = s.launches := rfl
@[simp] theorem updStack_csrs : (updStack s k f).csrs = s.csrs := rfl
@[simp] theorem updStack_monitors : (updStack s k f).monitors = s.monitors := rfl
@[simp] theorem updStack_viols : (updStack s k f).viols = s.viols := rfl
@[simp] theorem updStack_cmd : (updStack s k f).cmd = s.cmd := rfl
@[simp] theorem updStack_evt : (updStack s k f).evt = s.evt := rfl
@[simp] theorem updStack_dbg : (updStack s k f).dbg = s.dbg := rfl
@[simp] theorem updStack_scopes : (updStack s k f).scopes = s.scopes := rfl

end

section
variable (s : State) (k : Nat) (f : Die → Die)

@[simp] theorem updDie_agenda : (updDie s k f).agenda = s.agenda := rfl
@[simp] theorem updDie_focus : (updDie s k f).focus = s.focus := rfl
@[simp] theorem updDie_fresh : (updDie s k f).fresh = s.fresh := rfl
@[simp] theorem updDie_issues : (updDie s k f).issues = s.issues := rfl
@[simp] theorem updDie_nextId : (updDie s k f).nextId = s.nextId := rfl
@[simp] theorem updDie_images : (updDie s k f).images = s.images := rfl
@[simp] theorem updDie_faded : (updDie s k f).faded = s.faded := rfl
@[simp] theorem updDie_powered : (updDie s k f).powered = s.powered := rfl
@[simp] theorem updDie_dt : (updDie s k f).dt = s.dt := rfl
@[simp] theorem updDie_power : (updDie s k f).power = s.power := rfl
@[simp] theorem updDie_devState : (updDie s k f).devState = s.devState := rfl
@[simp] theorem updDie_devReason : (updDie s k f).devReason = s.devReason := rfl
@[simp] theorem updDie_failedBoundary : (updDie s k f).failedBoundary = s.failedBoundary := rfl
@[simp] theorem updDie_laneRepairs : (updDie s k f).laneRepairs = s.laneRepairs := rfl
@[simp] theorem updDie_peersDown : (updDie s k f).peersDown = s.peersDown := rfl
@[simp] theorem updDie_mem : (updDie s k f).mem = s.mem := rfl
@[simp] theorem updDie_touched : (updDie s k f).touched = s.touched := rfl
@[simp] theorem updDie_homes : (updDie s k f).homes = s.homes := rfl
@[simp] theorem updDie_he : (updDie s k f).he = s.he := rfl
@[simp] theorem updDie_l2 : (updDie s k f).l2 = s.l2 := rfl
@[simp] theorem updDie_stalled : (updDie s k f).stalled = s.stalled := rfl
@[simp] theorem updDie_hostMem : (updDie s k f).hostMem = s.hostMem := rfl
@[simp] theorem updDie_irqs : (updDie s k f).irqs = s.irqs := rfl
@[simp] theorem updDie_msix : (updDie s k f).msix = s.msix := rfl
@[simp] theorem updDie_pba : (updDie s k f).pba = s.pba := rfl
@[simp] theorem updDie_reply : (updDie s k f).reply = s.reply := rfl
@[simp] theorem updDie_cores : (updDie s k f).cores = s.cores := rfl
@[simp] theorem updDie_clusters : (updDie s k f).clusters = s.clusters := rfl
@[simp] theorem updDie_cohorts : (updDie s k f).cohorts = s.cohorts := rfl
@[simp] theorem updDie_crews : (updDie s k f).crews = s.crews := rfl
@[simp] theorem updDie_service : (updDie s k f).service = s.service := rfl
@[simp] theorem updDie_accs : (updDie s k f).accs = s.accs := rfl
@[simp] theorem updDie_copies : (updDie s k f).copies = s.copies := rfl
@[simp] theorem updDie_spgrow : (updDie s k f).spgrow = s.spgrow := rfl
@[simp] theorem updDie_streams : (updDie s k f).streams = s.streams := rfl
@[simp] theorem updDie_wells : (updDie s k f).wells = s.wells := rfl
@[simp] theorem updDie_sync : (updDie s k f).sync = s.sync := rfl
@[simp] theorem updDie_locks : (updDie s k f).locks = s.locks := rfl
@[simp] theorem updDie_slots : (updDie s k f).slots = s.slots := rfl
@[simp] theorem updDie_track : (updDie s k f).track = s.track := rfl
@[simp] theorem updDie_dramStacks : (updDie s k f).dramStacks = s.dramStacks := rfl
@[simp] theorem updDie_mig : (updDie s k f).mig = s.mig := rfl
@[simp] theorem updDie_badPages : (updDie s k f).badPages = s.badPages := rfl
@[simp] theorem updDie_ctxs : (updDie s k f).ctxs = s.ctxs := rfl
@[simp] theorem updDie_queues : (updDie s k f).queues = s.queues := rfl
@[simp] theorem updDie_launches : (updDie s k f).launches = s.launches := rfl
@[simp] theorem updDie_csrs : (updDie s k f).csrs = s.csrs := rfl
@[simp] theorem updDie_monitors : (updDie s k f).monitors = s.monitors := rfl
@[simp] theorem updDie_viols : (updDie s k f).viols = s.viols := rfl
@[simp] theorem updDie_cmd : (updDie s k f).cmd = s.cmd := rfl
@[simp] theorem updDie_evt : (updDie s k f).evt = s.evt := rfl
@[simp] theorem updDie_dbg : (updDie s k f).dbg = s.dbg := rfl
@[simp] theorem updDie_scopes : (updDie s k f).scopes = s.scopes := rfl

end

section
variable (s : State) (f : PackageCsrs → PackageCsrs)

@[simp] theorem updCsrs_agenda : (updCsrs s f).agenda = s.agenda := rfl
@[simp] theorem updCsrs_focus : (updCsrs s f).focus = s.focus := rfl
@[simp] theorem updCsrs_fresh : (updCsrs s f).fresh = s.fresh := rfl
@[simp] theorem updCsrs_issues : (updCsrs s f).issues = s.issues := rfl
@[simp] theorem updCsrs_nextId : (updCsrs s f).nextId = s.nextId := rfl
@[simp] theorem updCsrs_images : (updCsrs s f).images = s.images := rfl
@[simp] theorem updCsrs_faded : (updCsrs s f).faded = s.faded := rfl
@[simp] theorem updCsrs_powered : (updCsrs s f).powered = s.powered := rfl
@[simp] theorem updCsrs_dt : (updCsrs s f).dt = s.dt := rfl
@[simp] theorem updCsrs_dies : (updCsrs s f).dies = s.dies := rfl
@[simp] theorem updCsrs_power : (updCsrs s f).power = s.power := rfl
@[simp] theorem updCsrs_devState : (updCsrs s f).devState = s.devState := rfl
@[simp] theorem updCsrs_devReason : (updCsrs s f).devReason = s.devReason := rfl
@[simp] theorem updCsrs_failedBoundary : (updCsrs s f).failedBoundary = s.failedBoundary := rfl
@[simp] theorem updCsrs_laneRepairs : (updCsrs s f).laneRepairs = s.laneRepairs := rfl
@[simp] theorem updCsrs_peersDown : (updCsrs s f).peersDown = s.peersDown := rfl
@[simp] theorem updCsrs_mem : (updCsrs s f).mem = s.mem := rfl
@[simp] theorem updCsrs_touched : (updCsrs s f).touched = s.touched := rfl
@[simp] theorem updCsrs_homes : (updCsrs s f).homes = s.homes := rfl
@[simp] theorem updCsrs_he : (updCsrs s f).he = s.he := rfl
@[simp] theorem updCsrs_l2 : (updCsrs s f).l2 = s.l2 := rfl
@[simp] theorem updCsrs_stalled : (updCsrs s f).stalled = s.stalled := rfl
@[simp] theorem updCsrs_hostMem : (updCsrs s f).hostMem = s.hostMem := rfl
@[simp] theorem updCsrs_irqs : (updCsrs s f).irqs = s.irqs := rfl
@[simp] theorem updCsrs_msix : (updCsrs s f).msix = s.msix := rfl
@[simp] theorem updCsrs_pba : (updCsrs s f).pba = s.pba := rfl
@[simp] theorem updCsrs_reply : (updCsrs s f).reply = s.reply := rfl
@[simp] theorem updCsrs_cores : (updCsrs s f).cores = s.cores := rfl
@[simp] theorem updCsrs_clusters : (updCsrs s f).clusters = s.clusters := rfl
@[simp] theorem updCsrs_cohorts : (updCsrs s f).cohorts = s.cohorts := rfl
@[simp] theorem updCsrs_crews : (updCsrs s f).crews = s.crews := rfl
@[simp] theorem updCsrs_service : (updCsrs s f).service = s.service := rfl
@[simp] theorem updCsrs_accs : (updCsrs s f).accs = s.accs := rfl
@[simp] theorem updCsrs_copies : (updCsrs s f).copies = s.copies := rfl
@[simp] theorem updCsrs_spgrow : (updCsrs s f).spgrow = s.spgrow := rfl
@[simp] theorem updCsrs_streams : (updCsrs s f).streams = s.streams := rfl
@[simp] theorem updCsrs_wells : (updCsrs s f).wells = s.wells := rfl
@[simp] theorem updCsrs_sync : (updCsrs s f).sync = s.sync := rfl
@[simp] theorem updCsrs_locks : (updCsrs s f).locks = s.locks := rfl
@[simp] theorem updCsrs_slots : (updCsrs s f).slots = s.slots := rfl
@[simp] theorem updCsrs_track : (updCsrs s f).track = s.track := rfl
@[simp] theorem updCsrs_dramStacks : (updCsrs s f).dramStacks = s.dramStacks := rfl
@[simp] theorem updCsrs_mig : (updCsrs s f).mig = s.mig := rfl
@[simp] theorem updCsrs_badPages : (updCsrs s f).badPages = s.badPages := rfl
@[simp] theorem updCsrs_ctxs : (updCsrs s f).ctxs = s.ctxs := rfl
@[simp] theorem updCsrs_queues : (updCsrs s f).queues = s.queues := rfl
@[simp] theorem updCsrs_launches : (updCsrs s f).launches = s.launches := rfl
@[simp] theorem updCsrs_monitors : (updCsrs s f).monitors = s.monitors := rfl
@[simp] theorem updCsrs_viols : (updCsrs s f).viols = s.viols := rfl
@[simp] theorem updCsrs_cmd : (updCsrs s f).cmd = s.cmd := rfl
@[simp] theorem updCsrs_evt : (updCsrs s f).evt = s.evt := rfl
@[simp] theorem updCsrs_dbg : (updCsrs s f).dbg = s.dbg := rfl
@[simp] theorem updCsrs_scopes : (updCsrs s f).scopes = s.scopes := rfl

end

end Sys2Proof.Machine
end

