-- ==== Sys2Proof/Laws/Result.lean ====
section
/-! SUPPORT. Result.lean: what a ready instruction of class Q leaves, said once for all of them. -/
namespace Sys2Proof.Machine

theorem updCrew_updCrew (s : State) (cid : Nat) (f g : Crew → Crew) :
    updCrew (updCrew s cid f) cid g = updCrew s cid (fun c => g (f c)) := by
  simp only [updCrew, SMap.change_change]

theorem updSplit_def (s : State) (cid sid : Nat) (f : Split → Split) :
    updSplit s cid sid f = updCrew s cid (fun cr => cr.updSplit sid f) := rfl

/-- What a result writes of a crew: R62, R66, R78. -/
def resultCrew (sid : Nat) (d : Dest) (w : Width) (lanes : List Nat) (vals : List (Nat × W64)) (cr : Crew) : Crew :=
  let vals := vals.map (fun p => (p.1, cutTo w p.2))
  match d with
  | .push => cr.updSplit sid (fun sp => sp.push lanes vals)
  | .named n =>
    let cr := cr.writeReg n.toNat (vals.map (fun p => (p.1, lo32 p.2)))
    let cr := if w = .w64 then cr.writeReg (n.toNat + 1) (vals.map (fun p => (p.1, hi32 p.2))) else cr
    cr.updSplit sid (fun sp => sp.push lanes vals)
  | .scalar n =>
    match vals with
    | [] => cr.updSplit sid (fun sp => sp.push lanes [])
    | (_, v) :: _ => (cr.writeScalar n.toNat w v).updSplit sid (fun sp => sp.push lanes (vals.map (fun p => (p.1, v))))

theorem writeQ_eq (s : State) (cid sid : Nat) (d : Dest) (w : Width) (lanes : List Nat) (vals : List (Nat × W64)) :
    writeQ s cid sid d w lanes vals = updCrew s cid (resultCrew sid d w lanes vals) := by
  cases d with
  | push => rfl
  | named n => rfl
  | scalar n =>
    cases vals with
    | nil => rfl
    | cons v vs => rfl

theorem lo32_cutTo (w : Width) (x : W64) : lo32 (cutTo w x) = lo32 x := by
  cases w <;> simp [cutTo, lo32]

theorem hi32_cutTo (w : Width) (x : W64) (h : w ≠ .w32) : hi32 (cutTo w x) = hi32 x := by
  cases w <;> simp_all [cutTo]

theorem find_vals (ls : List Nat) (g : Nat → W64) (l : Nat) :
    (ls.map (fun k => (k, g k))).find? (fun p => p.1 == l) = if l ∈ ls then some (l, g l) else none := by
  induction ls with
  | nil => rfl
  | cons k ks ih =>
    by_cases h : k = l
    · simp [h]
    · simp [h, ih, Ne.symm h]

theorem find_vals32 (ls : List Nat) (g : Nat → W32) (l : Nat) :
    (ls.map (fun k => (k, g k))).find? (fun p => p.1 == l) = if l ∈ ls then some (l, g l) else none := by
  induction ls with
  | nil => rfl
  | cons k ks ih =>
    by_cases h : k = l
    · simp [h]
    · simp [h, ih, Ne.symm h]

/-- The parts of a crew after a result, where the crew's split is found. -/
theorem resultCrew_spec {cr : Crew} {sid : Nat} {sp : Split} (hs : cr.split sid = some sp) (d : Dest) (w : Width)
    {lanes act : List Nat} (hn : lanes.Nodup) (hna : act.Nodup) (hlt : ∀ l ∈ act, l < 1024) (val : Nat → W64) :
    ∃ cr' sp', resultCrew sid d w lanes (act.map (fun l => (l, val l))) cr = cr'
      ∧ cr'.split sid = some sp' ∧ (∀ k, k ≠ sid → cr'.split k = cr.split k)
      ∧ cr' = { cr with regs := cr'.regs, scalars := cr'.scalars, splits := cr'.splits }
      ∧ sp' = { sp with queue := sp'.queue }
      ∧ (∀ l ∈ lanes, sp'.qread 0 l = if l ∈ act then entryOf d w act val l else sp.qread 0 l)
      ∧ (∀ n, n < 15 → ∀ l, sp'.qread (n + 1) l = sp.qread n l)
      ∧ (∀ r l, l < 1024 → cr'.cell r l = cellAfter d w act val r l (cr.cell r l))
      ∧ (∀ k, k < cr.scalars.length → cr'.scalar k = scalarAfter d w act val k (cr.scalar k)) := by
  have hvals : (act.map (fun l => (l, val l))).map (fun p => (p.1, cutTo w p.2)) = act.map (fun l => (l, cutTo w (val l))) := by
    simp
  have hid (g : List (Nat × W64)) : ∀ x : Split, (x.push lanes g).id = x.id := fun _ => rfl
  -- the split's part is the same in every form of destination
  have key (cr1 : Crew) (h1 : cr1.splits = cr.splits) (g : Nat → W64) :
      (cr1.updSplit sid (fun sp => sp.push lanes (act.map (fun l => (l, g l))))).split sid
        = some (sp.push lanes (act.map (fun l => (l, g l))))
      ∧ (∀ k, k ≠ sid → (cr1.updSplit sid (fun sp => sp.push lanes (act.map (fun l => (l, g l))))).split k = cr.split k)
      ∧ (∀ l ∈ lanes, (sp.push lanes (act.map (fun l => (l, g l)))).qread 0 l = if l ∈ act then g l else sp.qread 0 l)
      ∧ (∀ n, n < 15 → ∀ l, (sp.push lanes (act.map (fun l => (l, g l)))).qread (n + 1) l = sp.qread n l) := by
    have hs1 : cr1.split sid = some sp := by rw [← hs]; unfold Crew.split; rw [h1]
    refine ⟨by rw [Crew.split_updSplit_self _ _ _ (hid _), hs1]; rfl, fun k hk => ?_, fun l hl => ?_, fun n hn' l =>
      Split.qread_push_succ _ _ _ hn' l⟩
    · rw [Crew.split_updSplit_ne _ _ (hid _) hk]; unfold Crew.split; rw [h1]
    · rw [Split.qread_push_zero _ hn _ hl, find_vals]
      by_cases h : l ∈ act <;> simp [h]
  cases d with
  | push =>
    obtain ⟨h1, h2, h3, h4⟩ := key cr rfl (fun l => cutTo w (val l))
    refine ⟨_, sp.push lanes (act.map (fun l => (l, cutTo w (val l)))), rfl, ?_⟩
    simp only [resultCrew, hvals]
    exact ⟨h1, h2, rfl, rfl, h3, h4, fun _ _ _ => rfl, fun _ _ => rfl⟩
  | named n =>
    obtain ⟨ra, ha⟩ := Crew.writeReg_eq cr n.toNat (act.map (fun l => (l, lo32 (cutTo w (val l)))))
    obtain ⟨cr1, hc1⟩ : ∃ cr1, cr1 = (let cr' := cr.writeReg n.toNat (act.map (fun l => (l, lo32 (cutTo w (val l)))))
      if w = .w64 then cr'.writeReg (n.toNat + 1) (act.map (fun l => (l, hi32 (cutTo w (val l))))) else cr') := ⟨_, rfl⟩
    have hcells (r l : Nat) (hl : l < 1024) : cr1.cell r l = cellAfter (.named n) w act val r l (cr.cell r l) := by
      have hlo : ∀ p ∈ act.map (fun l => (l, lo32 (cutTo w (val l)))), p.1 < 1024 := by
        simp only [List.mem_map]; rintro _ ⟨l, hl, rfl⟩; exact hlt l hl
      have hhi : ∀ p ∈ act.map (fun l => (l, hi32 (cutTo w (val l)))), p.1 < 1024 := by
        simp only [List.mem_map]; rintro _ ⟨l, hl, rfl⟩; exact hlt l hl
      rw [hc1]
      by_cases hw : w = .w64
      · simp only [hw, if_true]
        rw [hw] at hlo hhi
        rw [Crew.cell_writeReg _ _ _ hhi (by simpa [Function.comp_def] using hna) hl, find_vals32,
          Crew.cell_writeReg _ _ _ hlo (by simpa [Function.comp_def] using hna) hl, find_vals32]
        by_cases h : l ∈ act <;> simp only [h, if_true, if_false, cellAfter, true_and, false_and, lo32_cutTo]
        have hh : hi32 (cutTo .w64 (val l)) = hi32 (val l) := hi32_cutTo _ _ (by simp)
        rw [hh]
        by_cases h1 : r = n.toNat + 1 <;> by_cases h2 : r = n.toNat <;> simp [h1, h2]
      · simp only [hw, if_false]
        rw [Crew.cell_writeReg _ _ _ hlo (by simpa [Function.comp_def] using hna) hl, find_vals32]
        by_cases h : l ∈ act <;> simp [h, cellAfter, lo32_cutTo, hw]
    have hrest : cr1 = { cr with regs := cr1.regs } := by
      rw [hc1]
      by_cases hw : w = .w64
      · obtain ⟨rb, hb⟩ := Crew.writeReg_eq { cr with regs := ra } (n.toNat + 1) (act.map (fun l => (l, hi32 (cutTo w (val l)))))
        simp only [hw, if_true] at ha hb ⊢
        rw [ha, hb]
      · simp only [hw, if_false] at ha ⊢
        rw [ha]
    obtain ⟨h1, h2, h3, h4⟩ := key cr1 (by rw [hrest]) (fun l => cutTo w (val l))
    have hres : resultCrew sid (.named n) w lanes (act.map (fun l => (l, val l))) cr
        = cr1.updSplit sid (fun sp => sp.push lanes (act.map (fun l => (l, cutTo w (val l))))) := by
      simp only [resultCrew, hvals, List.map_map, Function.comp_def, hc1]
    refine ⟨_, sp.push lanes (act.map (fun l => (l, cutTo w (val l)))), rfl, ?_⟩
    rw [hres]
    refine ⟨h1, h2, ?_, rfl, h3, h4, fun r l hl => hcells r l hl, fun k _ => ?_⟩
    · rw [hrest]; rfl
    · rw [hrest]; rfl
  | scalar n =>
    cases act with
    | nil =>
      obtain ⟨h1, h2, h3, h4⟩ := key cr rfl (fun _ => 0)
      refine ⟨_, sp.push lanes [], rfl, ?_⟩
      exact ⟨h1, h2, rfl, rfl, fun l hl => by simpa using h3 l hl, h4, fun _ _ _ => rfl, fun _ _ => by simp [scalarAfter, resultCrew, Crew.updSplit]; rfl⟩
    | cons a as =>
      obtain ⟨ss, hss⟩ := Crew.writeScalar_eq cr n.toNat w (cutTo w (val a))
      obtain ⟨h1, h2, h3, h4⟩ := key (cr.writeScalar n.toNat w (cutTo w (val a))) (by rw [hss]) (fun _ => cutTo w (val a))
      have hres : resultCrew sid (.scalar n) w lanes ((a :: as).map (fun l => (l, val l))) cr
          = (cr.writeScalar n.toNat w (cutTo w (val a))).updSplit sid
              (fun sp => sp.push lanes ((a :: as).map (fun l => (l, cutTo w (val a))))) := by
        simp only [resultCrew, List.map_cons, List.map_map, Function.comp_def]
      refine ⟨_, sp.push lanes ((a :: as).map (fun l => (l, cutTo w (val a)))), rfl, ?_⟩
      rw [hres]
      refine ⟨h1, h2, by rw [hss]; rfl, rfl, h3, h4, fun r l _ => by rw [hss]; rfl, fun k hk => ?_⟩
      have := Crew.scalar_writeScalar cr n.toNat w (cutTo w (val a)) hk
      simp only [scalarAfter, reduceCtorEq, if_false, List.headD_cons]
      refine Eq.trans (by rfl) (this.trans ?_)
      rw [lo32_cutTo]
      by_cases hw : w = .w32
      · simp [hw]
      · rw [hi32_cutTo _ _ hw]

theorem Crew.updSplit_preds_id (cr : Crew) (sid : Nat) : cr.updSplit sid (fun x => { x with preds := id x.preds }) = cr := by
  unfold Crew.updSplit
  have (l : List Split) : l.map (fun sp => if sp.id = sid then { sp with preds := id sp.preds } else sp) = l := by
    induction l with
    | nil => rfl
    | cons x xs ih =>
      rw [List.map_cons, ih]
      split <;> rfl
  rw [this]

/-- What the completion of a class Q result leaves, in a table of crews `m` whose crew differs from `cr` only in its
rows and draws; `H` is the result with the predicates that `P` gives. -/
theorem perform_written {b : State} {m : SMap Crew} {i : Instr} {cid sid : Nat} {cr : Crew} {sp : Split} {off : Nat}
    {rm : SMap RegPlace} {lu : SMap Nat} {draws : W32}
    (hf : m.find cid = some { cr with rmap := rm, lastUse := lu, drawIdx := cr.drawIdx + draws })
    (ho : ∀ k, k ≠ cid → m.find k = b.crews.find k)
    (hr : ∀ r, r ∉ destRegs cr sp i → rm.find r = cr.rmap.find r) (hs : cr.split sid = some sp)
    (d : Dest) (w : Width) (val : Nat → W64) (fl : Flags) (P : List Mask → List Mask)
    (pr : Nat → Nat → Bool) (hP : (P sp.preds).length = sp.preds.length ∧
      ∀ p, p < sp.preds.length → ∀ l, l < 1024 → ({ sp with preds := P sp.preds } : Split).pred p l = pr p l)
    {T : State} {H : Crew → Crew} (hT : T = updCrew { b with crews := m } cid H)
    (hH : ∀ c, H c = (resultCrew sid d w (sp.lanes cr.width) ((activeLanes cr sp i).map (fun l => (l, val l))) c).updSplit
      sid (fun x => { x with preds := P x.preds })) :
    ResultOf b (updSplit (addFlags T cid fl) cid sid
        (fun x => { x with place := afterWord sp.block off (Instr.words i), mark := none }))
      i cid sid cr sp off d w val fl draws pr := by
  obtain ⟨c1, sp1, hres, h1, h2, hc, hsp, h3, h4, h5, h6⟩ :=
    resultCrew_spec (cr := { cr with rmap := rm, lastUse := lu, drawIdx := cr.drawIdx + draws }) (sp := sp) hs d w
      (maskLanes_nodup _ _) (activeLanes_nodup cr sp i) (fun l hl => activeLanes_lt hl) val (lanes := sp.lanes cr.width)
  have hst : updSplit (addFlags T cid fl) cid sid
        (fun x => { x with place := afterWord sp.block off (Instr.words i), mark := none })
      = updCrew { b with crews := m } cid (fun c =>
          (let c := (resultCrew sid d w (sp.lanes cr.width) ((activeLanes cr sp i).map (fun l => (l, val l))) c).updSplit sid
            (fun x => { x with preds := P x.preds })
           ({ c with fpflags := c.fpflags ||| fl } : Crew).updSplit sid
            (fun x => { x with place := afterWord sp.block off (Instr.words i), mark := none }))) := by
    simp only [hT, updSplit_def, addFlags, updCrew_updCrew, hH]
  rw [hst]
  have h1' := Crew.split_updSplit_self c1 sid (fun x => { x with preds := P x.preds }) (fun _ => rfl)
  rw [h1] at h1'
  have h1'' := Crew.split_updSplit_self
    { c1.updSplit sid (fun x => { x with preds := P x.preds }) with
      fpflags := (c1.updSplit sid (fun x => { x with preds := P x.preds })).fpflags ||| fl }
    sid (fun x => { x with place := afterWord sp.block off (Instr.words i), mark := none }) (fun _ => rfl)
  rw [show (Crew.split { c1.updSplit sid (fun x => { x with preds := P x.preds }) with
      fpflags := (c1.updSplit sid (fun x => { x with preds := P x.preds })).fpflags ||| fl } sid)
    = (c1.updSplit sid (fun x => { x with preds := P x.preds })).split sid from rfl, h1'] at h1''
  refine ⟨_, _, { state := rfl, found := ?_, others := fun k hk => ?_, crew := ?_, places := ?_, split := h1''
                  splits := fun k hk => ?_, rest := ?_ }, ?_, ?_, ?_, ?_, ?_, ?_, ?_, ?_, ?_, ?_, ?_, ?_, ?_⟩
  · simp only [updCrew, SMap.find_change_self, hf, Option.map_some, hres]
  · simp only [updCrew]
    rw [SMap.find_change_ne _ _ hk]
    exact ho k hk
  · rw [hc]; rfl
  · intro r hn
    refine Eq.trans ?_ (hr r hn)
    rw [hc]; rfl
  · refine (Crew.split_updSplit_ne _ (fun x : Split =>
      { x with place := afterWord sp.block off (Instr.words i), mark := none }) (fun _ => rfl) hk).trans ?_
    refine (Crew.split_updSplit_ne c1 (fun x : Split => { x with preds := P x.preds }) (fun _ => rfl) hk).trans ?_
    exact h2 k hk
  · rw [hsp]
  · exact h3
  · exact h4
  · exact h5
  · exact h6
  · rw [hc]; rfl
  · rw [hc]; rfl
  · rw [hc]; rfl
  · rw [hc]; rfl
  · rfl
  · rw [hsp]
  · rw [hsp]
  · rw [hsp]; exact hP.1
  · intro p hp l hl
    refine Eq.trans ?_ (hP.2 p hp l hl)
    rw [hsp]; rfl

-- operands do not depend on where registers lie

theorem readSrc_rows (s : State) (cr : Crew) (sp : Split) (cv : Conv) (w : Width) (a : Src) (l : Nat) (m : SMap Crew)
    (rm : SMap RegPlace) (lu : SMap Nat) :
    readSrc { s with crews := m } { cr with rmap := rm, lastUse := lu } sp cv w a l = readSrc s cr sp cv w a l := by
  cases a with
  | special k => cases k <;> rfl
  | _ => rfl

section
variable (s : State) (i : Instr) (cid sid : Nat) (cr : Crew) (sp : Split) (off : Nat) (m : SMap Crew)
  (rm : SMap RegPlace) (lu : SMap Nat)

@[simp] theorem envOf_int (w : Width) (a : Src) (l : Nat) :
    (envOf s i cid sid cr sp off m rm lu).int w a l = (envAt s i cid sid cr sp off).int w a l :=
  readSrc_rows s cr sp .int w a l m rm lu

@[simp] theorem envOf_int32 (a : Src) (l : Nat) :
    (envOf s i cid sid cr sp off m rm lu).int32 a l = (envAt s i cid sid cr sp off).int32 a l := by
  simp only [Env.int32, envOf_int]

@[simp] theorem envOf_flt (ty : FTy) (a : Src) (l : Nat) :
    (envOf s i cid sid cr sp off m rm lu).flt ty a l = (envAt s i cid sid cr sp off).flt ty a l := by
  simp only [Env.flt]
  exact congrArg (fun x : W64 => x.toNat % 2 ^ (fmtOf ty).width) (readSrc_rows s cr sp (.flt ty) .w32 a l m rm lu)

@[simp] theorem envOf_half (ty : FTy) (a : Src) (l k : Nat) :
    (envOf s i cid sid cr sp off m rm lu).half ty a l k = (envAt s i cid sid cr sp off).half ty a l k := by
  simp only [Env.half]
  exact congrArg (fun x : W64 => x.toNat / 65536 ^ k % 65536) (readSrc_rows s cr sp (.packed ty) .w32 a l m rm lu)

@[simp] theorem envOf_lanes : (envOf s i cid sid cr sp off m rm lu).lanes = activeLanes cr sp i := rfl
@[simp] theorem envAt_lanes : (envAt s i cid sid cr sp off).lanes = activeLanes cr sp i := rfl
@[simp] theorem envOf_all : (envOf s i cid sid cr sp off m rm lu).all = sp.lanes cr.width := rfl
@[simp] theorem envAt_all : (envAt s i cid sid cr sp off).all = sp.lanes cr.width := rfl
@[simp] theorem envOf_split : (envOf s i cid sid cr sp off m rm lu).split = sp := rfl
@[simp] theorem envAt_split : (envAt s i cid sid cr sp off).split = sp := rfl
@[simp] theorem envOf_lead : (envOf s i cid sid cr sp off m rm lu).lead = (envAt s i cid sid cr sp off).lead := rfl
@[simp] theorem envOf_width : (envOf s i cid sid cr sp off m rm lu).crew.width = (envAt s i cid sid cr sp off).crew.width := rfl
@[simp] theorem envOf_w0 : (envOf s i cid sid cr sp off m rm lu).crew.w0 = (envAt s i cid sid cr sp off).crew.w0 := rfl
@[simp] theorem envOf_flush (ty : FTy) (ftz : Bool) :
    (envOf s i cid sid cr sp off m rm lu).flush ty ftz = (envAt s i cid sid cr sp off).flush ty ftz := rfl
@[simp] theorem envOf_nanp (n : Bool) :
    (envOf s i cid sid cr sp off m rm lu).nanp n = (envAt s i cid sid cr sp off).nanp n := rfl
@[simp] theorem envOf_rounding (ty : FTy) (fm : FMod) (noise nbits : Nat) :
    (envOf s i cid sid cr sp off m rm lu).rounding ty fm noise nbits
      = (envAt s i cid sid cr sp off).rounding ty fm noise nbits := rfl

end

theorem Ready.crewFound {s : State} {i : Instr} {cid sid : Nat} {cr : Crew} {sp : Split} {off : Nat}
    (h : Ready s i cid sid cr sp off) : s.crews.find cid = some cr := (executing_crew h.executes).1

theorem Ready.splitFound {s : State} {i : Instr} {cid sid : Nat} {cr : Crew} {sp : Split} {off : Nat}
    (h : Ready s i cid sid cr sp off) : cr.split sid = some sp := (executing_crew h.executes).2.1

-- the three shapes of class Q

theorem lanewise_eq (e : Env) (d : Dest) (w : Width) (F : Nat → Res) :
    e.lanewise d w F = e.result d w (e.lanes.map (fun l => (l, (F l).bits))) (e.lanes.foldl (fun a l => a ||| (F l).flags) 0) := by
  simp only [Env.lanewise, List.map_map, Function.comp_def, List.foldl_map]

/-- An instruction that computes lane by lane. -/
theorem computes_of {i : Instr} {d : Dest} {w : Width} {F : Env → Nat → Res}
    (h : ∀ s, exec i s = issue s i (fun e => e.lanewise d w (F e)))
    (hF : ∀ s cid sid cr sp off m rm lu l, F (envOf s i cid sid cr sp off m rm lu) l = F (envAt s i cid sid cr sp off) l) :
    Computes i d w F := by
  intro s cid sid cr sp off hr
  obtain ⟨m, rm, lu, ⟨hf, ho, hp, -⟩, hb⟩ := issue_ready hr
  refine ⟨_, by rw [h, hb], ?_⟩
  simp only [lanewise_eq, hF]
  exact perform_written (draws := 0) (H := resultCrew sid d w (sp.lanes cr.width) _) (by simpa using hf) ho hp hr.splitFound
    d w _ _ id sp.pred ⟨rfl, fun _ _ _ _ => rfl⟩ (by rw [writeQ_eq]; rfl) (fun c => (Crew.updSplit_preds_id _ sid).symm)

theorem getLsbD_maskOf (ls : List Nat) {l : Nat} (hl : l < 1024) : (maskOf ls).getLsbD l = decide (l ∈ ls) := by
  induction ls with
  | nil => simp [maskOf]
  | cons k ks ih =>
    simp only [maskOf, BitVec.getLsbD_or, ih, BitVec.getLsbD_twoPow, List.mem_cons]
    by_cases h : l ∈ ks <;> by_cases hk : k = l <;> simp [h, hk, hl] <;> omega

/-- R79: a predicate of each lane after a write. -/
theorem writePred_spec (preds : List Mask) (q : BitVec 3) {act : List Nat} (bit : Nat → Bool) :
    ∃ P : List Mask → List Mask,
      (∀ sp : Split, sp.writePred q.toNat (act.map (fun l => (l, bit l))) = { sp with preds := P sp.preds })
      ∧ (P preds).length = preds.length ∧ ∀ sp : Split, sp.preds = preds → ∀ p, p < preds.length → ∀ l, l < 1024 →
        ({ sp with preds := P preds } : Split).pred p l = predAfter (some q) act bit p l (sp.pred p l) := by
  have hon (l : Nat) : l ∈ ((act.map (fun l => (l, bit l))).filter (·.2)).map (·.1) ↔ l ∈ act ∧ bit l = true := by
    simp only [List.mem_map, List.mem_filter]
    constructor
    · rintro ⟨p, ⟨⟨k, hk, rfl⟩, hb⟩, rfl⟩; exact ⟨hk, hb⟩
    · rintro ⟨h, hb⟩; exact ⟨_, ⟨⟨l, h, rfl⟩, hb⟩, rfl⟩
  have hoff (l : Nat) : l ∈ ((act.map (fun l => (l, bit l))).filter (fun x => !x.2)).map (·.1) ↔ l ∈ act ∧ bit l = false := by
    simp only [List.mem_map, List.mem_filter]
    constructor
    · rintro ⟨p, ⟨⟨k, hk, rfl⟩, hb⟩, rfl⟩; exact ⟨hk, by simpa using hb⟩
    · rintro ⟨h, hb⟩; exact ⟨_, ⟨⟨l, h, rfl⟩, by simpa using hb⟩, rfl⟩
  by_cases h7 : q.toNat = 7
  · refine ⟨id, fun sp => by simp [Split.writePred, h7], rfl, fun sp hsp p hp l hl => ?_⟩
    subst hsp
    have : predAfter (some q) act bit p l (sp.pred p l) = sp.pred p l := by
      simp only [predAfter]
      rw [if_neg (by omega)]
    rw [this]; rfl
  · refine ⟨fun ps => changeAt ps q.toNat (fun m =>
      (m &&& ~~~(maskOf (((act.map (fun l => (l, bit l))).filter (fun x => !x.2)).map (·.1))))
        ||| maskOf (((act.map (fun l => (l, bit l))).filter (·.2)).map (·.1))),
      fun sp => by simp [Split.writePred, h7], by simp, fun sp hsp p hp l hl => ?_⟩
    subst hsp
    simp only [Split.pred, getD_changeAt, predAfter]
    by_cases hpq : p = q.toNat
    · subst hpq
      have hne : ¬ q.toNat = 7 := h7
      simp only [hp, and_self, if_true, BitVec.getLsbD_or, BitVec.getLsbD_and, BitVec.getLsbD_not, hl,
        getLsbD_maskOf _ hl, hon, hoff, true_and, Ne, hne, not_false_eq_true]
      have h7' : (q.toNat == 7) = false := by simp [hne]
      by_cases ha : l ∈ act <;> cases hb : bit l <;> simp [ha, h7']
    · simp [hpq]

/-- An instruction that gives each active lane a bit. -/
theorem decides_of {i : Instr} {d : Dest} {pw : Option (BitVec 3)} {val : Env → Nat → W64} {bit : Env → Nat → Bool}
    {fl : Env → Flags} (h : ∀ s, exec i s = issue s i (fun e => .next (addFlags
      (match pw with
        | some p => updSplit (writeQ e.s e.cid e.sid d .w32 e.all (e.lanes.map (fun l => (l, val e l)))) e.cid e.sid
            (fun sp => sp.writePred p.toNat (e.lanes.map (fun l => (l, bit e l))))
        | none => writeQ e.s e.cid e.sid d .w32 e.all (e.lanes.map (fun l => (l, val e l)))) e.cid (fl e))))
    (hv : ∀ s cid sid cr sp off m rm lu l, val (envOf s i cid sid cr sp off m rm lu) l = val (envAt s i cid sid cr sp off) l)
    (hb : ∀ s cid sid cr sp off m rm lu l, bit (envOf s i cid sid cr sp off m rm lu) l = bit (envAt s i cid sid cr sp off) l)
    (hfl : ∀ s cid sid cr sp off m rm lu, fl (envOf s i cid sid cr sp off m rm lu) = fl (envAt s i cid sid cr sp off)) :
    Decides i d pw val bit fl := by
  intro s cid sid cr sp off hr
  obtain ⟨m, rm, lu, ⟨hf, ho, hp, -⟩, hb'⟩ := issue_ready hr
  refine ⟨_, by rw [h, hb'], ?_⟩
  simp only [hv, hb, hfl]
  cases pw with
  | none =>
    exact perform_written (draws := 0) (H := resultCrew sid d .w32 (sp.lanes cr.width) _) (by simpa using hf) ho hp
      hr.splitFound d .w32 _ _ id sp.pred ⟨rfl, fun _ _ _ _ => rfl⟩ (by rw [writeQ_eq]; rfl)
      (fun c => (Crew.updSplit_preds_id _ sid).symm)
  | some q =>
    obtain ⟨P, hP, hlen, hpr⟩ := writePred_spec sp.preds q (act := activeLanes cr sp i) (bit (envAt s i cid sid cr sp off))
    refine perform_written (draws := 0) (H := fun c => (resultCrew sid d .w32 (sp.lanes cr.width) _ c).updSplit sid
      (fun x => { x with preds := P x.preds })) (by simpa using hf) ho hp hr.splitFound d .w32 _ _ P _
      ⟨hlen, fun p hp l hl => hpr sp rfl p hp l hl⟩ ?_ (fun c => rfl)
    simp only [envOf_lanes, hP, writeQ_eq, updSplit_def, updCrew_updCrew]
    rfl

/-- An instruction that rounds. -/
theorem rounds_of {i : Instr} {d : Dest} {w : Width} {rnd : Rnd} {f : Env → Nat → Nat → Res}
    (h : ∀ s, exec i s = issue s i (fun e => (e.draw rnd).1.lanewise d w (fun l => f (e.draw rnd).1 (noiseOf (e.draw rnd).2 l) l)))
    (hf : ∀ s cid sid cr sp off m rm lu n k l,
      f { envOf s i cid sid cr sp off m rm lu with s := { s with crews := m, fresh := k } } n l = f (envAt s i cid sid cr sp off) n l) :
    Rounds i d w rnd f := by
  intro s cid sid cr sp off hr
  obtain ⟨m, rm, lu, ⟨hc, ho, hp, -⟩, hb⟩ := issue_ready hr
  refine ⟨_, by rw [h, hb], ?_⟩
  have hnoise : ((envOf s i cid sid cr sp off m rm lu).draw rnd).2 = drawsOf (envAt s i cid sid cr sp off) rnd := by
    cases rnd <;> rfl
  by_cases hsr : rnd = .sr
  · subst hsr
    simp only [hnoise, lanewise_eq, if_true]
    have hE (n l : Nat) : f ((envOf s i cid sid cr sp off m rm lu).draw .sr).1 n l = f (envAt s i cid sid cr sp off) n l :=
      hf s cid sid cr sp off _ rm lu n _ l
    simp only [hE]
    exact perform_written (b := { s with fresh := s.fresh + (activeLanes cr sp i).length })
      (m := m.change cid (fun c => { c with drawIdx := c.drawIdx + 1 })) (rm := rm) (lu := lu) (draws := 1)
      (H := resultCrew sid d w (sp.lanes cr.width) _)
      (by rw [SMap.find_change_self, hc]; rfl) (fun k hk => (SMap.find_change_ne _ _ hk).trans (ho k hk)) hp
      hr.splitFound d w _ _ id sp.pred ⟨rfl, fun _ _ _ _ => rfl⟩ (by rw [writeQ_eq]; rfl)
      (fun c => (Crew.updSplit_preds_id _ sid).symm)
  · have hd : ((envOf s i cid sid cr sp off m rm lu).draw rnd).1 = envOf s i cid sid cr sp off m rm lu := by
      cases rnd <;> first | rfl | exact absurd rfl hsr
    simp only [hnoise, lanewise_eq, hd, hsr, if_false]
    have hE (n l : Nat) : f (envOf s i cid sid cr sp off m rm lu) n l = f (envAt s i cid sid cr sp off) n l :=
      hf s cid sid cr sp off m rm lu n s.fresh l
    simp only [hE]
    exact perform_written (draws := 0) (H := resultCrew sid d w (sp.lanes cr.width) _) (by simpa using hc) ho hp
      hr.splitFound d w _ _ id sp.pred ⟨rfl, fun _ _ _ _ => rfl⟩ (by rw [writeQ_eq]; rfl)
      (fun c => (Crew.updSplit_preds_id _ sid).symm)

-- instructions that push no entry

/-- An instruction whose body answers a state over the prepared one, a trap, or a wait. -/
theorem does_of {i : Instr} {cond : Env → State → Prop} {t : Env → State → State} (body : Env → Eff)
    (h : ∀ s, exec i s = issue s i body)
    (hb : ∀ s cid sid cr sp off m rm lu, RowsOnly s.crews cid cr m rm lu (destRegs cr sp i) →
      s.crews.find cid = some cr → cr.split sid = some sp → cond (envAt s i cid sid cr sp off) { s with crews := m } →
      Env.settle (envOf s i cid sid cr sp off m rm lu) s (body (envOf s i cid sid cr sp off m rm lu))
        = t (envAt s i cid sid cr sp off) { s with crews := m }) : Does i cond t := by
  intro s cid sid cr sp off hr hc
  obtain ⟨m, rm, lu, hm, hs, hp⟩ := issue_stood hr
  rw [hs] at hc ⊢
  rw [h, hp, hb s cid sid cr sp off m rm lu hm hr.crewFound hr.splitFound hc]

end Sys2Proof.Machine
end

