-- ==== Sys2Proof/Tests/Slice0.lean ====
section
/-! SUPPORT. Slice0.lean: decoding against words written out from the encoding tables of the spec, results that the
spec works out, ill-formed terms that the check refuses, and states that meet the hypotheses of the statements: by
`meets` for one clause of a `Does`, with `readiness` for those of a `Ready`. -/
namespace Sys2Proof.Tests
open Sys2Proof.Machine
set_option Elab.async false

/-- `Free` as a check. -/
def freeB (s : State) (cid : Nat) (cr : Crew) : Bool :=
  decide (cr.restore ≤ crewDT s cr) && !faultHeld s cid (unitOf s cr) && !replayOwed s cr

/-- `Ready` as a check. -/
def readyB (s : State) (i : Instr) (cid sid : Nat) (cr : Crew) (sp : Split) (off : Nat) : Bool :=
  let used := srcRegs cr sp i ++ destRegs cr sp i
  decide (executing s = some (cid, sid, cr, sp, off)) && freeB s cid cr && i.sig.eng.runsOn cr.engine
    && i.sig.csr.all (fun n => (!decide (0x400 ≤ n.toNat) || ((s.ctxs.find cr.ctx).map (·.priv)).getD false)
      && (!decide (n.toNat = 0x405) || decide (cr.engine = .service)))
    && i.wf && used.all (fun r => (activeLanes cr sp i).all (fun l => cr.isFull r l))
    && (usedRecs i).all (fun b => (cr.record b.toNat).full) && (!Instr.isAccess i || sp.acq.isEmpty)
    && (srcRegs cr sp i).all (fun r => !cr.isSpilled r)
    && (destRegs cr sp i).all (fun r => !cr.isSpilled r || cr.covers r (activeLanes cr sp i))
    && (srcRegs cr sp i).all (fun r => (activeLanes cr sp i).all (fun l => ((cr.cell r l).bind (·.failed)).isNone))
    && i.sig.recs.all (fun b => (cr.record b.toNat).failed.isNone)
    && (prepare s cid used (destRegs cr sp i)).isSome

theorem free_of_check {s : State} {cid : Nat} {cr : Crew} (h : freeB s cid cr = true) :
    Free s cid cr := by
  simp only [freeB, Bool.and_eq_true, decide_eq_true_eq, Bool.not_eq_true'] at h
  exact ⟨h.1.1, h.1.2, h.2⟩

theorem ready_of_check {s : State} {i : Instr} {cid sid : Nat} {cr : Crew} {sp : Split} {off : Nat}
    (h : readyB s i cid sid cr sp off = true) : Ready s i cid sid cr sp off := by
  simp only [readyB, Bool.and_eq_true, decide_eq_true_eq, List.all_eq_true, Bool.or_eq_true, Bool.not_eq_true',
    Option.all_eq_true, decide_eq_false_iff_not, Option.isNone_iff_eq_none, List.isEmpty_iff] at h
  obtain ⟨⟨⟨⟨⟨⟨⟨⟨⟨⟨⟨⟨h1, h2⟩, h3⟩, h4⟩, h5⟩, h6⟩, h7⟩, h8⟩, h9⟩, h10⟩, h11⟩, h12⟩, h13⟩ := h
  refine ⟨h1, free_of_check h2, h3, fun n hn => ⟨fun hp => ?_, fun hp => ?_⟩, h5, h6, h7, fun ha => ?_, h9,
    fun r hr hs => ?_, h11, h12, h13⟩
  · exact (h4 n hn).1.resolve_left (fun x => x hp)
  · exact (h4 n hn).2.resolve_left (fun x => x hp)
  · exact h8.resolve_left (by simp [ha])
  · exact (h10 r hr).resolve_left (by simp [hs])

/-- An instruction is ready in the state, and a condition holds of its environment and of the state that `stood` names. -/
def meets (s : State) (i : Instr) (h : Env → State → Bool) : Bool :=
  match executing s with
  | some (cid, sid, cr, sp, off) =>
    readyB s i cid sid cr sp off && h (envAt s i cid sid cr sp off) (stood s i cid cr sp)
  | none => false

/-- What `meets` says: the hypotheses of a `Does` whose condition is `h` hold together. -/
theorem of_meets {s : State} {i : Instr} {h : Env → State → Bool} (hm : meets s i h = true) :
    ∃ cid sid cr sp off, Ready s i cid sid cr sp off
      ∧ h (envAt s i cid sid cr sp off) (stood s i cid cr sp) = true := by
  unfold meets at hm
  split at hm
  · rename_i cid sid cr sp off _
    simp only [Bool.and_eq_true] at hm
    exact ⟨cid, sid, cr, sp, off, ready_of_check hm.1, hm.2⟩
  · cases hm

/-- `Env.active` as a check. -/
def active (e : Env) : Bool := !e.lanes.isEmpty

/-- `Env.reaches` as a check. -/
def reaches (e : Env) (r : BitVec 128) (n : Need) (size al : Nat) (o : Nat → Int) : Bool :=
  !recMalformed r && recGrants r n && e.lanes.all (fun l =>
    decide (0 ≤ o l ∧ o l + size ≤ recSpan r ∧ recAddr r (o l).toNat % al = 0))

/-- `Env.inside` as a check. -/
def inside (e : Env) (h : Int) : Bool := (launchOf e.s e.crew).any (fun ln => decide (0 ≤ h ∧ h + 8 ≤ ln.seglen))

/-- `Env.beyond` as a check. -/
def beyond (e : Env) (h : Int) : Bool :=
  (launchOf e.s e.crew).any (fun ln => decide (h < 0 ∨ (ln.seglen : Int) < h + 8))

/-- `Env.fenceDone` as a check. -/
def fenceDone (e : Env) (b : State) (scope : Scope) (src : BitVec 8) : Bool :=
  !incomplete b e.crew (e.split.mark.getD b.nextId) src
    && decide (scope = .crew ∨ twmaxOf e.crew src + 2 ≤ crewDT e.s e.crew)
    && decide (scope = .sys → src.getLsbD 7 = true → e.crew.hostAck = true)

theorem active_iff (e : Env) : active e = true ↔ e.active := by simp [active, Env.active]
theorem reaches_iff (e : Env) (r : BitVec 128) (n : Need) (size al : Nat) (o : Nat → Int) :
    reaches e r n size al o = true ↔ e.reaches r n size al o := by simp [reaches, Env.reaches, and_assoc]
theorem inside_iff (e : Env) (h : Int) : inside e h = true ↔ e.inside h := by
  simp [inside, Env.inside, Option.any_eq_true]
theorem beyond_iff (e : Env) (h : Int) : beyond e h = true ↔ e.beyond h := by
  simp [beyond, Env.beyond, Option.any_eq_true]
theorem fenceDone_iff (e : Env) (b : State) (scope : Scope) (src : BitVec 8) :
    fenceDone e b scope src = true ↔ e.fenceDone b scope src := by
  simp only [fenceDone, Env.fenceDone, Bool.and_eq_true, Bool.not_eq_true', decide_eq_true_eq, and_assoc]

/-- A split executes an instruction, with nothing that holds its crew back, and a condition holds of them. -/
def frees (s : State) (h : Nat → Nat → Crew → Split → Bool) : Bool :=
  match executing s with
  | some (cid, sid, cr, sp, _) => freeB s cid cr && h cid sid cr sp
  | none => false

/-- A booted machine whose crew of 8 lanes stands at an instruction, when DT has reached 2. -/
def base : State := { withProgram State.reset false [] with dt := 2 }

/-- A booted machine whose control crew stands at an instruction. -/
def ctrl : State := { withProgram State.reset true [] with dt := 2 }

/-- The machine with its crew changed. -/
def crewIs (f : Crew → Crew) : State := updCrew base 1 f

/-- The machine with the executing split changed. -/
def splitIs (f : Split → Split) : State := updSplit base 1 0 f

/-- The first lanes, as a mask. -/
def lanesOf (n : Nat) : Mask := BitVec.ofNat 1024 (2 ^ n - 1)

/-- A predicate 0 that holds in the first lanes only. -/
def p0In (n : Nat) (s : State) : State := updSplit s 1 0 (fun sp => { sp with preds := lanesOf n :: sp.preds.drop 1 })

/-- Guarded by predicate 0. -/
def gp : Guard := ⟨false, 0⟩

/-- The header that a branch of `off` words names. -/
def target (e : Env) (off : BitVec 32) : Int := (e.off : Int) + 8 * off.toInt

/-- The machine whose crew holds in b1 a record with those rights and that EXTENT, of STRIDE 16, at 0x300000. -/
def recd (rights : BitVec 5) (extent : BitVec 32) : State := crewIs (fun c => { c with recs := setAt c.recs 1 {
  bits := rights ++ (0 : BitVec 3) ++ extent ++ (16 : BitVec 16) ++ (0x300000 : BitVec 72) } })

/-- The machine with its context in repeatable mode. -/
def repeats (s : State) : State := updCtx s 0 (fun c => { c with mode := .free })

/-- Lanes whose address operand is their number: v2 of lane l holds l. -/
def laneNumbers (s : State) : State :=
  updCrew s 1 (fun c => c.writeReg 2 ((List.range 8).map (fun l => (l, BitVec.ofNat 32 l))))

/-- The machine with a value in every lane of some named registers. -/
def regs (xs : List (Nat × W32)) (s : State) : State :=
  xs.foldl (fun s x => updCrew s 1 (fun c => c.writeReg x.1 ((List.range 8).map (fun l => (l, x.2))))) s

/-- The machine with an access of its crew in flight. -/
def flying (s : State) (a : Access) : State :=
  { s with nextId := s.nextId + 1, accs := s.accs.put s.nextId { a with id := s.nextId } }

/-- An access of the crew, of its first lane, on a path. -/
def accOf (kind : AccKind) (path : Nat) : Access :=
  { id := 0, crew := 1, lanesM := 1, kind := kind, path := path, lanes := [{ lane := 0, va := 0x300000 }]
    lines := [{ vline := 0x300000 / 128 }], recBits := (0x1F : BitVec 5) ++ (64 : BitVec 35) ++ (16 : BitVec 16) ++ (0x300000 : BitVec 72) }

/-- The machine with an access of its crew in flight, number 2. -/
def acc2 (s : State) (kind : AccKind) (path : Nat) (f : Access → Access) : State := flying s (f (accOf kind path))

/-- What a clause of AccessEvents asks of access 2 of the crew and of its first line. -/
def held (s : State) (h : Access → Crew → LineReq → Bool) : Bool :=
  (s.accs.find 2).any (fun a => (s.crews.find a.crew).any (fun cr => (a.lines[0]?).any (fun l => h a cr l)))

/-- The access's line, translated to its physical line. -/
def readyLine (a : Access) : Access := { a with xlated := true, lines := a.lines.map (fun l => { l with st := .ready 0x300000 }) }

/-- Each word decodes to the instruction beside it, and the instruction encodes to that word. -/
def reads (rows : List (Nat × Nat × Instr)) : Bool :=
  rows.all (fun r => decodeTableWord r.1 r.2.1 == some r.2.2 && encode r.2.2 ==
    (if r.1 = 64 then [BitVec.ofNat 64 r.2.1] else [BitVec.ofNat 64 r.2.1, BitVec.ofNat 64 (r.2.1 / 2 ^ 64)]))

/-- The control group: words of its encoding tables (R83 to R96, R403 to R580). -/
theorem test_decode_control : reads [
    (64, 0x0070000000000000, .nop .always),
    (64, 0x0070000000000000, .nop ⟨false, 7⟩),
    (64, 0x01700000FFFFFFFC, .bra (-4)),
    (64, 0x02A0000000000006, .brc ⟨true, 2⟩ 6),
    (64, 0x0370000000000009, .call 9),
    (64, 0x0470000000000000, .ret),
    (128, 0x000000000000000005A0000000000000, .exit ⟨true, 2⟩),
    (128, 0x00000000000000F30570000100000006, .exitSuccessor 6 0xF3),
    (64, 0x06720C050000000C, .yield (.named 3 false) 5 12),
    (64, 0x07A0041000000006, .waitc ⟨true, 2⟩ (.scalar 4) 6),
    (64, 0x087000000000001D, .bar 13 true),
    (64, 0x09A0000048D159E0, .trap ⟨true, 2⟩ 0x12345678),
    (64, 0x0C70000000000000, .illegalOpcode 0x0C),
    (64, 0x0A70000000000000, .rtt),
    (64, 0x0B7007FC00000000, .gsig .always (.const (-1)))] = true := by decide +kernel

/-- The integer group: words of its encoding tables (R83 to R96, R403 to R580). -/
theorem test_decode_integer : reads [
    (64, 0x10A8500287000000, .iadd ⟨true, 2⟩ (.named 5) .s32 false (.queue 0) (.named 7 true)),
    (64, 0x11743411C0001C20, .isub .always (.scalar 3) .n8 true (.scalar 4) (.const (-64))),
    (64, 0x1270003CBF001000, .imul .always .push .s16 false (.queue 15) (.named 63 false)),
    (64, 0x1378620884000C00, .imulh .always (.named 6) .n64 (.named 2 false) (.named 4 false)),
    (64, 0x1478820883210420, .imad .always (.named 8) .n32 true (.named 2 false) (.named 3 false) (.named 4 false)),
    (64, 0x1578920883000023, .idiv .always (.named 9) .s32 true true true (.named 2 false) (.named 3 false)),
    (64, 0x1678920883001400, .imin .always (.named 9) .n16 (.named 2 false) (.named 3 false)),
    (64, 0x1778920883001800, .imax .always (.named 9) .s8 (.named 2 false) (.named 3 false)),
    (64, 0x1878820800000820, .iabs .always (.named 8) .s64 true (.named 2 false)),
    (64, 0x1978820800000000, .ineg .always (.named 8) .s32 false (.named 2 false)),
    (64, 0x1A78820883000638, .icmp .always (.named 8) .n32 .tst (some 4) (.named 2 false) (.named 3 false)),
    (64, 0x1B78A21488229806, .idp4 .always (.named 10) (.int .s8) (.int .s8) false (.named 5 false) (.named 8 false) (.named 10 false)),
    (64, 0x1C7882088400001D, .sel .always (.named 8) true true 5 (.named 2 false) (.named 4 false)),
    (64, 0x1D78850000000001, .mov .always (.named 8) true (.special .wid)),
    (64, 0x1D78852C00000000, .mov .always (.named 8) false (.special .sib)),
    (64, 0x1E78300048D159E0, .movi .always (.named 3) .plain (.queue 0) 0x12345678),
    (64, 0x1E78422600000006, .movi .always (.named 4) .hi (.named 9 false) 0x80000001),
    (64, 0x1F788208000026C8, .cvt .always (.named 8) (.flt .f16) (.flt .f32) ⟨.sr, true, false⟩ (.named 2 false))] = true := by decide +kernel

/-- The logic group: words of its encoding tables (R83 to R96, R403 to R580). -/
theorem test_decode_logic : reads [
    (64, 0x2078820884000C00, .andL .always (.named 8) .b64 (.named 2 false) (.named 4 false)),
    (64, 0x2178820884000C00, .orL .always (.named 8) .b64 (.named 2 false) (.named 4 false)),
    (64, 0x2278820884000C00, .xorL .always (.named 8) .b64 (.named 2 false) (.named 4 false)),
    (64, 0x2378820800000400, .notL .always (.named 8) .b32 (.named 2 false)),
    (64, 0x24788208832104E8, .bool3 .always (.named 8) .b32 0xE8 (.named 2 false) (.named 3 false) (.named 4 false)),
    (64, 0x2578820985000C00, .shl .always (.named 8) .b64 (.named 2 false) (.const 5)),
    (64, 0x2678820985000C00, .shr .always (.named 8) .b64 (.named 2 false) (.const 5)),
    (64, 0x2778820985000C00, .sar .always (.named 8) .b64 (.named 2 false) (.const 5)),
    (64, 0x2878820883000401, .rot .always (.named 8) .b32 true (.named 2 false) (.named 3 false)),
    (64, 0x2978820883210400, .fsh .always (.named 8) .b32 false (.named 2 false) (.named 3 false) (.named 4 false)),
    (64, 0x2C78920800000C00, .popc .always (.named 9) .b64 (.named 2 false)),
    (64, 0x2D78920C00000400, .clz .always (.named 9) .b32 (.named 3 false)),
    (64, 0x2E78820800000C00, .brev .always (.named 8) .b64 (.named 2 false)),
    (64, 0x2F78521180230006, .prmt .always (.named 5) .nxs (.named 4 false) (.const 0) (.named 12 false)),
    (64, 0x2A78820983624000, .bfx .always (.named 8) .s32 (.named 2 false) (.const 3) (.const 9)),
    (64, 0x2B78820883210400, .bfi .always (.named 8) .b32 (.named 2 false) (.named 3 false) (.named 4 false))] = true := by decide +kernel

/-- The floating group: words of its encoding tables (R83 to R96, R403 to R580). -/
theorem test_decode_floating : reads [
    (64, 0x30788209810020E0, .fadd .always (.named 8) .f32 ⟨.rz, true, true⟩ (.named 2 false) (.const 1)),
    (64, 0x3178820883002500, .fsub .always (.named 8) .f16 ⟨.rdn, false, false⟩ (.named 2 false) (.named 3 false)),
    (64, 0x3278A209FE002980, .fmul .always (.named 10) .bf16 ⟨.rup, false, false⟩ (.named 2 false) (.const (-2))),
    (64, 0x3378820883212200, .ffma .always (.named 8) .f32 ⟨.rna, false, false⟩ (.named 2 false) (.named 3 false) (.named 4 false)),
    (64, 0x3478820883002041, .fmin .always (.named 8) .f32 true true (.named 2 false) (.named 3 false)),
    (64, 0x3578820883002400, .fmax .always (.named 8) .f16 false false (.named 2 false) (.named 3 false)),
    (64, 0x36788208830029FC, .fcmp .always (.named 8) .bf16 .nan true (some 3) (.named 2 false) (.named 3 false)),
    (64, 0x3778820800003000, .fclass .always (.named 8) .e5m2 (.named 2 false)),
    (64, 0x3878820800002040, .frcp .always (.named 8) .f32 true (.named 2 false)),
    (64, 0x3978820800002040, .frsq .always (.named 8) .f32 true (.named 2 false)),
    (64, 0x3A78820800002040, .fsqrt .always (.named 8) .f32 true (.named 2 false)),
    (64, 0x3B78820800002040, .flog2 .always (.named 8) .f32 true (.named 2 false)),
    (64, 0x3C78820800002040, .fexp2 .always (.named 8) .f32 true (.named 2 false)),
    (64, 0x3D78820800002040, .ftanh .always (.named 8) .f32 true (.named 2 false)),
    (64, 0x3E78820800002040, .fsig .always (.named 8) .f32 true (.named 2 false)),
    (64, 0x40788208830026A0, .hadd2 .always (.named 8) .f16 ⟨.sr, false, true⟩ (.named 2 false) (.named 3 false)),
    (64, 0x41788208830026A0, .hmul2 .always (.named 8) .f16 ⟨.sr, false, true⟩ (.named 2 false) (.named 3 false)),
    (64, 0x4278820883212800, .hfma2 .always (.named 8) .bf16 ⟨.rne, false, false⟩ (.named 2 false) (.named 3 false) (.named 4 false))] = true := by decide +kernel

/-- The crew group: words of its encoding tables (R83 to R96, R403 to R580). -/
theorem test_decode_crew : reads [
    (64, 0x4478820884000C01, .shfl .always (.named 8) .b64 .up (.named 2 false) (.named 4 false)),
    (64, 0x4570021400000028, .vote .always .push .any (some 2) (.named 5 false)),
    (64, 0x4678820800000020, .red .always (.named 8) .s32 .add ⟨.rne, false, true⟩ (.named 2 false)),
    (64, 0x4778820883002040, .rmaxi .always (.named 8) .f32 true (.named 2 false) (.named 3 false)),
    (64, 0x487882080000040D, .scan .always (.named 8) .n32 .xor true ⟨.rne, false, false⟩ (.named 2 false)),
    (128, 0x80000000000000014970000000000006, .reform 6 0x8000000000000001),
    (64, 0x4A7882080000001F, .elect .always (.named 8) (some 7) (some (.named 2 false)))] = true := by decide +kernel

/-- The memory group: words of its encoding tables (R83 to R96, R403 to R580). -/
theorem test_decode_memory : reads [
    (64, 0x507832040020C7FE, .ld .always (.named 3) ⟨.named 1 false, 2, .s16, -2⟩ none),
    (64, 0x5078921000312804, .ld .always (.named 9) ⟨.named 4 false, 3, .b32, 4⟩ (some .pkg)),
    (64, 0x5170021089312804, .st .always ⟨.named 4 false, 3, .b32, 4⟩ (.named 9 false) (some .pkg)),
    (64, 0x52788204000B47FF, .lds .always (.named 8) ⟨.named 1 false, 5, .b64, -1⟩),
    (64, 0x53700204870A03FF, .sts .always ⟨.named 1 false, 5, .n8, 1023⟩ (.named 7 false)),
    (64, 0x5478820400F18400, .gather .always (.named 8) ⟨.named 1 false, 15, .b128, -1024⟩),
    (64, 0x5570020487F08000, .scatter .always ⟨.named 1 false, 15, .n16, 0⟩ (.named 7 false)),
    (64, 0x5670020400105000, .pref .always ⟨.named 1 false, 1, .s8, 0⟩ .icache),
    (64, 0x57700000000201A0, .fence .always 0x02 0x01 .pkg false),
    (64, 0x5770000000FFFFC0, .fence .always 0xFF 0xFF .sys false),
    (64, 0x5870020482000009, .icsync .always 9 (.named 1 false) (.named 2 false)),
    (128, 0xB07A0000000000085970020884218000, .copy .always .g2s (.named 2 false) (.named 4 false) (.named 6 false) ⟨11, 0, 3, 6, some 8⟩),
    (128, 0xBC1C0000000000005970020884218002, .copy .always .g2g (.named 2 false) (.named 4 false) (.named 6 false) ⟨11, 12, 0, 7, none⟩),
    (64, 0x5A70D2040021B003, .brld .always 13 (.named 1 false) 2 3 (some .sys)),
    (128, 0x00000418000000005B70341106000000, .brmk .always 3 (.scalar 4) (.scalar 6) 0 4 3 0),
    (64, 0x5C7886FC00000000, .spgrow .always (.named 8) (.const 63)),
    (64, 0x5D70047C00000000, .spfree .always (.scalar 31)),
    (64, 0x5E78820885001CC8, .pin .always (.named 8) 7 0xC8 (.named 2 false) (.named 5 false)),
    (64, 0x5F70021400000000, .unpin .always (.named 5 false))] = true := by decide +kernel

/-- The synchronisation group: words of its encoding tables (R83 to R96, R403 to R580). -/
theorem test_decode_synchronisation : reads [
    (128, 0x20100400000000006078421888000000, .atom .always (.named 4) .add .n32 2 2 none (.named 6 false) (.named 8 false) (.queue 0)),
    (128, 0x320FFB40000000006178421888224000, .atomo .always (.named 4) .max .s32 3 (-3) (some .pkg) (.named 6 false) (.named 8 false) (.named 9 false)),
    (128, 0x44803800000000006270021888224000, .reds .always .min .s64 4 7 (.named 6 false) (.named 8 false) (.named 9 false)),
    (128, 0x0000000000000FFF6370000000000000, .combine .always 0xFFF),
    (128, 0x40000000100000006478620800000000, .llock .always (.named 6) 4 0 4096 (.named 2 false)),
    (64, 0x6570060000000100, .lunlock .always 0 0x100 (.const 0))] = true := by decide +kernel

/-- The matrix group: words of its encoding tables (R83 to R96, R403 to R580). -/
theorem test_decode_matrix : reads [
    (128, 0x00900A0005F000007070060180600002, .mma .always (.const 0) (.const 0) (.const 0) 9 10 0x5F false true),
    (128, 0x0010020003F00000717002048220C001, .mmas .always (.named 1 false) (.named 2 false) (.named 3 false) 1 2 0x3F true false),
    (128, 0xFFF000FFFFF000007270020884214001, .mgrp .always (.named 2 false) (.named 4 false) (.named 5 false) 0xFFF 0xFFFFF true),
    (64, 0x73A0000000000000, .mzero ⟨true, 2⟩),
    (128, 0xABC00000000000007470020884219DE0, .mdrain .always (.named 2 false) (.named 4 false) (.named 6 false) .rup .gmax true true true true 0xABC),
    (128, 0x00000000000000007570020800000000, .mmask .always (.named 2 false) false),
    (128, 0x00000000000000017570000000000000, .mmask .always (.queue 0) true),
    (64, 0x7678700000000000, .mwait .always (.named 7)),
    (128, 0x12300000000000007770000000000000, .tilepost .always 0x123),
    (128, 0x12300000000000017878700000000000, .tilewait .always (.named 7) 0x123 true)] = true := by decide +kernel

/-- The wells group: words of its encoding tables (R83 to R96, R403 to R580). -/
theorem test_decode_wells : reads [
    (128, 0x0E00000000020000807004048220E80D, .wload .always (.scalar 1) (.named 2 false) (.named 3 false) .coup true ⟨true, 5⟩ 0 7 0x20000),
    (64, 0x817004048220C009, .wbias .always (.scalar 1) (.named 2 false) (.named 3 false) ⟨true, 1⟩),
    (64, 0x827004048220C000, .wclamp .always (.scalar 1) (.named 2 false) (.named 3 false) ⟨false, 0⟩),
    (128, 0x3C000064513FFFFF837004048220C070, .wsweep .always (.scalar 1) (.named 2 false) (.named 3 false) 7 ⟨false, 0⟩ ⟨0x3C00, 100, 5, 0, true, false, false, 0x3FFFFF⟩),
    (64, 0x8478840482000030, .wread .always (.named 8) (.scalar 1) (.named 2 false) .slot),
    (128, 0x0123456789ABCDEF8570040400000040, .wkey .always (.scalar 1) (.queue 0) (some 0x0123456789ABCDEF) ⟨false, 0⟩),
    (128, 0x00000000000000008570040400000010, .wkeyPhys .always (.scalar 1) ⟨false, 0⟩),
    (128, 0x00000000000000008570000082000020, .wkeyDraw .always (.named 2 false) none),
    (64, 0x8678800000000010, .wnoise .always (.named 8) true),
    (64, 0x8778840400000000, .wstat .always (.named 8) (.scalar 1)),
    (128, 0x000000000000000F887004048220C000, .wlink .always (.scalar 1) (.named 2 false) (.named 3 false) ⟨false, 0⟩ 15)] = true := by decide +kernel

/-- The generation group: words of its encoding tables (R83 to R96, R403 to R580). -/
theorem test_decode_generation : reads [
    (128, 0x00000F00001010009079423180604001, .accept .always (.named 20) (.named 12 false) (.const 0) (.const 1) 15 16 1 true),
    (128, 0x00000000000000009178821800000000, .ballot .always (.named 8) (some (.named 6 false))),
    (128, 0x00000000000000019178800000000000, .ballot .always (.named 8) none),
    (64, 0x9278800000000001, .sibchk .always (.named 8) true),
    (128, 0x00000000000000039370020484660000, .ringput .always (.named 1 false) (.named 4 false) (.const 24) 3),
    (64, 0x9478600000001014, .csrr .always (.named 6) 0x405 false),
    (64, 0x9570021800001014, .csrw .always 0x405 false (.named 6 false)),
    (64, 0x9670020C00000000, .stamp .always (.named 3 false)),
    (64, 0x9770021000000000, .trace .always (.named 4 false))] = true := by decide +kernel

/-- Fields that R82 to R95 and the entries make illegal: T on the queue level, scalar 32, special 76, a destination with W
and S, one of a class that writes none, a MOD bit that IADD does not define, RND on an integer type, SZ 7, SC 7, a bit of
an unused source, a reserved bit of an extension word, and the guard 0b1111. -/
theorem test_rejected_words : [
    (64, 0x1078500000000000 ||| 0x200 * 2 ^ 34), (64, 0x1078500000000000 ||| 0x120 * 2 ^ 34),
    (64, 0x1078500000000000 ||| 0x14C * 2 ^ 34), (64, 0x107C500000000000), (64, 0x0071000000000000),
    (64, 0x1078500000000001), (64, 0x1078500000000080), (64, 0x507832040021C7FE), (64, 0x507832040020FFFE),
    (64, 0x1D78000001000000),
    (128, 0x20100400000000016078421888000000), (64, 0x00F0000000000000)].all
      (fun p => (decodeTableWord p.1 p.2).isNone) = true := by decide +kernel

/-- A term that each check of `Instr.wf` refuses: the guard 0b1111; an odd pair read, a misaligned quad, a special with no
64-bit form, a small constant where none may stand, a queue entry as a quad; a result of 64 bits to an odd register, to a
scalar where the class writes none; and each entry's own limits (R490, R492, R463, R483, R531, R468, R441, R413, R512,
R506, R571, R579). -/
theorem test_ill_formed : [
    Instr.nop ⟨true, 7⟩, .iadd .always (.named 2) .s64 false (.named 3 false) (.queue 0),
    .st .always ⟨.named 1 false, 0, .b128, 0⟩ (.named 6 false) none, .mov .always (.named 2) true (.special .widHi),
    .fclass .always (.named 2) .e4m3 (.const 1), .st .always ⟨.named 1 false, 0, .b128, 0⟩ (.queue 0) none,
    .imulh .always (.named 3) .n64 (.named 2 false) (.named 4 false), .ld .always (.scalar 2) ⟨.named 1 false, 0, .b32, 0⟩ none,
    .ld .always .push ⟨.named 1 false, 0, .b32, 0⟩ none, .gather .always (.named 2) ⟨.named 1 false, 0, .b128, 0⟩,
    .idiv .always (.named 2) .s16 false false false (.named 3 false) (.named 4 false),
    .idp4 .always (.named 2) (.int .s8) (.nib .n4) false (.queue 0) (.queue 1) (.queue 2),
    .fadd .always (.named 2) .e5m2 ⟨.rne, false, false⟩ (.queue 0) (.queue 1),
    .hadd2 .always (.named 2) .f32 ⟨.rne, false, false⟩ (.queue 0) (.queue 1),
    .red .always (.named 2) .f32 .xor ⟨.rne, false, false⟩ (.queue 0), .rmaxi .always (.scalar 2) .f32 false (.queue 0) (.queue 1),
    .fence .always 0 1 .pkg false, .copy .always .g2g (.named 2 false) (.named 4 false) (.named 6 false) ⟨0, 0, 1, 0, none⟩,
    .atom .always (.named 2) .fadd .n32 0 0 none (.queue 0) (.queue 1) (.queue 0),
    .mmas .always (.queue 0) (.queue 1) (.queue 2) 0 0 62 false false,
    .mdrain .always (.queue 0) (.queue 0) (.queue 0) .rne .none true false false false 0,
    .wload .always (.queue 0) (.queue 1) (.queue 2) .cells true ⟨false, 0⟩ 1 0 1,
    .wload .always (.queue 0) (.queue 1) (.queue 2) .cells false ⟨false, 0⟩ 1 0 0,
    .wsweep .always (.queue 0) (.queue 0) (.queue 2) 0 ⟨false, 0⟩ ⟨0, 0, 0, 0, false, false, false, 0⟩].all
      (fun i => !i.wf) = true := by decide +kernel

/-- R491: the table's five rows, and the remainder of the last. -/
theorem test_idiv_table :
    (divide .s32 false false (-7) 2).bits.setWidth 32 = 0xFFFFFFFD#32
    ∧ (divide .s32 false true (-7) 2).bits.setWidth 32 = 0xFFFFFFFF#32
    ∧ divide .n32 false false 5 0 = { bits := 0xFFFFFFFF, flags := Flags.dz }
    ∧ (divide .s32 false false (-2147483648) (-1)).bits.setWidth 32 = 0x80000000#32
    ∧ divide .s32 true false (-2147483648) (-1) = { bits := 0x7FFFFFFF, flags := Flags.sat }
    ∧ divide .s32 true true (-2147483648) (-1) = { bits := 0, flags := 0 } := by decide +kernel

/-- R487: the lesser of 0xFFFF_FFFF and 1 as .s32 and as .n32. -/
theorem test_icmp_signedness :
    intCond .lt (readInt .s32 0xFFFFFFFF) (readInt .s32 1) 0xFFFFFFFF 1 = true
    ∧ intCond .lt (readInt .n32 0xFFFFFFFF) (readInt .n32 1) 0xFFFFFFFF 1 = false := by decide +kernel

/-- R425: the tables 0xE8 and 0x96 are the majority of three and a ^ b ^ c. -/
theorem test_bool3_tables :
    lutBits 0xE8 0xF0 0xCC 0xAA = (0xE8 : W64) ∧ lutBits 0x96 0xF0 0xCC 0xAA = (0x96 : W64) := by decide +kernel

/-- R476: the greater of a signalling NaN and 2.0, and with .nanp. -/
theorem test_fmax_signalling :
    (fmtOf .f32).minMax true false false 0x7F800001 0x40000000 = (0x40000000, Flags.nv)
    ∧ (fmtOf .f32).minMax true true false 0x7F800001 0x40000000 = (0x7FC00000, Flags.nv) := by decide +kernel

/-- R119: 0 × ∞ is invalid in FFMA whatever is added; an exact cancellation is -0 under RDN and +0 elsewhere. -/
theorem test_ffma_invalid :
    let f := fmtOf .f32
    let v := f.decode
    f.fmaV {} (v 0) (v 0x7F800000) (v 0x7FC00000) = (0x7FC00000, Flags.nv)
    ∧ (f.addV { rnd := .rdn } (v 0x3F800000) (v 0xBF800000)).1 = 0x80000000
    ∧ (f.addV {} (v 0x3F800000) (v 0xBF800000)).1 = 0 := by decide +kernel

/-- R257: p16 for I = 0, and for I = 1 with BETA = +∞; for I = 0 with BETA = +∞, x is NaN. -/
theorem test_update_probability :
    updateProb (updateArg 0x3C00 0x3C00 0) = 32768 ∧ updateProb (updateArg 0x7C00 0x3C00 1) = 65535
    ∧ nan32 (updateArg 0x7C00 0x3C00 0) = true := by decide +kernel

/-- R333: the example's address under all eight stacks, and with stack 5 retired. -/
theorem test_interleave :
    interleave [0, 1, 2, 3, 4, 5, 6, 7] 0x1234567C40 = (1, 0x2468ACC40)
    ∧ interleave [0, 1, 2, 3, 4, 6, 7] 0x1234567C40 = (7, 0x299C33440) := by decide +kernel

/-- R141: the swizzled offset of the example. -/
theorem test_swizzle : swz 0x3A0 3 = 0x390 := by decide +kernel

/-- R545, R517: a step after reset fetches MOV v5, -3, which writes v5 in every lane, and goes on to the next word. -/
theorem test_step_mov :
    (match step (State.reset.withFetchWord 64 0x1D7857F400000000) with
      | .next t => (t.crews.find 1).any (fun cr => (List.range 8).all (fun l => cr.named 5 l == 0xFFFFFFFD)
          && (cr.split 0).any (fun sp => sp.place == .word 16))
      | _ => false) = true := by decide +kernel

/-- DecodeEncode: an instruction of the greatest fields, with an extension word. -/
theorem test_met_DecodeEncode :
    let i : Instr := .mma ⟨true, 6⟩ (.const (-64)) (.queue 15) (.scalar 31) 0xFFF 0xFFF 0xFFFF true true
    i.isEvent = false ∧ (∀ op, i ≠ .illegalOpcode op) ∧ i.wf = true := by
  exact ⟨by decide, fun _ h => (by cases h), by decide +kernel⟩

/-- UndefinedOpcodes: the ranges' ends; and a split free to execute the illegal opcode. -/
theorem test_met_UndefinedOpcodes :
    [0x0B, 0x10, 0x3E, 0x40, 0x42, 0x44, 0x4A, 0x50, 0x65, 0x70, 0x78, 0x80, 0x88, 0x90, 0x97].all opDefined = true
    ∧ [0x0C, 0x0F, 0x3F, 0x43, 0x4B, 0x4F, 0x66, 0x6F, 0x79, 0x7F, 0x89, 0x8F, 0x98, 0xFF].any opDefined = false
    ∧ frees base (fun _ _ _ _ => true) = true := by decide +kernel

/-- StepRunsInstruction: after reset, with a word placed, its hypotheses hold together: for a word alone, and for one with
an extension word. -/
theorem test_met_StepRunsInstruction :
    [(64, 0x10A8500287000000), (128, 0x20100400000000006078421888000000)].all (fun p =>
      let s := State.reset.withFetchWord p.1 p.2
      match s.focus, executing s with
      | some f, some (cid, sid, cr, sp, off) =>
        match launchOf s cr with
        | none => false
        | some ln =>
          match fetchWord s cr (ln.seg + off) with
          | (.word w, s1) =>
            let ext := hasExt (w.extractLsb' 56 8).toNat
            match (if ext then fetchWord s1 cr (ln.seg + off + 8) else (.word 0, s1)) with
            | (.word x, _) => s.powered && s.agenda.isEmpty && decide (f.crew = cid ∧ f.split = sid) && !deferredFor cr sp.id
                && opDefined (w.extractLsb' 56 8).toNat && !extBeyond sp off w
                && (match decode w (if ext then some x else none) with | .instr _ => true | _ => false)
            | _ => false
          | _ => false
      | _, _ => false) = true := by decide +kernel

/-- FetchReadsCode: a code line that the instruction cache does not hold, and, once fetched, one that it does. -/
theorem test_met_FetchReadsCode :
    (match base.crews.find 1 with
    | none => false
    | some cr =>
      let u := unitOf base cr
      let miss (s : State) : Bool := (icFind s u cr.ctx (0x200008 / 128)).isNone &&
        (match translate s (some u) (Config.dieOfUnit u) cr.ctx (0x200008 / 128 * 128) { x := true } true with
        | (.ok pa, s1) => !isClosed s1 pa && !needsFill s1 (lineOf pa) && !lostGranule s1 pa && !lostGranule s1 (pa + 64)
          && decide (unitOf s1 cr = u)
        | _ => false)
      miss base && (icFind (fetchWord base cr 0x200008).2 u cr.ctx (0x200008 / 128)).isSome) = true := by decide +kernel

/-- ChecksInOrder: an instruction of another engine's, one of a CSR that a crew may not touch, and one with an illegal
field. -/
theorem test_met_ChecksInOrder :
    frees base (fun _ _ cr _ => !(Instr.mzero .always).sig.eng.runsOn cr.engine) = true
    ∧ frees base (fun _ _ cr _ => (Instr.csrr .always (.named 6) 0x405 false).sig.eng.runsOn cr.engine
        && decide (cr.engine ≠ .service)) = true
    ∧ frees (updCtx base 0 (fun c => { c with priv := false })) (fun _ _ cr _ =>
        ((base.ctxs.find cr.ctx).map (·.priv)).isSome && decide ((Instr.csrw .always 0x400 false (.queue 0)).sig.csr = some 0x400)) = true
    ∧ frees base (fun _ _ cr _ => (Instr.nop ⟨true, 7⟩).sig.eng.runsOn cr.engine && (Instr.nop ⟨true, 7⟩).sig.csr.isNone
        && !(Instr.nop ⟨true, 7⟩).wf) = true := by decide +kernel

/-- EmptyRead: the second source of two is the first empty one that traps. -/
theorem test_met_EmptyRead :
    let s := crewIs (fun c => { c with regs := c.regs.put (regKey 7 3) { val := 0, full := false } })
    let i : Instr := .iadd .always (.named 5) .s32 false (.named 6 true) (.named 7 true)
    let empty (cr : Crew) (sp : Split) (x : SrcUse) : Bool :=
      x.traps && x.regs.any (fun k => (activeLanes cr sp i).any (fun l => !cr.isFull k l))
    frees s (fun _ _ cr sp => (staticCheck s cr i).isNone && decide (i.sig.srcs = [s32 (.named 6 true)] ++ s32 (.named 7 true) :: [])
      && !empty cr sp (s32 (.named 6 true)) && empty cr sp (s32 (.named 7 true))
      && decide ((s32 (.named 7 true)).regs.head? = some 7)) = true := by decide +kernel

/-- TrapDelivered and TrapUnhandled: a launch with a handler and one without, and a split inside its handler. -/
theorem test_met_Traps :
    let h : State := { base with launches := base.launches.change 1 (fun l => { l with trapoff := some 0x80 }) }
    let at_ (s : State) (p : Launch → Split → Bool) : Bool :=
      (s.crews.find 1).any (fun cr => (cr.split 0).any (fun sp => (launchOf s cr).any (fun ln => p ln sp)))
    at_ h (fun ln sp => ln.trapoff == some 0x80 && !sp.trap.inHandler) = true
    ∧ at_ base (fun ln _ => ln.trapoff.isNone) = true
    ∧ at_ (updSplit h 1 0 (fun x => { x with trap := { x.trap with inHandler := true } })) (fun _ sp => sp.trap.inHandler) = true
    := by decide +kernel

/-- QueuePush: a crew, a split, and lanes of it. -/
theorem test_met_QueuePush :
    (base.crews.find 1).any (fun cr => (cr.split 0).isSome) = true ∧ (List.range 8).Nodup ∧ [0, 7].Nodup
    ∧ ∀ l ∈ [0, 7], l < 1024 := by decide +kernel

/-- Computes, Decides and Rounds, for IntegerArithmetic, Comparisons, Moves, Bitwise, FloatArithmetic, FloatFunctions and
CrewOperations: an instruction of each is ready, with every lane, with the
lanes of a predicate, and with none. -/
theorem test_met_results :
    [base, p0In 3 base, p0In 0 base].all (fun s => [
      Instr.iadd gp (.named 5) .s32 true (.queue 0) (.named 7 true), .isub gp .push .n64 false (.named 2 false) (.scalar 4),
      .imul gp (.scalar 2) .s16 true (.queue 15) (.const (-64)), .imad gp (.named 6) .s64 true (.named 2 false) (.named 4 false) (.const 1),
      .imulh gp (.named 5) .n32 (.queue 0) (.queue 1), .imin gp (.named 5) .s8 (.queue 0) (.queue 1),
      .imax gp (.named 5) .n8 (.queue 0) (.queue 1), .iabs gp (.named 5) .s32 false (.queue 0), .ineg gp (.named 5) .n16 false (.queue 0),
      .icmp gp (.named 5) .s32 .tst (some 7) (.queue 0) (.queue 1), .fcmp gp (.named 5) .f16 .nan true (some 0) (.queue 0) (.queue 1),
      .idp4 gp (.named 5) (.int .s8) (.int .n8) true (.queue 0) (.queue 1) (.queue 2),
      .sel gp (.named 6) true true 7 (.named 2 false) (.named 4 false), .mov gp (.named 6) true (.special .dt),
      .movi gp (.named 5) .plain (.queue 0) 1, .movi gp (.named 6) .sx64 (.queue 0) 1, .movi gp (.named 6) .hi (.named 3 false) 1].all (fun i => meets s i (fun _ _ => true))) = true
    ∧ [base, p0In 0 base].all (fun s => [
      Instr.andL gp (.named 6) .b64 (.queue 0) (.queue 1), .orL gp (.named 6) .b32 (.queue 0) (.queue 1), .xorL gp .push .b32 (.queue 0) (.queue 1),
      .notL gp (.named 6) .b32 (.queue 0), .bool3 gp (.named 6) .b32 0xE8 (.queue 0) (.queue 1) (.queue 2),
      .shl gp (.named 6) .b64 (.queue 0) (.const 63), .shr gp (.named 6) .b64 (.queue 0) (.const 63), .sar gp (.named 6) .b32 (.queue 0) (.const 31),
      .rot gp (.named 6) .b32 true (.queue 0) (.const 31), .fsh gp (.named 6) .b32 false (.queue 0) (.queue 1) (.const 31),
      .bfx gp (.named 5) .s32 (.queue 0) (.const 31) (.const 1), .bfi gp (.named 5) .b32 (.queue 0) (.queue 1) (.queue 2),
      .popc gp (.named 5) .b64 (.named 2 false), .clz gp (.named 5) .b32 (.queue 0), .brev gp (.named 5) .b32 (.queue 0),
      .prmt gp (.named 5) .nxs (.queue 0) (.queue 1) (.queue 2)].all (fun i => meets s i (fun _ _ => true))) = true
    ∧ [base, p0In 0 base].all (fun s => [
      Instr.fadd gp (.named 5) .f32 ⟨.sr, false, true⟩ (.queue 0) (.queue 1), .fsub gp (.named 5) .f16 ⟨.rdn, true, false⟩ (.queue 0) (.queue 1),
      .fmul gp (.named 5) .bf16 ⟨.rup, false, false⟩ (.queue 0) (.queue 1), .ffma gp (.named 5) .f32 ⟨.rna, false, false⟩ (.queue 0) (.queue 1) (.queue 2),
      .hadd2 gp (.named 5) .f16 ⟨.sr, false, false⟩ (.queue 0) (.queue 1), .hmul2 gp (.named 5) .bf16 ⟨.rne, false, false⟩ (.queue 0) (.const 2),
      .hfma2 gp (.named 5) .f16 ⟨.rz, false, false⟩ (.queue 0) (.queue 1) (.queue 2), .frcp gp (.named 5) .f32 true (.queue 0),
      .frsq gp (.named 5) .f16 false (.queue 0), .fsqrt gp (.named 5) .bf16 false (.queue 0), .flog2 gp (.named 5) .f32 false (.queue 0),
      .fexp2 gp (.named 5) .f32 false (.queue 0), .ftanh gp (.named 5) .f32 false (.queue 0), .fsig gp (.named 5) .f32 false (.queue 0),
      .fmin gp (.named 5) .f32 true true (.queue 0) (.queue 1), .fmax gp (.named 5) .f32 false false (.queue 0) (.queue 1),
      .fclass gp (.named 5) .e5m2 (.queue 0), .cvt gp (.named 6) (.flt .f16) (.int .s32) ⟨.sr, false, false⟩ (.queue 0),
      .shfl gp (.named 6) .b64 .xor (.named 2 false) (.const 1), .vote gp (.named 5) .any (some 2) (.queue 0), .vote gp (.named 5) .all none (.queue 0),
      .vote gp (.named 5) .uni none (.queue 0), .vote gp (.named 5) .ballot none (.queue 0), .elect gp (.named 5) (some 0) (some (.queue 0)),
      .red gp (.named 6) .s64 .add ⟨.rne, false, true⟩ (.named 2 false), .scan gp (.named 5) .f32 .max true ⟨.rne, true, false⟩ (.queue 0),
      .rmaxi gp (.named 6) .f32 true (.queue 0) (.queue 1)].all (fun i => meets s i (fun _ _ => true))) = true := by decide +kernel

/-- IntegerResult, Shifts, BitFields, Division: values at the ends of their ranges. -/
theorem test_met_ranges :
    (intMin .s32 ≤ 2147483647 ∧ (2147483647 : Int) ≤ intMax .s32) ∧ ¬ (2147483648 : Int) ≤ intMax .s32 ∧ intWidth .n8 < 64
    ∧ (0 < 32 ∧ 2 ^ 32 - 1 < 2 ^ 32 ∧ 31 < 32) ∧ intMax .s32 < (-2147483648 : Int).tdiv (-1) ∧ (7 : Int).tdiv (-2) ≤ intMax .s32 := by
  decide +kernel

/-- Branches: targets at both ends of the code segment and beyond them; all lanes, no lane and some lanes; a return stack
that is full, one that holds a header, and one that is empty. -/
theorem test_met_Branches :
    [-1, 510].all (fun off => meets base (.bra off) (fun e _ => inside e (target e off))
      && meets base (.brc .always off) (fun e _ => decide (e.lanes = e.all) && inside e (target e off))
      && meets base (.call off) (fun e _ => decide (e.split.rstack.length < 16) && inside e (target e off)
        && decide (e.split.block = some programBlock))) = true
    ∧ [-2, 511].all (fun off => meets base (.bra off) (fun e _ => beyond e (target e off))
      && meets base (.brc .always off) (fun e _ => decide (e.lanes = e.all) && beyond e (target e off))) = true
    ∧ meets (p0In 0 base) (.brc gp 2) (fun e _ => decide (e.lanes = [] ∧ e.all ≠ [] ∧ e.split.block = some programBlock)) = true
    ∧ meets (p0In 3 base) (.brc gp 2) (fun e _ => active e && decide (e.lanes.length ≠ e.all.length) && inside e (target e 2)
        && decide (e.crew.splits.length < 16 ∧ e.split.block = some programBlock
          ∧ 0 ≤ (programBlock.off : Int) + 8 * programBlock.rcv.toInt)) = true
    ∧ meets (splitIs (fun x => { x with rstack := List.replicate 16 0 })) (.call 2)
        (fun e _ => decide (16 ≤ e.split.rstack.length)) = true
    ∧ meets (splitIs (fun x => { x with rstack := [4088] })) .ret
        (fun e _ => decide (e.split.rstack = 4088 :: []) && inside e (4088 : Nat)) = true
    ∧ meets base .ret (fun e _ => decide (e.split.rstack = [])) = true := by decide +kernel

/-- Waiting: a target that the counter has reached, and the next; a guard that no lane meets; a handler. -/
theorem test_met_Waiting :
    let there (e : Env) (t : Src) : Bool := decide (0 ≤ (e.crew.counters.getD 7 0 - e.int32 t e.lead).toInt)
    meets base (.nop gp) (fun _ _ => true) = true
    ∧ meets base (.waitc .always (.const 0) 7) (fun e _ => there e (.const 0)) = true
    ∧ meets (p0In 0 base) (.waitc gp (.const 1) 7) (fun e _ => decide (e.lanes = [])) = true
    ∧ meets base (.waitc .always (.const 1) 7) (fun e _ => active e && !there e (.const 1)) = true
    ∧ meets base (.yield (.const 0) 7 2) (fun e _ => inside e (target e 2) && there e (.const 0)) = true
    ∧ meets base (.yield (.const 1) 7 2) (fun e _ => inside e (target e 2) && !there e (.const 1)) = true
    ∧ meets base (.bar 15 false) (fun _ _ => true) = true ∧ meets base (.bar 15 true) (fun _ _ => true) = true
    ∧ meets (p0In 0 base) (.trap gp 1) (fun e _ => decide (e.lanes = [])) = true
    ∧ meets base (.trap .always 1) (fun e _ => active e) = true
    ∧ meets (splitIs (fun x => { x with trap := { x.trap with inHandler := true } })) .rtt
        (fun e _ => e.split.trap.inHandler && !e.split.trap.cancelled) = true
    ∧ meets base .rtt (fun e _ => !e.split.trap.inHandler) = true := by decide +kernel

/-- Ending: no lane, some lanes and every lane; a successor within the segment and beyond it; a REFORM. -/
theorem test_met_Ending :
    let rest (e : Env) : Mask := e.split.mask &&& ~~~(maskOf e.lanes)
    meets (p0In 0 base) (.exit gp) (fun e _ => decide (e.lanes = [] ∧ e.split.block = some programBlock)) = true
    ∧ meets (p0In 3 base) (.exit gp) (fun e _ => active e && decide (rest e ≠ 0 ∧ e.split.block = some programBlock)) = true
    ∧ meets base (.exit .always) (fun e _ => active e && decide (rest e = 0)) = true
    ∧ meets base (.exitSuccessor 510 1) (fun e _ => inside e (target e 510)
        && e.crew.splits.all (fun x => match x.state with | .exitWait _ _ _ => false | _ => true)) = true
    ∧ meets base (.exitSuccessor 511 1) (fun e _ => beyond e (target e 511)) = true
    ∧ meets base (.reform 7 1) (fun e b => (barrierCrews b [e.crew.cohort]).all (fun p => p.2.splits.all (fun x =>
        match x.state with | .reformWait _ _ _ => false | _ => true))) = true := by decide +kernel

/-- EmptiedRegisters: lanes and registers. -/
theorem test_met_EmptiedRegisters : ∀ l ∈ [0, 7, 1023], l < 1024 := by decide +kernel

/-- Loads: the first four lanes of a record of four elements of 16 bytes, the last at its end; a record that is tracked; and
PREF with no lane in range, and of a record without the right. -/
theorem test_met_Loads :
    let s (rights : BitVec 5) : State := p0In 4 (laneNumbers (recd rights 4))
    let m (sz : Size) : MemRef := ⟨.named 2 false, 1, sz, 0⟩
    let o (e : Env) (off : Int) (l : Nat) : Int := ((e.int32 (.named 2 false) l).toNat : Int) * 16 + off
    let r (e : Env) : BitVec 128 := (e.crew.record 1).bits
    let ok (e : Env) (sz : Size) : Bool := active e && reaches e (r e) { r := true } sz.bytes sz.bytes (o e 0)
    meets (s 0x0F) (.ld gp (.named 8) (m .b128) none) (fun e _ => ok e .b128) = true
    ∧ meets (repeats (s 0x1F)) (.ld gp (.named 8) (m .b32) (some .pkg)) (fun e _ => ok e .b32) = true
    ∧ meets (s 0x1F) (.gather gp (.named 8) (m .b64)) (fun e _ => ok e .b64) = true
    ∧ meets (s 0x1F) (.brld gp 15 (.named 2 false) 1 3 none) (fun e _ => active e && !recMalformed (r e) && recR (r e)
        && decide (o e 48 e.lead + 16 ≤ recSpan (r e) ∧ recAddr (r e) (o e 48 e.lead).toNat % 16 = 0)) = true
    ∧ meets (laneNumbers (recd 0x1F 64)) (.accept .always (.named 20) (.const 0) (.const 0) (.const 1) 9 16 1 true) (fun e _ =>
        active e && e.lanes.all (fun l => decide (1 ≤ (e.int32 (.const 1) l).toNat ∧ (e.int32 (.const 1) l).toNat ≤ 64))
        && reaches e (r e) { r := true } 640 64 (fun _ => 0)) = true
    ∧ meets (s 0x0F) (.pref gp (m .b64) .l2) (fun e _ => active e && reaches e (r e) { r := true } 8 8 (o e 0)) = true
    ∧ meets (s 0x0F) (.pref gp (m .b64) .icache) (fun e _ => active e && reaches e (r e) { x := true } 8 8 (o e 0)) = true
    ∧ meets (s 0x0F) (.pref .always { m .b64 with off := -64 } .l1) (fun e _ => active e
        && e.lanes.all (fun l => decide (o e (-512) l < 0))) = true := by decide +kernel

/-- Stores: the first four lanes, the last at the record's end, with room in the store queue for one more; a release whose
fence is done; and the tile store's last bytes. -/
theorem test_met_Stores :
    let s (rights : BitVec 5) : State := p0In 4 (laneNumbers (updCrew (recd rights 4) 1 (fun c => { c with storeQ := List.replicate 31 9 })))
    let m (sz : Size) : MemRef := ⟨.named 2 false, 1, sz, 0⟩
    let o (e : Env) (l : Nat) : Int := ((e.int32 (.named 2 false) l).toNat : Int) * 16
    let r (e : Env) : BitVec 128 := (e.crew.record 1).bits
    let ok (e : Env) (sz : Size) : Bool := active e && decide (e.crew.storeQ.length < 32)
      && reaches e (r e) { w := true } sz.bytes sz.bytes (o e)
    let t : State := updCohort (laneNumbers base) 1 (fun c => { c with alloc := 128 })
    let tileOk (e : Env) (sz : Size) : Bool := (e.s.cohorts.find e.crew.cohort).any (fun c => e.lanes.all (fun l =>
      let a : Int := ((e.int32 (.named 2 false) l).toNat : Int) + 15 * sz.bytes
      decide (0 ≤ a ∧ a + sz.bytes ≤ c.alloc ∧ swz a.toNat 0 % sz.bytes = 0)))
    meets (s 0x0F) (.st gp (m .b128) (.named 4 false) none) (fun e _ => ok e .b128) = true
    ∧ meets (updCrew (s 0x1F) 1 (fun c => { c with storeQ := [] })) (.st gp (m .b32) (.named 4 false) (some .crew)) (fun e b =>
        ok e .b32 && fenceDone e b .crew 0xFF) = true
    ∧ meets (repeats (s 0x1F)) (.scatter gp (m .b64) (.named 4 false)) (fun e _ => ok e .b64) = true
    ∧ meets (p0In 1 t) (.sts gp ⟨.named 2 false, 0, .b64, 15⟩ (.named 4 false)) (fun e _ => tileOk e .b64) = true
    ∧ meets (p0In 1 t) (.lds gp (.named 4) ⟨.named 2 false, 0, .b64, 15⟩) (fun e _ => tileOk e .b64 && active e) = true := by
  decide +kernel

/-- AccessTraps: a record without the rights and one that is malformed; lane 4 the first beyond a record of four elements;
lane 1 the first misaligned. -/
theorem test_met_AccessTraps :
    let m (off : BitVec 11) : MemRef := ⟨.named 2 false, 1, .b32, off⟩
    let o (e : Env) (off : Int) (l : Nat) : Int := ((e.int32 (.named 2 false) l).toNat : Int) * recStride (e.crew.record 1).bits + off
    let r (e : Env) : BitVec 128 := (e.crew.record 1).bits
    let all (s : State) (h : Need → Env → Bool) : Bool :=
      meets s (.ld .always (.named 8) (m 0) (some .sys)) (fun e _ => h { r := true } e)
        && meets s (.gather .always (.named 8) (m 0)) (fun e _ => h { r := true } e)
        && meets s (.st .always (m 0) (.named 4 false) none) (fun e _ => h { w := true } e)
        && meets s (.scatter .always (m 0) (.named 4 false)) (fun e _ => h { w := true } e)
    let inRange (e : Env) (l : Nat) : Bool := decide (0 ≤ o e 0 l ∧ o e 0 l + 4 ≤ recSpan (r e))
    let odd : State := crewIs (fun c => { c with recs := setAt c.recs 1 {
      bits := (0x0F : BitVec 5) ++ (0 : BitVec 3) ++ (64 : BitVec 32) ++ (2 : BitVec 16) ++ (0x300000 : BitVec 72) } })
    all (recd 0 4) (fun n e => active e && !recGrants (r e) n) = true
    ∧ all (crewIs (fun c => { c with recs := setAt c.recs 1 { bits := BitVec.allOnes 128 } })) (fun _ e =>
        active e && recMalformed (r e)) = true
    ∧ all (laneNumbers (recd 0x0F 4)) (fun n e => !recMalformed (r e) && recGrants (r e) n
        && decide (e.lanes = [0, 1, 2, 3] ++ 4 :: [5, 6, 7]) && [0, 1, 2, 3].all (inRange e) && !inRange e 4) = true
    ∧ all (laneNumbers odd) (fun n e => !recMalformed (r e) && recGrants (r e) n && e.lanes.all (inRange e)
        && decide (e.lanes = [0] ++ 1 :: [2, 3, 4, 5, 6, 7] ∧ recAddr (r e) (o e 0 0).toNat % 4 = 0
          ∧ ¬ recAddr (r e) (o e 0 1).toNat % 4 = 0)) = true := by decide +kernel

/-- CopiesAndTiles: a rectangle of four rows of 16 bytes to the end of a record and of a tile allocation, in each direction,
with a continuation and without; no rows; requests for tile store at both ends of their range; and what SPFREE may give
back, and may not. -/
theorem test_met_CopiesAndTiles :
    let s (shape n : W32) : State := updCohort (regs [(2, 0), (3, 16), (4, 64), (5, 16), (6, shape), (8, n)] (recd 0x0F 8)) 1
      (fun c => { c with alloc := 128, staticReq := 0 })
    let ext (brs brd : BitVec 4) (cont : Option (BitVec 32)) : CopyExt := ⟨brs, brd, 0, 7, cont⟩
    let rect (e : Env) (a : Src) : CopyRect :=
      let w := e.int .w64 a e.lead
      let c := (e.int32 (.named 6 false) e.lead).toNat
      { off := (lo32 w).toNat, stride := (hi32 w).toNat, rows := c / 65536, rb := c % 65536 }
    let side (e : Env) (tile : Bool) (nd : Need) (a : Src) : Bool :=
      if tile then (e.copyTile 0 (rect e a)).isNone else (e.copyGlobal 1 nd (rect e a)).isNone
    let ok (dir : CopyDir) (e : Env) : Bool := active e && decide ((rect e (.named 2 false)).rows ≠ 0 ∧ (rect e (.named 2 false)).rb ≠ 0)
      && side e (dir == .s2g) { r := true } (.named 2 false) && side e (dir == .g2s) { w := true } (.named 4 false)
      && decide (copiesOn e.s (unitOf e.s e.crew) < 64)
    let copy (dir : CopyDir) (x : CopyExt) : Instr := .copy .always dir (.named 2 false) (.named 4 false) (.named 6 false) x
    [(CopyDir.g2s, ext 1 0 none), (.s2g, ext 0 1 none), (.g2g, ext 1 1 none)].all (fun p =>
      meets (s 0x00040010 0) (copy p.1 p.2) (fun e _ => ok p.1 e)) = true
    ∧ meets (s 0x00040010 0) (copy .g2s (ext 1 0 (some 510))) (fun e _ => ok .g2s e && inside e (target e 510)) = true
    ∧ [0x00000010, 0x00040000].all (fun c => meets (s c 0) (copy .g2g (ext 1 1 none)) (fun e _ => active e
        && decide ((rect e (.named 2 false)).rows = 0 ∨ (rect e (.named 2 false)).rb = 0))) = true
    ∧ [128, 262144].all (fun n => meets (s 0 n) (.spgrow .always (.named 9) (.named 8 false)) (fun e _ => active e
        && decide ((e.int32 (.named 8 false) e.lead).toNat = n.toNat) && decide (n.toNat % 128 = 0))) = true
    ∧ meets (s 0 128) (.spfree .always (.named 8 false)) (fun e b => active e
        && (e.s.cohorts.find e.crew.cohort).any (fun c => decide (c.staticReq + 128 ≤ c.alloc))
        && !rangeBusy b e.crew.cohort 0 128) = true
    ∧ [100, 256].all (fun n => meets (s 0 n) (.spfree .always (.named 8 false)) (fun e _ => active e
        && (e.s.cohorts.find e.crew.cohort).any (fun c => decide (n.toNat % 128 ≠ 0 ∨ c.alloc < c.staticReq + n.toNat)))) = true := by
  decide +kernel

/-- RecordsAndFences: a record that ends at 2^72 and one beyond it; a fence with nothing to wait for, and one with a load
before it; a range of code; a window of one 2 MiB page at its record's end. -/
theorem test_met_RecordsAndFences :
    let s (rights : BitVec 5) : State := regs [(2, 0x100000), (3, 0), (4, 64), (8, 1)] (recd rights 0x40000)
    let made (e : Env) (stride : BitVec 16) : BitVec 128 := (3 : BitVec 5) ++ (0 : BitVec 3) ++ e.int32 (.const 1) e.lead ++ stride
      ++ (0xFF : BitVec 8) ++ e.int .w64 (.const (-16)) e.lead
    let brmk (stride : BitVec 16) : Instr := .brmk .always 15 (.const (-16)) (.const 1) 0xFF stride 3 0
    let r (e : Env) : BitVec 128 := (e.crew.record 1).bits
    let o (e : Env) (w : Width) : Nat := (e.int w (.named 2 false) e.lead).toNat
    meets base (brmk 16) (fun e _ => active e && !recMalformed (made e 16)) = true
    ∧ [17, 0].all (fun x => meets base (brmk x) (fun e _ => active e && recMalformed (made e x))) = true
    ∧ [Scope.crew, .sys].all (fun sc => meets base (.fence .always 0xFF 0x20 sc true) (fun e b => active e
        && decide (e.crew.engine = .core) && fenceDone e b sc 0xFF)) = true
    ∧ meets (flying base (accOf (.load .b32 false) 0)) (.fence .always 1 1 .sys false) (fun e b => active e
        && incomplete b e.crew (e.split.mark.getD b.nextId) 1) = true
    ∧ meets (s 0x08) (.icsync .always 1 (.named 2 false) (.named 4 false)) (fun e _ => active e
        && decide (0 < (e.int32 (.named 4 false) e.lead).toNat) && !recMalformed (r e) && (recX (r e) || recW (r e))
        && decide (o e .w32 + 64 ≤ recSpan (r e))) = true
    ∧ meets (s 0x01) (.pin .always (.named 9) 1 255 (.named 2 false) (.named 8 false)) (fun e _ => active e && !recMalformed (r e)
        && recR (r e) && decide ((e.int32 (.named 8 false) e.lead).toNat ≠ 0) && decide (o e .w64 + 2 ^ 21 ≤ recSpan (r e)
          ∧ (recBase (r e) + o e .w64) % 2 ^ 21 = 0)) = true
    ∧ meets base (.unpin .always (.const 63)) (fun e _ => active e) = true := by decide +kernel

/-- Division: a divisor that is not 0, one that is with Z and without. -/
theorem test_met_Division :
    let num (e : Env) (x : Src) (l : Nat) : Int := readInt .s32 (e.int .w32 x l)
    let idiv (z : Bool) (b : Src) : Instr := .idiv .always (.named 5) .s32 true z true (.queue 0) b
    meets base (idiv false (.const (-1))) (fun e _ => active e && e.lanes.all (fun l => decide (num e (.const (-1)) l ≠ 0))) = true
    ∧ meets base (idiv true (.const 0)) (fun e _ => active e) = true
    ∧ meets base (idiv false (.const 0)) (fun e _ => e.lanes.any (fun l => decide (num e (.const 0) l = 0))) = true := by
  decide +kernel

/-- Atomics: the first lanes of a record of four elements, with a scope and without, tracked and not; a store queue with
room for one more, and one that is full. -/
theorem test_met_Atomics :
    let s (rights : BitVec 5) (n : Nat) : State :=
      p0In 4 (laneNumbers (updCrew (recd rights 4) 1 (fun c => { c with storeQ := List.replicate n 9 })))
    let o (e : Env) (l : Nat) : Int := ((e.int32 (.named 2 false) l).toNat : Int) * recStride (e.crew.record 1).bits
    let r (e : Env) : BitVec 128 := (e.crew.record 1).bits
    let rws : Need := { r := true, w := true, s := true }
    let a : Src := .named 2 false
    meets (s 0x0F 0) (.atom gp (.named 8) .cas .n64 1 0 none a (.named 4 false) (.named 6 false)) (fun e _ => active e
        && !recRep (r e) && reaches e (r e) rws 8 8 (o e)) = true
    ∧ meets (repeats (s 0x1F 0)) (.atom gp (.named 8) .add .s32 1 0 (some .crew) a (.named 4 false) (.queue 0)) (fun e b => active e
        && fenceDone e b .crew 0xFF && reaches e (r e) rws 4 4 (o e) && recRep (r e)) = true
    ∧ meets (s 0x0F 0) (.atomo gp (.named 8) .max .s32 1 0 (some .crew) a (.named 4 false) (.named 5 false)) (fun e b => active e
        && fenceDone e b .crew 0xFF && reaches e (r e) rws 8 8 (o e)) = true
    ∧ meets (s 0x0F 31) (.reds gp .min .s64 1 0 a (.named 4 false) (.named 6 false)) (fun e _ => active e
        && decide (e.crew.storeQ.length < 32) && reaches e (r e) { w := true, s := true } 8 8 (o e)) = true
    ∧ meets (s 0x0F 31) (.combine gp 4095) (fun e _ => active e && decide (e.crew.storeQ.length < 32)) = true
    ∧ meets (s 0x0F 32) (.combine gp 4095) (fun e _ => active e && decide (32 ≤ e.crew.storeQ.length)) = true := by decide +kernel

/-- Locks: a line that nobody of the crew holds, one that it holds, a fourth lock held, and the release of one. -/
theorem test_met_Locks :
    let s (hs : List HeldLock) : State := updCrew (recd 0x1F 4) 1 (fun c => { c with locks := hs })
    let r (e : Env) : BitVec 128 := (e.crew.record 1).bits
    let va : Nat := 0x300000
    let ok (e : Env) : Bool := active e && !recMalformed (r e) && recS (r e) && decide ((e.int32 (.const 0) e.lead).toNat = 0)
      && decide (1 ≤ recSpan (r e)) && decide (recAddr (r e) 0 = va)
    let mine (e : Env) : Bool := e.crew.locks.any (fun h => h.vline == va / 128)
    let llock : Instr := .llock .always (.named 6) 1 0 0xFFFFFFFF (.const 0)
    let lunlock : Instr := .lunlock .always 1 0 (.const 0)
    meets (s (List.replicate 3 ⟨1, 1⟩)) llock (fun e b => ok e && !mine e && decide (e.crew.locks.length + lockRequests e.s e.cid < 4)
        && !noGrantLeft e.s e.crew.ctx (va / 128)
        && (peek b (some (unitOf b e.crew)) (Config.dieOfUnit (unitOf b e.crew)) e.crew.ctx va).all (waiterRoom b e.crew.ctx)) = true
    ∧ meets (s [⟨va / 128, va / 128⟩]) llock (fun e _ => ok e && mine e) = true
    ∧ meets (s (List.replicate 4 ⟨1, 1⟩)) llock (fun e _ => ok e && !mine e
        && decide (4 ≤ e.crew.locks.length + lockRequests e.s e.cid)) = true
    ∧ meets (s [⟨va / 128, va / 128⟩]) lunlock (fun e b => ok e
        && (e.crew.locks.find? (fun h => h.vline == va / 128)).any (fun hl => !isClosed b (hl.pline * 128))
        && fenceDone e b .pkg 0xFF) = true
    ∧ meets (s []) lunlock (fun e _ => ok e && !mine e) = true := by decide +kernel

/-- The control crew's machine with its cohort's stream changed. -/
def streamIs (f : Stream → Stream) : State := updStream ctrl 0 f

/-- MatrixCommands: a stream whose queue has room for one more; operands at the ends of what each command takes. -/
theorem test_met_MatrixCommands :
    let s : State := regs [(2, 1024), (3, 0), (4, 64), (5, 65)] (streamIs (fun st => { st with cmds := List.replicate 15 ⟨0, .mzero, 0⟩ }))
    let room (e : Env) : Bool := active e && (e.s.cohorts.find e.crew.cohort).any (fun ch => ch.slot.any (fun k =>
      (e.s.streams.find (ch.core / 4 * 8 + k)).any (fun st => decide (st.cmds.length < 16))))
    let n (e : Env) (v : Src) : Nat := (e.int32 v e.lead).toNat
    let w (e : Env) (v : Src) : Nat := (e.int .w64 v e.lead).toNat
    let a : Src := .named 2 false
    let mgrp (t g : Src) : Instr := .mgrp .always t (.const 0) g 0 0 true
    let mdrain (epi : Epi) (st : Src) : Instr := .mdrain .always st (.queue 0) (.queue 0) .rne epi false false false false 0xFFF
    meets s (.mma .always (.const 0) (.const 0) (.const 0) 9 10 0xFFFFF true true) (fun e _ => room e) = true
    ∧ meets s (.mmas .always (.const 0) (.const 0) (.named 4 false) 9 10 63 false false) (fun e _ => room e && decide (n e (.named 4 false) % 64 = 0)) = true
    ∧ meets s (.mmas .always (.const 0) (.const 0) (.named 5 false) 9 10 63 false false) (fun e _ => active e && decide (n e (.named 5 false) % 64 ≠ 0)) = true
    ∧ [Src.const 1, .named 4 false].all (fun g => meets s (mgrp a g) (fun e _ => room e && decide (1 ≤ n e g ∧ n e g ≤ 64 ∧ w e a % 16 = 0))) = true
    ∧ [Src.const 0, .named 5 false].all (fun g => meets s (mgrp a g) (fun e _ => active e && decide (n e g < 1 ∨ 64 < n e g))) = true
    ∧ meets s (mgrp (.const 8) (.const 1)) (fun e _ => active e && decide (w e (.const 8) % 16 ≠ 0)) = true
    ∧ meets s (.mzero .always) (fun e _ => room e) = true
    ∧ meets s (mdrain .none (.queue 0)) (fun e _ => room e) = true
    ∧ meets s (mdrain .smax a) (fun e _ => room e && decide (w e a % 8 = 0)) = true
    ∧ meets s (mdrain .smax (.const 4)) (fun e _ => active e && decide (w e (.const 4) % 8 ≠ 0)) = true
    ∧ meets s (.mmask .always a false) (fun e _ => room e && decide (w e a % 64 = 0)) = true
    ∧ meets s (.mmask .always (.queue 0) true) (fun e _ => room e) = true
    ∧ meets s (.mmask .always (.const 32) false) (fun e _ => active e && decide (w e (.const 32) % 64 ≠ 0)) = true := by
  decide +kernel

/-- The core crew's machine, whose cohort has a stream, with entries of the reservation table. -/
def posted (rs : SMap Resv) : State :=
  { base with streams := base.streams.put 0 { cohort := 1 }, clusters := base.clusters.put 0 { resv := rs } }

/-- TileHandshake: an empty queue; a slot free to post in, and the handle's, consumed; a handle with no tile; a drained
one; a cohort without a stream. -/
theorem test_met_TileHandshake :
    let r (drain : Bool) : Resv := { drain := drain, second := true, gen := 255, handle := 4095, tw := 9 }
    let here (e : Env) (p : Stream → Bool) : Bool := active e && (e.s.cohorts.find e.crew.cohort).any (fun ch => decide (ch.slot = some 0)
      && (e.s.streams.find (ch.core / 4 * 8)).any p)
    let wait (drain : Bool) : Instr := .tilewait .always (.named 7) 4095 drain
    meets ctrl (.mwait .always (.named 7)) (fun e _ => here e (fun st => st.stop.isNone && st.cmds.isEmpty)) = true
    ∧ [([] : SMap Resv), [(0, r false)]].all (fun rs => meets (posted rs) (.tilepost .always 4095) (fun e _ =>
        here e (fun _ => true) && (postSlot e.s 0 4095).isSome)) = true
    ∧ meets (posted []) (wait false) (fun e _ => here e (fun _ => true) && (postEntry e.s 0 4095).isNone) = true
    ∧ meets (posted [(0, r false)]) (wait false) (fun e _ => here e (fun _ => true) && (postEntry e.s 0 4095).any (fun p => p.2.second)) = true
    ∧ meets (posted [(3, r true)]) (wait true) (fun e _ => here e (fun _ => true)
        && ((e.resv 0).find 3).any (fun x => decide (x.handle = 4095) && x.second)) = true
    ∧ meets base (.tilepost .always 4095) (fun e _ => e.stream.isNone) = true := by decide +kernel

/-- WellCommands: well 511 of the crew's context with room for one more command, with operands at the end of each limit;
well 512; a well of no context. -/
theorem test_met_WellCommands :
    let s0 : State := regs [(2, 511), (3, 512), (4, 4095), (5, 4094), (6, 0), (7, 0), (8, 131071), (10, 0x80000000 + 511 * 4096)] (recd 0x0F 0x10000)
    let s : State := { s0 with wells := s0.wells.put 511 { owner := some 0, queue := List.replicate 7 { id := 0, crew := 1, lanes := 0, kc := none, body := .phys, core := 0 } } }
    let n (e : Env) (v : Src) : Nat := (e.int32 v e.lead).toNat
    let w : Src := .named 2 false
    let mine (e : Env) : Bool := active e && decide (n e w ≤ 511 ∧ (wellOf e.s (n e w)).owner = some e.crew.ctx)
    let room (e : Env) : Bool := mine e && decide ((wellOf e.s (n e w)).queue.length < 8)
    let cells (e : Env) (v : Src) (lim : Nat) : Bool := e.lanes.all (fun l => decide ((e.int32 v l).toNat < lim))
    let c : Src := .named 4 false
    let cnt : WellCount := ⟨true, 7⟩
    let sx (str : Bool) : SweepExt := ⟨0x3C00, 65535, if str then 1 else 0, 0, str, false, false, if str then 2 else 0⟩
    let all (x : Src) : List Instr := [.wload .always x (.named 6 false) (.named 5 false) .cells false cnt 1 0 2, .wbias .always x c c cnt,
      .wclamp .always x c c cnt, .wsweep .always x (.queue 0) (.named 4 false) 0 cnt (sx false), .wkey .always x (.queue 0) (some 1) cnt,
      .wkeyPhys .always x cnt, .wlink .always x c (.const 0) cnt 15, .wread .always (.named 12) x c .cell, .wstat .always (.named 12) x]
    meets s (.wload .always w (.named 6 false) (.named 5 false) .cells false cnt 1 0 2) (fun e _ => room e
        && decide (n e (.named 5 false) + 2 ≤ loadLimit .cells) && (e.wellSource false 1 0 (n e (.named 6 false)) (2 * loadSize .cells) (loadSize .cells)).isNone) = true
    ∧ meets s (.wbias .always w c c cnt) (fun e _ => room e && cells e c 4096) = true
    ∧ meets s (.wclamp .always w c c cnt) (fun e _ => room e && cells e c 4096) = true
    ∧ meets s (.wsweep .always w (.queue 0) (.named 4 false) 0 cnt (sx false)) (fun e _ => room e && decide ([n e c / 2 ^ 0 % 8].Nodup)) = true
    ∧ meets s (.wsweep .always w (.named 6 false) (.named 4 false) 0 cnt (sx true)) (fun e _ => room e
        && (e.wellSource false 1 0 (n e (.named 6 false)) (64 + 8 * 2) 8).isNone) = true
    ∧ meets s (.wkey .always w (.named 6 false) none cnt) (fun e _ => room e) = true
    ∧ meets s (.wkeyPhys .always w cnt) (fun e _ => room e) = true
    ∧ [Src.const 0, .named 10 false].all (fun y => meets s (.wlink .always w c y cnt 15) (fun e _ => room e && cells e c 4096
        && e.lanes.all (fun l => decide ((e.int32 y l).extractLsb' 21 10 = 0) && (!slotValid (e.int32 y l)
          || decide ((wellOf e.s (slotWell (e.int32 y l))).owner = some e.crew.ctx))))) = true
    ∧ meets s (.wread .always (.named 12) w (.named 8 false) .coup) (fun e _ => room e && cells e (.named 8 false) (readLimit .coup)) = true
    ∧ meets s (.wstat .always (.named 12) w) (fun e _ => mine e) = true
    ∧ meets s (.wkeyDraw .always (.named 6 false) none) (fun e _ => active e) = true
    ∧ (all (.named 3 false)).all (fun i => meets s i (fun e _ => active e && decide (511 < n e (.named 3 false)))) = true
    ∧ (all (.const 5)).all (fun i => meets s i (fun e _ => active e && decide (n e (.const 5) ≤ 511
        ∧ (wellOf e.s (n e (.const 5))).owner ≠ some e.crew.ctx))) = true := by decide +kernel

/-- NoiseWords. -/
theorem test_met_NoiseWords : meets base (.wnoise .always (.named 5) true) (fun e _ => active e) = true := by decide +kernel

/-- The machine whose crew's queue 0 exists, with a stamp ring or without. -/
def queued (stamp : Option RingRef) (n : Nat) : State :=
  { crewIs (fun c => { c with storeQ := List.replicate n 9 }) with
    queues := [(0, { ctx := 0, base := 0, log2 := 6, stamp := stamp }), (1, { ctx := 1, base := 0, log2 := 6 })] }

/-- RingsAndRecords: a crew with a sibling and one without; store queues with room for one more and full; a ring handle
that is bound and one that is not, in a repeatable context and not, with its PROD on a present page, on an absent one, and
written by another cohort in this interval and in another; stamp rings; the crew's own queue, and one of another context. -/
theorem test_met_RingsAndRecords :
    let sib : State := crewIs (fun c => { c with sib := 65 })
    let bound : State := updCtx (queued none 31) 0 (fun c => { c with rings := [(63, { ring := noRing, n := 1, t := 0, queue := 0 })] })
    let cb (e : Env) : Option Nat := if repeatable e.s e.crew.ctx then
        ((e.s.ctxs.find e.crew.ctx).bind (fun c => c.rings.find 63)).map (·.ring.cb)
      else none
    let prod (e : Env) (b : State) : Option (Nat × Nat) := (cb e).bind (fun va =>
      (peek b (some (unitOf b e.crew)) (Config.dieOfUnit (unitOf b e.crew)) e.crew.ctx va).map (fun pa => (pa, va)))
    let other (now : Bool) : State :=
      { repeats bound with track := [(0x109000 / 8, { wcoh := 9, wv := true, int := if now then 0 else 1 })] }
    let absent (s : State) : State :=
      { s with mem := Memory.setN s.mem 0x106000 (leBytes 8 0) }
    let here (e : Env) : Bool := active e && (e.s.cohorts.find e.crew.cohort).isSome
    let stamped (e : Env) : Bool := (e.s.cohorts.find e.crew.cohort).any (fun ch => ((e.s.queues.find ch.queue).bind (·.stamp)).isSome)
    let put : Instr := .ringput .always (.queue 0) (.queue 1) (.queue 2) 63
    let stamp : Instr := .stamp .always (.const 5)
    let v (e : Env) (a : Src) : W32 := e.int32 a e.lead
    meets sib (.ballot .always (.named 5) (some (.named 6 false))) (fun e _ => active e && decide (e.crew.sib ≠ BitVec.allOnes 32)
        && !replaying e.s e.crew.ctx) = true
    ∧ meets base (.ballot .always (.named 5) none) (fun e _ => active e && decide (e.crew.sib = BitVec.allOnes 32)) = true
    ∧ meets (queued none 31) put (fun e _ => active e && decide (e.crew.storeQ.length < 32)
        && ((e.s.ctxs.find e.crew.ctx).bind (fun c => c.rings.find 63)).isNone) = true
    ∧ [bound, repeats (queued none 31)].all (fun s => meets s put (fun e b => active e && decide (e.crew.storeQ.length < 32)
        && (prod e b).isNone)) = true
    ∧ [(repeats bound), other false].all (fun s => meets s put (fun e b => active e && decide (e.crew.storeQ.length < 32)
        && (prod e b).any (fun p => (raceConflict b (crewIdent b e.cid) false true [p]).isNone))) = true
    ∧ meets (absent (repeats bound)) put (fun e b => active e && decide (e.crew.storeQ.length < 32) && (cb e).isSome
        && (prod e b).isNone) = true
    ∧ meets (other true) put (fun e b => active e
        && (prod e b).any (fun p => (raceConflict b (crewIdent b e.cid) false true [p]).isSome)) = true
    ∧ meets (queued (some noRing) 31) stamp (fun e _ => here e && decide (e.crew.storeQ.length < 32) && stamped e) = true
    ∧ meets (queued none 31) stamp (fun e _ => here e && decide (e.crew.storeQ.length < 32) && !stamped e) = true
    ∧ meets (queued none 32) stamp (fun e _ => here e && decide (32 ≤ e.crew.storeQ.length)) = true
    ∧ meets base (.trace .always (.named 6 false)) (fun e _ => here e) = true
    ∧ [Src.const (-1), .const 0].all (fun a => meets (queued none 0) (.gsig .always a) (fun e b => here e
        && (decide (v e a = 0xFFFFFFFF) || (e.s.queues.find (v e a).toNat).any (fun q => decide (q.ctx = e.crew.ctx)))
        && fenceDone e b .sys 0xFF)) = true
    ∧ [Src.const 1, .const 2].all (fun a => meets (queued none 0) (.gsig .always a) (fun e _ => active e && decide (v e a ≠ 0xFFFFFFFF)
        && (e.s.queues.find (v e a).toNat).all (fun q => decide (q.ctx ≠ e.crew.ctx)))) = true := by decide +kernel

/-- SiblingChecks: no sibling; one cancelled exactly 64 ticks ago. -/
theorem test_met_SiblingChecks :
    let s : State := { updCtx (crewIs (fun c => { c with sib := 65 })) 0 (fun c => { c with sibs := [(65, { state := .cancelling, ddt := 36 })] })
      with dt := 100 }
    meets base (.sibchk .always (.named 5) true) (fun e _ => decide (e.crew.sib = BitVec.allOnes 32)) = true
    ∧ [true, false].all (fun t => meets s (.sibchk .always (.named 5) t) (fun e _ => decide (e.crew.sib ≠ BitVec.allOnes 32)
        && ((e.s.ctxs.find e.crew.ctx).bind (fun c => c.sibs.find e.crew.sib.toNat)).any (fun x => decide (x.state = .cancelling
          ∧ e.crew.ignoreCancel = false ∧ x.ddt + 64 ≤ crewDT e.s e.crew)))) = true := by decide +kernel

/-- ControlRegisters: a register of the crew and one of the package. -/
theorem test_met_ControlRegisters :
    [0x000, 0x400].all (fun n => meets base (.csrr .always (.named 6) n true) (fun e _ => active e)
      && meets base (.csrw .always n false (.queue 0)) (fun e _ => active e)) = true := by decide +kernel

/-- IssueSelection: a split that has been chosen; a pipe with a pass left, one with no candidate, one with the base's one
candidate; that candidate's members; two that have starved, of which the policy's choice leaves the other within its bound,
beyond it, and beyond it either way; and a packed group of two crews of one launch at one header. -/
theorem test_met_IssueSelection :
    let free (s : State) : State := { s with focus := none }
    let at_ (p : Place) (st : SplitState) : State := free (splitIs (fun x => { x with place := p, state := st }))
    let twin (s : State) : State :=
      { s with crews := s.crews.put 2 { ((s.crews.find 1).getD (programCrew false)) with cid := 2, startOrd := 1 } }
    let two (a b : Nat) : State :=
      updCore (updSplit (updSplit (free (twin base)) 1 0 (fun x => { x with lastSlot := 66 - a })) 2 0
        (fun x => { x with lastSlot := 66 - b })) 0 (fun u => { u with slots := 66 })
    let older (c x : Cand) : Bool := decide (c.ord < x.ord ∨ (c.ord = x.ord ∧ c.age ≤ x.age))
    let kept (s : State) (n : Nat) (xs : List Cand) : Bool := inBound s (64 + (splitsOn s 0 - 1)) n (decide (0 < 0)) (bySince xs)
    let pick (s : State) : Option (Bool × Bool) :=
      match candidatesOf s 0 with
      | [p, c] =>
        if 64 ≤ p.since && 64 ≤ c.since && older p c && decide (p.passes s = 1) then
          some (kept s 1 [c], kept s 0 [p, c])
        else none
      | _ => none
    base.focus ≠ none ∧ (free base).focus = none
    ∧ (coreUnit (updCore { free base with cores := [(0, {})] } 0 (fun u => { u with pipe0 := { left := 1 } })) 0).pipe0.left = 1
    ∧ candidatesOf (at_ (.word 8) (.waitBar 0)) 0 = [] ∧ (coreUnit (free base) 0).pipe0.left = 0
    ∧ (match candidatesOf (free base) 0 with
      | [c] => decide (c.members = [(1, 0)]) && (base.crews.find 1).any (fun cr => (cr.split 0).isSome) && kept base 1 ([c].erase c)
      | _ => false) = true
    ∧ pick (two 64 64) = some (true, true) ∧ pick (two 64 65) = some (false, true) ∧ pick (two 64 66) = some (false, false)
    ∧ newPacks (twin (at_ (.header 0 .launch) .ready)) 0 = [[1, 2]] := by decide +kernel

/-- CohortScheduling: a split that has waited 1,024 clk; a launch with a cohort to place and a core for it; a cohort at the
head of its core's launch queue; a request for tile store that fits exactly, and one that never can. -/
theorem test_met_CohortScheduling :
    let old : State := { base with dies := base.dies.map (fun d => { d with clkT := 10240 }) }
    let s : State := { base with launches := [(1, { programLaunch false with next := 0, live := 0 })], cohorts := [], crews := [] }
    let q : State := { base with cores := [(0, { launchQ := [1] })], crews := [] }
    let grow (n : Nat) : State := { updCohort base 1 (fun c => { c with alloc := 128 }) with
      spgrow := [{ acc := 9, cohort := 1, core := 0, n := n }] }
    (old.crews.find 1).any (fun cr => (cr.split 0).any (fun sp => decide (sp.state = .ready
      ∧ sp.readyClk + 1024 * (sp.prioUp + 1) ≤ crewClk old cr ∧ crewPrio old cr + sp.prioUp < 3))) = true
    ∧ (match s.launches with
      | [(1, ln)] => pumpRuns s ln.ctx && !ln.error && (savedOf s 1).isNone && ln.again.isEmpty && !ln.fused && !ln.cores
          && decide (ln.next < ln.total) && sumpFits s ln 1 && (coreFor s ln ln.next ln.scratch).isSome
          && (s.ctxs.find ln.ctx).all (fun x => x.mode == .off)
      | _ => false) = true
    ∧ (match (coreUnit q 0).launchQ with
      | [k] => (q.cohorts.find k).any (fun c => pumpRuns q c.ctx && (q.launches.find c.launch).isSome) && (crewsOf q k).isEmpty
      | _ => false) = true
    ∧ (match pendingSpgrow (grow (262144 - 128)) 0 with
      | [p] => ((grow (262144 - 128)).cohorts.find p.cohort).any (fun c => decide (c.alloc + p.n ≤ 262144))
          && decide (p.n ≤ freeTile (grow (262144 - 128)) 0)
      | _ => false) = true
    ∧ (match pendingSpgrow (grow 262144) 0 with
      | [p] => ((grow 262144).cohorts.find p.cohort).any (fun c => decide (262144 < c.alloc + p.n))
      | _ => false) = true := by decide +kernel

/-- MemoryBytes and StoreOrder: memories in canonical form; stores whose bytes lie in their line. -/
theorem test_met_Memory :
    Memory.wf [(3, 1), (7, 255)] = true ∧ Memory.wf State.reset.mem = true ∧ State.reset.memOk = true
    ∧ (∀ q ∈ [(0, (1 : Byte)), (127, 2)], q.1 < 128) ∧ (homeOf State.reset 5).pending = [] ∧ 4 * 128 + 127 < 5 * 128 := by decide +kernel

/-- AccessEvents: translation, with and without a violation; a tracked access whose check finds a conflict, one whose check
finds none, and one that has none to make; a load's line in the L1, and at its home; a queued store that
may be sent, and one that arrives; a result; a gather; a stale request; a fault record held back; an entry of the operand
log that has ended, and one to be walked again; a register to evict, and one to fill. -/
theorem test_met_AccessEvents :
    let load : AccKind := .load .b32 false
    let line : Nat := 0x300000 / 128
    let free (s : State) (a : Access) (l : LineReq) : Bool := !(logBlocks s 2 a l || stalePhase s l 0x300000 || isClosed s 0x300000)
    let served (s : State) (p : Access → Crew → Bool) : Bool := held s (fun a cr l => free s a l && decide (l.st = .ready 0x300000) && a.xlated
      && a.kind.readsLines && a.lines.all (fun x => decide (x.st ≠ .sent 0x300000)) && !lineBehind s 2 a l AccKind.isLoad && !lineBehind s 2 a l AccKind.isStore
      && !ownPending s a.crew (lineOf 0x300000) && (remoteOf 0x300000).isNone && p a cr)
    let l1 : State := { base with cores := [(0, { l1 := [{ line := line, exp := 100, bytes := List.replicate 128 0 }] })] }
    let st : State := acc2 (crewIs (fun c => { c with storeQ := [2] })) (.store 4 false) 0 readyLine
    let flt : State := updCtx base 0 (fun c => { c with pendFlt := [7], faults := [(7, { page := 0, record := 0, posted := false })] })
    let log (a : Access → Access) : State := acc2 (crewIs (fun c => { c with oplog := [2] })) load 0 a
    let wide (n : Nat) : Crew := { (base.crews.find 1).getD (programCrew false) with
      cid := n, w0 := 10, rmap := (List.range 64).map (fun r => (r, .resident ((64 * (n - 2) + r) * 32) 32)) }
    let full : State := { splitIs (fun x => { x with state := .waitRows [5] }) with
      crews := ((splitIs (fun x => { x with state := .waitRows [5] })).crews.put 2 (wide 2)).put 3 (wide 3) }
    let walked (s : State) (p : Walks → Bool) : Bool := held s (fun a cr _ => !a.xlated && !inLog s 2 a && p (walkLines s cr a a.lines))
    let done : Walks → Bool
      | .done => true
      | _ => false
    let tracked (s : State) : State := acc2 s load 0 (fun a => { readyLine a with rep := true, xlated := false, ctx := 0, who := { coh := 1, int := 5 } })
    let written : State := { base with track := [(0x300000 / 8, { wcoh := 9, wv := true, int := 5 })] }
    [false, true].all (fun rep => let s := acc2 base load 0 (fun a => { a with rep := rep })
      walked s done && held s (fun a cr _ => (xlateLines s cr a a.lines).1.all (fun x => x.pa.isSome))) = true
    ∧ held (acc2 base load 0 id) (fun a _ _ => !a.rep) = true
    ∧ [written, base].map (fun s => held (tracked s) (fun a _ _ => a.rep && a.lines.all (fun x => x.pa.isSome)
        && (match raceCheck (tracked s) a with
          | .error _ => true
          | .ok _ => false))) = [true, false]
    ∧ held (tracked base) (fun a _ _ => match raceCheck (tracked base) a with
        | .error _ => false
        | .ok _ => true) = true
    ∧ (let s := acc2 { base with mem := Memory.setN base.mem 0x106000 (leBytes 8 (0x1BF + 2 ^ 60)) } load 0 id
       walked s (fun w => match w with
        | .report _ => true
        | _ => false)) = true
    ∧ served (acc2 l1 load 0 readyLine) (fun a cr => (l1Hit (acc2 l1 load 0 readyLine) a cr 0x300000).isSome) = true
    ∧ (let s := acc2 (l2Touch base line) load 0 readyLine
       served s (fun a cr => (l1Hit s a cr 0x300000).isNone && inL2 s line)) = true
    ∧ (st.crews.find 1).any (fun cr => decide (cr.state ≠ .saved ∧ sendable st cr = some 2)) = true
    ∧ (let s := acc2 base (.store 4 false) 0 readyLine
       held s (fun a cr l => free s a l && decide (sentPA cr 2 l = some 0x300000) && a.kind.isStore && !lineBehind s 2 a l AccKind.isStore
          && (remoteOf 0x300000).isNone)) = true
    ∧ (let s := acc2 base .value 0 (fun a => { a with ready := true })
       held s (fun a cr _ => a.returns && !(waitCancels s a cr).1)) = true
    ∧ held (acc2 base (.gather .b32) 0 id) (fun a _ _ => decide (a.kind = .gather .b32)) = true
    ∧ (let s : State := { acc2 base load 0 readyLine with mig := { base.mig with mig := true, old := [0, 1, 2, 3, 4, 5, 6], nreg := 65536, phase := 0 } }
       held s (fun _ _ l => decide (l.pa = some 0x300000) && !l.isOver && stalePhase s l 0x300000)) = true
    ∧ (flt.ctxs.find 0).any (fun c => decide (c.pendFlt = 7 :: []) && !ringBusy flt c.fltRing && (c.faults.find 7).isSome) = true
    ∧ ((crewIs (fun c => { c with oplog := [7] })).crews.find 1).any (fun cr => decide (cr.oplog = [7]) && (base.accs.find 7).isNone) = true
    ∧ held (log id) (fun a cr l => decide (cr.oplog = 2 :: [] ∧ cr.state = .running ∧ l.st = .new)
        && done (walkLines (log id) cr a a.lines)) = true
    ∧ (match rowRequest full 0 with
      | some (id, _) => (spillVictim full 0 id).isSome
      | none => false) = true := by
  decide +kernel

/-- A condition on what the slot of a spilled register needs filled and on whether it is failed, as a check: in a sump
with room for one slot alone. -/
def slotB (s : State) (cr : Crew) (r : Nat) (p : List Nat → Bool → Bool) : Bool :=
  match s.ctxs.find cr.ctx, cr.rmap.find r with
  | some c, some (.spilled _ _ bs _) =>
    decide (c.sumpSize = 4 * cr.width) && p (rangeFills s c.sumpBase bs.length) (rangeFailed s c.sumpBase bs.length)
  | _, _ => false

theorem slot_of_check {s : State} {cr : Crew} {r : Nat} {p : List Nat → Bool → Bool} (h : slotB s cr r p = true) :
    p (slotFills s cr r) (slotFailed s cr r) = true := by
  unfold slotB at h
  unfold slotFills slotFailed
  split at h
  · rename_i c _ _ bs _ hc hr
    simp only [Bool.and_eq_true, decide_eq_true_eq] at h
    simpa [hc, hr, Context.slotAddr, h.1, Nat.mod_one] using h.2
  · cases h

/-- AccessEvents, its last clauses: a spilled register whose slot must be read first, one whose slot is failed, and one with
rows free whose slot stands above the DRAM. -/
theorem test_met_RegisterFill :
    let s : State := updCtx (crewIs (fun c => c.spillReg 5)) 0 (fun c => { c with sumpSize := 32 })
    let bad : State := { s with dramStacks := [((locate s 0x400000).1, { failed := [0x400000 / 64] })] }
    let spilled (s : State) (p : List Nat → Bool → Bool) : Bool := (s.crews.find 1).any (fun cr => decide (cr.state = .running)
      && cr.isSpilled 5 && (findRows (usedRows s (unitOf s cr)) (rowsOf cr.w0)).isSome && slotB s cr 5 p)
    spilled s (fun fs _ => !fs.isEmpty) = true ∧ spilled bad (fun fs f => fs.isEmpty && f) = true
    ∧ spilled (l2Touch s (0x400000 / 128)) (fun fs f => fs.isEmpty && !f) = true := by decide +kernel

/-- RegisterContents: a crew of the greatest width with cells in order and within it; results of distinct lanes. -/
theorem test_met_RegisterContents :
    let cr : Crew := { programCrew false with w0 := 10, regs := [(regKey 5 0, { val := 1, full := true }), (regKey 5 1023, { val := 2, full := false, pend := some 7 })] }
    SMap.rising cr.regs = true ∧ cr.w0 ≤ 10 ∧ cr.cell 5 1023 = some { val := 2, full := false, pend := some 7 }
    ∧ ([(0, (0 : BitVec 128), (none : Option Nat)), (1023, 1, some 64)].map (·.1)).Nodup := by decide +kernel

/-- AtomicValues: the greatest values of an element. -/
theorem test_met_AtomicValues : AtomTy.n64 ≠ .f32 ∧ 2 ^ 64 - 1 < 2 ^ (8 * atomBytes .n64) ∧ 2 ^ 32 - 1 < 2 ^ (8 * atomBytes .s32) := by
  decide +kernel

/-- SyncEvents: an ATOM and an ordered request, sent first or again, whose line its slice takes; an ordered request to be sent again; the distances of an ordered request; a
contribution to a slot of its own, to none, and to one of another crew, type or operation; a lock request that finds
room, on an idle line and on a held one, one of its own holder and one that finds no room; a waiter that leaves for each reason; the tick of the scan, with a wait cycle and without. -/
theorem test_met_SyncEvents :
    let line : Nat := 0x300000 / 128
    let ready (f : Access → Access) (a : Access) : Access := f { readyLine a with lanes := [{ lane := 0, va := 0x300000, data := [1, 0, 0, 0, 0, 0, 0, 0] }] }
    let free (s : State) (a : Access) (l : LineReq) : Bool := decide (l.st = .ready 0x300000) && !syncBlocked s 2 a l 0x300000
      && (match syncFill s 2 0 0x300000 l with
        | .filled => true
        | _ => false) && (syncTake s line).isSome
    let near : State := l2Touch base line
    let atomo : State := acc2 near (.atomo .add .n32) 3 (ready id)
    let again : State := updAcc atomo 2 (fun a => { a with lanes := a.lanes.map (fun x => { x with aux2 := 3 }) })
    let dist (s : W32) (next : Nat) : Int := (s - BitVec.ofNat 32 next).toInt
    let reds (st : Option Staging) : State :=
      let s := acc2 base (.reds .add .n32) 3 (ready id)
      { s with slots := (st.map (fun x => (slotKey line 0 0 0, x))).toList }
    let slot : Staging := { ctx := 0, grp := 0, line := line, src := 0, home := syncSliceOf base 0x300000, ty := .n32, op := .add, owner := 1, elems := [] }
    let contributes (s : State) (p : Option Staging → Bool) : Bool := held s (fun a cr l => decide (l.st = .ready 0x300000)
      && (a.lanes[0]?).any (fun q => !q.done) && !inStoreQ s 2 a && !syncBlocked s 2 a l 0x300000 && p (s.slots.find (slotKey line a.ctx 0 0))
      && (touchFrame (countCore (touchWindows s 0x300000) cr (l.vline * 128) a.kind.acc) (syncSliceOf s 0x300000)
        (.slot (slotKey line 0 0 0))).isSome)
    let lock : State := acc2 base (.lock 64) 3 (ready id)
    let w (k : Nat) : Waiter := { acc := k, crew := k, enq := k }
    let full : State := updCtx { lock with locks := [(line, { holder := some 9, queue := List.replicate 256 (w 9) })] } 0 (fun c => { c with sumpSize := 0 })
    let idle (s : State) (p : Access → Crew → Bool) : Bool := held s (fun a cr l => decide (l.st = .ready 0x300000) && !a.ready
      && !a.lanes.any (·.held) && !syncBlocked s 2 a l 0x300000 && (syncTake s line).isSome && p a cr)
    let by_ (n : Nat) : State := { lock with locks := [(line, { holder := some n })] }
    let cycle : State := { base with dt := 65536, locks := [(5, { holder := some 1, queue := [w 2] }), (6, { holder := some 2, queue := [w 1] })] }
    (let s := acc2 near (.atom .cas .n32) 3 (ready id)
     held s (fun a _ l => free s a l)) = true
    ∧ [atomo, again].all (fun s => held s (fun a _ l => free s a l && (a.lanes[0]?).any (fun q => !q.reached && decide (q.aux2 ≠ 1)
        && decide (l.vline = q.va / 128) && (a.laneFailed q 8 (q.va + ·)).isNone))) = true
    ∧ held atomo (fun a _ _ => decide (a.kind = .atomo .add .n32)) = true
    ∧ (dist 7 7 = 0 ∧ 0 < dist 0 0xFFFFFFFF ∧ dist 0xFFFFFFFF 0 < 0)
    ∧ contributes (reds (some slot)) (fun x => decide (x = some slot)) = true
    ∧ contributes (reds none) (fun x => x.isNone) = true
    ∧ [{ slot with owner := 2 }, { slot with ty := .s32 }, { slot with op := .max }].all (fun y =>
        contributes (reds (some y)) (fun x => x.any (fun st => decide (st.owner ≠ 1 ∨ st.ty ≠ .n32 ∨ st.op ≠ .add)))) = true
    ∧ [lock, by_ 9].all (fun s => idle s (fun _ cr => waiterRoom s cr.ctx 0x300000)) = true
    ∧ idle (by_ 1) (fun _ _ => true) = true ∧ idle full (fun _ cr => !waiterRoom full cr.ctx 0x300000) = true
    ∧ replaying base (ctxOf base 1) = false
    ∧ [2, 3, 4, 5].map (fun n => ({ w 1 with leaving := n } : Waiter).leaving) = [2, 3, 4, 5]
    ∧ (State.reset.dt % 65536 = 0 ∧ waitCycle (waitEdges State.reset) = none)
    ∧ ((waitCycle (waitEdges cycle)).bind (greatestBy (fun e => youth cycle e.w))).isSome = true := by decide +kernel

/-- CounterCounts: splits that wait for counter 7 at the target it reaches and at the one after it. -/
theorem test_met_CounterCounts :
    let s : State := crewIs (fun c => { c with splits := [SplitState.waitCount 7 1, .waitCount 7 2, .waitYield 7 1 0, .waitYield 7 2 0, .ready].map (fun st =>
      ({ id := 0, mask := 1, place := .word 8, age := 0, state := st } : Split)) })
    (s.crews.find 1).any (fun cr => decide (7 < cr.counters.length ∧ 0 ≤ (cr.counters.getD 7 0 + 1 - 1).toInt
      ∧ (cr.counters.getD 7 0 + 1 - 2).toInt < 0) && decide (cr.splits.length = 5)) = true := by decide +kernel


/-- The machine with a stream of its cohort that holds commands. -/
def streaming (cs : List MQueued) (f : Stream → Stream) : State :=
  { ctrl with streams := [(0, f { cohort := 1, run := .active, cmds := cs })] }

/-- The machine with well 3 of its context changed. -/
def welled (f : Well → Well) : State := { base with wells := [(3, f { owner := some 0 })] }

/-- StackEvents: a read and a masked write at a base die, requested and completed, of a line request and of none, before a write of its
whole granule and after; a granule that is listed; a scrub of an open region and of a closed one; a row to repair; the tick of fades; a region to close, and one to reopen. -/
theorem test_met_StackEvents :
    let st (rs : List StackReq) (f : Stack → Stack) : State := { base with dramStacks := [(3, f { reqs := rs })] }
    let mig (m : Migration → Migration) : State := { base with mig := m { base.mig with mig := true, old := [0, 1, 2, 3, 4, 5, 6], nreg := 4, stack := some 7 } }
    let quiet : State := mig (fun m => { m with closed := some (3, 0) })
    [none, some (2, 0)].all (fun acc => [false, true].all (fun w => let r : StackReq := { tag := 5, granule := 49152, write := w, acc := acc }
      let s := st [r] id
      let t := st [{ r with served := true }] id
      decide ((SMap.getD s.dramStacks 3 {}).reqs.find? (fun r => !r.served && granuleOpen s r.granule) = some r)
      && decide ((SMap.getD t.dramStacks 3 {}).reqs.find? (fun r => r.tag == 5 && r.served) = some { r with served := true })
      && ((SMap.getD t.dramStacks 3 {}).reqs.takeWhile (fun q => q.tag != 5)).isEmpty && evtTakes t && !granuleListed t 49152)) = true
    ∧ [none, some true, some false].all (fun late => let r : StackReq := { tag := 5, granule := 49152, served := true, late := late }
      decide ((SMap.getD (st [r] id).dramStacks 3 {}).reqs.find? (fun r => r.tag == 5 && r.served) = some r)) = true
    ∧ (let s := st [] (fun x => { x with failed := [granuleAt base 3 0] })
       granuleListed s (granuleAt base 3 0)) = true
    ∧ (let s := st [] id
       let g := granuleAt s 3 0
       let shut : State := { s with mig := { s.mig with closed := some (g * 64 / 1048576, 0) } }
       !isClosed s (g * 64) && !channelHeld s g && evtTakes s && decide (granuleAt shut 3 0 = g) && isClosed shut (g * 64)) = true
    ∧ (let s := st [] (fun x => { x with sick := [64] })
       decide ((SMap.getD s.dramStacks 3 {}).sick = 64 :: []) && !isClosed s (granuleAt s 3 64 * 64) && evtTakes s) = true
    ∧ (let s : State := updCtx { base with dt := 2 ^ 20 } 0 (fun c => { c with windows := [(2, { va := 0, len := 8192, pages := [5], fade := 1, reload := 3, touched := true })] })
       decide (s.dt % 2 ^ 20 = 0 ∧ s.faded < s.dt) && (fadeWindows { s with faded := s.dt }).ctxs.all (fun p => p.2.windows.all (fun w => decide (w.2.fade ≠ 0)))) = true
    ∧ (let s := mig id
       s.mig.mig && !s.mig.paused && s.mig.closed.isNone && decide (s.mig.phase < s.mig.nreg)) = true
    ∧ (mig (fun m => { m with closing := true })).mig.closing = true
    ∧ (decide (quiet.mig.closed = some (3, 0) ∧ quiet.mig.stack = some 7) && regionQuiet quiet 3 && !regionHeld quiet 3 && evtTakes quiet) = true := by
  decide +kernel

/-- MatrixEvents: a request that is granted, and a granted pass; a request that has waited 4,096 clk; a FAULTED stream, too
long and not, by a time before the module's reset too; each command at the head of its queue; a drain whose entry is free,
one whose entry is taken and one that goes on, which load no tile; and a drain that is made. -/
theorem test_met_MatrixEvents :
    let q (c : MCmd) : MQueued := { seq := 1, cmd := c, id := 7 }
    let drain : MCmd := .mdrain 0x300000 0 0 0 .rne .smax false false true false 0
    let headIs (s : State) (c : MCmd) : Bool := (headCommand s 0).any (fun h => h.2.2.cmd == c)
    let keys : List Nat := List.range 8
    let req : State := streaming [q (.mma 0 0 0 0 0 64 false false false)] (fun x => { x with started := true, request := some 0 })
    let granted : State := streaming [q .mzero] (fun x => { x with granted := true })
    (keys.any (fun k => ((req.streams.find k).map (·.granted)).getD false) = false
      ∧ bestRequest (keys.foldl scout (noteRequests req keys)) 0 = some 0)
    ∧ keys.find? (fun k => ((granted.streams.find k).map (·.granted)).getD false) = some 0
    ∧ (let s : State := { req with dies := req.dies.map (fun d => { d with clkT := 40960 }) }
       decide (0 + 4096 * (0 + 1) ≤ clusterClk s 0) && decide (((s.cohorts.find 1).map (·.prio)).getD 0 + 0 < 3)) = true
    ∧ [(0, 2 ^ 20 + 1, true), (0, 2 ^ 20, false), (2 ^ 64 - 2 ^ 20, 1, true), (2 ^ 64 - 2 ^ 20, 0, false)].all (fun p =>
        let s : State := { streaming [] (fun x => { x with run := .faulted, faultDT := p.1 }) with dt := p.2.1 }
        decide ((s.streams.find 0).any (fun x => x.run == .faulted && !x.doom && decide (2 ^ 20 < ticksSince s x.faultDT)) = p.2.2)) = true
    ∧ headIs (streaming [q .mzero] id) .mzero = true ∧ headIs (streaming [q (.mmask 0x300000 true)] id) (.mmask 0x300000 true) = true
    ∧ [(false, false), (false, true), (true, true)].all (fun p =>
       let s : State := { streaming [q drain] (fun x => { x with inDrain := p.1 }) with
         clusters := if p.2 then [(0, { resv := [(3, { drain := true, second := false, gen := 1, handle := 0 })] })] else [] }
       headIs s drain && (drainOf drain).any (·.notile) && loadsReturned s ((controlOf s 1).getD 0) 7
         && (s.streams.find 0).any (fun x => x.drainTw.isNone && x.inDrain == p.1)
         && ((SMap.getD s.clusters 0 {}).resv.find 3).isSome == p.2) = true
    ∧ (headCommand (streaming [q drain] (fun x => { x with drainTw := some 9 })) 0).any (fun h => decide (h.2.1.drainTw = some 9)) = true
    ∧ (let s := streaming [q .mzero] id
       (s.streams.find 0).any (fun x => decide (x.cmds = q .mzero :: []) && (s.cohorts.find x.cohort).isSome && (crewsOf s x.cohort).length == 1)) = true
    ∧ crewsOf { streaming [q .mzero] id with crews := [] } 1 = [] := by decide +kernel

/-- WellEvents: a well whose queue's head is a command that is not a sweep, and one whose sweep is at a class; a state that
arrives; a window that no monitor fails. -/
theorem test_met_WellEvents :
    let cmd (b : WellBody) : WellCmd := { crew := 1, lanes := 1, kc := none, body := b, core := 0 }
    let runs (s : State) (b : WellBody) (sweep : Option SweepPos) : Bool := let x := wellOf s 3
      decide (x.queue = cmd b :: [] ∧ x.owner = some 0 ∧ x.sweep = sweep) && wellRuns x
    let swept : State := welled (fun x => { x with queue := [cmd (.sweep 0 1 [2] false none)], sweep := some { left := 1, cls := 0 } })
    [WellBody.bias [(0, 1)], .key 5, .phys].all (fun b => runs (welled (fun x => { x with queue := [cmd b] })) b none) = true
    ∧ (runs swept (.sweep 0 1 [2] false none) (some { left := 1, cls := 0 }) && !linkWaits swept 3) = true
    ∧ (wellOf (welled (fun x => { x with flight := [(2, 7, true)] })) 3).flight = [(2, 7, true)]
    ∧ (let s := welled id
       let ones : Nat := ((List.range 16).map (fun b => 32768 * 2 ^ (17 * b))).foldl (· + ·) 0
       decide (windowFails s ones (8 * 65535) = 0) && !(wellOf s 3).gated && (wellOf s 3).requal.isNone) = true := by decide +kernel

/-- A node record of a kind, with values at the low bits of its fields. -/
def node (kind : Nat) (fs : List (Nat × Nat)) : BitVec 512 :=
  BitVec.ofNat 512 (fs.foldl (fun n f => n + f.2 * 2 ^ f.1) kind)

/-- The machine with queue 0 at a graph, the lines of whose node and of whose data are in the L2. -/
def graphing (f : Queue → Queue) (g : GraphRun → GraphRun) : State :=
  let run : GraphRun := g { entry := 0, node := 0x300000 }
  let x : Queue := f { ctx := 0, base := 0x304000, log2 := 4, doorbell := 1, state := .running, graph := some run }
  l2Touch (l2Touch { base with queues := [(0, x)] } (0x300000 / 128)) (0x380000 / 128)

/-- The machine whose queue 0 has started a node. -/
def begun (w : BitVec 512) (g : GraphRun → GraphRun) : State := graphing id (fun x => g { x with run := .begun, word := w })

/-- The word of a node that begins, where the kind is as asked and a condition holds. -/
def beginsWith (s : State) (kind : Nat) (h : State → Queue → GraphRun → Bool) : Bool :=
  match startNode s 0 with
  | .begun s1 x g => decide (nodeKind g.word = kind) && h s1 x g
  | _ => false

/-- A read or write of the pump answers, and a condition holds of what it left. -/
def answers {α : Type} (a : PumpAns α) (h : State → Bool) : Bool :=
  match a with
  | .ok _ s => h s
  | _ => false

/-- PumpEvents: an entry to start; a node of each kind that begins, with what its clause asks of it; a node at a breakpoint;
a LOOP's end of an iteration, and its decision; the END of a graph; an evaluation, a tick and a timeout of a WAIT; a node
whose work is done; a KERNEL node that waits for its launch. -/
theorem test_met_PumpEvents :
    let yes : State → Bool := fun _ => true
    let launch : BitVec 512 := node 1 [(432, 0x200000), (400, 4096), (376, 0), (292, 3), (133, 64), (280, 1), (152, 1), (184, 1), (216, 1), (248, 1)]
    let check (w : BitVec 512) (p : Option Nat → Bool) : Bool :=
      beginsWith (begun w id) 1 (fun s x g => p (launchCheck s (launchOfNode s x 0 g []) (g.word.getLsbD 128)))
    let reads (lo : Nat) (s : State) (g : GraphRun) : Bool :=
      match pumpRead s 0 0 (nodeField g.word (lo + 71) lo) 4 g with | .ok bs _ => decide (leNat bs ≤ 4) | _ => false
    let fr (word : BitVec 512) (i : Nat) : LoopFrame := { node := 0x300000, word := word, cseq := 0, i := i }
    let loop (n : Nat) (x i : Nat) : GraphRun → GraphRun := fun g =>
      { g with run := .loopNext, loops := [fr (node 4 [(440, x), (368, 0x380000), (264, n)]) i] }
    let due (s : State) (p : GraphRun → Bool) : Bool := (graphOf s 0).any (fun y => nodeDue s y.1 y.2 && p y.2)
    let wait : GraphRun → GraphRun := fun g => { g with run := .waiting 0 true, word := node 6 [(440, 0x380000), (344, 1)] }
    (let s := graphing (fun x => { x with graph := none, state := .idle }) id
     (s.queues.find 0).any (fun x => x.graph.isNone && decide (x.cons ≠ x.doorbell) && x.state == .idle && pumpRuns s 0
      && !x.resetting && !modeDue s 0)) = true
    ∧ check launch (· == none) = true ∧ check (node 1 []) (·.isSome) = true ∧ launch.getLsbD 8 = false
    ∧ beginsWith (begun (node 2 [(440, 0x380000), (368, 0x300000), (328, 8)]) id) 2 (fun _ _ _ => true) = true
    ∧ beginsWith (begun (node 3 [(440, 0x380000)]) id) 3 (fun s _ g => reads 440 s g) = true
    ∧ beginsWith (begun (node 4 []) (fun g => { g with loops := List.replicate 8 (fr 0 0) })) 4 (fun _ _ g => decide (8 ≤ g.loops.length)) = true
    ∧ [(1, true), (2, false)].all (fun p => beginsWith (begun (node 5 [(136, 2), (148, p.1)]) id) 5 (fun s x g =>
        (phaseArrive s x.ctx 0 g.word false).1 == p.2)) = true
    ∧ beginsWith (begun (node 6 []) id) 6 (fun _ _ _ => true) = true
    ∧ beginsWith (begun (node 7 [(440, 0x380000)]) id) 7 (fun s x g => match pumpXlate s x.ctx 0 (nodeField g.word 511 440) g true with
        | .ok pa t => (syncTake t (lineOf pa)).isSome
        | _ => false) = true
    ∧ beginsWith (begun (node 8 [(368, 0x380000)]) id) 8 (fun s x g =>
        answers (pumpWrite s x.ctx 0 (nodeField g.word 439 368) (leBytes 4 0) g) yes) = true
    ∧ beginsWith (begun (node 9 []) id) 9 (fun _ _ _ => true) = true
    ∧ (match startNode (graphing (fun x => { x with breaks := [(0, false)] }) id) 0 with | .isOver _ => true | _ => false) = true
    ∧ due (graphing id (fun g => { g with run := .ended, loops := [fr 0 0] })) (fun g => g.run == .ended && g.loops == fr 0 0 :: []) = true
    ∧ [(2, 0x300040, 0), (2, 0x300040, 2)].all (fun p => let s := graphing id (loop p.1 p.2.1 p.2.2)
        due s (fun g => g.run == .loopNext && answers (pumpRead s 0 0 0x380000 4 g) yes)) = true
    ∧ due (graphing id (fun g => { g with run := .ended })) (fun g => g.run == .ended && g.loops.isEmpty) = true
    ∧ (let s := graphing id wait
       (graphOf s 0).any (fun y => y.2.run == .waiting 0 true && y.2.fault.isNone && pumpRuns s 0
        && answers (pumpRead s 0 0 (nodeField y.2.word 511 440) 8 y.2) yes)) = true
    ∧ State.reset.dt % 4096 = 0
    ∧ (let s : State := { graphing id wait with dt := 1000 }
       (graphOf s 0).any (fun y => decide (nodeField y.2.word 375 344 ≠ 0 ∧ 0 + 1000 * nodeField y.2.word 375 344 ≤ s.dt))) = true
    ∧ (let s := graphing id (fun g => { g with run := .finishing 1 0 })
       (graphOf s 0).any (fun y => y.2.fault.isNone && pumpRuns s 0 && !y.1.resetting && decide (y.2.run = .finishing 1 0 ∧ y.2.tw = 0)
        && answers (pumpWrite (updGraph (raiseIrq s y.2.irq) 0 (fun y => { y with irq := none })) 0 0 (y.2.node + 2) (leBytes 2 1)
          { y.2 with irq := none }) yes)) = true
    ∧ (let s := graphing id (fun g => { g with run := .kernel 1 })
       (graphOf s 0).any (fun y => decide (y.2.run = .kernel 1)) && (s.launches.find 1).isSome) = true := by decide +kernel

/-- HostAccesses: a module in READY whose link is up; a doorbell that is taken, and one that is refused; a range that the
host may reach, which stands above the DRAM or must be read first, and one that it may not. -/
theorem test_met_HostAccesses :
    let s : State := graphing id id
    s.devState = .ready ∧ (∀ l ∈ (none : Option Nat).toList ++ [23], l < 24 ∧ l ∉ s.peersDown)
    ∧ (s.queues.find 0).any (fun x => decide (0 < ((16 : W32) - x.doorbell).toNat ∧ ((16 : W32) - x.doorbell).toNat ≤ 2 ^ x.log2 - (x.doorbell - x.cons).toNat)
        && decide (2 ^ x.log2 - (x.doorbell - x.cons).toNat < ((17 : W32) - x.doorbell).toNat)
        && decide (((1 : W32) - x.doorbell).toNat = 0)) = true
    ∧ hostBad s 0x300000 128 = false ∧ hostStalled s 0x300000 128 = false ∧ rangeFills s 0x300000 128 = []
    ∧ hostBad s 0x310000 8 = false ∧ hostStalled s 0x310000 8 = false ∧ rangeFills s 0x310000 8 ≠ [] ∧ hostBad s (2 ^ 60) 1 = true := by decide +kernel

/-- CsrEvents: a context with a mode to take; a REPLAY without a valid trace, and with one; a monitor's four words; a
pattern test that starts, three that set ERR, and one that ends. -/
theorem test_met_CsrEvents :
    let ctx (valid : Bool) : State := updCtx base 0 (fun c => { c with valid := valid, pendMode := some .record })
    let fld (v : W32) (lo n : Nat) : Nat := v.toNat / 2 ^ lo % 2 ^ n
    let held (on : Bool) : State := updTrain base 0 0 (fun _ => { Train.untrained with hold := on })
    let running : State := updTrain base 0 0 (fun _ => { Train.untrained with pat0 := 0x80000000 })
    [false, true].all (fun valid => let s := ctx valid
      (s.ctxs.find (fld 3 16 12)).any (fun c => decide (c.valid = valid ∧ c.pendMode = some .record)) && s.queues.isEmpty) = true
    ∧ [0, 1, 2, 3].map (fun n => ({ State.reset.csrs with moncfg := n * 32 } : PackageCsrs).moncfg.toNat / 32) = [0, 1, 2, 3]
    ∧ [(true, (0x80000000 : W32), true), (false, 0x80000000, false), (true, 0xB0000000, false), (true, 0x83000000, false)].all (fun p =>
        let sel : Train := trainOf (held p.1) (trnStack (held p.1)) (trnPch (held p.1))
        p.2.1.getLsbD 31 && !sel.pat0.getLsbD 31 && (decide (sel.hold = true ∧ fld p.2.1 28 3 < 3 ∧ fld p.2.1 24 4 < 3) == p.2.2)) = true
    ∧ (running.dramStacks.find 0).any (fun x => (x.train.find 0).any (fun t => t.pat0.getLsbD 31)) = true := by decide +kernel

/-- The machine whose command ring holds one command with arguments, as byte, length and value. -/
def commanded (s : State) (opc : Nat) (args : List (Nat × Nat × Nat)) : State :=
  { s with cmd := { log2 := 4, prod := 1 }, hostMem := Memory.setN [] 0 (leBytes 64 (args.foldl (fun n a => n + a.2.2 * 2 ^ (8 * a.1)) opc)) }

/-- A command is due whose other bytes are 0, and a condition holds of its bytes. -/
def commandIs (s : State) (opc : Nat) (used : List (Nat × Nat)) (h : List Byte → Bool) : Bool :=
  (commandDue s).any (fun p => decide (argOf p.2 0 2 = opc) && argsClean p.2 used && h p.2)

/-- CommandRing: a command of each OPC whose last byte, which no command uses, is not 0; a reserved OPC; no command. -/
theorem test_met_CommandRing :
    (List.range 0x17).all (fun n => (commandDue (commanded base (n + 1) [(63, 1, 1)])).any (fun p =>
      decide (argOf p.2 0 2 = n + 1 ∧ 55 < 56 ∧ p.2.getD (55 + 8) 0 ≠ 0))) = true
    ∧ [0, 0x18].all (fun n => (commandDue (commanded base n [])).any (fun p => decide (argOf p.2 0 2 = 0 ∨ 0x17 < argOf p.2 0 2))) = true
    ∧ (base.cmd.prod = base.cmd.cons ∧ State.reset.devState ≠ .ready) ∧ Memory.wf base.hostMem = true := by decide +kernel

/-- A descriptor of a context whose areas no other context has. -/
def desc : List Byte := leBytes 512 (0x800000 * 2 ^ 128 + 0x200000 * 2 ^ 192 + 0x800000 * 2 ^ 256
  + 0x100000 * 2 ^ 320 + [112, 136, 160].foldl (fun n o => n + 6 * 2 ^ (8 * (o + 16))) 0)

/-- Commands, those on contexts and queues: each with good arguments, in a state in which it is performed, and those that
may have to wait in one in which they do. -/
theorem test_met_CommandsOfContexts :
    let is := fun s opc used => commandIs s opc used (fun _ => true)
    let ctx : List (Nat × Nat) := [(8, 2)]
    let q : State := graphing id id
    let idle : State := graphing (fun x => { x with graph := none, doorbell := 0, state := .idle }) id
    let copy (c : Nat) : State := let side : CopySide := .global 0 0 0
      let op : CopyOp :=
        { id := 9, crew := none, cohort := 0, ctx := c, core := 0, lanes := 1, kc := 0, src := side, dst := side, rows := 1, rb := 8, queue := some 0 }
      { q with copies := [(9, op)] }
    let pass : State := { ctrl with streams := [(0, { cohort := 1, run := .active, granted := true, inPass := true, cmds := [{ seq := 1, cmd := .mzero, id := 7 }] })] }
    let flt : State := updCtx base 0 (fun c => { c with faults := [(7, { page := 0, record := 0, posted := false })] })
    (let s := commanded { base with mem := Memory.setN base.mem 0x340000 desc } 0x01 [(8, 2, 5), (16, 8, 0x340000)]
     is s 0x01 [(8, 2), (10, 1), (16, 8)] && (s.ctxs.find 5).isNone && decide (readPhys s 0x340000 512 = desc)
      && descOk (capBytes s) desc && (descWells desc).isEmpty
      && s.ctxs.all (fun p => p.2.areas.all (fun x => (descContext desc false).areas.all (fun y => !areasMeet y x)))) = true
    ∧ [Engine.core, .control].all (fun g =>
       let s := commanded (if g = .core then base else pass) 0x02 []
       let u := endContextWork s 0
       is s 0x02 ctx && (s.ctxs.find 0).isSome && (u.cohorts.all (fun p => p.2.state == .ended) == (g == .core))
         && u.accs.all (fun p => !accIn 0 p.2) && u.copies.isEmpty) = true
    ∧ (is (commanded (copy 0) 0x02 []) 0x02 ctx && (endContextWork (commanded (copy 0) 0x02 []) 0).copies.any (fun p => p.2.ctx == 0)) = true
    ∧ (let s := commanded idle 0x03 [(8, 2, 0), (16, 8, 0x308000), (24, 1, 4)]
       is s 0x03 [(8, 2), (10, 2), (16, 8), (24, 1)] && (s.queues.find 0).any (fun x => x.graph.isNone && decide (x.cons = x.doorbell) && !x.resetting)) = true
    ∧ (is (commanded q 0x04 []) 0x04 ctx && is (commanded (copy 0) 0x04 []) 0x04 ctx
      && (let u := closeSession (beginReset (commanded q 0x04 []) 0) 0
          !(u.copies.any (fun p => p.2.queue == some 0 && p.2.fault.isNone) || markWaits u 0
            || u.cohorts.any (fun p => p.2.queue == 0 && p.2.state != .ended)))
      && (let u := closeSession (beginReset (commanded (copy 0) 0x04 []) 0) 0
          u.copies.any (fun p => p.2.queue == some 0 && p.2.fault.isNone))) = true
    ∧ (is (commanded base 0x05 []) 0x05 ctx && is (commanded base 0x06 []) 0x06 ctx && (base.ctxs.find 0).isSome) = true
    ∧ (is (commanded base 0x07 [(32, 8, 8192)]) 0x07 [(8, 2), (16, 9), (32, 8)] && !rangeInFlight (forgetRange base 0 0 8192) 0 0 8192) = true
    ∧ [0, 1, 2].all (fun n => let s := commanded flt 0x08 [(10, 2, 7), (12, 1, n)]
        is s 0x08 [(8, 2), (10, 2), (12, 1)] && [Answer.resolved, .violation, .deliver].all (fun x => (answerFault s 0 7 x).isSome)) = true
    ∧ [(0x0B, [(12, 4, 5), (16, 1, 3)], [(8, 2), (12, 4), (16, 1)]), (0x0C, [], ctx), (0x0D, [(48, 1, 3)], [(8, 2), (16, 9), (32, 9), (48, 1)]),
        (0x0E, [(11, 1, 6)], [(8, 2), (10, 1), (11, 1), (16, 9), (32, 9)]), (0x0F, [], ctx)].all (fun p =>
        is (commanded q p.1 p.2.1) p.1 p.2.2 && (q.queues.find 0).any (fun x => x.sess.state == .closed)) = true := by decide +kernel

/-- Commands, those on the package, on scopes and on images. -/
theorem test_met_CommandsOfDevice :
    let is := fun s opc used => commandIs s opc used (fun _ => true)
    let scope (x : QScope) : State := { base with scopes := [(9, x)] }
    let quiet : QScope := { device := false, ctxs := [], state := .quiesced }
    let args : List (Nat × Nat) := [(8, 1), (16, 8)]
    let wide : List (Nat × Nat) := [(8, 1), (16, 8), (24, 8), (32, 8)]
    let hdr (dev : Nat) : List Byte := leBytes 8 0x4D49434952445543 ++ leBytes 2 1 ++ leBytes 2 1 ++ leBytes 4 dev ++ List.replicate 112 0
    let digest (dev : Nat) : Nat := if dev = 0 then 0xd2ecde7a7dc392c30aa3f46ba5a56fe97d208f52f1e8bb27f7f00c7d11a0a5d8cc15fdff6f0a9c36b8f1032e207df11ca34ad4d5aad63b4b5834b9182b593df0
      else 0x7063a41eaa80c9d7d0fb41c3681fab6644e00db8142c6df970b215656dcd7e88aba6fa145397ca006b8f47bca753058f6a4be94f845082982f5e3dd618989ccc
    let image (dev : Nat) : List Byte := hdr dev ++ leBytes 64 (digest dev)
    let holds (bs : List Byte) : State := let s := commanded { base with images := [([], {})] } 0x13 [(16, 8, 64), (24, 8, bs.length)]
      { s with hostMem := Memory.setN s.hostMem 64 bs }
    (let s := commanded base 0x09 [(8, 1, 3)]
     is s 0x09 [(8, 1), (9, 1)] && s.mig.act.contains 3
      && (match retireStackCmd s 3 false with | .accepted _ => true | _ => false)
      && (match retireStackCmd { s with mig := { s.mig with act := [0, 1, 2, 3, 4, 5, 6] } } 3 false with | .needFree => true | _ => false)
      && (match retireStackCmd { s with mig := { s.mig with act := [0, 1, 2, 3, 4, 5] } } 3 false with | .refused => true | _ => false)) = true
    ∧ [(0x51, false), (0x54, true)].all (fun p => let s := commanded { base with badPages := [(5, { stack := 0, acked := false, release := p.2 })] } 0x0A [(8, 1, p.1), (16, 7, 5 * 8192)]
        is s 0x0A [(8, 1), (16, 7)] && (s.badPages.find 5).any (fun b => decide (b.release = p.2) && !b.acked)) = true
    ∧ [[], [(9, { quiet with state := .stopping, device := true })]].all (fun scopes => let s := commanded { base with scopes := scopes } 0x10 [(8, 1, 1)]
        is s 0x10 args && (commandDue s).any (fun p => decide (scopeArg s p.2 = some (true, []))) && (decide (s.scopes = []) || s.scopes.any (fun p => scopeMeets true [] p.2))) = true
    ∧ [ScopeState.quiesced, .stopping].all (fun st => let s := commanded (scope { quiet with device := true, state := st }) 0x11 [(8, 1, 1)]
        is s 0x11 args && (commandDue s).any (fun p => decide (scopeArg s p.2 = some (true, [])))
          && decide ((s.scopes.find? (fun p => p.2.device == true && (true || p.2.ctxs == []) && p.2.state == .quiesced)).isSome = (st == .quiesced))) = true
    ∧ (let s := commanded (scope quiet) 0x12 [(24, 8, 4096)]
       is s 0x12 wide && s.scopes.all (fun p => p.2.state != .imaging) && decide (imageScope s = some (9, quiet))
        && decide ((imageBytes s quiet false (usedOf s quiet 0)).length ≤ 4096)) = true
    ∧ (let s := holds []
       is s 0x13 wide && (match checkImage s [] false with | .error st => decide (st = 5) | _ => false)) = true
    ∧ [0, 1].all (fun dev => let s := holds (image dev)
       is s 0x13 wide && (match checkImage s (Memory.getN s.hostMem 64 192) false with
        | .ok p => p.device == (dev == 1) && decide (restoreRoots s 0 (imageContent s p.secs).ctxs.keys = some [])
        | _ => false)) = true
    ∧ is (commanded base 0x14 [(13, 1, 7), (14, 2, 3000), (24, 1, 8)]) 0x14 [(8, 4), (12, 1), (13, 1), (14, 2), (16, 8), (24, 1)] = true
    ∧ is (commanded base 0x15 []) 0x15 [] = true ∧ is (commanded base 0x16 []) 0x16 [(8, 2), (16, 9)] = true
    ∧ is (commanded base 0x17 []) 0x17 [(16, 8), (24, 32)] = true := by decide +kernel

/-- ModuleEvents: a machine in BOOT; the brake, off above the cap and in force below it; a lane repair; a device error in
READY, and at boundaries that exist and do not; a link; a context error, and one whose STATUS must wait; a cohort to kill, whose launch
restarts and does not, and one whose pass must end first; a deferred report that is due, and none; a scope that stops, whose cut is reached and is not; a scope that is imaged. -/
theorem test_met_ModuleEvents :
    let brake : State := { base with dt := 2000000, power := { base.power with brake := some { level := 1, since := 0 } } }
    let kill (r : Bool) : State := { base with cohorts := base.cohorts.change 1 (fun c => { c with kill := true }), launches := base.launches.change 1 (fun l => { l with restart := r }) }
    let due : State := crewIs (fun c => { c with deferred := [{ report := { code := 3 }, lanes := 0 }] })
    let scope (x : QScope) : State := { base with scopes := [(9, x)] }
    let stop (cs : List Nat) : QScope := { device := false, ctxs := cs }
    let full : State := { base with evt := { base.evt with held := List.replicate 4096 0 } }
    let pass : State := { ctrl with cohorts := ctrl.cohorts.change 1 (fun c => { c with kill := true })
                                    streams := [(0, { cohort := 1, run := .active, granted := true, inPass := true, cmds := [{ seq := 1, cmd := .mzero, id := 7 }] })] }
    let broken (s : State) : State := updCtx s 0 (fun c => { c with err := some { cause := 1, queue := 0, cseq := 0, ekind := 0, eid := 0 } })
    let shut : State := let s := begun (node 9 []) id
      { s with mig := { s.mig with closed := some (1, 0) } }
    let over_ (s : State) : Bool := ((barriersCheck (endCohortCrews s 1 true) 1).cohorts.find 1).all (fun c => c.state == .ended)
    let cut (x : QScope) : Bool := let u := stopScope (scope x) x
      storesLanded u && (x.contexts u).all (contextCut u) && (!x.device || u.mig.closed.isNone)
    State.reset.devState = .boot
    ∧ (base.power.brake = none ∧ 1000 * base.power.capW < 3000001)
    ∧ (brake.power.brake.any (fun b => decide (2999999 < 1000 * brake.power.capW ∧ b.since + 1000000 ≤ brake.dt))) = true
    ∧ (3 < base.laneRepairs.length ∧ base.devState = .ready ∧ 23 ∉ base.peersDown)
    ∧ evtTakes base = true ∧ evtTakes full = false
    ∧ [base, graphing id id].all (fun s => ((broken s).ctxs.find 0).any (·.err.isSome)) = true
    ∧ (statusStalls (broken base) 0).isNone = true ∧ (statusStalls (broken shut) 0).isSome = true
    ∧ over_ (kill true) = true ∧ over_ pass = false ∧ (pass.cohorts.find 1).any (fun c => c.kill && c.state != .ended) = true
    ∧ [false, true].all (fun r => let s := kill r
        let u := barriersCheck (endCohortCrews s 1 true) 1
        (s.cohorts.find 1).any (fun c => c.kill && c.state != .ended && (u.launches.find c.launch).any (fun l => l.restart == r && !l.error))) = true
    ∧ (due.crews.find 1).any (fun cr => crewRuns due cr && deferredDue cr) = true ∧ (base.crews.find 1).any (fun cr => !deferredDue cr) = true
    ∧ cut (stop []) = true ∧ cut { stop [] with flushed := true } = true ∧ storesLanded (stopScope { scope (stop []) with homes := [(24576, { pending := [{ tw := 9, src := 0, bytes := [(0, 1)] }] })] } (stop [])) = false
    ∧ ((scope { stop [] with state := .imaging, job := some { addr := 0, len := 0, sign := false, used := 0 } }).scopes.find 9).any (fun x =>
        x.state == .imaging && x.job.isSome) = true := by decide +kernel

/-- The machine with a sibling group at 0x300000 and its record's bytes, and its crew in sibling 0. -/
def grouped (words : List (Nat × Nat)) : State :=
  let s := words.foldl (fun s w => { s with mem := Memory.setN s.mem (0x300000 + w.1) (leBytes 8 w.2) }) (updCtx (crewIs (fun c => { c with sib := 0 })) 0 (fun c => { c with gtBase := 0x300000 }))
  [0x300000, 0x300080, 0x380000, 0x3C0000].foldl (fun s pa => l2Touch s (pa / 128)) s

/-- RecordEvents: an append to no ring, to one that has room and to one that has not, and an append whose record is written,
before its PROD may be and after, and one that is in conflict at PROD; a ring's time; a BALLOT of an open group, a void one,
and one whose record is lost; a group decided, and a sibling
that has posted; a walk of a page list at its end, over, and at an entry; a context that replays, and one that does not;
ticks; a session without a ring; a monitor that is off, holds, fails and fires; a copy at its end, and one with more. -/
theorem test_met_RecordEvents :
    let bind (s : State) : State := updCtx (l2Touch (l2Touch s (0x300000 / 128)) (0x380000 / 128)) 0 (fun c =>
      { c with rings := [(5, { ring := { base := 0x300000, cb := 0x380000, log2 := 0, vec := none }, n := 1, t := 1, c := 1, queue := 0 })] })
    let append (s : State) (f : LaneReq → LaneReq) : State := acc2 s (.ring 5) 3 (fun a => { a with lanes := a.lanes.map f })
    let ws : Need := { w := true, s := true }
    let ready (s : State) (h : Access → Crew → LaneReq → Bool) : Bool := (s.accs.find 2).any (fun a => (s.crews.find 1).any (fun cr =>
      (a.lanes.find? (fun x => x.lane == 0)).any (fun q => !q.done && !inStoreQ s 2 a && !cutMade s a.ctx && !appendBehind s 2 a 0 5
        && a.lines.all (fun l => match l.st with | .faulted _ => false | _ => true) && h a cr q)))
    let prods (s : State) (h : State → Nat → Access → Crew → Bool) : Bool := ready s (fun a cr _ =>
      match appendXlate s 2 cr 0 0 0x380000 0x380000 ws with | .ok pc t => h t pc a cr | _ => false)
    let isFull (t : State) (pc : Nat) : Bool := decide ((leNat (readNewest t pc 4) + 2 ^ 32 - leNat (readHome t (pc + 64) 4)) % 2 ^ 32 = 2 ^ 0)
    let ahead : State := { base with mem := Memory.setN base.mem 0x380000 [1] }
    let ballot (s : State) : State := acc2 s (.ballot none) 3 readyLine
    let open_ : List (Nat × Nat) := [(0, 0x010100000000)]
    let walk (x : Sibling) (words : List (Nat × Nat)) : State := { updCtx (grouped words) 0 (fun c => { c with sibs := [(0, { x with state := .cancelling })] }) with
      crews := [], launches := [] }
    let walks (s : State) (h : State → Nat → Sibling → Bool) : Bool := (s.ctxs.find 0).any (fun c => (c.sibs.find 0).any (fun x =>
      x.state == .cancelling && x.fault.isNone && !quiesced s 0 && !siblingLives s 0 0 && !x.refused
      && (match walkXlate s 0 0 (groupVA s 0 0) ((peek s none 0 0 (groupVA s 0 0)).getD 0) { r := true, w := true, s := true } with
        | .ok gpa t => h t gpa x
        | _ => false)))
    let mon (w0 w2 run : Nat) : State := { base with monitors := [(4, { w0 := BitVec.ofNat 32 w0, w2 := BitVec.ofNat 32 w2, run := run })] }
    let fails (s : State) : Bool := let m := monitorOf s 4
      m.w0.getLsbD 31 && !m.w0.getLsbD 24 && !relationHolds (fieldOf m.w0 25 3) (quantity s 0 m.w1) m.w2.toNat
    let side : CopySide := .global (flatRecord 0x300000) 0 0
    let op : CopyOp := { id := 9, crew := none, cohort := 1, ctx := 0, core := 0, lanes := 1, kc := 0, src := side, dst := side, rows := 1, rb := 8 }
    ready (append base id) (fun _ _ _ => ((base.ctxs.find 0).bind (fun c => c.rings.find 5)).isNone) = true
    ∧ prods (append (bind base) id) (fun t pc a cr => !isFull t pc && (match appendXlate t 2 cr 0 0 0x300000 0x380000 ws with
        | .ok pa u => (appendWrite u 2 a 0x300000 pa [] none).isSome
        | _ => false)) = true
    ∧ prods (append (bind ahead) id) (fun t pc _ _ => isFull t pc) = true
    ∧ (let raced : State := { bind base with track := [(0x380000 / 8, { wcoh := 9, wv := true, int := 5 })] }
       prods (acc2 raced (.ring 5) 3 (fun a => { a with rep := true, who := { coh := 1, int := 5 } })) (fun t pc a _ =>
         a.rep && (raceConflict t a.who false true [(pc, 0x380000)]).isSome)) = true
    ∧ ready (append (bind base) (fun q => { q with aux2 := 1, aux := 1 })) (fun _ _ q => decide (q.aux2 ≠ 0 ∧ 2 < q.aux + 2)) = true
    ∧ prods (append (bind base) (fun q => { q with aux2 := 1, aux := 0 })) (fun t pc a _ =>
        (appendWrite t 2 a 0x380000 pc (leBytes 4 ((leNat (readNewest t pc 4) + 1) % 2 ^ 32)) none).isSome) = true
    ∧ [(1000, true), (999, false)].all (fun p => let s : State := { bind base with dt := p.1 }
       (s.ctxs.find 0).any (fun c => (c.rings.find 5).any (fun b => decide (b.t ≠ 0 ∧ b.c ≠ 0)
         && decide (1000 * b.t ≤ ticksSince s b.first) == p.2)) && !quiesced s 0) = true
    ∧ [(open_, false, []), ([], true, []), ([], true, [0x300000 / 64])].all (fun p =>
        let s := updAcc (ballot (grouped p.1)) 2 (fun a => { a with lines := a.lines.map (fun l => { l with got := some p.2.2 }) })
        (s.accs.find 2).any (fun a => (a.lines[0]?).any (fun l => decide (l.st = .ready 0x300000) && (l.got.getD [] == p.2.2) && !a.ready && loadsReturned s 1 2
          && !syncBlocked s 2 a l 0x300000 && (match syncFill s 2 0 0x300000 l with | .filled => true | _ => false)))
        && (syncTake s (lineOf 0x300000)).any (fun t => (syncTake t (lineOf (sibEntry 0x300000 0))).any (fun u => ballotVoid u 0x300000 0 == p.2.1))
        ) = true
    ∧ [(2 ^ 62, 0), (0, 2 ^ 31)].map (fun p => let s := grouped [(0, p.1), (136, p.2)]
        (decide (groupState s 0x300000 = 0), sibPosted s 0x300000 0)) = [(false, false), (true, true)]
    ∧ walks (walk {} []) (fun _ _ x => !x.isOver) = true ∧ walks (walk { isOver := true, walkTw := 0 } []) (fun t _ x => x.isOver && !decide (t.dt < x.walkTw + 2)) = true
    ∧ walks (walk {} [(136, 2 ^ 8), (152, 0x3C0000 / 8192)]) (fun t gpa x => !x.isOver && (match walkXlate t 0 0 0x3C0000 gpa { r := true, s := true } with
        | .ok p u => !needsFill u (lineOf p) && !lostGranule u p && (match releaseEntry u 0 0 gpa (leNat (readHome u p 8)) false with | .ok _ _ => true | _ => false)
        | _ => false)) = true
    ∧ (replaying (updCtx base 0 (fun c => { c with mode := .replay })) 0 && pumpRuns (updCtx base 0 (fun c => { c with mode := .replay })) 0
      && !replaying base 0) = true
    ∧ (State.reset.dt % 2 ^ 16 = 0 ∧ base.dt % 2 ^ 8 ≠ 0)
    ∧ ((graphing id id).queues.find 0).any (fun x => x.sess.ring.isNone) = true
    ∧ ((monitorOf base 4).w0.getLsbD 31 = false ∧ fails (mon 0x84020000 0 0) = false
      ∧ fails (mon 0x84020000 1 0) = true ∧ fails (mon 0x84010000 1 0) = true)
    ∧ (let s : State := { base with copies := [(9, { op with moved := 8 }), (10, op), (11, { op with failed := true })] }
       ((copyMove 1 s 9 1).copies.find 9).any (fun c => decide (c.moved = c.total)) && ((copyMove 0 s 10 0).copies.find 10).any (fun c => decide (c.moved ≠ c.total))
        && (s.copies.find 11).any (·.failed)) = true := by decide +kernel

/-- MemoryStaysCanonical: a canonical state that answers a next one. -/
theorem test_met_MemoryStaysCanonical :
    base.memOk = true ∧ (match step base with | .next _ => true | _ => false) = true := by decide +kernel
end Sys2Proof.Tests
end

section
/-! SUPPORT. Effects of instructions over an environment whose crew has been given rows, for the instructions that push
no entry (R67, R69, R72). -/
namespace Sys2Proof.Machine

/-- The environment in which a ready instruction has its effect: in a table of crews where its crew's registers may lie in
other rows (R67, R69). -/
def Env.withRows (e : Env) (m : SMap Crew) (rm : SMap RegPlace) (lu : SMap Nat) : Env :=
  { e with s := { e.s with crews := m }, crew := { e.crew with rmap := rm, lastUse := lu } }

section
variable (e : Env) (m : SMap Crew) (rm : SMap RegPlace) (lu : SMap Nat)

@[simp] theorem withRows_s : (e.withRows m rm lu).s = { e.s with crews := m } := rfl
@[simp] theorem withRows_cid : (e.withRows m rm lu).cid = e.cid := rfl
@[simp] theorem withRows_split : (e.withRows m rm lu).split = e.split := rfl
@[simp] theorem withRows_off : (e.withRows m rm lu).off = e.off := rfl
@[simp] theorem withRows_lanes : (e.withRows m rm lu).lanes = e.lanes := rfl
@[simp] theorem withRows_lead : (e.withRows m rm lu).lead = e.lead := rfl
@[simp] theorem withRows_nextHeader : (e.withRows m rm lu).nextHeader = e.nextHeader := rfl
@[simp] theorem withRows_target (off : BitVec 32) : (e.withRows m rm lu).target off = e.target off := rfl
@[simp] theorem withRows_cohort : (e.withRows m rm lu).crew.cohort = e.crew.cohort := rfl
@[simp] theorem withRows_splits : (e.withRows m rm lu).crew.splits = e.crew.splits := rfl
@[simp] theorem withRows_outside (h : Int) : (e.withRows m rm lu).outside h = e.outside h := rfl

@[simp] theorem withRows_int32 (a : Src) (l : Nat) : (e.withRows m rm lu).int32 a l = e.int32 a l :=
  congrArg lo32 (readSrc_rows e.s e.crew e.split .int .w32 a l m rm lu)

@[simp] theorem withRows_satisfied (t : Src) (k : BitVec 3) :
    (e.withRows m rm lu).satisfied t k = e.satisfied t k := by
  simp only [Env.satisfied, withRows_int32, withRows_lead]
  rfl

end

/-- An instruction whose body, over the rows given to its crew, answers `t` where `cond` holds. -/
theorem does_of_rows {i : Instr} {cond : Env → State → Prop} {t : Env → State → State} (body : Env → Eff)
    (h : ∀ s, exec i s = issue s i body)
    (hb : ∀ (e : Env) (m : SMap Crew) (rm : SMap RegPlace) (lu : SMap Nat), cond e { e.s with crews := m } →
      (e.withRows m rm lu).settle e.s (body (e.withRows m rm lu)) = t e { e.s with crews := m }) : Does i cond t :=
  does_of body h (fun s cid sid cr sp off m rm lu _ _ _ hc => hb (envAt s i cid sid cr sp off) m rm lu hc)

/-- An instruction that posts no access has nothing to undo. -/
theorem keepUndo_of_accs {s t : State} (cid : Nat) (h : t.accs = s.accs) : keepUndo s t cid = t := by
  unfold keepUndo
  split
  · next _ hn => simp only [updAcc, SMap.change, h, hn]; rw [← h]
  · rfl

section
variable (e : Env) (m : SMap Crew) (rm : SMap RegPlace) (lu : SMap Nat)

theorem settle_next : (e.withRows m rm lu).settle e.s (.next { e.s with crews := m }) = e.goesOn { e.s with crews := m } :=
  rfl

theorem settle_go (t : State) : (e.withRows m rm lu).settle e.s (.go t) = t := rfl

theorem settle_goto (h : Int) (how : Entering) (f : Split → Split) :
    (e.withRows m rm lu).settle e.s ((e.withRows m rm lu).goto h how f)
      = e.moves { e.s with crews := m } (.header h how) f := rfl

theorem settle_park (w : SplitState) :
    (e.withRows m rm lu).settle e.s (.park w { e.s with crews := m })
      = e.moves { e.s with crews := m } e.after (fun x => { x with state := w }) := by
  simp only [Env.settle, Env.perform, withRows_cid, keepUndo_of_accs]
  rfl

theorem settle_trap (r : Report) : (e.withRows m rm lu).settle e.s (.trap r) = e.traps r := rfl

end

theorem outside_of_inside {e : Env} {h : Int} (hi : e.inside h) : e.outside h = false := by
  obtain ⟨ln, hl, h0, h8⟩ := hi
  simp only [Env.outside, hl, Bool.or_eq_false_iff, decide_eq_false_iff_not]
  omega

theorem outside_of_beyond {e : Env} {h : Int} (hb : e.beyond h) : e.outside h = true := by
  obtain ⟨ln, hl, h0⟩ := hb
  simpa only [Env.outside, hl, Bool.or_eq_true, decide_eq_true_eq] using h0

/-- R47: a counter has reached a target where their difference is not negative as a signed number. -/
theorem reached_iff (k t : W32) : reached k t = true ↔ 0 ≤ (k - t).toInt := by
  simp [reached, BitVec.msb_eq_toInt]

theorem satisfied_iff (e : Env) (t : Src) (k : BitVec 3) :
    e.satisfied t k = true ↔ 0 ≤ (e.crew.counters.getD k.toNat 0 - e.int32 t e.lead).toInt := reached_iff _ _

end Sys2Proof.Machine
end

section
/-! SUPPORT. What a completion does to a crew's counter and to the splits that wait for it (R47). -/
namespace Sys2Proof.Machine

theorem changeAt_eq_set {α : Type} (xs : List α) (n : Nat) (f : α → α) (d : α) :
    changeAt xs n f = xs.set n (f (xs.getD n d)) := by
  induction xs generalizing n with
  | nil => rfl
  | cons x xs ih =>
    cases n with
    | zero => rfl
    | succ n => simp [changeAt, ih]

/-- R47, R48: a split of a crew after counter `k` has come to read `v`. -/
def countWoken (s : State) (cr : Crew) (k : Nat) (v : W32) (sp : Split) : Split :=
  match sp.state with
  | .waitCount j t => if j = k && reached v t then readied s cr sp else sp
  | .waitYield j t hdr =>
    if j = k && reached v t then { readied s cr sp with place := .header hdr .resume, block := none } else sp
  | _ => sp

theorem countWakes_eq {s : State} {cid k : Nat} {cr : Crew} (h : s.crews.find cid = some cr) :
    countWakes s cid k = updCrew s cid (fun c =>
      { c with splits := c.splits.map (countWoken s cr k (cr.counters.getD k 0)) }) := by
  simp only [countWakes, h]
  rfl

/-- A crew with 1 more in a counter. -/
def bumpCount (k : Nat) (cr : Crew) : Crew := { cr with counters := changeAt cr.counters k (· + 1) }

theorem bumpCount_counters (k : Nat) (cr : Crew) :
    (bumpCount k cr).counters = cr.counters.set k (cr.counters.getD k 0 + 1) := changeAt_eq_set _ _ _ 0

theorem bumpCount_getD {k : Nat} {cr : Crew} (hk : k < cr.counters.length) :
    (bumpCount k cr).counters.getD k 0 = cr.counters.getD k 0 + 1 :=
  (getD_changeAt _ _ _ _ _).trans (if_pos ⟨rfl, hk⟩)

/-- A completion changes, of the crew, its counter and its splits, each by `countWoken`. -/
theorem addCount_eq {s : State} {cid k : Nat} {cr : Crew} (h : s.crews.find cid = some cr)
    (hk : k < cr.counters.length) :
    addCount s cid k = updCrew s cid (fun c => { bumpCount k c with
      splits := c.splits.map (countWoken (updCrew s cid (bumpCount k)) (bumpCount k cr) k (cr.counters.getD k 0 + 1)) }) := by
  have hb : (updCrew s cid (bumpCount k)).crews.find cid = some (bumpCount k cr) := by
    simp only [updCrew, SMap.find_change_self, h, Option.map_some]
  refine (countWakes_eq hb).trans ?_
  rw [updCrew_updCrew, bumpCount_getD hk]
  rfl

theorem addCount_found {s : State} {cid k : Nat} {cr : Crew} (h : s.crews.find cid = some cr)
    (hk : k < cr.counters.length) :
    (addCount s cid k).crews.find cid = some { bumpCount k cr with
      splits := cr.splits.map (countWoken (updCrew s cid (bumpCount k)) (bumpCount k cr) k (cr.counters.getD k 0 + 1)) } := by
  rw [addCount_eq h hk]
  exact (SMap.find_change_self ..).trans (congrArg _ h)

theorem countWoken_waitCount {s : State} {cr : Crew} {k : Nat} {v t : W32} {sp : Split}
    (h : sp.state = .waitCount k t) :
    countWoken s cr k v sp = if reached v t then readied s cr sp else sp := by
  simp [countWoken, h]

theorem countWoken_waitYield {s : State} {cr : Crew} {k : Nat} {v t : W32} {hdr : Int} {sp : Split}
    (h : sp.state = .waitYield k t hdr) :
    countWoken s cr k v sp
      = if reached v t then { readied s cr sp with place := .header hdr .resume, block := none } else sp := by
  simp [countWoken, h]

theorem countWoken_other {s : State} {cr : Crew} {k : Nat} {v : W32} {sp : Split}
    (hc : ∀ t, sp.state ≠ .waitCount k t) (hy : ∀ t h, sp.state ≠ .waitYield k t h) : countWoken s cr k v sp = sp := by
  unfold countWoken
  split
  · next j t hs =>
    have hj : j ≠ k := fun hj => hc t (hj ▸ hs)
    simp [hj]
  · next j t hdr hs =>
    have hj : j ≠ k := fun hj => hy t hdr (hj ▸ hs)
    simp [hj]
  · rfl

/-- Settles O49: each split is woken or kept by `countWoken`, case by case of what it waits for. -/
theorem counterCounts : Obligations.CounterCounts := by
  intro s cid k cr h hk v
  have hf := addCount_found h hk
  rw [addCount_eq h hk] at hf ⊢
  refine ⟨_, hf, rfl, bumpCount_counters k cr, List.length_map _, fun j hj => SMap.find_change_ne _ _ hj, fun n sp hn =>
    ⟨_, (List.getElem?_map ..).trans (congrArg _ hn), ?_, ?_, ?_, ?_, ?_⟩⟩
  · intro t hs ht
    rw [countWoken_waitCount hs, if_pos ((reached_iff _ _).mpr ht)]
    exact ⟨rfl, rfl⟩
  · intro t hdr hs ht
    rw [countWoken_waitYield hs, if_pos ((reached_iff _ _).mpr ht)]
    exact ⟨rfl, rfl⟩
  · intro t hs ht
    rw [countWoken_waitCount hs, if_neg (mt (reached_iff _ _).mp (Int.not_le.mpr ht))]
  · intro t hdr hs ht
    rw [countWoken_waitYield hs, if_neg (mt (reached_iff _ _).mp (Int.not_le.mpr ht))]
  · exact countWoken_other

end Sys2Proof.Machine
end

section
/-! SUPPORT. The instructions that wait or trap, and the return from a handler (R47, R422, R543, R564, R567, R580). -/
namespace Sys2Proof.Machine

theorem waitc_goesOn (g : Guard) (t : Src) (k : BitVec 3) :
    Does (.waitc g t k)
      (fun e _ => e.lanes = [] ∨ 0 ≤ (e.crew.counters.getD k.toNat 0 - e.int32 t e.lead).toInt) Env.goesOn := by
  refine does_of_rows _ (fun _ => rfl) (fun e m rm lu hc => ?_)
  have hgo : (e.lanes.isEmpty || e.satisfied t k) = true := by
    simpa only [Bool.or_eq_true, List.isEmpty_iff, satisfied_iff] using hc
  simp only [withRows_lanes, withRows_satisfied, hgo, if_true, withRows_s, settle_next]

theorem waitc_waits (g : Guard) (t : Src) (k : BitVec 3) :
    Does (.waitc g t k)
      (fun e _ => e.active ∧ ¬ 0 ≤ (e.crew.counters.getD k.toNat 0 - e.int32 t e.lead).toInt)
      (fun e b => e.moves b e.after (fun x => { x with state := .waitCount k.toNat (e.int32 t e.lead) })) := by
  refine does_of_rows _ (fun _ => rfl) (fun e m rm lu ⟨ha, ht⟩ => ?_)
  have hstop : (e.lanes.isEmpty || e.satisfied t k) = false := by
    rw [← Bool.not_eq_true, Bool.or_eq_true, List.isEmpty_iff, satisfied_iff]
    exact not_or.mpr ⟨ha, ht⟩
  simp only [withRows_lanes, withRows_satisfied, hstop, Bool.false_eq_true, if_false, withRows_s, withRows_int32,
    withRows_lead, settle_park]

theorem yield_resumes (t : Src) (k : BitVec 3) (off : BitVec 32) :
    Does (.yield t k off)
      (fun e _ => e.inside (e.target off) ∧ 0 ≤ (e.crew.counters.getD k.toNat 0 - e.int32 t e.lead).toInt)
      (fun e b => e.moves b (.header (e.target off) .resume) id) := by
  refine does_of_rows _ (fun _ => rfl) (fun e m rm lu ⟨hi, ht⟩ => ?_)
  simp only [withRows_target, withRows_outside, outside_of_inside hi, Bool.false_eq_true, if_false, withRows_satisfied,
    (satisfied_iff e t k).mpr ht, if_true, settle_goto]

theorem yield_waits (t : Src) (k : BitVec 3) (off : BitVec 32) :
    Does (.yield t k off)
      (fun e _ => e.inside (e.target off) ∧ ¬ 0 ≤ (e.crew.counters.getD k.toNat 0 - e.int32 t e.lead).toInt)
      (fun e b => e.moves b e.after (fun x =>
        { x with state := .waitYield k.toNat (e.int32 t e.lead) (e.target off) })) := by
  refine does_of_rows _ (fun _ => rfl) (fun e m rm lu ⟨hi, ht⟩ => ?_)
  have hs : e.satisfied t k = false := by rwa [← Bool.not_eq_true, satisfied_iff]
  simp only [withRows_target, withRows_outside, outside_of_inside hi, Bool.false_eq_true, if_false, withRows_satisfied,
    hs, withRows_s, withRows_int32, withRows_lead, settle_park]

/-- R422: BAR arrives; the split waits but for .arrive. -/
theorem bar_arrives (n : BitVec 4) (arrive : Bool) :
    Does (.bar n arrive) (fun _ _ => True) (fun e b =>
      barrierCheck (e.moves b e.after (fun x =>
        { x with arrived := x.arrived ||| BitVec.twoPow 16 n.toNat
                 state := if arrive then .ready else .waitBar n.toNat })) e.crew.cohort n.toNat) :=
  does_of_rows _ (fun _ => rfl) (fun _ _ _ _ _ => rfl)

theorem trap_goesOn (g : Guard) (imm : W32) : Does (.trap g imm) (fun e _ => e.lanes = []) Env.goesOn := by
  refine does_of_rows _ (fun _ => rfl) (fun e m rm lu hc => ?_)
  simp only [withRows_lanes, hc, List.isEmpty_nil, if_true, withRows_s, settle_next]

theorem trap_raises (g : Guard) (imm : W32) :
    Does (.trap g imm) (fun e _ => e.active)
      (fun e _ => takeTrap e.s e.cid e.sid e.after { code := 0x11, addr := imm.setWidth 64 }) := by
  refine does_of_rows _ (fun _ => rfl) (fun e m rm lu ha => ?_)
  have hn : e.lanes.isEmpty = false := by rwa [← Bool.not_eq_true, List.isEmpty_iff]
  simp only [withRows_lanes, hn, Bool.false_eq_true, if_false]
  rfl

/-- The state of a split that RTT returns (R328). -/
theorem returnFromTrap_found {s : State} {cid sid : Nat} {cr : Crew} {sp : Split} (hc : s.crews.find cid = some cr)
    (hs : cr.split sid = some sp) (hn : sp.trap.cancelled = false) :
    returnFromTrap s cid sid = updSplit s cid sid (fun x =>
      { x with
        queue := x.trap.savedQueue
        place := if x.trap.written then .header x.trap.pc.toNat .rtt else x.trap.resume
        block := if x.trap.written then none else x.trap.block
        trap := { x.trap with inHandler := false, savedQueue := [] } }) := by
  simp only [returnFromTrap, hc, Option.bind_some, hs, hn, Bool.false_eq_true, if_false]

theorem rtt_returns :
    Does .rtt (fun e _ => e.split.trap.inHandler = true ∧ e.split.trap.cancelled = false)
      (fun e b => updSplit b e.cid e.sid (fun x =>
        { x with
          queue := x.trap.savedQueue
          place := if x.trap.written then .header x.trap.pc.toNat .rtt else x.trap.resume
          block := if x.trap.written then none else x.trap.block
          trap := { x.trap with inHandler := false, savedQueue := [] } })) := by
  refine does_of _ (fun _ => rfl) (fun s cid sid cr sp off m rm lu hm _ hs ⟨hi, hn⟩ => ?_)
  simp only [envOf_split, show sp.trap.inHandler = true from hi, if_true]
  exact returnFromTrap_found hm.1 (by exact hs) hn

theorem rtt_traps : Does .rtt (fun e _ => e.split.trap.inHandler = false) (fun e _ => e.traps { code := 0x03 }) := by
  refine does_of_rows _ (fun _ => rfl) (fun e m rm lu hn => ?_)
  simp only [withRows_split, hn, Bool.false_eq_true, if_false, settle_trap]

/-- Settles O23: each instruction in turn. -/
theorem waiting : Obligations.Waiting := by
  intro g off t k n imm
  exact ⟨does_of_rows _ (fun _ => rfl) (fun _ _ _ _ _ => rfl), waitc_goesOn g t k, waitc_waits g t k,
    yield_resumes t k off, yield_waits t k off, bar_arrives n false, bar_arrives n true, trap_goesOn g imm,
    trap_raises g imm, rtt_returns, rtt_traps⟩

end Sys2Proof.Machine
end

section
/-! SUPPORT. EXIT, its successor form and REFORM (R49, R50, R456 to R458, R537, R538). -/
namespace Sys2Proof.Machine

@[simp] theorem updSplits_cohorts (s : State) (cid : Nat) (f : Crew → Crew) :
    (updSplits s cid f).cohorts = s.cohorts := by
  unfold updSplits
  split <;> rfl

/-- A crew's unit is that of its cohort. -/
theorem unitOf_of_cohorts {s t : State} (h : t.cohorts = s.cohorts) (cr : Crew) : unitOf t cr = unitOf s cr := by
  simp only [unitOf, h]

/-- R87: the header after the block that executes. -/
theorem nextHeader_eq {e : Env} {blk : Block} (h : e.split.block = some blk) : e.nextHeader = blk.off + 8 * (blk.len + 1) := by
  simp only [Env.nextHeader, h]
  rfl

theorem exit_idle (g : Guard) (blk : Block) :
    Does (.exit g) (fun e _ => e.lanes = [] ∧ e.split.block = some blk)
      (fun e b => e.moves b (.header (blk.off + 8 * (blk.len + 1) : Nat) .fall) id) := by
  refine does_of_rows _ (fun _ => rfl) (fun e m rm lu ⟨hl, hb⟩ => ?_)
  simp only [withRows_lanes, hl, List.isEmpty_nil, if_true, withRows_nextHeader, settle_goto, nextHeader_eq hb]

/-- EXIT with an active lane ends its lanes. -/
theorem exit_settle (e : Env) (m : SMap Crew) (rm : SMap RegPlace) (lu : SMap Nat) (ha : e.active) :
    (e.withRows m rm lu).settle e.s (if (e.withRows m rm lu).lanes.isEmpty then
      (e.withRows m rm lu).goto (e.withRows m rm lu).nextHeader .fall id else .go (e.withRows m rm lu).endLanes)
      = (e.withRows m rm lu).endLanes := by
  have hn : e.lanes.isEmpty = false := by rwa [← Bool.not_eq_true, List.isEmpty_iff]
  simp only [withRows_lanes, hn, Bool.false_eq_true, if_false, settle_go]

theorem exit_some (g : Guard) (blk : Block) :
    Does (.exit g)
      (fun e _ => e.active ∧ e.split.mask &&& ~~~(maskOf e.lanes) ≠ 0 ∧ e.split.block = some blk)
      (fun e b => wakeRows (updSplits b e.cid (fun cr => (cr.freeRegs e.lanes (fun _ => false)).updSplit e.sid (fun x =>
        { x with mask := e.split.mask &&& ~~~(maskOf e.lanes)
                 place := .header (blk.off + 8 * (blk.len + 1) : Nat) .fall, mark := none }))) (unitOf b e.crew)) := by
  refine does_of_rows _ (fun _ => rfl) (fun e m rm lu ⟨ha, hr, hb⟩ => ?_)
  refine (exit_settle e m rm lu ha).trans ?_
  simp only [Env.endLanes, withRows_lanes, withRows_split, hr, if_false, withRows_nextHeader, nextHeader_eq hb]
  exact congrArg _ (unitOf_of_cohorts (updSplits_cohorts _ _ _) _)

theorem exit_all (g : Guard) :
    Does (.exit g) (fun e _ => e.active ∧ e.split.mask &&& ~~~(maskOf e.lanes) = 0)
      (fun e b => splitEnded (wakeRows (updSplits b e.cid (fun cr =>
        { cr.freeRegs e.lanes (fun _ => false) with
          splits := (cr.freeRegs e.lanes (fun _ => false)).splits.filter (fun x => x.id != e.sid) }))
        (unitOf b e.crew)) e.cid e.crew.cohort) := by
  refine does_of_rows _ (fun _ => rfl) (fun e m rm lu ⟨ha, hr⟩ => ?_)
  refine (exit_settle e m rm lu ha).trans ?_
  simp only [Env.endLanes, withRows_lanes, withRows_split, hr, if_true]
  exact congrArg (fun u => splitEnded (wakeRows _ u) _ _) (unitOf_of_cohorts (updSplits_cohorts _ _ _) _)

theorem exitAt_eq_some {x : Split} {t : Int} {k : W64} {f : Nat} :
    x.exitAt = some (t, k, f) ↔ x.state = .exitWait t k f := by
  unfold Split.exitAt
  split <;> simp_all

theorem reformAt_eq_some {x : Split} {a p : Nat} {k : W64} :
    x.reformAt = some (a, p, k) ↔ x.state = .reformWait a p k := by
  unfold Split.reformAt
  split <;> simp_all

theorem successor_waits (off : BitVec 32) (keep : W64) :
    Does (.exitSuccessor off keep)
      (fun e _ => e.inside (e.target off)
        ∧ ∀ x ∈ e.crew.splits, ∀ t k f, x.state = .exitWait t k f → t = e.target off ∧ k = keep)
      (fun e b => exitCheck (updSplit b e.cid e.sid (fun x =>
        { x with mark := none, state := .exitWait (e.target off) keep e.off })) e.cid) := by
  refine does_of_rows _ (fun _ => rfl) (fun e m rm lu ⟨hi, ha⟩ => ?_)
  have hagree : (e.crew.splits.filterMap Split.exitAt).any (fun x => x.1 != e.target off || x.2.1 != keep) = false := by
    rw [List.any_eq_false]
    rintro ⟨t, k, f⟩ hx
    obtain ⟨x, hx, hxe⟩ := List.mem_filterMap.mp hx
    simp [ha x hx t k f (exitAt_eq_some.mp hxe)]
  simp only [withRows_target, withRows_outside, outside_of_inside hi, Bool.false_eq_true, if_false, withRows_splits,
    hagree, settle_go]
  rfl

theorem successor_bounds (off : BitVec 32) (keep : W64) :
    Does (.exitSuccessor off keep) (fun e _ => e.beyond (e.target off))
      (fun e _ => e.traps { code := 0x06, addr := BitVec.ofInt 64 (e.target off) }) := by
  refine does_of_rows _ (fun _ => rfl) (fun e m rm lu hb => ?_)
  simp only [withRows_target, withRows_outside, outside_of_beyond hb, if_true]
  rfl

theorem reform_waits (ps : BitVec 3) (keep : W64) :
    Does (.reform ps keep)
      (fun e b => ∀ p ∈ barrierCrews b [e.crew.cohort], ∀ x ∈ p.2.splits, ∀ a q k, x.state = .reformWait a q k →
        a = e.off ∧ q = ps.toNat ∧ k = keep)
      (fun e b => reformCheck (e.moves b e.after (fun x => { x with state := .reformWait e.off ps.toNat keep }))
        e.crew.cohort) := by
  refine does_of_rows _ (fun _ => rfl) (fun e m rm lu ha => ?_)
  have hagree : ((barrierCrews { e.s with crews := m } [e.crew.cohort]).flatMap (fun p =>
      p.2.splits.filterMap Split.reformAt)).any (fun x => x != (e.off, ps.toNat, keep)) = false := by
    rw [List.any_eq_false]
    rintro ⟨a, q, k⟩ hx
    obtain ⟨p, hp, hx⟩ := List.mem_flatMap.mp hx
    obtain ⟨x, hx, hxr⟩ := List.mem_filterMap.mp hx
    obtain ⟨rfl, rfl, rfl⟩ := ha p hp x hx a q k (reformAt_eq_some.mp hxr)
    simp
  simp only [withRows_s, withRows_cohort, withRows_off, hagree, Bool.false_eq_true, if_false, settle_go]
  rfl

/-- Settles O24: each form in turn. -/
theorem ending : Obligations.Ending :=
  ⟨fun g off keep blk => ⟨exit_idle g blk, exit_some g blk, exit_all g, successor_waits off keep, successor_bounds off keep⟩,
    reform_waits⟩

end Sys2Proof.Machine
end

section
/-! SUPPORT. The least, the greatest and the first of lists, as the choices of Sched.lean use them. -/
namespace Sys2Proof.Machine

variable {α : Type}

/-- A list that is not empty has a least element. -/
theorem leastBy_spec (key : α → Nat) {l : List α} (h : l ≠ []) :
    ∃ x ∈ l, leastBy key l = some x ∧ ∀ y ∈ l, key x ≤ key y := by
  induction l with
  | nil => exact absurd rfl h
  | cons a as ih =>
    by_cases has : as = []
    · subst has
      exact ⟨a, by simp, rfl, by simp⟩
    · obtain ⟨x, hx, he, hle⟩ := ih has
      by_cases hlt : key x < key a
      · refine ⟨x, List.mem_cons_of_mem _ hx, by simp only [leastBy, he, hlt, if_true], ?_⟩
        exact List.forall_mem_cons.mpr ⟨hlt.le, hle⟩
      · refine ⟨a, by simp, by simp only [leastBy, he, hlt, if_false], ?_⟩
        exact List.forall_mem_cons.mpr ⟨le_rfl, fun y hy => (Nat.not_lt.mp hlt).trans (hle y hy)⟩

theorem le_maxOf {l : List Nat} {n : Nat} (h : n ∈ l) : n ≤ maxOf l := by
  induction l with
  | nil => cases h
  | cons a as ih =>
    rcases List.mem_cons.mp h with rfl | h
    · exact Nat.le_max_left _ _
    · exact (ih h).trans (Nat.le_max_right _ _)

theorem maxOf_mem {l : List Nat} (h : l ≠ []) : maxOf l ∈ l := by
  induction l with
  | nil => exact absurd rfl h
  | cons a as ih =>
    by_cases has : as = []
    · subst has; simp [maxOf]
    · rcases Nat.le_total a (maxOf as) with hle | hle
      · simp only [maxOf, max_eq_right hle]
        exact List.mem_cons_of_mem _ (ih has)
      · simp only [maxOf, max_eq_left hle, List.mem_cons_self]

theorem mem_sortBy_go (key : α → Nat) (x : α) {l : List α} {y : α} : y ∈ sortBy.go key x l ↔ y = x ∨ y ∈ l := by
  induction l with
  | nil => simp [sortBy.go]
  | cons a as ih =>
    unfold sortBy.go
    split <;> simp only [List.mem_cons, ih]
    tauto

@[simp] theorem mem_sortBy (key : α → Nat) {l : List α} {y : α} : y ∈ sortBy key l ↔ y ∈ l := by
  induction l with
  | nil => rfl
  | cons a as ih => simp only [sortBy, mem_sortBy_go, ih, List.mem_cons]

/-- The first element of a sorted list is a least one. -/
theorem head?_sortBy (key : α → Nat) {l : List α} (h : l ≠ []) :
    ∃ x ∈ l, (sortBy key l).head? = some x ∧ ∀ y ∈ l, key x ≤ key y := by
  induction l with
  | nil => exact absurd rfl h
  | cons a as ih =>
    by_cases has : as = []
    · subst has
      exact ⟨a, by simp, rfl, by simp⟩
    · obtain ⟨x, hx, he, hle⟩ := ih has
      obtain ⟨zs, hzs⟩ : ∃ zs, sortBy key as = x :: zs := List.head?_eq_some_iff.mp he
      by_cases hax : key a ≤ key x
      · refine ⟨a, by simp, by simp [sortBy, hzs, sortBy.go, hax], ?_⟩
        exact List.forall_mem_cons.mpr ⟨le_rfl, fun y hy => hax.trans (hle y hy)⟩
      · refine ⟨x, List.mem_cons_of_mem _ hx, by simp [sortBy, hzs, sortBy.go, hax], ?_⟩
        exact List.forall_mem_cons.mpr ⟨(Nat.not_le.mp hax).le, hle⟩

/-- A part of a list that is cut into parts of `n` holds at most `n` of its elements. -/
theorem mem_chunks {n fuel : Nat} {l g : List α} (h : g ∈ chunks n fuel l) : g.length ≤ n ∧ ∀ x ∈ g, x ∈ l := by
  induction fuel generalizing l with
  | zero => cases h
  | succ fuel ih =>
    cases l with
    | nil => cases h
    | cons a as =>
      rcases List.mem_cons.mp h with rfl | h
      · exact ⟨List.length_take_le _ _, fun x hx => List.mem_of_mem_take hx⟩
      · obtain ⟨hlen, hmem⟩ := ih h
        exact ⟨hlen, fun x hx => List.mem_of_mem_drop (hmem x hx)⟩

end Sys2Proof.Machine
end

section
/-! SUPPORT. What R53 and R55 choose of some candidates. -/
namespace Sys2Proof.Machine

/-- R54: a candidate is no younger than another. -/
def Cand.Older (c x : Cand) : Prop := c.ord < x.ord ∨ (c.ord = x.ord ∧ c.age ≤ x.age)

/-- R53's choice among some candidates: the oldest of those passed over for 64 slots, where there is one, and else the
oldest of those of the highest priority. -/
def Cand.Preferred (cs : List Cand) (c : Cand) : Prop :=
  ((∃ x ∈ cs, 64 ≤ x.since) → 64 ≤ c.since ∧ ∀ x ∈ cs, 64 ≤ x.since → c.Older x)
  ∧ ((∀ x ∈ cs, x.since < 64) → ∀ x ∈ cs, x.prio ≤ c.prio ∧ (x.prio = c.prio → c.Older x))

theorem oldestCand_spec {cs : List Cand} (h : cs ≠ []) :
    ∃ c ∈ cs, oldestCand cs = some c ∧ ∀ x ∈ cs, c.Older x := by
  obtain ⟨a, ha, hal, haLe⟩ := leastBy_spec (·.ord) h
  have hne : cs.filter (fun x => x.ord == a.ord) ≠ [] := List.ne_nil_of_mem (List.mem_filter.mpr ⟨ha, beq_self_eq_true _⟩)
  obtain ⟨c, hc, hcl, hcLe⟩ := leastBy_spec (·.age) hne
  obtain ⟨hc, hord⟩ := List.mem_filter.mp hc
  have hord : c.ord = a.ord := beq_iff_eq.mp hord
  refine ⟨c, hc, by simp only [oldestCand, hal, hcl], fun x hx => ?_⟩
  rcases Nat.lt_or_eq_of_le (haLe x hx) with hlt | heq
  · exact .inl (hord ▸ hlt)
  · exact .inr ⟨hord.trans heq, hcLe x (List.mem_filter.mpr ⟨hx, by simp [heq]⟩)⟩

/-- R53. -/
theorem policyCand_spec {cs : List Cand} (h : cs ≠ []) :
    ∃ c ∈ cs, policyCand cs = some c ∧ c.Preferred cs := by
  by_cases hst : cs.filter (fun c => decide (64 ≤ c.since)) = []
  · have hyoung : ∀ x ∈ cs, x.since < 64 := by simpa using hst
    obtain ⟨t, ht, htp⟩ := List.mem_map.mp (maxOf_mem (l := cs.map (·.prio)) (by simpa using h))
    have hne : cs.filter (fun c => c.prio == maxOf (cs.map (·.prio))) ≠ [] :=
      List.ne_nil_of_mem (List.mem_filter.mpr ⟨ht, by simp [htp]⟩)
    obtain ⟨c, hc, hco, hold⟩ := oldestCand_spec hne
    obtain ⟨hc, hcp⟩ := List.mem_filter.mp hc
    have hcp : c.prio = maxOf (cs.map (·.prio)) := beq_iff_eq.mp hcp
    refine ⟨c, hc, by simp only [policyCand, hst, hco], ?_, fun _ x hx => ⟨?_, fun hxp => ?_⟩⟩
    · rintro ⟨x, hx, hx64⟩
      exact absurd (hyoung x hx) (Nat.not_lt.mpr hx64)
    · exact hcp ▸ le_maxOf (List.mem_map_of_mem hx)
    · exact hold x (List.mem_filter.mpr ⟨hx, by simp [hxp, hcp]⟩)
  · obtain ⟨c, hc, hco, hold⟩ := oldestCand_spec hst
    obtain ⟨hc, hc64⟩ := List.mem_filter.mp hc
    have hc64 : 64 ≤ c.since := of_decide_eq_true hc64
    obtain ⟨a, as, has⟩ := List.exists_cons_of_ne_nil hst
    refine ⟨c, hc, ?_, fun _ => ⟨hc64, fun x hx hx64 => hold x (List.mem_filter.mpr ⟨hx, by simpa using hx64⟩)⟩, fun hy => ?_⟩
    · rw [has] at hco
      simp only [policyCand, has, hco]
    · exact absurd (hy c hc) (Nat.not_lt.mpr hc64)

/-- The first of some candidates by time since they issued has waited longest. -/
theorem head?_bySince {cs : List Cand} (h : cs ≠ []) :
    ∃ c ∈ cs, (bySince cs).head? = some c ∧ ∀ x ∈ cs, x.since ≤ c.since := by
  obtain ⟨c, hc, he, hle⟩ := head?_sortBy (fun c => maxOf (cs.map (·.since)) - c.since) h
  refine ⟨c, hc, he, fun x hx => ?_⟩
  have hxm : x.since ≤ maxOf (cs.map (·.since)) := le_maxOf (List.mem_map_of_mem hx)
  have hcm : c.since ≤ maxOf (cs.map (·.since)) := le_maxOf (List.mem_map_of_mem hc)
  have := hle x hx
  omega

/-- R55, log entry 57: R53's choice is taken, but where it would keep another beyond the bound which the one that has
waited longest would keep. -/
theorem pickCand_spec (s : State) (others left : Nat) {cs : List Cand} (h : cs ≠ []) :
    ∃ p ∈ cs, p.Preferred cs ∧ ∃ c ∈ cs, pickCand s others left cs = some c
      ∧ (if inBound s (64 + others) (left + p.passes s) (decide (0 < left) || decide (1 < p.passes s)) (bySince (cs.erase p))
          then c = p
        else if inBound s (64 + others) left (decide (0 < left)) (bySince cs) then ∀ x ∈ cs, x.since ≤ c.since
        else c = p) := by
  obtain ⟨p, hp, hpe, hpref⟩ := policyCand_spec h
  obtain ⟨w, hw, hwe, hwait⟩ := head?_bySince h
  refine ⟨p, hp, hpref, ?_⟩
  simp only [pickCand, hpe]
  split
  · exact ⟨p, hp, rfl, rfl⟩
  · split
    · exact ⟨w, hw, hwe, hwait⟩
    · exact ⟨p, hp, rfl, rfl⟩

end Sys2Proof.Machine
end

section
/-! SUPPORT. What the splits of a choice become (R53, R54). -/
namespace Sys2Proof.Machine

/-- R54: a split that takes the slot `now` of its core as issue `n` of the module. -/
def Split.issue (sp : Split) (now n clk : Nat) : Split :=
  { sp with lastSlot := now, issuedAt := n, prioUp := 0, readyClk := clk }

/-- A crew whose split `sid` takes a slot. -/
def Crew.issue (cr : Crew) (sid now n clk : Nat) : Crew :=
  { cr.updSplit sid (fun sp => sp.issue now n clk) with issuedAt := n }

/-- A member of a choice, as crew and split, takes a slot. -/
def takeSlot (now : Nat) (s : State) (m : Nat × Nat) : State :=
  updCrew s m.1 (fun cr => cr.issue m.2 now s.issues (crewClk s cr))

theorem chooseCand_cons {s : State} {u : Nat} {c : Cand} {m : Nat × Nat} {ms : List (Nat × Nat)} (h : c.members = m :: ms) :
    chooseCand s u c = { c.members.foldl (takeSlot (coreUnit s u).slots) { s with issues := s.issues + 1 } with
      focus := some { crew := m.1, split := m.2, more := ms } } := by
  simp only [chooseCand, h]
  rfl

theorem foldl_takeSlot_crews (now : Nat) (ms : List (Nat × Nat)) (s : State) :
    ms.foldl (takeSlot now) s = { s with crews := (ms.foldl (takeSlot now) s).crews } := by
  induction ms generalizing s with
  | nil => rfl
  | cons m ms ih =>
    rw [List.foldl_cons, ih]
    rfl

theorem foldl_takeSlot_ne {now : Nat} {ms : List (Nat × Nat)} {k : Nat} (s : State) (h : k ∉ ms.map (·.1)) :
    (ms.foldl (takeSlot now) s).crews.find k = s.crews.find k := by
  induction ms generalizing s with
  | nil => rfl
  | cons m ms ih =>
    simp only [List.map_cons, List.mem_cons, not_or] at h
    rw [List.foldl_cons, ih _ h.2]
    exact SMap.find_change_ne _ _ h.1

/-- The crew `cr'` is `cr` with some splits issued, the split `i`, once `sp`, among them: `sp'`. -/
structure TookSlot (cr cr' : Crew) (i : Nat) (sp sp' : Split) (now n : Nat) : Prop where
  crew  : cr' = { cr with splits := cr'.splits, issuedAt := n }
  found : cr'.split i = some sp'
  split : sp' = sp.issue now n sp'.readyClk

theorem Crew.split_issue_self {cr : Crew} {i : Nat} {sp : Split} (h : cr.split i = some sp) (now n clk : Nat) :
    (cr.issue i now n clk).split i = some (sp.issue now n clk) :=
  (Crew.split_updSplit_self cr i (fun sp => sp.issue now n clk) (fun _ => rfl)).trans (congrArg _ h)

theorem Crew.split_issue_ne (cr : Crew) {i j : Nat} (h : i ≠ j) (now n clk : Nat) :
    (cr.issue j now n clk).split i = cr.split i :=
  Crew.split_updSplit_ne cr (fun sp => sp.issue now n clk) (fun _ => rfl) h

/-- A split that has issued stays so where its crew's splits issue again for the same slot. -/
theorem TookSlot.issue {cr cr' : Crew} {i : Nat} {sp sp' : Split} {now n : Nat} (h : TookSlot cr cr' i sp sp' now n)
    (j clk : Nat) : ∃ sp'', TookSlot cr (cr'.issue j now n clk) i sp sp'' now n := by
  have hcrew : cr'.issue j now n clk = { cr with splits := (cr'.issue j now n clk).splits, issuedAt := n } := by
    conv_lhs => rw [h.crew]
    conv_rhs => rw [h.crew]
    rfl
  by_cases hj : i = j
  · subst hj
    refine ⟨_, hcrew, Crew.split_issue_self h.found now n clk, ?_⟩
    conv_lhs => rw [h.split]
    rfl
  · exact ⟨sp', hcrew, (Crew.split_issue_ne cr' hj now n clk).trans h.found, h.split⟩

theorem takeSlot_find_self {now : Nat} {s : State} {m : Nat × Nat} {cr : Crew} (h : s.crews.find m.1 = some cr) :
    (takeSlot now s m).crews.find m.1 = some (cr.issue m.2 now s.issues (crewClk s cr)) :=
  (SMap.find_change_self ..).trans (congrArg _ h)

theorem takeSlot_find_ne {now k : Nat} {m : Nat × Nat} (s : State) (h : k ≠ m.1) :
    (takeSlot now s m).crews.find k = s.crews.find k := SMap.find_change_ne _ _ h

/-- What has issued stays so while the other members of the choice issue. -/
theorem foldl_takeSlot_kept {now : Nat} (ms : List (Nat × Nat)) {s : State} {k i : Nat} {cr cr' : Crew} {sp sp' : Split}
    (hf : s.crews.find k = some cr') (hi : TookSlot cr cr' i sp sp' now s.issues) :
    ∃ cr'' sp'', (ms.foldl (takeSlot now) s).crews.find k = some cr'' ∧ TookSlot cr cr'' i sp sp'' now s.issues := by
  induction ms generalizing s cr' sp' with
  | nil => exact ⟨cr', sp', hf, hi⟩
  | cons m ms ih =>
    by_cases hk : k = m.1
    · subst hk
      obtain ⟨sp1, h1⟩ := hi.issue m.2 (crewClk s cr')
      exact ih (s := takeSlot now s m) (takeSlot_find_self hf) h1
    · exact ih (s := takeSlot now s m) ((takeSlot_find_ne s hk).trans hf) hi

/-- Every member of a choice has issued once all have taken the slot. -/
theorem foldl_takeSlot_mem {now : Nat} {ms : List (Nat × Nat)} {s : State} {k i : Nat} {cr : Crew} {sp : Split}
    (hm : (k, i) ∈ ms) (hf : s.crews.find k = some cr) (hs : cr.split i = some sp) :
    ∃ cr' sp', (ms.foldl (takeSlot now) s).crews.find k = some cr' ∧ TookSlot cr cr' i sp sp' now s.issues := by
  induction ms generalizing s cr with
  | nil => cases hm
  | cons m ms ih =>
    by_cases hmi : m = (k, i)
    · subst hmi
      have hi : TookSlot cr (cr.issue i now s.issues (crewClk s cr)) i sp _ now s.issues :=
        ⟨rfl, Crew.split_issue_self hs now _ _, rfl⟩
      exact foldl_takeSlot_kept ms (s := takeSlot now s (k, i)) (takeSlot_find_self hf) hi
    · have hm : (k, i) ∈ ms := (List.mem_cons.mp hm).resolve_left (Ne.symm hmi)
      by_cases hk : k = m.1
      · subst hk
        have hne : i ≠ m.2 := fun h => hmi (by rw [h])
        obtain ⟨cr', sp', hf', hi⟩ := ih (s := takeSlot now s m) hm (takeSlot_find_self hf)
          ((Crew.split_issue_ne cr hne now _ _).trans hs)
        exact ⟨cr', sp', hf', hi.crew, hi.found, hi.split⟩
      · exact ih (s := takeSlot now s m) hm ((takeSlot_find_ne s hk).trans hf) hs

end Sys2Proof.Machine
end

section
/-! SUPPORT. An issue slot of a core (R36 to R38, R53 to R55). -/
namespace Sys2Proof.Machine

/-- R38: a crew that qualifies for packing has 8 or 16 lanes. -/
theorem width_of_packKey {s : State} {u : Nat} {cr : Crew} {key : Nat × Int} (h : packKey s u cr = some key) :
    cr.width = 8 ∨ cr.width = 16 := by
  unfold packKey at h
  split at h
  · next hq =>
    simp only [Bool.and_eq_true, Bool.or_eq_true, beq_iff_eq] at hq
    obtain ⟨⟨⟨hw, -⟩, -⟩, -⟩ := hq
    rcases hw with hw | hw <;> simp [Crew.width, hw]
  · cases h

/-- R38: crews that qualify for packing are cut into groups of four at most. -/
theorem groupSize_le {s : State} {u : Nat} {key : Nat × Int} {qs : List (Nat × Crew)} {q : Nat × Crew} (hq : q ∈ qs)
    (h : ∀ p ∈ qs, packKey s u p.2 = some key) : 32 / (qs.head?.map (fun p => p.2.width)).getD 32 ≤ 4 := by
  obtain ⟨p, ps, rfl⟩ := List.exists_cons_of_ne_nil (List.ne_nil_of_mem hq)
  rcases width_of_packKey (h p (by simp)) with hw | hw <;> simp [hw]

/-- R38: a new packed group is two to four crews of one launch at one header. -/
theorem newPacks_spec {s : State} {u : Nat} {g : List Nat} (h : g ∈ newPacks s u) :
    2 ≤ g.length ∧ g.length ≤ 4 ∧ ∃ key, ∀ k ∈ g, ∃ cr, (k, cr) ∈ s.crews ∧ packKey s u cr = some key := by
  obtain ⟨hg, h2⟩ := List.mem_filter.mp h
  obtain ⟨key, -, hg⟩ := List.mem_flatMap.mp hg
  obtain ⟨ps, hps, rfl⟩ := List.mem_map.mp hg
  obtain ⟨hlen, hmem⟩ := mem_chunks hps
  have h2 : 2 ≤ (ps.map (·.1)).length := of_decide_eq_true h2
  obtain ⟨q, hq⟩ := List.exists_mem_of_length_pos (l := ps) (by rw [List.length_map] at h2; omega)
  refine ⟨h2, ?_, key, fun k hk => ?_⟩
  · rw [List.length_map]
    exact hlen.trans (groupSize_le (hmem q hq) (fun p hp => beq_iff_eq.mp (List.mem_filter.mp hp).2))
  · obtain ⟨p, hp, rfl⟩ := List.mem_map.mp hk
    obtain ⟨hmine, hkey⟩ := List.mem_filter.mp (hmem p hp)
    exact ⟨p.2, (List.mem_filter.mp ((mem_sortBy _).mp hmine)).1, beq_iff_eq.mp hkey⟩

/-- The pipe whose slot a core's next one is (R37, R54). -/
def slotPipe (s : State) (core : Nat) : Pipe :=
  if (coreUnit s core).slots % 2 == 0 then (coreUnit s core).pipe0 else (coreUnit s core).pipe1

/-- The splits that the other pipe runs (R53). -/
def otherTaken (s : State) (core : Nat) : List (Nat × Nat) :=
  if (coreUnit s core).slots % 2 == 0 then
    (if (coreUnit s core).pipe1.left = 0 then [] else (coreUnit s core).pipe1.members)
  else (coreUnit s core).pipe0.members

/-- What a core's next slot may choose (R53). -/
def slotCands (s : State) (core : Nat) : List Cand :=
  (candidatesOf s core).filter (fun c => c.members.all (fun m => !(otherTaken s core).contains m))

/-- A core after an issue slot, which leaves its pipe as `p` and its packed groups as `packs`. -/
def afterSlot (s : State) (core : Nat) (p : Pipe) (packs : List (List Nat)) : State :=
  updCore s core (fun u => { u with
    slots := u.slots + 1, packs := packs
    pipe0 := if (coreUnit s core).slots % 2 == 0 then p else u.pipe0
    pipe1 := if (coreUnit s core).slots % 2 == 0 then u.pipe1 else p })

/-- R38: the packed groups of a core once some crews have been chosen together. -/
def packsWith (s : State) (core : Nat) (g : List Nat) : List (List Nat) :=
  if g.length < 2 || (standingPacks s core).contains g then standingPacks s core else standingPacks s core ++ [g]

/-- A core once candidate `c` has been chosen for its slot (R37, R53). -/
def afterChoice (s : State) (core : Nat) (c : Cand) : State :=
  chooseCand (afterSlot s core { members := c.members, left := c.passes s - 1 } (packsWith s core (c.members.map (·.1))))
    core c

theorem execIssueSelect_eq (core : Nat) (s : State) :
    execIssueSelect core s =
      if s.focus.isSome then .next s
      else if 0 < (slotPipe s core).left then
        .next (updCore (afterSlot s core { slotPipe s core with left := (slotPipe s core).left - 1 } (standingPacks s core))
          core (fun u => { u with passAt := u.slots }))
      else
        match pickCand s (splitsOn s core - 1) ((coreUnit s core).pipe0.left + (coreUnit s core).pipe1.left)
            (slotCands s core) with
        | none => .next (afterSlot s core {} (standingPacks s core))
        | some c => .next (afterChoice s core c) := rfl

theorem execIssueSelect_focused {s : State} (core : Nat) (hf : s.focus ≠ none) : execIssueSelect core s = .next s := by
  rw [execIssueSelect_eq, if_pos (Option.isSome_iff_ne_none.mpr hf)]

theorem execIssueSelect_pass {s : State} {core : Nat} (hf : s.focus = none) (hl : 0 < (slotPipe s core).left) :
    execIssueSelect core s = .next (updCore (afterSlot s core
      { slotPipe s core with left := (slotPipe s core).left - 1 } (standingPacks s core)) core
      (fun u => { u with passAt := u.slots })) := by
  rw [execIssueSelect_eq, hf, if_neg (by simp), if_pos hl]

/-- A slot of a free pipe: what `pickCand` answers decides it. -/
theorem execIssueSelect_free {s : State} {core : Nat} (hf : s.focus = none) (hl : (slotPipe s core).left = 0) :
    execIssueSelect core s =
      match pickCand s (splitsOn s core - 1) ((coreUnit s core).pipe0.left + (coreUnit s core).pipe1.left)
          (slotCands s core) with
      | none => .next (afterSlot s core {} (standingPacks s core))
      | some c => .next (afterChoice s core c) := by
  rw [execIssueSelect_eq, hf, if_neg (by simp), if_neg (by omega)]

theorem execIssueSelect_lost {s : State} {core : Nat} (hf : s.focus = none) (hl : (slotPipe s core).left = 0)
    (hcs : slotCands s core = []) :
    execIssueSelect core s = .next (afterSlot s core {} (standingPacks s core)) := by
  rw [execIssueSelect_free hf hl, hcs]
  rfl

theorem execIssueSelect_chosen {s : State} {core : Nat} {c : Cand} (hf : s.focus = none) (hl : (slotPipe s core).left = 0)
    (hc : pickCand s (splitsOn s core - 1) ((coreUnit s core).pipe0.left + (coreUnit s core).pipe1.left)
      (slotCands s core) = some c) :
    execIssueSelect core s = .next (afterChoice s core c) := by
  rw [execIssueSelect_free hf hl, hc]

theorem packsWith_eq (s : State) (core : Nat) (g : List Nat) :
    packsWith s core g = if g.length < 2 ∨ g ∈ standingPacks s core then standingPacks s core
      else standingPacks s core ++ [g] := by
  simp only [packsWith, Bool.or_eq_true, decide_eq_true_eq, List.contains_iff_mem]

/-- Settles O41: what is chosen is `pickCand_spec`'s, what becomes of it `foldl_takeSlot_mem`'s. -/
theorem issueSelection : Obligations.IssueSelection := by
  refine ⟨fun s core => ?_, fun b core c m ms hm => ?_, fun s core g hg => newPacks_spec hg⟩
  · intro u even mine taken after packs cs older policy crews left kept
    refine ⟨execIssueSelect_focused core, execIssueSelect_pass, execIssueSelect_lost, fun hf hl hcs => ?_⟩
    obtain ⟨p, hp, hpref, c, hc, hpick, hwhich⟩ := pickCand_spec s (splitsOn s core - 1) left hcs
    refine ⟨p, hp, hpref, c, hc, hwhich, (execIssueSelect_chosen hf hl hpick).trans ?_⟩
    rw [afterChoice, packsWith_eq]
    rfl
  · intro t
    have ht : t = { c.members.foldl (takeSlot (coreUnit b core).slots) { b with issues := b.issues + 1 } with
      focus := some { crew := m.1, split := m.2, more := ms } } := chooseCand_cons hm
    refine ⟨?_, fun k hk => ?_, fun k i cr sp hki hf hs => ?_⟩
    · rw [ht, foldl_takeSlot_crews]
    · rw [ht]
      exact foldl_takeSlot_ne _ hk
    · obtain ⟨cr', sp', hf', hi⟩ := foldl_takeSlot_mem (now := (coreUnit b core).slots)
        (s := { b with issues := b.issues + 1 }) hki hf hs
      exact ⟨cr', sp', by rw [ht]; exact hf', hi.crew, hi.found, hi.split⟩

end Sys2Proof.Machine
end

section
/-! SUPPORT. Ageing, placing and starting of cohorts, and grants of tile store (R33, R42, R51 to R54,
R143, R144). -/
namespace Sys2Proof.Machine

-- ageing (R54)

theorem execPriorityAge_rises {s : State} {cid sid : Nat} {cr : Crew} {sp : Split} (hc : s.crews.find cid = some cr)
    (hs : cr.split sid = some sp) (hready : sp.state = .ready)
    (hclk : sp.readyClk + 1024 * (sp.prioUp + 1) ≤ crewClk s cr) (hlevel : crewPrio s cr + sp.prioUp < 3) :
    execPriorityAge cid sid s = .next (updSplit s cid sid (fun x => { x with prioUp := x.prioUp + 1 })) := by
  simp only [execPriorityAge, hc, hs, hready, hclk, hlevel, decide_true, beq_self_eq_true, Bool.and_self, if_true]

-- placing (R51, R52)

/-- A context that neither records nor replays its dispatch (R353). -/
def Untraced (s : State) (ctx : Nat) : Prop := ∀ x, s.ctxs.find ctx = some x → x.mode = .off ∨ x.mode = .free

theorem replaying_of_untraced {s : State} {ctx : Nat} (h : Untraced s ctx) : replaying s ctx = false := by
  unfold replaying
  split
  · next c hc => rcases h c hc with hm | hm <;> simp [hm]
  · rfl

theorem traceEvent_of_untraced {s : State} {ctx : Nat} (h : Untraced s ctx) (fields : List (Nat × Nat)) :
    traceEvent s ctx fields = s := by
  unfold traceEvent
  split
  · rfl
  · next c hc => rcases h c hc with hm | hm <;> simp [hm]

theorem tracePlace_of_untraced {s : State} {ln : Launch} (h : Untraced s ln.ctx) (u idx : Nat) :
    tracePlace s u ln idx = s := by
  simp only [tracePlace, placeMatched, replaying_of_untraced h, Bool.false_eq_true, if_false, traceEvent_of_untraced h]

/-- A change of the sump's use leaves a context's mode. -/
theorem Untraced.updCtx {s : State} {ctx : Nat} (h : Untraced s ctx) (f : Context → Context)
    (hf : ∀ x, (f x).mode = x.mode) : Untraced (updCtx s ctx f) ctx := by
  intro x hx
  rw [Machine.updCtx, SMap.find_change_self, Option.map_eq_some_iff] at hx
  obtain ⟨y, hy, rfl⟩ := hx
  rw [hf]
  exact h y hy

@[simp] theorem enterQueue_ctxs (s : State) (k u : Nat) : (enterQueue s k u).ctxs = s.ctxs := by
  unfold enterQueue
  split <;> rfl

@[simp] theorem enterQueue_launches (s : State) (k u : Nat) : (enterQueue s k u).launches = s.launches := by
  unfold enterQueue
  split <;> rfl

@[simp] theorem enterQueue_mem (s : State) (k u : Nat) : (enterQueue s k u).mem = s.mem := by
  unfold enterQueue
  split <;> rfl

/-- R218: a cohort of a core that enters its launch queue takes a slot; nothing else of it changes. -/
theorem enterQueue_found {s : State} {k u : Nat} {c : Cohort} (h : s.cohorts.find k = some c) (hu : c.core = u) :
    ∃ sl, (enterQueue s k u).cohorts.find k = some { c with slot := sl } := by
  subst hu
  unfold enterQueue
  split
  · exact ⟨c.slot, h⟩
  · next sl _ => exact ⟨some sl, (SMap.find_change_self ..).trans (congrArg _ h)⟩

/-- A new cohort of a launch as it is placed on a core, before it has a slot (R34, R142). -/
def cohortOf (k lid : Nat) (ln : Launch) (idx u : Nat) (again : Bool) : Cohort :=
  { id := k, ctx := ln.ctx, queue := ln.queue, cseq := ln.cseq, launch := lid, index := idx
    coords := coordsOf (ln.ext.drop 1) idx, core := u, control := ln.centry.isSome, prio := ln.prio
    staticReq := ln.scratch, alloc := ln.scratch, group := if ln.fused then some (idx / 4) else none, lanes := ln.lanes
    relaunch := again }

/-- A state with a new cohort, whose use of the sump is counted. -/
def withCohort (s : State) (lid : Nat) (ln : Launch) (idx u : Nat) (again : Bool) : State :=
  updCtx { s with nextId := s.nextId + 1, cohorts := s.cohorts.put s.nextId (cohortOf s.nextId lid ln idx u again)
                  launches := s.launches.change lid (fun l => { l with live := l.live + 1 }) }
    ln.ctx (fun x => { x with sumpUsed := x.sumpUsed + cohortSump ln })

theorem withCohort_launches (s : State) (lid : Nat) (ln : Launch) (idx u : Nat) (again : Bool) :
    (withCohort s lid ln idx u again).launches = s.launches.change lid (fun l => { l with live := l.live + 1 }) := rfl

theorem newCohort_eq {s : State} {ln : Launch} (h : Untraced s ln.ctx) (lid idx u : Nat) (again : Bool) :
    newCohort s lid ln idx u again = enterQueue (withCohort s lid ln idx u again) s.nextId u := by
  have hw : Untraced (withCohort s lid ln idx u again) ln.ctx :=
    Untraced.updCtx (s := { s with nextId := _, cohorts := _, launches := _ }) h _ (fun _ => rfl)
  refine tracePlace_of_untraced (fun x hx => hw x ?_) u idx
  rwa [enterQueue_ctxs] at hx

theorem placeNext_single {s : State} {lid u : Nat} {ln : Launch} (hl : s.launches.find lid = some ln)
    (hfused : ln.fused = false) (hnext : ln.next < ln.total) (hfits : sumpFits s ln 1 = true)
    (hcore : coreFor s ln ln.next ln.scratch = some u) :
    placeNext s lid = some { newCohort s lid ln ln.next u false with
      launches := (newCohort s lid ln ln.next u false).launches.change lid (fun l => { l with next := l.next + 1 }) } := by
  have hu : nextUnit ln = [ln.next] := by simp only [nextUnit, hfused, Bool.false_eq_true, if_false]
  simp only [placeNext, hl, Nat.not_le.mpr hnext, if_false, hu, List.length_singleton, hfits, Bool.not_true,
    Bool.false_eq_true, hfused, hcore, Option.map_some]

theorem placeLaunch_next {s : State} {lid : Nat} {ln : Launch} (hl : s.launches.find lid = some ln)
    (hrun : pumpRuns s ln.ctx = true) (herr : ln.error = false) (hsaved : savedOf s lid = none) (hagain : ln.again = [])
    (hcores : ln.cores = false) (hnext : ln.next < ln.total) : placeLaunch s lid = placeNext s lid := by
  simp only [placeLaunch, hl, hrun, herr, hsaved, hagain, leastBy, hcores, Nat.not_le.mpr hnext, Bool.not_true, Bool.or_false,
    Bool.false_eq_true, if_false]

theorem execCohortPlace_head {s t : State} {lid : Nat} {ln : Launch} {rest : SMap Launch}
    (hs : s.launches = (lid, ln) :: rest) (ht : placeLaunch s lid = some t) : execCohortPlace s = .next t := by
  simp only [execCohortPlace, hs, SMap.keys, List.map_cons, List.findSome?_cons, ht]

-- starting (R33, R42, R51)

theorem execCohortStart_starts {s : State} {core k : Nat} {ks : List Nat} {c : Cohort} {ln : Launch}
    (hq : (coreUnit s core).launchQ = k :: ks) (hc : s.cohorts.find k = some c) (hrun : pumpRuns s c.ctx = true)
    (hl : s.launches.find c.launch = some ln) (hnone : crewsOf s k = []) :
    execCohortStart core s = .next (startCohort (updCore s core (fun x => { x with launchQ := ks })) k ln c) := by
  simp only [execCohortStart, hq, hc, hrun, hl, hnone, Bool.not_true, Bool.false_eq_true, if_false, List.isEmpty_nil, if_true]

/-- R42: the mask of all `2 ^ w0` lanes. -/
theorem getLsbD_allLanes (w0 l : Nat) :
    (BitVec.ofNat 1024 (2 ^ 2 ^ w0 - 1)).getLsbD l = decide (l < 2 ^ w0 ∧ l < 1024) := by
  rw [BitVec.getLsbD_ofNat, Nat.testBit_two_pow_sub_one, Bool.and_comm, Bool.decide_and]

-- grants of tile store (R143, R144)

theorem execSpgrowGrant_fails {s : State} {core : Nat} {p : Spgrow} {rest : List Spgrow} {c : Cohort}
    (hp : pendingSpgrow s core = p :: rest) (hc : s.cohorts.find p.cohort = some c) (hbig : 262144 < c.alloc + p.n) :
    execSpgrowGrant core s = .next (spgrowAnswer s p 0) := by
  have hfind : (p :: rest).find? (fun p => decide (262144 < ((s.cohorts.find p.cohort).map (·.alloc)).getD 0 + p.n))
      = some p := List.find?_cons_of_pos (by simpa [hc] using hbig)
  simp only [execSpgrowGrant, hp, hfind]

theorem execSpgrowGrant_grants {s : State} {core : Nat} {p : Spgrow} {rest : List Spgrow} {c : Cohort}
    (hp : pendingSpgrow s core = p :: rest) (hc : s.cohorts.find p.cohort = some c)
    (hall : ∀ x ∈ p :: rest, ((s.cohorts.find x.cohort).map (·.alloc)).getD 0 + x.n ≤ 262144)
    (hfree : p.n ≤ freeTile s core) :
    execSpgrowGrant core s = .next (spgrowAnswer (updCohort s p.cohort (fun c =>
      { c with alloc := c.alloc + p.n })) p (c.alloc + p.n)) := by
  have hfind : (p :: rest).find? (fun p => decide (262144 < ((s.cohorts.find p.cohort).map (·.alloc)).getD 0 + p.n))
      = none := List.find?_eq_none.mpr (fun x hx => by simpa using hall x hx)
  simp only [execSpgrowGrant, hp, hfind, hfree, if_true, hc, Option.map_some, Option.getD_some]

theorem startCrew_found (s : State) (k : Nat) (ln : Launch) (c : Cohort) (i entry : Nat) {g : Engine} (hg : g ≠ .control) :
    ∃ cr, (startCrew s k ln c i g entry).crews.find s.nextId = some cr ∧ cr.cohort = k ∧ cr.index = i ∧ cr.engine = g
      ∧ cr.state = .running ∧ cr.w0 = ln.widths.getD 0 3 ∧ cr.regs = [] ∧ cr.fpflags = 0 ∧ cr.locks = []
      ∧ ∃ sp, cr.splits = [sp] ∧ sp.place = .header entry .launch ∧ sp.state = .ready ∧ sp.queue = []
        ∧ sp.mask = BitVec.ofNat 1024 (2 ^ 2 ^ cr.w0 - 1) := by
  refine ⟨_, (SMap.find_change_self ..).trans (congrArg _ (SMap.find_put_self ..)), rfl, rfl, rfl, rfl, if_neg hg, rfl, rfl,
    rfl, _, rfl, rfl, rfl, rfl, rfl⟩

/-- Settles O42: each event in turn. -/
theorem cohortScheduling : Obligations.CohortScheduling := by
  refine ⟨fun s cid sid cr sp => execPriorityAge_rises, fun s lid u ln rest hs hrun herr hsaved hagain hfused hcores hnext
    hfits hcore huntraced => ?_, fun s core k ks c ln => execCohortStart_starts, fun s k i entry ln c g hg => ?_,
    fun s core p rest c => execSpgrowGrant_grants, fun s core p rest c => execSpgrowGrant_fails⟩
  · have hl : s.launches.find lid = some ln := by simp [hs, SMap.find]
    obtain ⟨sl, hco⟩ := enterQueue_found (s := withCohort s lid ln ln.next u false) (k := s.nextId) (SMap.find_put_self ..) rfl
    have hplace := (placeLaunch_next hl hrun herr hsaved hagain hcores hnext).trans
      (placeNext_single hl hfused hnext hfits hcore)
    rw [newCohort_eq huntraced] at hplace
    refine ⟨_, _, execCohortPlace_head hs hplace, hco, rfl, rfl, rfl, rfl, rfl, ?_, ?_⟩
    · refine (SMap.find_change_self ..).trans ?_
      rw [enterQueue_launches, withCohort_launches, SMap.find_change_self, hl]
      rfl
    · exact enterQueue_mem _ _ _
  · obtain ⟨cr, hf, hco, hi, he, hst, hw, hr, hfl, hlk, sp, hsp, hp, hs, hq, hm⟩ := startCrew_found s k ln c i entry hg
    exact ⟨cr, hf, hco, hi, he, hst, hw, hr, hfl, hlk, sp, hsp, hp, hs, hq, fun l => hm ▸ getLsbD_allLanes _ l⟩

end Sys2Proof.Machine
end

section
/-! SUPPORT. Every instruction of a split decodes from its own words (R83 to R97): the fields of a word of each format,
the rules by which a field that the encoder wrote is read back, and the decoder's cases by those rules. -/
namespace Sys2Proof

/-- R83 to R97: an instruction whose fields are legal decodes from its own words. -/
def Decodes (i : Instr) : Prop :=
  i.wf = true → decode ((encode i).headD 0) ((encode i)[1]?) = .instr i

/-- R92: the parts of a field that is written as a concatenation. -/
theorem concat_reads :
    (∀ {v w : Nat} (x : BitVec v) (y : BitVec w) (s l : Nat), s + l ≤ w → (x ++ y).extractLsb' s l = y.extractLsb' s l)
    ∧ (∀ {v w : Nat} (x : BitVec v) (y : BitVec w) (s l : Nat), w ≤ s →
        (x ++ y).extractLsb' s l = x.extractLsb' (s - w) l)
    ∧ (∀ {w : Nat} (x : BitVec w) (s : Nat), s = 0 → x.extractLsb' s w = x)
    ∧ (∀ s l n : Nat, (0 : BitVec n).extractLsb' s l = 0)
    ∧ (∀ {v w : Nat} (x : BitVec v) (y : BitVec w) (i : Nat), i < w → flag (x ++ y) i = flag y i)
    ∧ (∀ {v w : Nat} (x : BitVec v) (y : BitVec w) (i : Nat), w ≤ i → flag (x ++ y) i = flag x (i - w))
    ∧ (∀ (b : Bool) (i : Nat), i = 0 → flag (bit b) i = b)
    ∧ ∀ n i : Nat, flag (0 : BitVec n) i = false :=
  ⟨ext_lo, ext_hi, ext_self, ext_zero, flag_lo, flag_hi, flag_self, flag_zero⟩

-- the fields of a word of each format (R92)

/-- The fields of a word of format C. -/
def fieldsC (op : BitVec 8) (g : Guard) (k : BitVec 20) (off : BitVec 32) : Fields :=
  { Fields.ofWord (encC op g k off) with op := op, g := g.code }

/-- The fields of a word of format I. -/
def fieldsI (op : BitVec 8) (g : Guard) (d : BitVec 8) (a : BitVec 10) (imm : BitVec 32) (m : BitVec 2) : Fields :=
  { Fields.ofWord (encI op g d a imm m) with op := op, g := g.code, d := d, a := a }

/-- The fields of a word of format M. -/
def fieldsM (op : BitVec 8) (g : Guard) (d : BitVec 8) (a b : BitVec 10) (br : BitVec 4) (xs sz sc : BitVec 3)
    (off : BitVec 11) : Fields :=
  { Fields.ofWord (encM op g d a b br xs sz sc off) with op := op, g := g.code, d := d, a := a, b := b }

/-- The word of a FENCE, whose masks and scope lie across the fields C and MOD (R468). -/
def fenceWord (g : Guard) (smask dmask : BitVec 8) (sc : BitVec 3) (spadw : Bool) : W64 :=
  (0x57 : BitVec 8) ++ g.code ++ (0 : BitVec 28) ++ smask ++ dmask ++ sc ++ bit spadw ++ (0 : BitVec 4)

/-- The fields of a FENCE. -/
def fieldsFence (g : Guard) (smask dmask : BitVec 8) (sc : BitVec 3) (spadw : Bool) : Fields :=
  { Fields.ofWord (fenceWord g smask dmask sc spadw) with op := 0x57, g := g.code, d := 0, a := 0, b := 0 }

theorem ofWord_fieldsC (op : BitVec 8) (g : Guard) (k : BitVec 20) (off : BitVec 32) :
    Fields.ofWord (encC op g k off) = fieldsC op g k off := by
  obtain ⟨hop, hg, -⟩ := ofWord_encC op g k off
  rw [fieldsC, Fields.mk.injEq]
  exact ⟨hop, hg, rfl, rfl, rfl, rfl, rfl⟩

theorem ofWord_fieldsI (op : BitVec 8) (g : Guard) (d : BitVec 8) (a : BitVec 10) (imm : BitVec 32) (m : BitVec 2) :
    Fields.ofWord (encI op g d a imm m) = fieldsI op g d a imm m := by
  obtain ⟨hop, hg, hd, ha, -⟩ := ofWord_encI op g d a imm m
  rw [fieldsI, Fields.mk.injEq]
  exact ⟨hop, hg, hd, ha, rfl, rfl, rfl⟩

theorem ofWord_fieldsM (op : BitVec 8) (g : Guard) (d : BitVec 8) (a b : BitVec 10) (br : BitVec 4) (xs sz sc : BitVec 3)
    (off : BitVec 11) : Fields.ofWord (encM op g d a b br xs sz sc off) = fieldsM op g d a b br xs sz sc off := by
  obtain ⟨hop, hg, hd, ha, hb, -⟩ := ofWord_encM op g d a b br xs sz sc off
  rw [fieldsM, Fields.mk.injEq]
  exact ⟨hop, hg, hd, ha, hb, rfl, rfl⟩

theorem ofWord_fieldsFence (g : Guard) (smask dmask : BitVec 8) (sc : BitVec 3) (spadw : Bool) :
    Fields.ofWord (fenceWord g smask dmask sc spadw) = fieldsFence g smask dmask sc spadw := by
  rw [fieldsFence, Fields.mk.injEq]
  refine ⟨?_, ?_, ?_, ?_, ?_, rfl, rfl⟩
  all_goals simp (disch := decide) only [-Nat.reduceAdd, -Nat.reduceSub, Fields.ofWord, fenceWord, concat_reads]

-- the rules by which a field that the encoder wrote is read back

/-- R82 to R94: the codes of operands and of enumerations. -/
theorem code_reads (r : Reject) :
    (∀ a : Src, needSome (Src.ofCode a.code) r = .ok a) ∧ (∀ d : Dest, needSome (Dest.ofCode d.code) r = .ok d)
    ∧ (∀ t : IntTy, needSome (IntTy.ofCode t.code) r = .ok t) ∧ (∀ t : FTy, needSome (FTy.ofCode t.code) r = .ok t)
    ∧ (∀ t : NumTy, needSome (NumTy.ofCode t.code) r = .ok t) ∧ (∀ t : BTy, needSome (BTy.ofCode t.code) r = .ok t)
    ∧ (∀ t : RedTy, needSome (RedTy.ofCode t.code) r = .ok t) ∧ (∀ t : AtomTy, needSome (AtomTy.ofCode t.code) r = .ok t)
    ∧ (∀ m : Rnd, needSome (Rnd.ofCode m.code) r = .ok m) ∧ (∀ z : Size, needSome (Size.ofCode z.code) r = .ok z)
    ∧ (∀ s : Option Scope, needSome (Scope.ofCode? (Scope.code? s)) r = .ok s)
    ∧ (∀ c : ICond, needSome (ICond.ofCode c.code) r = .ok c) ∧ (∀ c : FCond, needSome (FCond.ofCode c.code) r = .ok c)
    ∧ (∀ o : RedOp, needSome (RedOp.ofCode o.code) r = .ok o) ∧ (∀ o : AtomOp, needSome (AtomOp.ofCode o.code) r = .ok o)
    ∧ (∀ o : RedsOp, needSome (RedsOp.ofCode o.code) r = .ok o)
    ∧ (∀ t : PrefTarget, needSome (PrefTarget.ofCode t.code) r = .ok t)
    ∧ (∀ m : PrmtMode, needSome (PrmtMode.ofCode m.code) r = .ok m)
    ∧ (∀ m : MoviForm, needSome (MoviForm.ofCode m.code) r = .ok m)
    ∧ (∀ d : CopyDir, needSome (CopyDir.ofCode d.code) r = .ok d) ∧ (∀ e : Epi, needSome (Epi.ofCode e.code) r = .ok e)
    ∧ ∀ p : Option (BitVec 3), needSome (pwOfCode p.isSome (pdCode p)) r = .ok p := by
  simp only [Src.ofCode_code, Dest.ofCode_code, IntTy.ofCode_code, FTy.ofCode_code, NumTy.ofCode_code, BTy.ofCode_code,
    RedTy.ofCode_code, AtomTy.ofCode_code, Rnd.ofCode_code, Size.ofCode_code, Scope.ofCode_code, ICond.ofCode_code,
    FCond.ofCode_code, RedOp.ofCode_code, AtomOp.ofCode_code, RedsOp.ofCode_code, PrefTarget.ofCode_code,
    PrmtMode.ofCode_code, MoviForm.ofCode_code, CopyDir.ofCode_code, Epi.ofCode_code, pw_code, needSome_some,
    implies_true, and_self]

/-- The codes that every value of a field has, and the count and the kinds of a well command (R568, R572). -/
theorem total_reads :
    (∀ m : ShflMode, ShflMode.ofCode m.code = m) ∧ (∀ m : VoteMode, VoteMode.ofCode m.code = m)
    ∧ (∀ k : WloadKind, WloadKind.ofCode k.code = k) ∧ (∀ k : WreadKind, WreadKind.ofCode k.code = k)
    ∧ (∀ s : Scope, Scope.ofCode? s.code = some (some s))
    ∧ (∀ c : WellCount, (⟨flag c.code 3, c.code.extractLsb' 0 3⟩ : WellCount) = c)
    ∧ (0 : BitVec 2).toNat = 0 ∧ (1 : BitVec 2).toNat = 1 ∧ (2 : BitVec 2).toNat = 2 :=
  ⟨ShflMode.ofCode_code, VoteMode.ofCode_code, WloadKind.ofCode_code, WreadKind.ofCode_code, Scope.ofCode_code',
    fun c => by simp (disch := decide) only [-Nat.reduceAdd, -Nat.reduceSub, WellCount.code, concat_reads],
    rfl, rfl, rfl⟩

section
variable (op : BitVec 8) (g : Guard) (d : BitVec 8) (a b : BitVec 10)

/-- R92: the fields of format C. -/
theorem formatC_reads (k : BitVec 20) (off : BitVec 32) :
    (fieldsC op g k off).g = g.code ∧ (fieldsC op g k off).kind20 = k ∧ (fieldsC op g k off).off32 = off := by
  obtain ⟨-, -, hkind, hoff⟩ := ofWord_encC op g k off
  exact ⟨rfl, hkind, hoff⟩

/-- R92: the fields of format I. -/
theorem formatI_reads (imm : BitVec 32) (m : BitVec 2) :
    (fieldsI op g d a imm m).g = g.code ∧ (fieldsI op g d a imm m).d = d ∧ (fieldsI op g d a imm m).a = a
    ∧ (fieldsI op g d a imm m).imm32 = imm ∧ (fieldsI op g d a imm m).mod.extractLsb' 0 2 = m
    ∧ flag (fieldsI op g d a imm m).mod 0 = flag m 0 ∧ flag (fieldsI op g d a imm m).mod 1 = flag m 1 := by
  obtain ⟨-, -, -, -, himm, hm, h0, h1⟩ := ofWord_encI op g d a imm m
  exact ⟨rfl, rfl, rfl, himm, hm, h0, h1⟩

/-- R92, R94: the fields of format M. -/
theorem formatM_reads (br : BitVec 4) (xs sz sc : BitVec 3) (off : BitVec 11) :
    (fieldsM op g d a b br xs sz sc off).g = g.code ∧ (fieldsM op g d a b br xs sz sc off).d = d
    ∧ (fieldsM op g d a b br xs sz sc off).a = a ∧ (fieldsM op g d a b br xs sz sc off).b = b
    ∧ (fieldsM op g d a b br xs sz sc off).br = br ∧ (fieldsM op g d a b br xs sz sc off).xs = xs
    ∧ (fieldsM op g d a b br xs sz sc off).sz = sz ∧ (fieldsM op g d a b br xs sz sc off).sc = sc
    ∧ (fieldsM op g d a b br xs sz sc off).off11 = off := by
  obtain ⟨-, -, -, -, -, hbr, hxs, hsz, hsc, hoff⟩ := ofWord_encM op g d a b br xs sz sc off
  exact ⟨rfl, rfl, rfl, rfl, hbr, hxs, hsz, hsc, hoff⟩

end

/-- R468: the fields of a FENCE. -/
theorem fence_reads (g : Guard) (smask dmask : BitVec 8) (sc : BitVec 3) (spadw : Bool) :
    (fieldsFence g smask dmask sc spadw).g = g.code ∧ (fieldsFence g smask dmask sc spadw).d = 0
    ∧ (fieldsFence g smask dmask sc spadw).a = 0 ∧ (fieldsFence g smask dmask sc spadw).b = 0
    ∧ (fieldsFence g smask dmask sc spadw).c ++ (fieldsFence g smask dmask sc spadw).mod
      = smask ++ dmask ++ sc ++ bit spadw ++ (0 : BitVec 4) := by
  refine ⟨rfl, rfl, rfl, rfl, ?_⟩
  apply BitVec.eq_of_getLsbD_eq
  intro i hi
  simp only [fieldsFence, fenceWord, Fields.ofWord, BitVec.getLsbD_append, BitVec.getLsbD_extractLsb']
  grind

section
variable {op : BitVec 8} {g : Guard} {d : BitVec 8} {a b c : BitVec 10} {m : BitVec 14}

/-- A word without an extension decodes by its fields; the same for each format below. -/
theorem decode_encA (h : hasExt op.toNat = false) :
    decode (encA op g d a b c m) none = checked (decodeFields ⟨op, g.code, d, a, b, c, m⟩ 0) := by
  rw [decode_one _ _ (by rw [ofWord_encA]; exact h), ofWord_encA]

theorem decode_encA_ext {x : W64} (h : hasExt op.toNat = true) :
    decode (encA op g d a b c m) (some x) = checked (decodeFields ⟨op, g.code, d, a, b, c, m⟩ x) := by
  rw [decode_two _ _ (by rw [ofWord_encA]; exact h), ofWord_encA]

theorem decode_encC {k : BitVec 20} {off : BitVec 32} (h : hasExt op.toNat = false) :
    decode (encC op g k off) none = checked (decodeFields (fieldsC op g k off) 0) := by
  rw [decode_one _ _ (by rw [ofWord_fieldsC]; exact h), ofWord_fieldsC]

theorem decode_encC_ext {k : BitVec 20} {off : BitVec 32} {x : W64} (h : hasExt op.toNat = true) :
    decode (encC op g k off) (some x) = checked (decodeFields (fieldsC op g k off) x) := by
  rw [decode_two _ _ (by rw [ofWord_fieldsC]; exact h), ofWord_fieldsC]

theorem decode_encI {imm : BitVec 32} {m : BitVec 2} (h : hasExt op.toNat = false) :
    decode (encI op g d a imm m) none = checked (decodeFields (fieldsI op g d a imm m) 0) := by
  rw [decode_one _ _ (by rw [ofWord_fieldsI]; exact h), ofWord_fieldsI]

theorem decode_encM {br : BitVec 4} {xs sz sc : BitVec 3} {off : BitVec 11} (h : hasExt op.toNat = false) :
    decode (encM op g d a b br xs sz sc off) none = checked (decodeFields (fieldsM op g d a b br xs sz sc off) 0) := by
  rw [decode_one _ _ (by rw [ofWord_fieldsM]; exact h), ofWord_fieldsM]

end

theorem decode_fence (g : Guard) (smask dmask : BitVec 8) (sc : BitVec 3) (spadw : Bool) :
    decode (fenceWord g smask dmask sc spadw) none = checked (decodeFields (fieldsFence g smask dmask sc spadw) 0) := by
  rw [decode_one _ _ (by rw [ofWord_fieldsFence]; rfl), ofWord_fieldsFence]

/-- An instruction decodes from its words where the decoder's case of its opcode, a first reader `r` and what follows it,
reads the instruction from their fields. The default proof of `hr` is one for all formats: it takes each field out of its
concatenation and reads its code back; the widths of the concatenations must stay as they are written, hence no
arithmetic on them. -/
theorem Decodes.of_fields {i : Instr} {w : W64} {ext : List W64} {f : Fields} {x : W64} {α : Type} {r : Dec α}
    {k : α → Dec Instr} (hi : encode i = w :: ext) (hw : decode w ext[0]? = checked (decodeFields f x))
    (hd : decodeFields f x = r >>= k)
    (hr : (r >>= k) = .ok i := by
      simp (disch := decide) only [-Nat.reduceAdd, -Nat.reduceSub, concat_reads, code_reads, total_reads, formatC_reads,
        formatI_reads, formatM_reads, fence_reads, Guard.ofCode_code, always_code, one20, flag_one, Fields.src, Fields.dst,
        zeroSrc, Fields.noDest, Fields.always, Fields.intMod, Fields.fltMod, Fields.logMod, Fields.memRef, Fields.spadRef,
        Fields.wcount, modInt, modFlt, modLog, modWell, bind_ok, need_true, beq_self_eq_true, Bool.and_self,
        Bool.or_self, Bool.or_true, Bool.true_or, Bool.false_or, Bool.not_false, Bool.not_true, Bool.false_eq_true,
        if_true, if_false, Option.isSome_some, Option.isSome_none, Option.isNone_some, Option.isNone_none]) :
    Decodes i := by
  intro h
  rw [hi, List.headD_cons, List.getElem?_cons_succ, hw, hd, hr, checked_ok i h]

/-- R83 to R97: each instruction of a split by its format, where a field is optional by whether it is there. -/
theorem decodes_of_split {i : Instr} (h : i.isEvent = false) (hop : ∀ op, i ≠ .illegalOpcode op) : Decodes i := by
  cases i with
  | nop | waitc | bar | rtt | gsig | iadd | isub | imul | imulh | imad | idiv | imin | imax | iabs | ineg | icmp | idp4
  | sel | mov | cvt | andL | orL | xorL | notL | bool3 | shl | shr | sar | rot | fsh | bfx | bfi | popc | clz | brev
  | prmt | fadd | fsub | fmul | ffma | fmin | fmax | fcmp | fclass | frcp | frsq | fsqrt | flog2 | fexp2 | ftanh | fsig
  | hadd2 | hmul2 | hfma2 | shfl | vote | red | rmaxi | scan | icsync | spgrow | spfree | pin | unpin | lunlock | mzero
  | mwait | wbias | wclamp | wread | wnoise | wstat | sibchk | stamp | trace =>
    exact .of_fields rfl (decode_encA rfl) rfl
  | reform | brmk | atom | atomo | reds | combine | llock | mma | mmas | mgrp | mdrain | mmask | tilepost | tilewait
  | wload | wsweep | wlink | accept | ringput => exact .of_fields rfl (decode_encA_ext rfl) rfl
  | bra | brc | call | ret | yield => exact .of_fields rfl (decode_encC rfl) rfl
  | exit | exitSuccessor => exact .of_fields rfl (decode_encC_ext rfl) rfl
  | trap | movi | csrr | csrw => exact .of_fields rfl (decode_encI rfl) rfl
  | ld | st | lds | sts | gather | scatter | pref => exact .of_fields rfl (decode_encM rfl) rfl
  | fence => exact .of_fields rfl (decode_fence ..) rfl
  | brld => exact .of_fields rfl (decode_encM (sz := Size.code .b128) rfl) rfl
  | copy _ _ _ _ _ y =>
    obtain ⟨brs, brd, xs, kc, _ | off⟩ := y
    · exact .of_fields rfl (decode_encA_ext
        (x := brs ++ brd ++ xs ++ kc ++ bit false ++ (0 : BitVec 17) ++ (0 : BitVec 32)) rfl) rfl
    · exact .of_fields rfl (decode_encA_ext
        (x := brs ++ brd ++ xs ++ kc ++ bit true ++ (0 : BitVec 17) ++ off) rfl) rfl
  | elect _ _ _ cnd => cases cnd <;> exact .of_fields rfl (decode_encA rfl) rfl
  | ballot _ _ hash => cases hash <;> exact .of_fields rfl (decode_encA_ext rfl) rfl
  | wkey _ _ _ imm => cases imm <;> exact .of_fields rfl (decode_encA_ext rfl) rfl
  | wkeyDraw _ _ imm => cases imm <;> exact .of_fields rfl (decode_encA_ext rfl) rfl
  | wkeyPhys => exact .of_fields rfl (decode_encA_ext rfl) rfl
  | illegalOpcode op => exact absurd rfl (hop op)
  | _ => cases h

/-- Settles O2: format by format, each field read back. -/
theorem decodeEncode : Obligations.DecodeEncode := fun _ hev hop hw => decodes_of_split hev hop hw

/-- Settles O1: each word by running the decoder. -/
theorem decodeWords : Obligations.DecodeWords := ⟨rfl, rfl, rfl, rfl, rfl, rfl, rfl, rfl, rfl⟩

end Sys2Proof
end

section
/-! SUPPORT. What an instruction that stops at a check of R100 does: the static checks in their order, and the first
empty source that traps. -/
namespace Sys2Proof.Machine

section
variable {s : State} {i : Instr} {cid sid : Nat} {cr : Crew} {sp : Split} {off : Nat}

/-- Checks 3 to 6 of R100, where a split executes and nothing holds its crew back. -/
theorem vet_free (hx : executing s = some (cid, sid, cr, sp, off)) (hf : Free s cid cr) :
    vet s i = (match staticCheck s cr i with
      | some r => .stop (envAt s i cid sid cr sp off) (.trap r)
      | none => operandCheck (envAt s i cid sid cr sp off) i) := by
  simp only [vet, hx, Nat.not_lt.mpr hf.time, hf.buffer, hf.replayed, Bool.or_self, Bool.false_eq_true, if_false]
  rfl

/-- R100, R325: an instruction that a check stops with a trap does nothing else. -/
theorem exec_stopped (hev : i.isEvent = false) {r : Report}
    (hv : vet s i = .stop (envAt s i cid sid cr sp off) (.trap r)) :
    exec i s = .next (takeTrap s cid sid (.word off) r) := by
  obtain ⟨body, hbody⟩ := exec_issue i hev
  simp only [hbody, issue, hv]
  rfl

/-- A failed static check is the instruction's only effect. -/
theorem exec_static (hev : i.isEvent = false) (hx : executing s = some (cid, sid, cr, sp, off)) (hf : Free s cid cr)
    {r : Report} (hr : staticCheck s cr i = some r) : exec i s = .next (takeTrap s cid sid (.word off) r) :=
  exec_stopped hev (by rw [vet_free hx hf, hr])

/-- An empty source that traps is the instruction's only effect. -/
theorem exec_empty (hev : i.isEvent = false) (hx : executing s = some (cid, sid, cr, sp, off)) (hf : Free s cid cr)
    (hr : staticCheck s cr i = none) {r : Nat} (he : emptyTrap cr (activeLanes cr sp i) i.sig.srcs = some r) :
    exec i s = .next (takeTrap s cid sid (.word off) { code := 0x05, addr := BitVec.ofNat 64 r }) := by
  refine exec_stopped (cr := cr) (sp := sp) hev ?_
  rw [vet_free hx hf, hr]
  have he : emptyTrap (envAt s i cid sid cr sp off).crew (envAt s i cid sid cr sp off).lanes i.sig.srcs = some r := he
  simp only [operandCheck, he]

end

/-- R74: a source with T = 1 that is empty in an active lane. -/
def emptyIn (cr : Crew) (lanes : List Nat) (u : SrcUse) : Prop :=
  u.traps = true ∧ ∃ k ∈ u.regs, ∃ l ∈ lanes, cr.isFull k l = false

theorem emptyTrap_cons (cr : Crew) (lanes : List Nat) (u : SrcUse) (us : List SrcUse) :
    (emptyIn cr lanes u → emptyTrap cr lanes (u :: us) = u.regs.head?)
    ∧ (¬ emptyIn cr lanes u → emptyTrap cr lanes (u :: us) = emptyTrap cr lanes us) := by
  have h : emptyIn cr lanes u ↔ (u.traps && u.regs.any (fun r => lanes.any (fun l => !cr.isFull r l))) = true := by
    simp [emptyIn]
  rw [h]
  exact ⟨fun h => if_pos h, fun h => if_neg h⟩

/-- R74: the first empty source decides, whatever follows it. -/
theorem emptyTrap_first {cr : Crew} {lanes : List Nat} {us vs : List SrcUse} {u : SrcUse}
    (hus : ∀ x ∈ us, ¬ emptyIn cr lanes x) (hu : emptyIn cr lanes u) :
    emptyTrap cr lanes (us ++ u :: vs) = u.regs.head? := by
  induction us with
  | nil => exact (emptyTrap_cons cr lanes u vs).1 hu
  | cons x xs ih =>
    rw [List.forall_mem_cons] at hus
    exact ((emptyTrap_cons cr lanes x _).2 hus.1).trans (ih hus.2)

/-- Settles O8: the first empty source decides, and the trap is the only effect. -/
theorem emptyRead : Obligations.EmptyRead := by
  intro s i cid sid cr sp off us vs u r hev hx hf hs empty hsrcs hus hu hr
  refine exec_empty hev hx hf hs ?_
  rw [hsrcs, ← hr]
  exact emptyTrap_first hus hu

/-- R446, R447: a crew may not touch the CSR `n`: one of the privileged range outside a privileged context, or TRNDATA off
the service core. -/
def csrForbidden (s : State) (cr : Crew) (n : BitVec 12) : Prop :=
  (0x400 ≤ n.toNat ∧ ((s.ctxs.find cr.ctx).map (·.priv)).getD false = false) ∨ (n.toNat = 0x405 ∧ cr.engine ≠ .service)

/-- R100: what checks 3 to 5 answer, in their order. -/
theorem staticCheck_cases (s : State) (cr : Crew) (i : Instr) :
    (i.sig.eng.runsOn cr.engine = false → staticCheck s cr i = some { code := 0x10 })
    ∧ (i.sig.eng.runsOn cr.engine = true → ∀ n, i.sig.csr = some n → csrForbidden s cr n →
        staticCheck s cr i = some { code := 0x04, addr := n.setWidth 64 })
    ∧ (i.sig.eng.runsOn cr.engine = true → (∀ n, i.sig.csr = some n → ¬ csrForbidden s cr n) →
        staticCheck s cr i = if i.wf then none else some { code := 0x03 }) := by
  have htest (n : BitVec 12) : ((0x400 ≤ n.toNat && !((s.ctxs.find cr.ctx).map (·.priv)).getD false)
      || (n.toNat == 0x405 && cr.engine != .service)) = true ↔ csrForbidden s cr n := by
    simp only [csrForbidden, Bool.or_eq_true, Bool.and_eq_true, decide_eq_true_eq, Bool.not_eq_true', beq_iff_eq,
      bne_iff_ne]
  refine ⟨fun he => by simp only [staticCheck, he, Bool.not_false, if_true], fun he n hn hb => ?_, fun he hb => ?_⟩
  · simp only [staticCheck, he, hn, Bool.not_true, Bool.false_eq_true, if_false, Option.filter_some, (htest n).mpr hb,
      if_true]
  · have hnone : i.sig.csr.filter (fun n => (0x400 ≤ n.toNat && !((s.ctxs.find cr.ctx).map (·.priv)).getD false)
        || (n.toNat == 0x405 && cr.engine != .service)) = none :=
      Option.filter_eq_none_iff.mpr (fun n hn => (htest n).not.mpr (hb n hn))
    simp only [staticCheck, he, hnone, Bool.not_true, Bool.false_eq_true, if_false]
    rfl

/-- Settles O7: the static checks in their order, each the instruction's only effect. -/
theorem checksInOrder : Obligations.ChecksInOrder := by
  intro s i cid sid cr sp off hev hx hf priv forbidden
  obtain ⟨hengine, hprivilege, hfields⟩ := staticCheck_cases s cr i
  refine ⟨fun he => exec_static hev hx hf (hengine he), fun he n hn hb => exec_static hev hx hf (hprivilege he n hn hb),
    fun he hb hw => exec_static hev hx hf ?_⟩
  rw [hfields he hb, hw]
  rfl

/-- R97: the illegal opcode names nothing, so that every check passes and it has its own effect. -/
theorem ready_illegalOpcode {s : State} {op : BitVec 8} {cid sid : Nat} {cr : Crew} {sp : Split} {off : Nat}
    (hx : executing s = some (cid, sid, cr, sp, off)) (hf : Free s cid cr) :
    Ready s (.illegalOpcode op) cid sid cr sp off := by
  have hsrc : srcRegs cr sp (.illegalOpcode op) = [] := ite_self _
  have hdest : destRegs cr sp (.illegalOpcode op) = [] := ite_self _
  exact {
    executes := hx
    free := hf
    engine := rfl
    csr := fun n hn => by cases hn
    fields := rfl
    full := fun r hr => by rw [hsrc, hdest] at hr; cases hr
    recsFull := fun b hb => by cases hb
    acquired := fun ha => by cases ha
    srcHere := fun r hr => by rw [hsrc] at hr; cases hr
    destHere := fun r hr => by rw [hdest] at hr; cases hr
    srcGood := fun r hr => by rw [hsrc] at hr; cases hr
    recsGood := fun b hb => by cases hb
    rows := by rw [hdest]; rfl }

/-- Settles O3: the ranges by arithmetic, the decoder by its first case, and the trap as the illegal opcode's own effect. -/
theorem undefinedOpcodes : Obligations.UndefinedOpcodes := by
  refine ⟨fun op hop => ?_, fun w next hop => ?_, fun s op cid sid cr sp off hx hf => ?_⟩
  · simp only [opDefined, Bool.or_eq_false_iff, Bool.and_eq_false_iff, decide_eq_false_iff_not]
    omega
  · have hop : opDefined (Fields.ofWord w).op.toNat = false := hop
    rw [decode_one w next (Laws.hasExt_of_undefined _ hop)]
    simp only [decodeFields, hop, Bool.not_false, if_true]
    rfl
  · obtain ⟨m, rm, lu, -, h⟩ := issue_ready (ready_illegalOpcode (op := op) hx hf)
    exact h _

end Sys2Proof.Machine
end

section
/-! SUPPORT. What the register operations of accesses do: the queue after a push, registers marked empty for an access,
and results that arrive (R62, R73, R74). -/
namespace Sys2Proof.Machine

-- the queue

/-- R62: a 32-bit result's entry has no high word. -/
theorem hi32_entryOf (d : Dest) (act : List Nat) (val : Nat → W64) (l : Nat) : hi32 (entryOf d .w32 act val l) = 0 := by
  have hcut (x : W64) : hi32 (cutTo .w32 x) = 0 := by
    ext i
    simp [hi32, cutTo]
  cases d <;> exact hcut _

/-- Settles O11: a push is the queue's part of a result. -/
theorem queuePush : Obligations.QueuePush := by
  intro s cid sid cr sp d w lanes act val hc hs hn hna hlt
  obtain ⟨cr', sp', hres, hs', -, -, -, hzero, hage, -, -⟩ := resultCrew_spec hs d w hn hna hlt val
  have hfound : (writeQ s cid sid d w lanes (act.map (fun l => (l, val l)))).crews.find cid = some cr' := by
    simp only [writeQ_eq, updCrew, SMap.find_change_self, hc, Option.map_some, hres]
  have hentry (l : Nat) (hl : l ∈ lanes) (ha : l ∈ act) : sp'.qread 0 l = entryOf d w act val l := by
    rw [hzero l hl, if_pos ha]
  refine ⟨cr', sp', hfound, hs', hage, fun l hl ha => by rw [hzero l hl, if_neg ha], fun l hl ha => ?_,
    fun hw l hl ha => ?_⟩
  · rw [hentry l hl ha]
    cases d <;> rfl
  · rw [hentry l hl ha, hw, hi32_entryOf]

-- one cell of a crew

/-- A crew with a cell of a register stored. -/
def Crew.setCell (cr : Crew) (r l : Nat) (c : RegCell) : Crew := { cr with regs := cr.regs.put (regKey r l) c }

theorem Crew.cell_setCell (cr : Crew) {r l k j : Nat} (c : RegCell) (hl : l < 1024) (hj : j < 1024) :
    (cr.setCell r l c).cell k j = if k = r ∧ j = l then some c else cr.cell k j := by
  simp only [Crew.cell, Crew.setCell, SMap.find_put, regKey_inj hj hl]

theorem Crew.named_eq (cr : Crew) (r l : Nat) : cr.named r l = ((cr.cell r l).map (·.val)).getD 0 := by
  unfold Crew.named
  cases cr.cell r l <;> rfl

-- registers marked empty

/-- R73: the cell of a lane that is marked empty for an access. -/
def Crew.emptied (cr : Crew) (acc r l : Nat) : RegCell := { val := cr.named r l, full := false, pend := some acc }

theorem Crew.emptyReg_cons (cr : Crew) (r acc l : Nat) (ls : List Nat) :
    cr.emptyReg r acc (l :: ls) = (cr.setCell r l (cr.emptied acc r l)).emptyReg r acc ls := rfl

/-- Marking a lane empty leaves every value. -/
theorem Crew.emptied_setCell (cr : Crew) {acc r l k j : Nat} (hl : l < 1024) (hj : j < 1024) :
    (cr.setCell r l (cr.emptied acc r l)).emptied acc k j = cr.emptied acc k j := by
  simp only [Crew.emptied, Crew.named_eq, Crew.cell_setCell cr _ hl hj]
  by_cases h : k = r ∧ j = l
  · obtain ⟨rfl, rfl⟩ := h
    simp
  · simp [h]

theorem Crew.emptyReg_eq (cr : Crew) (r acc : Nat) (ls : List Nat) :
    cr.emptyReg r acc ls = { cr with regs := (cr.emptyReg r acc ls).regs } := by
  induction ls generalizing cr with
  | nil => rfl
  | cons l ls ih => exact ih (cr.setCell r l (cr.emptied acc r l))

theorem Crew.cell_emptyReg (cr : Crew) {r acc k l : Nat} {ls : List Nat} (hls : ∀ j ∈ ls, j < 1024) (hl : l < 1024) :
    (cr.emptyReg r acc ls).cell k l = if k = r ∧ l ∈ ls then some (cr.emptied acc k l) else cr.cell k l := by
  induction ls generalizing cr with
  | nil => simp [Crew.emptyReg]
  | cons j js ih =>
    rw [List.forall_mem_cons] at hls
    rw [Crew.emptyReg_cons, ih _ hls.2, Crew.emptied_setCell cr hls.1 hl, Crew.cell_setCell cr _ hls.1 hl]
    by_cases hk : k = r ∧ l = j
    · obtain ⟨rfl, rfl⟩ := hk
      simp
    · have hmem : k = r ∧ l ∈ j :: js ↔ k = r ∧ l ∈ js := by
        rw [List.mem_cons]
        tauto
      simp only [hk, hmem, if_false]

theorem Crew.emptyRegs_eq (cr : Crew) (acc : Nat) (ls rs : List Nat) :
    cr.emptyRegs acc ls rs = { cr with regs := (cr.emptyRegs acc ls rs).regs } := by
  induction rs generalizing cr with
  | nil => rfl
  | cons r rs ih => rw [Crew.emptyRegs, ih, Crew.emptyReg_eq]

theorem Crew.cell_emptyRegs (cr : Crew) {acc r l : Nat} {ls rs : List Nat} (hls : ∀ j ∈ ls, j < 1024) (hl : l < 1024) :
    (cr.emptyRegs acc ls rs).cell r l = if r ∈ rs ∧ l ∈ ls then some (cr.emptied acc r l) else cr.cell r l := by
  induction rs generalizing cr with
  | nil => simp [Crew.emptyRegs]
  | cons k ks ih =>
    have hval : (cr.emptyReg k acc ls).emptied acc r l = cr.emptied acc r l := by
      simp only [Crew.emptied, Crew.named_eq, Crew.cell_emptyReg cr hls hl]
      split <;> rfl
    rw [Crew.emptyRegs, ih, hval, Crew.cell_emptyReg cr hls hl]
    by_cases hk : r = k <;> by_cases hm : l ∈ ls <;> simp [hk, hm]

/-- Settles O25: one register after another, lane by lane. -/
theorem emptiedRegisters : Obligations.EmptiedRegisters :=
  fun cr acc ls rs hls => ⟨Crew.emptyRegs_eq cr acc ls rs, fun _ _ hl => Crew.cell_emptyRegs cr hls hl⟩

-- results that arrive

/-- A result for a lane: its bits, and the physical address that failed. -/
abbrev LaneResult := Nat × BitVec 128 × Option Nat

/-- R73: the cell that a result fills, of the `k`-th register of its destination. -/
def filled (k : Nat) (v : LaneResult) : RegCell :=
  { val := v.2.1.extractLsb' (32 * k) 32, full := true, failed := v.2.2 }

/-- R73: one lane of one register of an access's destination takes its result, where it still waits for it. -/
def Crew.fillLane (acc r0 k : Nat) (cr : Crew) (v : LaneResult) : Crew :=
  match cr.cell (r0 + k) v.1 with
  | some c => if c.pend = some acc then cr.setCell (r0 + k) v.1 (filled k v) else cr
  | none => cr

theorem Crew.fillDest_succ (cr : Crew) (acc r0 n : Nat) (vals : List LaneResult) :
    cr.fillDest acc r0 (n + 1) vals = vals.foldl (Crew.fillLane acc r0 n) (cr.fillDest acc r0 n vals) := by
  unfold Crew.fillDest
  rw [List.range_succ, List.foldl_append]
  rfl

/-- What a lane of the `k`-th register of a destination is after results: the first result for the lane, where it waits. -/
def afterResults (acc k : Nat) (vals : List LaneResult) (l : Nat) (old : Option RegCell) : Option RegCell :=
  if old.bind (·.pend) = some acc then
    match vals.find? (fun v => v.1 == l) with
    | some v => some (filled k v)
    | none => old
  else old

theorem Crew.fillLane_cases (acc r0 k : Nat) (cr : Crew) (v : LaneResult) :
    ((cr.cell (r0 + k) v.1).bind (·.pend) = some acc ∧ cr.fillLane acc r0 k v = cr.setCell (r0 + k) v.1 (filled k v))
    ∨ ((cr.cell (r0 + k) v.1).bind (·.pend) ≠ some acc ∧ cr.fillLane acc r0 k v = cr) := by
  unfold Crew.fillLane
  cases cr.cell (r0 + k) v.1 with
  | none => simp
  | some c => by_cases h : c.pend = some acc <;> simp [h]

theorem Crew.cell_fillLane_other {acc r0 k r l : Nat} {v : LaneResult} (cr : Crew) (hv : v.1 < 1024) (hl : l < 1024)
    (h : ¬ (r = r0 + k ∧ l = v.1)) : (cr.fillLane acc r0 k v).cell r l = cr.cell r l := by
  obtain ⟨-, hf⟩ | ⟨-, hf⟩ := Crew.fillLane_cases acc r0 k cr v
  · rw [hf, Crew.cell_setCell cr _ hv hl, if_neg h]
  · rw [hf]

theorem Crew.foldl_fillLane_eq (acc r0 k : Nat) (vals : List LaneResult) (cr : Crew) :
    vals.foldl (Crew.fillLane acc r0 k) cr = { cr with regs := (vals.foldl (Crew.fillLane acc r0 k) cr).regs } := by
  induction vals generalizing cr with
  | nil => rfl
  | cons v vs ih =>
    rw [List.foldl_cons]
    obtain ⟨-, h⟩ | ⟨-, h⟩ := Crew.fillLane_cases acc r0 k cr v <;> rw [h]
    · exact ih (cr.setCell (r0 + k) v.1 (filled k v))
    · exact ih cr

theorem Crew.fillDest_eq (cr : Crew) (acc r0 n : Nat) (vals : List LaneResult) :
    cr.fillDest acc r0 n vals = { cr with regs := (cr.fillDest acc r0 n vals).regs } := by
  induction n with
  | zero => rfl
  | succ n ih => rw [Crew.fillDest_succ, Crew.foldl_fillLane_eq, ih]

/-- A filled lane waits for nothing. -/
theorem afterResults_filled (acc k : Nat) (vals : List LaneResult) (l : Nat) (v : LaneResult) :
    afterResults acc k vals l (some (filled k v)) = some (filled k v) := if_neg nofun

theorem Crew.cell_foldl_fillLane {acc r0 k : Nat} {vals : List LaneResult} (hlt : ∀ v ∈ vals, v.1 < 1024) (cr : Crew)
    {r l : Nat} (hl : l < 1024) :
    (vals.foldl (Crew.fillLane acc r0 k) cr).cell r l
      = if r = r0 + k then afterResults acc k vals l (cr.cell r l) else cr.cell r l := by
  induction vals generalizing cr with
  | nil => simp [afterResults]
  | cons v vs ih =>
    rw [List.forall_mem_cons] at hlt
    rw [List.foldl_cons, ih hlt.2]
    by_cases hr : r = r0 + k ∧ l = v.1
    · obtain ⟨rfl, rfl⟩ := hr
      simp only [if_true]
      obtain ⟨hp, h⟩ | ⟨hp, h⟩ := Crew.fillLane_cases acc r0 k cr v
      · rw [h, Crew.cell_setCell cr _ hlt.1 hl, if_pos ⟨rfl, rfl⟩, afterResults_filled]
        simp [afterResults, hp]
      · simp [h, afterResults, hp]
    · rw [Crew.cell_fillLane_other cr hlt.1 hl hr]
      by_cases hk : r = r0 + k
      · have hv : (v.1 == l) = false := by simpa using fun h => hr ⟨hk, h.symm⟩
        simp only [hk, if_true, afterResults, List.find?_cons, hv]
      · simp only [hk, if_false]

/-- R73: what each lane of each register is after results arrive. -/
theorem Crew.cell_fillDest {acc r0 n : Nat} {vals : List LaneResult} (hlt : ∀ v ∈ vals, v.1 < 1024) (cr : Crew)
    {r l : Nat} (hl : l < 1024) :
    (cr.fillDest acc r0 n vals).cell r l
      = if r0 ≤ r ∧ r < r0 + n then afterResults acc (r - r0) vals l (cr.cell r l) else cr.cell r l := by
  induction n with
  | zero => rw [if_neg (by omega)]; rfl
  | succ n ih =>
    rw [Crew.fillDest_succ, Crew.cell_foldl_fillLane hlt _ hl, ih]
    by_cases hr : r = r0 + n
    · subst hr
      simp
    · have hiff : r0 ≤ r ∧ r < r0 + (n + 1) ↔ r0 ≤ r ∧ r < r0 + n := by omega
      simp only [hr, hiff, if_false]

/-- A lane has at most one result. -/
theorem find?_lane {vals : List LaneResult} (hn : (vals.map (·.1)).Nodup) {v : LaneResult} (hv : v ∈ vals) :
    vals.find? (fun x => x.1 == v.1) = some v := by
  induction vals with
  | nil => cases hv
  | cons x xs ih =>
    rw [List.map_cons, List.nodup_cons] at hn
    obtain rfl | hv := List.mem_cons.mp hv
    · simp
    · have hne : x.1 ≠ v.1 := fun h => hn.1 (h ▸ List.mem_map_of_mem hv)
      rw [List.find?_cons_of_neg (by simpa using hne), ih hn.2 hv]

/-- R73: results fill the lanes that wait for them. -/
theorem Crew.cell_fillDest_waiting {cr : Crew} {acc r0 n k : Nat} {vals : List LaneResult} (hn : (vals.map (·.1)).Nodup)
    (hlt : ∀ v ∈ vals, v.1 < 1024) (hk : k < n) {v : LaneResult} (hv : v ∈ vals)
    (hp : (cr.cell (r0 + k) v.1).bind (·.pend) = some acc) :
    (cr.fillDest acc r0 n vals).cell (r0 + k) v.1 = some (filled k v) := by
  rw [Crew.cell_fillDest hlt cr (hlt v hv), if_pos (by omega), afterResults, if_pos hp, find?_lane hn hv,
    Nat.add_sub_cancel_left]

/-- R73, R76: and leave every other lane. -/
theorem Crew.cell_fillDest_other {cr : Crew} {acc r0 n r l : Nat} {vals : List LaneResult}
    (hlt : ∀ v ∈ vals, v.1 < 1024) (hl : l < 1024)
    (h : (cr.cell r l).bind (·.pend) ≠ some acc ∨ r < r0 ∨ r0 + n ≤ r ∨ l ∉ vals.map (·.1)) :
    (cr.fillDest acc r0 n vals).cell r l = cr.cell r l := by
  rw [Crew.cell_fillDest hlt cr hl]
  split
  · next hr =>
    obtain hp | hr | hr | hm := h
    · exact if_neg hp
    · omega
    · omega
    · have hnone : vals.find? (fun v => v.1 == l) = none :=
        List.find?_eq_none.mpr (fun v hv he => hm (List.mem_map.mpr ⟨v, hv, by simpa using he⟩))
      rw [afterResults, hnone]
      exact ite_self _
  · rfl

end Sys2Proof.Machine
end

section
/-! SUPPORT. A register that goes to its sump slot and comes back (R70, R72): each format of R70 keeps every live value,
the live lanes and the failed marks go with it. -/
namespace Sys2Proof.Machine

-- bytes of words

@[simp] theorem leBytes_length (n x : Nat) : (leBytes n x).length = n := by
  induction n generalizing x with
  | zero => rfl
  | succ n ih => rw [leBytes, List.length_cons, ih]

/-- A number's bytes give it back, modulo their range. -/
theorem leNat_leBytes (n x : Nat) : leNat (leBytes n x) = x % 256 ^ n := by
  induction n generalizing x with
  | zero => rw [pow_zero, Nat.mod_one]; rfl
  | succ n ih =>
    rw [leBytes, leNat, ih, pow_succ', Nat.mod_mul, BitVec.toNat_ofNat]

/-- The bytes of one of several items of equal size. -/
theorem take_drop_flatMap {α β : Type} {n : Nat} {f : α → List β} (hf : ∀ x, (f x).length = n) {xs : List α} {k : Nat} {x : α}
    (h : xs[k]? = some x) : ((xs.flatMap f).drop (n * k)).take n = f x := by
  induction xs generalizing k with
  | nil => cases h
  | cons y ys ih =>
    cases k with
    | zero =>
      obtain rfl : y = x := by simpa using h
      rw [List.flatMap_cons, Nat.mul_zero, List.drop_zero, ← hf y, List.take_left]
    | succ k =>
      rw [List.flatMap_cons, Nat.mul_succ, Nat.add_comm, ← List.drop_drop, ← hf y, List.drop_left, hf y]
      exact ih (by simpa using h)

-- the formats of a spilled register

/-- The value that a packed register is given for a lane. -/
def laneValue (vs : List (Nat × W32)) (l : Nat) : W32 :=
  match vs.find? (fun p => p.1 == l) with
  | some p => p.2
  | none => 0

/-- R70: an affine register's values are its base and stride's. -/
theorem affineFit_spec {vs : List (Nat × W32)} {b st : W32} (h : affineFit vs = some (b, st)) {p : Nat × W32} (hp : p ∈ vs) :
    p.2 = b + BitVec.ofNat 32 p.1 * st := by
  unfold affineFit at h
  split at h
  · cases hp
  · cases h
    obtain rfl := List.mem_singleton.mp hp
    simp
  · next l0 v0 l1 v1 rest =>
    simp only at h
    split at h
    · cases h
    · obtain ⟨s, hs, he⟩ := Option.map_eq_some_iff.mp h
      cases he
      have hall := List.find?_some hs
      have := List.all_eq_true.mp hall p hp
      rw [beq_iff_eq.mp this]
      ring

/-- R70: the format that a register with a live lane takes, its bytes, and what the format asks of the values. -/
theorem packReg_cases (w0 : Nat) {vs : List (Nat × W32)} (h : vs ≠ []) :
    (∃ v, (∀ p ∈ vs, p.2 = v) ∧ packReg w0 vs = (.uniform, leBytes 4 v.toNat))
    ∨ (∃ b st, (∀ p ∈ vs, p.2 = b + BitVec.ofNat 32 p.1 * st)
        ∧ packReg w0 vs = (.affine, leBytes 4 b.toNat ++ leBytes 4 st.toNat))
    ∨ ((∀ p ∈ vs, (p.2.setWidth 8).signExtend 32 = p.2)
        ∧ packReg w0 vs = (.narrow8, (List.range (2 ^ w0)).map (fun l => (laneValue vs l).setWidth 8)))
    ∨ ((∀ p ∈ vs, (p.2.setWidth 16).signExtend 32 = p.2)
        ∧ packReg w0 vs = (.narrow16, (List.range (2 ^ w0)).flatMap (fun l => leBytes 2 (laneValue vs l).toNat)))
    ∨ packReg w0 vs = (.raw, (List.range (2 ^ w0)).flatMap (fun l => leBytes 4 (laneValue vs l).toNat)) := by
  obtain ⟨⟨l0, v0⟩, rest, rfl⟩ := List.exists_cons_of_ne_nil h
  generalize hvs : (l0, v0) :: rest = vs
  have hpack : packReg w0 vs =
      if vs.all (fun p => p.2 == v0) then (.uniform, leBytes 4 v0.toNat)
      else match affineFit vs with
        | some (b, st) => (.affine, leBytes 4 b.toNat ++ leBytes 4 st.toNat)
        | none =>
          if vs.all (fun p => (p.2.setWidth 8).signExtend 32 == p.2) then
            (.narrow8, (List.range (2 ^ w0)).map (fun l => (laneValue vs l).setWidth 8))
          else if vs.all (fun p => (p.2.setWidth 16).signExtend 32 == p.2) then
            (.narrow16, (List.range (2 ^ w0)).flatMap (fun l => leBytes 2 (laneValue vs l).toNat))
          else (.raw, (List.range (2 ^ w0)).flatMap (fun l => leBytes 4 (laneValue vs l).toNat)) := by
    subst hvs
    rfl
  rw [hpack]
  split
  · next huniform => exact .inl ⟨v0, by simpa using huniform, rfl⟩
  split
  · next b st hfit => exact .inr (.inl ⟨b, st, fun p => affineFit_spec hfit, rfl⟩)
  split
  · next h8 => exact .inr (.inr (.inl ⟨by simpa using h8, rfl⟩))
  split
  · next h16 => exact .inr (.inr (.inr (.inl ⟨by simpa using h16, rfl⟩)))
  · exact .inr (.inr (.inr (.inr rfl)))

theorem ofNat_word (v : W32) : BitVec.ofNat 32 (leNat (leBytes 4 v.toNat)) = v := by
  rw [leNat_leBytes, show 256 ^ 4 = 2 ^ 32 from rfl, Nat.mod_eq_of_lt v.isLt, BitVec.ofNat_toNat, BitVec.setWidth_eq]

theorem ofNat_half (v : W32) : BitVec.ofNat 16 (leNat (leBytes 2 v.toNat)) = v.setWidth 16 := by
  rw [leNat_leBytes]
  apply BitVec.eq_of_toNat_eq
  simp

/-- R70: whatever its format, a packed register gives each live lane's value back. -/
theorem unpackLane_packReg {w0 : Nat} {vs : List (Nat × W32)} {l : Nat} {v : W32} (hl : l < 2 ^ w0) (hmem : (l, v) ∈ vs)
    (hv : laneValue vs l = v) : unpackLane (packReg w0 vs).1 (packReg w0 vs).2 l = v := by
  have hlane : (List.range (2 ^ w0))[l]? = some l := by simp [hl]
  obtain ⟨u, hall, h⟩ | ⟨b, st, hall, h⟩ | ⟨hall, h⟩ | ⟨hall, h⟩ | h := packReg_cases w0 (List.ne_nil_of_mem hmem) <;>
    rw [h]
  · simp only [unpackLane, List.drop_zero, List.take_of_length_le (Nat.le_of_eq (leBytes_length 4 _)), ofNat_word]
    exact (hall (l, v) hmem).symm
  · have hlo : (leBytes 4 b.toNat ++ leBytes 4 st.toNat).take 4 = leBytes 4 b.toNat :=
      List.take_left' (leBytes_length 4 _)
    have hhi : (leBytes 4 b.toNat ++ leBytes 4 st.toNat).drop 4 = leBytes 4 st.toNat :=
      List.drop_left' (leBytes_length 4 _)
    simp only [unpackLane, List.drop_zero, hlo, hhi, List.take_of_length_le (Nat.le_of_eq (leBytes_length 4 _)),
      ofNat_word]
    exact (hall (l, v) hmem).symm
  · have hbyte : (((List.range (2 ^ w0)).map (fun l => (laneValue vs l).setWidth 8)).drop l).take 1
        = [(laneValue vs l).setWidth 8] := by
      have h := take_drop_flatMap (n := 1) (f := fun l => [(laneValue vs l).setWidth 8]) (fun _ => rfl) hlane
      rwa [Nat.one_mul, ← List.map_eq_flatMap] at h
    simp only [unpackLane, hbyte, leNat, Nat.mul_zero, Nat.add_zero, BitVec.ofNat_toNat, BitVec.setWidth_eq, hv]
    exact hall (l, v) hmem
  · have hhalf := take_drop_flatMap (f := fun l => leBytes 2 (laneValue vs l).toNat) (fun _ => leBytes_length 2 _) hlane
    simp only [unpackLane, hhalf, ofNat_half, hv]
    exact hall (l, v) hmem
  · have hword := take_drop_flatMap (f := fun l => leBytes 4 (laneValue vs l).toNat) (fun _ => leBytes_length 4 _) hlane
    simp only [unpackLane, hword, ofNat_word, hv]

-- the cells of a register

/-- A rising table lists each value that it holds. -/
theorem SMap.find_of_mem {α : Type} {m : SMap α} (hm : m.rising = true) {k : Nat} {v : α} (h : (k, v) ∈ m) :
    m.find k = some v := by
  induction m with
  | nil => cases h
  | cons p m ih =>
    obtain ⟨j, w⟩ := p
    obtain ⟨hlt, hm⟩ := SMap.rising_cons.mp hm
    obtain h | h := List.mem_cons.mp h
    · cases h
      exact if_pos rfl
    · have hne : k ≠ j := (hlt _ h).ne'
      simp only [SMap.find, hne, if_false, ih hm h]

theorem regKey_div {r l : Nat} (hl : l < 1024) : regKey r l / 1024 = r := by
  unfold regKey
  omega

theorem regKey_mod {r l : Nat} (hl : l < 1024) : regKey r l % 1024 = l := by
  unfold regKey
  omega

/-- The cells of a register as the table lists them. -/
theorem mem_regs_iff {cr : Crew} (hr : SMap.rising cr.regs = true) {r l : Nat} (hl : l < 1024) {c : RegCell} :
    (∃ p ∈ cr.regs, p.1 / 1024 = r ∧ p.1 % 1024 = l ∧ p.2 = c) ↔ cr.cell r l = some c := by
  constructor
  · rintro ⟨⟨k, c⟩, hp, hk, hl', rfl⟩
    have hkey : k = regKey r l := by simp only [regKey]; omega
    exact SMap.find_of_mem hr (hkey ▸ hp)
  · exact fun h => ⟨_, SMap.find_mem h, regKey_div hl, regKey_mod hl, rfl⟩

/-- R70: the live values that are packed. -/
theorem mem_liveVals {cr : Crew} (hr : SMap.rising cr.regs = true) {r l : Nat} (hl : l < 1024) {v : W32} :
    (l, v) ∈ cr.liveVals r ↔ ∃ c, cr.cell r l = some c ∧ c.val = v := by
  simp only [← mem_regs_iff hr hl, Crew.liveVals, List.mem_filterMap, Option.ite_none_right_eq_some, Option.some.injEq,
    Prod.mk.injEq]
  constructor
  · rintro ⟨p, hp, hk, hj, hv⟩
    exact ⟨p.2, ⟨p, hp, hk, hj, rfl⟩, hv⟩
  · rintro ⟨c, ⟨p, hp, hk, hj, rfl⟩, hv⟩
    exact ⟨p, hp, hk, hj, hv⟩

/-- R70: the failed marks that stay with a register's lanes. -/
def Crew.failedMarks (cr : Crew) (r : Nat) : SMap Nat :=
  cr.regs.filterMap (fun p => if p.1 / 1024 = r then p.2.failed.map (fun a => (p.1 % 1024, a)) else none)

theorem mem_failedMarks {cr : Crew} (hr : SMap.rising cr.regs = true) {r l : Nat} (hl : l < 1024) {a : Nat} :
    (l, a) ∈ cr.failedMarks r ↔ (cr.cell r l).bind (·.failed) = some a := by
  simp only [Option.bind_eq_some_iff, ← mem_regs_iff hr hl, Crew.failedMarks, List.mem_filterMap,
    Option.ite_none_right_eq_some, Option.map_eq_some_iff, Prod.mk.injEq]
  constructor
  · rintro ⟨p, hp, hk, b, hb, hj, rfl⟩
    exact ⟨p.2, ⟨p, hp, hk, hj, rfl⟩, hb⟩
  · rintro ⟨c, ⟨p, hp, hk, hj, rfl⟩, hb⟩
    exact ⟨p, hp, hk, a, hb, hj, rfl⟩

theorem failedMarks_lt {cr : Crew} {r : Nat} {p : Nat × Nat} (hp : p ∈ cr.failedMarks r) : p.1 < 1024 := by
  simp only [Crew.failedMarks, List.mem_filterMap, Option.ite_none_right_eq_some, Option.map_eq_some_iff] at hp
  obtain ⟨q, -, -, a, -, rfl⟩ := hp
  exact Nat.mod_lt _ (by decide)

/-- R335: lanes of a register marked failed. -/
theorem Crew.cell_failReg (F : Nat → Option Nat) {r l : Nat} {ps : List (Nat × Nat)} (hl : l < 1024)
    (hlt : ∀ p ∈ ps, p.1 < 1024) (hF : ∀ p ∈ ps, F p.1 = some p.2) (cr : Crew) :
    (cr.failReg r ps).cell r l
      = if l ∈ ps.map (·.1) then (cr.cell r l).map (fun c => { c with failed := F l }) else cr.cell r l := by
  induction ps generalizing cr with
  | nil => rfl
  | cons p ps ih =>
    obtain ⟨j, a⟩ := p
    rw [List.forall_mem_cons] at hlt hF
    rw [Crew.failReg, ih hlt.2 hF.2]
    by_cases hj : l = j
    · subst hj
      have ha : F l = some a := hF.1
      simp only [Crew.cell, SMap.find_change_self, List.map_cons, List.mem_cons, true_or, if_true, Option.map_map, ha]
      split <;> rfl
    · have hne : regKey r l ≠ regKey r j := fun h => hj ((regKey_inj hl hlt.1).mp h).2
      simp only [Crew.cell, SMap.find_change_ne _ _ hne, List.map_cons, List.mem_cons, hj, false_or]

theorem laneValue_of_mem {vs : List (Nat × W32)} {l : Nat} {v : W32} (hv : (l, v) ∈ vs)
    (hone : ∀ u, (l, u) ∈ vs → u = v) : laneValue vs l = v := by
  unfold laneValue
  split
  · next p hp =>
    have hl : p.1 = l := by simpa using List.find?_some hp
    exact hone p.2 (hl ▸ List.mem_of_find?_eq_some hp)
  · next hnone => exact absurd (List.find?_eq_none.mp hnone _ hv) (by simp)

/-- R70: a register in its sump slot has no cells. -/
theorem Crew.cell_spillReg (cr : Crew) {r l : Nat} (hl : l < 1024) : (cr.spillReg r).cell r l = none := by
  refine Option.eq_none_iff_forall_ne_some.mpr (fun c hc => ?_)
  have hmem := SMap.find_mem hc
  simp only [Crew.spillReg, List.mem_filter, regKey_div hl, bne_self_eq_false, Bool.false_eq_true, and_false] at hmem

/-- A register's live lanes are those whose values are packed. -/
theorem mem_liveLanes {cr : Crew} (hr : SMap.rising cr.regs = true) {r l : Nat} (hl : l < 1024) :
    l ∈ (cr.liveVals r).map (·.1) ↔ cr.cell r l ≠ none := by
  rw [Option.ne_none_iff_exists', List.mem_map]
  constructor
  · rintro ⟨p, hp, rfl⟩
    obtain ⟨c, hc, -⟩ := (mem_liveVals hr hl).mp hp
    exact ⟨c, hc⟩
  · exact fun ⟨c, hc⟩ => ⟨(l, c.val), (mem_liveVals hr hl).mpr ⟨c, hc, rfl⟩, rfl⟩

theorem mem_failedLanes {cr : Crew} (hr : SMap.rising cr.regs = true) {r l : Nat} (hl : l < 1024) :
    l ∈ (cr.failedMarks r).map (·.1) ↔ (cr.cell r l).bind (·.failed) ≠ none := by
  rw [Option.ne_none_iff_exists', List.mem_map]
  constructor
  · rintro ⟨p, hp, rfl⟩
    exact ⟨p.2, (mem_failedMarks hr hl).mp hp⟩
  · exact fun ⟨a, ha⟩ => ⟨(l, a), (mem_failedMarks hr hl).mpr ha, rfl⟩

/-- R70, R72: the lanes that a fill of an evicted register writes, each with the value that its format kept. -/
def Crew.keptVals (cr : Crew) (r : Nat) : List (Nat × W32) :=
  (maskLanes (maskOf ((cr.liveVals r).map (·.1))) (2 ^ cr.w0)).map
    (fun l => (l, unpackLane (packReg cr.w0 (cr.liveVals r)).1 (packReg cr.w0 (cr.liveVals r)).2 l))

theorem keptVals_lt {cr : Crew} {r : Nat} : ∀ p ∈ cr.keptVals r, p.1 < 1024 :=
  List.forall_mem_map.mpr (fun _ => maskLanes_lt)

theorem keptVals_nodup (cr : Crew) (r : Nat) : ((cr.keptVals r).map (·.1)).Nodup := by
  simpa [Crew.keptVals, Function.comp_def] using maskLanes_nodup _ _

/-- R70: a fill writes the value of every live lane, and no other lane. -/
theorem find?_keptVals {cr : Crew} {r : Nat} (hr : SMap.rising cr.regs = true)
    (hlive : ∀ l, cr.cell r l ≠ none → l < 2 ^ cr.w0) {l : Nat} (hl : l < 1024) :
    (cr.keptVals r).find? (fun p => p.1 == l) = (cr.cell r l).map (fun c => (l, c.val)) := by
  have hlane : l ∈ maskLanes (maskOf ((cr.liveVals r).map (·.1))) (2 ^ cr.w0) ↔ cr.cell r l ≠ none := by
    rw [mem_maskLanes, getLsbD_maskOf _ hl, decide_eq_true_eq, mem_liveLanes hr hl]
    exact and_iff_right_of_imp (hlive l)
  rw [Crew.keptVals, find_vals32]
  cases hc : cr.cell r l with
  | none => exact if_neg (fun h => hlane.mp h hc)
  | some c =>
    have hne : cr.cell r l ≠ none := by simp [hc]
    have hmem : (l, c.val) ∈ cr.liveVals r := (mem_liveVals hr hl).mpr ⟨c, hc, rfl⟩
    have hval : laneValue (cr.liveVals r) l = c.val := laneValue_of_mem hmem (fun u hu => by
      obtain ⟨d, hd, rfl⟩ := (mem_liveVals hr hl).mp hu
      cases hd.symm.trans hc
      rfl)
    rw [if_pos (hlane.mpr hne), unpackLane_packReg (hlive l hne) hmem hval]
    rfl

/-- R72: what a register that was evicted is filled with. -/
theorem Crew.fillReg_spillReg (cr : Crew) (r row : Nat) :
    ∃ cr' : Crew, cr'.regs = (cr.spillReg r).regs
      ∧ (cr.spillReg r).fillReg r row = (cr'.writeReg r (cr.keptVals r)).failReg r (cr.failedMarks r) := by
  refine ⟨{ cr.spillReg r with rmap := (cr.spillReg r).rmap.put r (.resident row (rowsOf cr.w0)) }, rfl, ?_⟩
  have hplace : (cr.spillReg r).rmap.find r = some (.spilled (packReg cr.w0 (cr.liveVals r)).1
      (maskOf ((cr.liveVals r).map (·.1))) (packReg cr.w0 (cr.liveVals r)).2 (cr.failedMarks r)) :=
    SMap.find_put_self ..
  simp only [Crew.fillReg, hplace]
  rfl

/-- R70, R72: an evicted and filled register has every live lane's value, and its failed mark. -/
theorem Crew.cell_fillReg_spillReg {cr : Crew} (r row : Nat) (hr : SMap.rising cr.regs = true)
    (hlive : ∀ l, cr.cell r l ≠ none → l < 2 ^ cr.w0) {l : Nat} (hl : l < 1024) :
    ((cr.spillReg r).fillReg r row).cell r l
      = (cr.cell r l).map (fun c => { val := c.val, full := true, failed := c.failed }) := by
  obtain ⟨cr', hregs, hfill⟩ := Crew.fillReg_spillReg cr r row
  have hempty : cr'.cell r l = none := by
    rw [Crew.cell, hregs]
    exact Crew.cell_spillReg cr hl
  rw [hfill, Crew.cell_failReg (fun l => (cr.cell r l).bind (·.failed)) hl (fun _ => failedMarks_lt)
    (fun p hp => (mem_failedMarks hr (failedMarks_lt hp)).mp hp),
    Crew.cell_writeReg _ _ _ keptVals_lt (keptVals_nodup cr r) hl, find?_keptVals hr hlive hl, hempty]
  simp only [mem_failedLanes hr hl]
  cases cr.cell r l with
  | none => rfl
  | some c =>
    obtain ⟨v, full, pend, failed⟩ := c
    cases failed <;> simp

/-- Settles O46: each format gives a register's values back; results fill lane after lane. -/
theorem registerContents : Obligations.RegisterContents := by
  refine ⟨fun cr r row hr _ hlive l hl => Crew.cell_fillReg_spillReg r row hr hlive hl,
    fun cr acc r0 n vals hn hlt => ⟨Crew.fillDest_eq cr acc r0 n vals, fun k v c hk hv hc hp => ?_, fun r l hl h => ?_⟩⟩
  · exact Crew.cell_fillDest_waiting hn hlt hk hv (by rw [hc]; exact hp)
  · exact Crew.cell_fillDest_other hlt hl h

end Sys2Proof.Machine
end

section
/-! SUPPORT. The operations of a whole crew (R128 to R130, R455, R530 to R533, R547, R566): their values do not depend on
where registers lie, and each completes as a result of class Q. -/
namespace Sys2Proof.Machine

section
variable (s : State) (i : Instr) (cid sid : Nat) (cr : Crew) (sp : Split) (off : Nat) (m : SMap Crew)
  (rm : SMap RegPlace) (lu : SMap Nat)

@[simp] theorem envOf_comb (ty : RedTy) (op : RedOp) (fm : FMod) :
    (envOf s i cid sid cr sp off m rm lu).comb ty op fm = (envAt s i cid sid cr sp off).comb ty op fm := rfl

@[simp] theorem envOf_maxIndex (ty : RedTy) (ftz : Bool) (ps : List (W64 × W32)) :
    (envOf s i cid sid cr sp off m rm lu).maxIndex ty ftz ps = (envAt s i cid sid cr sp off).maxIndex ty ftz ps := rfl

@[simp] theorem envOf_redValue (ty : RedTy) (a : Src) (l : Nat) :
    (envOf s i cid sid cr sp off m rm lu).redValue ty a l = (envAt s i cid sid cr sp off).redValue ty a l := by
  simp only [Env.redValue, envOf_int, envOf_flt]

@[simp] theorem envOf_position (ty : RedTy) (a : Src) :
    (envOf s i cid sid cr sp off m rm lu).position ty a = (envAt s i cid sid cr sp off).position ty a := by
  funext p
  simp only [Env.position, envOf_redValue]
  rfl

end

/-- An instruction whose effect is `bitResult`: its value is its bit. -/
theorem decides_of_bitResult {i : Instr} {d : Dest} {pw : Option (BitVec 3)} {bit : Env → Nat → Bool} {fl : Env → Flags}
    (h : ∀ s, exec i s = issue s i (fun e => e.bitResult d pw (e.lanes.map (fun l => (l, bit e l))) (fl e)))
    (hb : ∀ s cid sid cr sp off m rm lu l, bit (envOf s i cid sid cr sp off m rm lu) l = bit (envAt s i cid sid cr sp off) l)
    (hfl : ∀ s cid sid cr sp off m rm lu, fl (envOf s i cid sid cr sp off m rm lu) = fl (envAt s i cid sid cr sp off)) :
    Decides i d pw (fun e l => if bit e l then 1 else 0) bit fl := by
  refine decides_of (fun s => (h s).trans (congrArg (issue s i) (funext fun e => ?_)))
    (fun s cid sid cr sp off m rm lu l => by simp only [hb]) hb hfl
  cases pw <;> simp only [Env.bitResult, List.map_map, Function.comp_def]

/-- Setting no flag changes nothing of a crew that an instruction has changed. -/
theorem addFlags_updCrew_zero (s : State) (cid : Nat) (f : Crew → Crew) :
    addFlags (updCrew s cid f) cid 0 = updCrew s cid f := by
  have hor (c : Crew) : c.fpflags ||| 0 = c.fpflags := BitVec.or_zero
  simp only [addFlags, updCrew_updCrew, hor]

theorem addFlags_writeQ_zero (s : State) (cid sid : Nat) (d : Dest) (w : Width) (lanes : List Nat)
    (vals : List (Nat × W64)) :
    addFlags (writeQ s cid sid d w lanes vals) cid 0 = writeQ s cid sid d w lanes vals := by
  rw [writeQ_eq, addFlags_updCrew_zero]

theorem shfl_computes (g : Guard) (d : Dest) (ty : BTy) (mode : ShflMode) (a b : Src) :
    Computes (.shfl g d ty mode a b) d ty.operand (fun e l =>
      { bits := e.int ty.operand a (match shflSource mode e.crew.width l (e.int32 b l).toNat with
          | some j => if j ∈ e.lanes then j else l
          | none => l) }) := by
  refine computes_of (fun s => congrArg (issue s _) (funext fun e => congrArg (e.lanewise d _) (funext fun l => ?_)))
    (fun s cid sid cr sp off m rm lu l => ?_)
  · cases shflSource mode e.crew.width l (e.int32 b l).toNat <;> simp only [List.contains_iff_mem]
  · simp only [envOf_int, envOf_int32, envOf_width]
    rfl

/-- R566: a mode of VOTE whose one bit, `bit`, every active lane gets. -/
theorem vote_decides {g : Guard} {d : Dest} {mode : VoteMode} {pw : Option (BitVec 3)} {a : Src} (bit : Env → Bool)
    (h : ∀ s, exec (.vote g d mode pw a) s
      = issue s (.vote g d mode pw a) (fun e => e.bitResult d pw (e.lanes.map (fun l => (l, bit e))) 0))
    (hb : ∀ s cid sid cr sp off m rm lu, bit (envOf s (.vote g d mode pw a) cid sid cr sp off m rm lu)
      = bit (envAt s (.vote g d mode pw a) cid sid cr sp off)) :
    Decides (.vote g d mode pw a) d pw (fun e _ => if bit e then 1 else 0) (fun e _ => bit e) (fun _ => 0) :=
  decides_of_bitResult h (fun s cid sid cr sp off m rm lu _ => hb s cid sid cr sp off m rm lu)
    (fun _ _ _ _ _ _ _ _ _ => rfl)

theorem vote_ballot_computes (g : Guard) (d : Dest) (pw : Option (BitVec 3)) (a : Src) :
    Computes (.vote g d .ballot pw a) d .w32
      (fun e l => { bits := ballotWord (e.lanes.filter (fun k => e.int32 a k != 0)) (l / 32) }) :=
  computes_of (fun _ => rfl) (fun s cid sid cr sp off m rm lu l => by
    simp only [envOf_lanes, envAt_lanes, envOf_int32])

/-- R455: the lanes among which ELECT chooses, lowest first. -/
def Env.candidates (e : Env) (cnd : Option Src) : List Nat :=
  e.lanes.filter (fun l => match cnd with
    | some a => e.int32 a l != 0
    | none => true)

theorem envOf_candidates (s : State) (i : Instr) (cid sid : Nat) (cr : Crew) (sp : Split) (off : Nat) (m : SMap Crew)
    (rm : SMap RegPlace) (lu : SMap Nat) (cnd : Option Src) :
    (envOf s i cid sid cr sp off m rm lu).candidates cnd = (envAt s i cid sid cr sp off).candidates cnd := by
  simp only [Env.candidates, envOf_lanes, envAt_lanes, envOf_int32]

theorem elect_decides (g : Guard) (d : Dest) (pw : Option (BitVec 3)) (cnd : Option Src) :
    Decides (.elect g d pw cnd) d pw
      (fun e _ => match e.candidates cnd with | [] => 0xFFFFFFFF | l :: _ => BitVec.ofNat 64 l)
      (fun e l => (e.candidates cnd).head? == some l) (fun _ => 0) := by
  refine decides_of (fun s => congrArg (issue s _) (funext fun e => congrArg Eff.next ?_))
    (fun s cid sid cr sp off m rm lu l => by simp only [envOf_candidates])
    (fun s cid sid cr sp off m rm lu l => by simp only [envOf_candidates]) (fun _ _ _ _ _ _ _ _ _ => rfl)
  cases pw with
  | none =>
    refine Eq.trans ?_ (addFlags_writeQ_zero ..).symm
    cases cnd <;> rfl
  | some q =>
    refine Eq.trans ?_ (addFlags_updCrew_zero _ _ _).symm
    cases cnd <;> rfl

theorem red_computes (g : Guard) (d : Dest) (ty : RedTy) (op : RedOp) (fm : FMod) (a : Src) :
    Computes (.red g d ty op fm a) d ty.operand
      (fun e _ => (tree (e.comb ty op fm) (e.position ty a) e.crew.w0 0).getD { bits := 0 }) :=
  computes_of (fun _ => rfl) (fun s cid sid cr sp off m rm lu l => by
    simp only [envOf_comb, envOf_position, envOf_w0])

theorem scan_computes (g : Guard) (d : Dest) (ty : RedTy) (op : RedOp) (excl : Bool) (fm : FMod) (a : Src) :
    Computes (.scan g d ty op excl fm a) d ty.operand (fun e l =>
      (prefixOf (e.comb ty op fm) (e.position ty a) (if excl then l else l + 1)).getD { bits := redIdentity ty op }) :=
  computes_of (fun _ => rfl) (fun s cid sid cr sp off m rm lu l => by simp only [envOf_comb, envOf_position])

theorem rmaxi_computes (g : Guard) (d : Dest) (ty : RedTy) (ftz : Bool) (a idx : Src) :
    Computes (.rmaxi g d ty ftz a idx) d .w64
      (fun e _ => e.maxIndex ty ftz (e.lanes.map (fun l => (e.redValue ty a l, e.int32 idx l)))) :=
  computes_of (fun _ => rfl) (fun s cid sid cr sp off m rm lu l => by
    simp only [envOf_maxIndex, envOf_lanes, envAt_lanes, envOf_redValue, envOf_int32])

/-- Settles O21: each operation in turn; the one-bit modes of VOTE differ in their bit alone. -/
theorem crewOperations : Obligations.CrewOperations := by
  intro g d ty sm pw a b cnd rty op excl ftz m
  refine ⟨shfl_computes g d ty sm a b, ?any, ?all, ?uni, vote_ballot_computes g d pw a, elect_decides g d pw cnd,
    red_computes g d rty op m a, scan_computes g d rty op excl m a, rmaxi_computes g d rty ftz a b⟩
  all_goals refine vote_decides _ (fun _ => rfl) (fun s cid sid cr sp off mm rm lu => ?_)
  case any | all => simp only [envOf_lanes, envAt_lanes, envOf_int32]
  case uni => simp only [envOf_lanes, envAt_lanes, envOf_int32, envOf_lead]

end Sys2Proof.Machine
end

section
/-! SUPPORT. Bytes of memory: what written bytes read as, and that a canonical memory is determined by what its addresses
read as (R131, R170, log entry 5). -/
namespace Sys2Proof.Machine

variable {α : Type}

theorem SMap.find_none_of_lt {m : SMap α} {k : Nat} (h : ∀ p ∈ m, k < p.1) : m.find k = none := by
  cases hf : m.find k with
  | none => rfl
  | some v => exact absurd (h _ (SMap.find_mem hf)) (Nat.lt_irrefl k)

theorem SMap.find_cons_self (j : Nat) (w : α) (m : SMap α) : SMap.find ((j, w) :: m) j = some w := by simp [SMap.find]

theorem SMap.find_cons_ne {j k : Nat} (w : α) (m : SMap α) (h : k ≠ j) : SMap.find ((j, w) :: m) k = m.find k := by
  simp [SMap.find, h]

/-- The least key of a rising table is at most every key that it finds. -/
theorem SMap.head_le {j k : Nat} {w v : α} {m : SMap α} (h : SMap.rising ((j, w) :: m) = true)
    (hf : SMap.find ((j, w) :: m) k = some v) : j ≤ k := by
  obtain ⟨hlt, -⟩ := SMap.rising_cons.mp h
  rcases List.mem_cons.mp (SMap.find_mem hf) with he | hm
  · rw [Prod.mk.injEq] at he
    exact he.1 ▸ Nat.le_refl j
  · exact Nat.le_of_lt (hlt _ hm)

/-- Rising tables that find the same at every key are equal. -/
theorem SMap.eq_of_find {m n : SMap α} (hm : m.rising = true) (hn : n.rising = true) (h : ∀ k, m.find k = n.find k) :
    m = n := by
  induction m generalizing n with
  | nil =>
    cases n with
    | nil => rfl
    | cons q n => simpa [SMap.find] using h q.1
  | cons p m ih =>
    obtain ⟨j, w⟩ := p
    cases n with
    | nil => simpa [SMap.find] using h j
    | cons q n =>
      obtain ⟨i, v⟩ := q
      have hji : j = i := Nat.le_antisymm
        (SMap.head_le hm ((h i).trans (SMap.find_cons_self i v n)))
        (SMap.head_le hn ((h j).symm.trans (SMap.find_cons_self j w m)))
      subst hji
      obtain ⟨hmj, hm'⟩ := SMap.rising_cons.mp hm
      obtain ⟨hnj, hn'⟩ := SMap.rising_cons.mp hn
      have hwv : w = v := by simpa [SMap.find] using h j
      have htail : m = n := ih hm' hn' (fun k => by
        by_cases hk : k = j
        · rw [hk, SMap.find_none_of_lt hmj, SMap.find_none_of_lt hnj]
        · rw [← SMap.find_cons_ne w m hk, h k, SMap.find_cons_ne v n hk])
      rw [hwv, htail]

/-- A canonical memory lists exactly the bytes that do not read as an unlisted one. -/
theorem Memory.find_of_get {m : Mem} (h : Memory.wf m = true) (k : Nat) :
    SMap.find m k = if Memory.get m k = emptyByte then none else some (Memory.get m k) := by
  cases hf : SMap.find m k with
  | none => simp [Memory.get, SMap.getD, hf]
  | some b =>
    have hb : b ≠ emptyByte := ((Memory.wf_iff m).mp h).2 _ (SMap.find_mem hf)
    simp [Memory.get, SMap.getD, hf, hb]

theorem Memory.eq_of_get {m n : Mem} (hm : Memory.wf m = true) (hn : Memory.wf n = true)
    (h : ∀ k, Memory.get m k = Memory.get n k) : m = n :=
  SMap.eq_of_find ((Memory.wf_iff m).mp hm).1 ((Memory.wf_iff n).mp hn).1
    (fun k => by rw [Memory.find_of_get hm, Memory.find_of_get hn, h k])

theorem Memory.get_setN_inside (m : Mem) (a : Nat) (bs : List Byte) {i : Nat} (h : i < bs.length) :
    Memory.get (Memory.setN m a bs) (a + i) = bs[i] := by
  induction bs generalizing m a i with
  | nil => cases h
  | cons b bs ih =>
    cases i with
    | zero =>
      show Memory.get (Memory.setN (Memory.set m a b) (a + 1) bs) a = b
      rw [Memory.get_setN_outside _ _ _ (.inl (Nat.lt_succ_self a)), Memory.get_set_self]
    | succ i =>
      rw [Memory.setN, show a + (i + 1) = a + 1 + i by omega, ih _ _ (Nat.lt_of_succ_lt_succ h), List.getElem_cons_succ]

theorem Memory.getN_setN (m : Mem) (a : Nat) (bs : List Byte) : Memory.getN (Memory.setN m a bs) a bs.length = bs := by
  refine List.ext_getElem (by simp [Memory.getN]) (fun i _ h => ?_)
  simp only [Memory.getN, List.getElem_map, List.getElem_range]
  exact Memory.get_setN_inside m a bs h

/-- Settles O43: the canonical form is kept, written bytes read back, the others stay, and equal reads are equal data. -/
theorem memoryBytes : Obligations.MemoryBytes :=
  ⟨fun m a bs h => ⟨Memory.wf_setN h a bs, Memory.getN_setN m a bs, fun _ hk => Memory.get_setN_outside m a bs hk⟩,
    fun _ _ => Memory.eq_of_get⟩

end Sys2Proof.Machine
end

section
/-! SUPPORT. A fetch of a code line (R147, R186, R187). -/
namespace Sys2Proof.Machine

theorem fetchLine_cached {s : State} {cr : Crew} {vline : Nat} {x : ILine}
    (h : icFind s (unitOf s cr) cr.ctx vline = some x) : fetchLine s cr vline = (.word 0, s) := by
  simp only [fetchLine, h]

/-- The line that memory holds enters the instruction cache once a cache above the DRAM or its stack has answered it. -/
theorem fetchLine_filled {s s1 : State} {cr : Crew} {vline pa : Nat}
    (hc : icFind s (unitOf s cr) cr.ctx vline = none)
    (ht : translate s (some (unitOf s cr)) (Config.dieOfUnit (unitOf s cr)) cr.ctx (vline * 128) { x := true } true
      = (.ok pa, s1))
    (ho : isClosed s1 pa = false) (hf : needsFill s1 (lineOf pa) = false) (hl : lostGranule s1 pa = false)
    (hh : lostGranule s1 (pa + 64) = false) :
    fetchLine s cr vline = (.word 0, icFill (countCore (touchWindows s1 pa) cr (vline * 128) 2) (unitOf s cr)
      { ctx := cr.ctx, vline := vline, bytes := readHome s1 pa 128 }) := by
  simp only [fetchLine, hc, ht, ho, hf, hl, hh, Bool.or_self, Bool.false_eq_true, if_false]

/-- The line that enters an instruction cache is found there. -/
theorem icFind_icFill (s : State) (u : Nat) (x : ILine) : icFind (icFill s u x) u x.ctx x.vline = some x := by
  simp [icFind, icFill, updCore, coreUnit]

section
variable (s : State)

theorem foldl_cohorts {β : Type} {f : State → β → State} (hf : ∀ s x, (f s x).cohorts = s.cohorts) (xs : List β) :
    (xs.foldl f s).cohorts = s.cohorts := by
  induction xs generalizing s with
  | nil => rfl
  | cons x xs ih => rw [List.foldl_cons, ih, hf]

theorem sendGranule_cohorts {t : State} {pa : Nat} {write : Bool} {acc : Option (Nat × Nat)}
    (h : sendGranule s pa write acc = some t) : t.cohorts = s.cohorts := by
  dsimp only [sendGranule] at h
  split at h
  · cases h
  · obtain ⟨k, -, rfl⟩ := Option.map_eq_some_iff.mp h
    rfl

theorem sendWrite_cohorts (g : Nat) : (sendWrite s g).cohorts = s.cohorts := by
  dsimp only [sendWrite]
  split
  · cases h : sendGranule s (g * 64) true none with
    | none => rfl
    | some t => exact sendGranule_cohorts s h
  · rfl

@[simp] theorem landBytes_cohorts (line : Nat) (ws : List (Nat × Byte)) :
    (landBytes s line ws).cohorts = s.cohorts := by
  simp only [landBytes, clearFailed, sendWrites]
  exact foldl_cohorts _ (fun s _ => sendWrite_cohorts s _) _

@[simp] theorem raiseNotice_cohorts (v : Option Notice) : (raiseNotice s v).cohorts = s.cohorts := by
  unfold raiseNotice raiseIrq
  split <;> rfl

@[simp] theorem landDue_cohorts (line dh : Nat) (ps : List Pend) : (landDue s line dh ps).1.cohorts = s.cohorts := by
  induction ps generalizing s with
  | nil => rfl
  | cons p ps ih =>
    unfold landDue
    split
    · rw [ih, raiseNotice_cohorts, landBytes_cohorts]
    · rfl

@[simp] theorem settle_cohorts (line : Nat) : (settle s line).cohorts = s.cohorts := by
  unfold settle
  dsimp only
  split
  · rfl
  · exact landDue_cohorts s line _ _

@[simp] theorem arriveStoreFrom_cohorts (line src : Nat) (ws : List (Nat × Byte)) (from_ : Nat) (v : Option Notice) :
    (arriveStoreFrom s line src ws from_ v).1.cohorts = s.cohorts := by
  simp [arriveStoreFrom]

@[simp] theorem orderedPerform_cohorts (acc : Nat) (a : Access) (q : LaneReq) (op : AtomOp) (ty : AtomTy) (pa : Nat) :
    (orderedPerform s acc a q op ty pa).cohorts = s.cohorts := by
  simp only [orderedPerform, ackTw]
  split <;> simp [returnSump, arriveStore]

@[simp] theorem stalePerform_cohorts (acc : Nat) (a : Access) (q : LaneReq) (pa : Nat) :
    (stalePerform s acc a q pa).cohorts = s.cohorts := by
  simp only [stalePerform]
  split <;> rfl

@[simp] theorem releaseHeld_cohorts (n line : Nat) : (releaseHeld n s line).cohorts = s.cohorts := by
  induction n generalizing s with
  | zero => rfl
  | succ n ih =>
    unfold releaseHeld
    split
    · rw [ih, orderedPerform_cohorts]
    · split
      · rw [ih, stalePerform_cohorts]
      · rfl

@[simp] theorem storeLine_cohorts (line src : Nat) (ws : List (Nat × Byte)) :
    (storeLine s line src ws).1.cohorts = s.cohorts := by
  simp [storeLine, examineHeld, arriveStore, touchWindows]

@[simp] theorem arriveAll_cohorts (src : Nat) (ls : SMap (List (Nat × Byte))) :
    (arriveAll s src ls).1.cohorts = s.cohorts := by
  induction ls generalizing s with
  | nil => rfl
  | cons p ls ih =>
    simp only [arriveAll, ih, storeOrStall]
    split
    · rfl
    · exact storeLine_cohorts ..

@[simp] theorem ringPost_cohorts (r : RingRef) (x : BitVec 256) : (ringPost s r x).cohorts = s.cohorts := by
  simp [ringPost, devWriteAfter, devWrite, examineHeld, touchWindows]

@[simp] theorem ringDrop_cohorts (r : RingRef) : (ringDrop s r).cohorts = s.cohorts := by simp [ringDrop, devWrite]

@[simp] theorem ctxPost_cohorts (ctx : Nat) (evt : Bool) (x : BitVec 256) : (ctxPost s ctx evt x).cohorts = s.cohorts := by
  unfold ctxPost postOrDrop
  repeat' split
  all_goals simp

@[simp] theorem hotNotify_cohorts (die i : Nat) (x : HotEntry) : (hotNotify s die i x).cohorts = s.cohorts := by
  unfold hotNotify
  split
  · rfl
  · dsimp only [updDie]
    split <;> simp

@[simp] theorem hotInsert_cohorts (die ctx page : Nat) : (hotInsert s die ctx page).cohorts = s.cohorts := by
  simp only [hotInsert, updDie]
  repeat' split
  all_goals simp

@[simp] theorem hotTable_cohorts (die ctx page thresh : Nat) : (hotTable s die ctx page thresh).cohorts = s.cohorts := by
  simp only [hotTable]
  repeat' split
  all_goals simp

/-- R322: counting a core's request, and sampling it, leaves every cohort. -/
theorem countCore_cohorts (cr : Crew) (va acc : Nat) : (countCore s cr va acc).cohorts = s.cohorts := by
  simp only [countCore, sampleAt, takeSample]
  repeat' split
  all_goals simp

end

/-- Where a crew's unit stands depends on its cohort alone, which the fetch of a line leaves. -/
theorem unitOf_filled (s : State) (cr : Crew) (pa va u : Nat) (x : ILine) :
    unitOf (icFill (countCore (touchWindows s pa) cr va 2) u x) cr = unitOf s cr :=
  unitOf_of_cohorts (countCore_cohorts (touchWindows s pa) cr va 2) cr

/-- Settles O5: a line held answers at once; one that is not held is filled, and then answers. -/
theorem fetchReadsCode : Obligations.FetchReadsCode := by
  intro s s1 cr va pa x
  refine ⟨fun hc => ?_, fun hc ht ho hf hl hh hu => ?_⟩
  · simp only [fetchWord, fetchLine_cached hc, hc]
  · have hfound := icFind_icFill (countCore (touchWindows s1 pa) cr (va / 128 * 128) 2) (unitOf s cr)
      { ctx := cr.ctx, vline := va / 128, bytes := readHome s1 pa 128 }
    simp only [fetchWord, fetchLine_filled hc ht ho hf hl hh, unitOf_filled, hu, hfound]

end Sys2Proof.Machine
end
section
/-! SUPPORT. The checks of an access, by what they find, and the traps that they take (R134, R135). -/
namespace Sys2Proof.Machine

/-- R135: the bytes of an access at an offset lie within the record's span. -/
def inSpan (r : BitVec 128) (size : Nat) (o : Int) : Prop := 0 ≤ o ∧ o + size ≤ recSpan r

/-- R135: the search for a lane out of range passes exactly the offsets within the span. -/
theorem outOfSpan_eq_false {r : BitVec 128} {size : Nat} {o : Int} :
    (decide (o < 0) || decide ((recSpan r : Int) < o + size)) = false ↔ inSpan r size o := by
  simp only [Bool.or_eq_false_iff, decide_eq_false_iff_not, inSpan, Int.not_lt]

section
variable {r : BitVec 128} {b size al : Nat} {n : Need} {os pre post : List Int} {o : Int}

theorem checkLanes_denied (hne : os ≠ []) (h : recMalformed r = true ∨ recGrants r n = false) :
    checkLanes r b n size al os = some { code := 0x09, addr := BitVec.ofNat 64 b } := by
  have hd : (recMalformed r || !recGrants r n) = true := by
    rcases h with h | h <;> simp [h]
  simp only [checkLanes, List.isEmpty_iff, hne, if_false, hd, if_true]

theorem checkLanes_bounds (hm : recMalformed r = false) (hg : recGrants r n = true) (hos : os = pre ++ o :: post)
    (hpre : ∀ x ∈ pre, inSpan r size x) (ho : ¬ inSpan r size o) :
    checkLanes r b n size al os = some { code := 0x06, addr := BitVec.ofInt 64 o } := by
  have hf : os.find? (fun x => decide (x < 0) || decide ((recSpan r : Int) < x + size)) = some o := by
    refine List.find?_eq_some_iff_append.mpr ⟨?_, pre, post, hos, fun x hx => ?_⟩
    · rw [← Bool.not_eq_false, outOfSpan_eq_false]
      exact ho
    · rw [outOfSpan_eq_false.mpr (hpre x hx), Bool.not_false]
  have hne : os ≠ [] := by simp [hos]
  simp only [checkLanes, List.isEmpty_iff, hne, if_false, hm, hg, Bool.not_true, Bool.or_self, Bool.false_eq_true, hf]

theorem find?_outOfSpan (hin : ∀ x ∈ os, inSpan r size x) :
    os.find? (fun x => decide (x < 0) || decide ((recSpan r : Int) < x + size)) = none :=
  List.find?_eq_none.mpr (fun x hx => by rw [outOfSpan_eq_false.mpr (hin x hx)]; exact Bool.false_ne_true)

theorem checkLanes_misaligned (hm : recMalformed r = false) (hg : recGrants r n = true)
    (hin : ∀ x ∈ os, inSpan r size x) (hos : os = pre ++ o :: post) (hpre : ∀ x ∈ pre, recAddr r x.toNat % al = 0)
    (ho : ¬ recAddr r o.toNat % al = 0) :
    checkLanes r b n size al os = some { code := 0x07, addr := BitVec.ofInt 64 o } := by
  have hf : os.find? (fun x => recAddr r x.toNat % al != 0) = some o :=
    List.find?_eq_some_iff_append.mpr ⟨by simpa using ho, pre, post, hos, fun x hx => by simp [hpre x hx]⟩
  have hne : os ≠ [] := by simp [hos]
  simp only [checkLanes, List.isEmpty_iff, hne, if_false, hm, hg, Bool.not_true, Bool.or_self, Bool.false_eq_true,
    find?_outOfSpan hin, hf]

theorem checkLanes_passes (hm : recMalformed r = false) (hg : recGrants r n = true)
    (h : ∀ x ∈ os, 0 ≤ x ∧ x + size ≤ recSpan r ∧ recAddr r x.toNat % al = 0) :
    checkLanes r b n size al os = none := by
  have hin : ∀ x ∈ os, inSpan r size x := fun x hx => ⟨(h x hx).1, (h x hx).2.1⟩
  have hf : os.find? (fun x => recAddr r x.toNat % al != 0) = none :=
    List.find?_eq_none.mpr (fun x hx => by simp [(h x hx).2.2])
  simp only [checkLanes, hm, hg, Bool.not_true, Bool.or_self, Bool.false_eq_true, if_false, find?_outOfSpan hin, hf,
    ite_self]

end

/-- The access checks of a format M instruction, of its offsets. -/
theorem memCheck_eq (e : Env) (m : MemRef) (n : Need) :
    e.memCheck m n = checkLanes (e.recBits m.br) m.br.toNat n m.sz.bytes m.sz.bytes
      (e.lanes.map (e.offset (e.recBits m.br) m.a (memDisp m.sz m.off))) := by
  simp only [Env.memCheck, Env.memOffsets, List.map_map, Function.comp_def]

section
variable (e : Env) (m : SMap Crew) (rm : SMap RegPlace) (lu : SMap Nat)

@[simp] theorem withRows_recBits (b : BitVec 4) : (e.withRows m rm lu).recBits b = e.recBits b := rfl

@[simp] theorem withRows_offset (r : BitVec 128) (a : Src) (disp : Int) (l : Nat) :
    (e.withRows m rm lu).offset r a disp l = e.offset r a disp l := by
  simp only [Env.offset, withRows_int32]

@[simp] theorem withRows_memOffsets (x : MemRef) : (e.withRows m rm lu).memOffsets x = e.memOffsets x := by
  simp only [Env.memOffsets, withRows_offset, withRows_recBits, withRows_lanes]

@[simp] theorem withRows_memCheck (x : MemRef) (n : Need) : (e.withRows m rm lu).memCheck x n = e.memCheck x n := by
  simp only [Env.memCheck, withRows_memOffsets, withRows_recBits]

end

/-- An instruction that answers the report of its access checks traps with it where they find one. -/
theorem traps_of_memCheck {i : Instr} {body : Env → Eff} {m : MemRef} {n : Need} {cond : Env → Prop} {rep : Env → Report}
    (hi : ∀ s, exec i s = issue s i body) (hbody : ∀ e t, e.memCheck m n = some t → body e = .trap t)
    (hc : ∀ e, cond e → e.memCheck m n = some (rep e)) :
    Does i (fun e _ => cond e) (fun e _ => e.traps (rep e)) :=
  does_of_rows body hi (fun e mm rm lu h => by
    rw [hbody _ (rep e) (by rw [withRows_memCheck, hc e h]), settle_trap])

theorem loads_denied {e : Env} {m : MemRef} {t : Report} (d : Dest) (k : AccKind) (acq : Bool)
    (h : e.memCheck m { r := true } = some t) : e.loads d m k acq = .trap t := by
  simp only [Env.loads, h]

theorem stores_denied {e : Env} {m : MemRef} {t : Report} (data : Src) (rel : Option Scope) (scatter : Bool)
    (h : e.memCheck m { w := true } = some t) : e.stores m data rel scatter = .trap t := by
  simp only [Env.stores, h]

section
variable {i : Instr} {body : Env → Eff} {m : MemRef} {n : Need}

theorem access_denied (hi : ∀ s, exec i s = issue s i body)
    (hbody : ∀ e t, e.memCheck m n = some t → body e = .trap t) :
    Does i (fun e _ => e.active ∧ (recMalformed (e.recBits m.br) = true ∨ recGrants (e.recBits m.br) n = false))
      (fun e _ => e.traps { code := 0x09, addr := m.br.setWidth 64 }) :=
  traps_of_memCheck hi hbody (fun e ⟨ha, hd⟩ => by
    rw [memCheck_eq, checkLanes_denied (by simpa [Env.active] using ha) hd, BitVec.ofNat_toNat])

theorem access_bounds (hi : ∀ s, exec i s = issue s i body)
    (hbody : ∀ e t, e.memCheck m n = some t → body e = .trap t) (pre post : List Nat) (l : Nat) :
    let o (e : Env) (k : Nat) : Int := e.offset (e.recBits m.br) m.a (memDisp m.sz m.off) k
    let inRange (e : Env) (k : Nat) : Prop := inSpan (e.recBits m.br) m.sz.bytes (o e k)
    Does i (fun e _ => (recMalformed (e.recBits m.br) = false ∧ recGrants (e.recBits m.br) n = true)
        ∧ e.lanes = pre ++ l :: post ∧ (∀ k ∈ pre, inRange e k) ∧ ¬ inRange e l)
      (fun e _ => e.traps { code := 0x06, addr := BitVec.ofInt 64 (o e l) }) :=
  traps_of_memCheck hi hbody (fun e ⟨⟨hm, hg⟩, hl, hpre, ho⟩ => by
    rw [memCheck_eq, hl, List.map_append, List.map_cons]
    exact checkLanes_bounds hm hg rfl (List.forall_mem_map.mpr hpre) ho)

theorem access_misaligned (hi : ∀ s, exec i s = issue s i body)
    (hbody : ∀ e t, e.memCheck m n = some t → body e = .trap t) (pre post : List Nat) (l : Nat) :
    let o (e : Env) (k : Nat) : Int := e.offset (e.recBits m.br) m.a (memDisp m.sz m.off) k
    let aligned (e : Env) (k : Nat) : Prop := recAddr (e.recBits m.br) (o e k).toNat % m.sz.bytes = 0
    Does i (fun e _ => (recMalformed (e.recBits m.br) = false ∧ recGrants (e.recBits m.br) n = true)
        ∧ (∀ k ∈ e.lanes, inSpan (e.recBits m.br) m.sz.bytes (o e k))
        ∧ e.lanes = pre ++ l :: post ∧ (∀ k ∈ pre, aligned e k) ∧ ¬ aligned e l)
      (fun e _ => e.traps { code := 0x07, addr := BitVec.ofInt 64 (o e l) }) :=
  traps_of_memCheck hi hbody (fun e ⟨⟨hm, hg⟩, hin, hl, hpre, ho⟩ => by
    rw [memCheck_eq]
    refine checkLanes_misaligned hm hg (List.forall_mem_map.mpr hin) (by rw [hl, List.map_append, List.map_cons])
      (List.forall_mem_map.mpr hpre) ho)

end

/-- Settles O28: the four instructions answer what the same checks find. -/
theorem accessTraps : Obligations.AccessTraps := by
  intro g d m acq data pre post l
  have ld (e : Env) (t : Report) := loads_denied (e := e) (m := m) (t := t) d (.load m.sz acq.isSome) acq.isSome
  have gather (e : Env) (t : Report) := loads_denied (e := e) (m := m) (t := t) d (.gather m.sz) false
  have st (e : Env) (t : Report) := stores_denied (e := e) (m := m) (t := t) data acq false
  have scatter (e : Env) (t : Report) := stores_denied (e := e) (m := m) (t := t) data none true
  have all {i : Instr} {body : Env → Eff} {n : Need} (hi : ∀ s, exec i s = issue s i body)
      (hb : ∀ e t, e.memCheck m n = some t → body e = .trap t) :=
    And.intro (access_denied hi hb) (And.intro (access_bounds hi hb pre post l) (access_misaligned hi hb pre post l))
  exact ⟨all (i := .ld g d m acq) (fun _ => rfl) ld, all (i := .gather g d m) (fun _ => rfl) gather,
    all (i := .st g m data acq) (fun _ => rfl) st, all (i := .scatter g m data) (fun _ => rfl) scatter⟩

end Sys2Proof.Machine
end

section
/-! SUPPORT. Instructions that put an access in flight: what is posted, and how the split goes on (R73, R137, R181, R357,
R360). -/
namespace Sys2Proof.Machine

theorem Crew.updSplit_updSplit (cr : Crew) (sid : Nat) {f g : Split → Split} (hf : ∀ x, (f x).id = x.id) :
    (cr.updSplit sid f).updSplit sid g = cr.updSplit sid (fun x => g (f x)) := by
  simp only [Crew.updSplit, List.map_map]
  congr 2
  funext x
  by_cases h : x.id = sid <;> simp [h, hf]

theorem updSplit_updSplit (s : State) (cid sid : Nat) {f g : Split → Split} (hf : ∀ x, (f x).id = x.id) :
    updSplit (updSplit s cid sid f) cid sid g = updSplit s cid sid (fun x => g (f x)) := by
  simp only [updSplit_def, updCrew_updCrew, Crew.updSplit_updSplit _ _ hf]

/-- What an access keeps of its destination is taken from the state before, whatever its split has become. -/
theorem keepUndo_updSplit (s t : State) (cid c i : Nat) (f : Split → Split) :
    keepUndo s (updSplit t c i f) cid = updSplit (keepUndo s t cid) c i f := by
  unfold keepUndo
  split <;> rfl

/-- Changes of a split that an access makes before its instruction is over are part of how the split goes on. -/
theorem goesTracked_updSplit (e : Env) (on : Bool) (t : State) {f : Split → Split} (hf : ∀ x, (f x).id = x.id)
    (hn : ∀ (x : Split) p, f { x with place := p, mark := none } = { f x with place := p, mark := none }) :
    e.goesTracked on (updSplit t e.cid e.sid f) id = e.goesTracked on t f := by
  have hu : updAcc (updSplit t e.cid e.sid f) e.s.nextId (fun a => { a with rep := true })
      = updSplit (updAcc t e.s.nextId (fun a => { a with rep := true })) e.cid e.sid f := rfl
  simp only [Env.goesTracked, Env.moves, hu, keepUndo_updSplit, updSplit_updSplit _ _ _ hf, id_eq, hn]

section
variable (e : Env) (m : SMap Crew) (rm : SMap RegPlace) (lu : SMap Nat)

/-- R357, R360: an instruction that has made an access goes on as `goesTracked` says. -/
theorem settle_tracked (on : Bool) {t : State} (ht : t.ctxs = e.s.ctxs) :
    (e.withRows m rm lu).settle e.s ((e.withRows m rm lu).tracked on (.next t)) = e.goesTracked on t id := by
  have hr : repeatable t (e.withRows m rm lu).crew.ctx = repeatable e.s e.crew.ctx := by
    simp only [repeatable, ht]
    rfl
  simp only [Env.tracked, Env.goesTracked, hr]
  split <;> rfl

/-- R181: an acquire also holds its split's later accesses. -/
theorem settle_acquired (on acq : Bool) {t : State} (ht : t.ctxs = e.s.ctxs) (id_ : Nat) :
    (e.withRows m rm lu).settle e.s ((e.withRows m rm lu).tracked on
        (.next (if acq then (e.withRows m rm lu).acquire t id_ else t)))
      = e.goesTracked on t (fun x => if acq then { x with acq := id_ :: x.acq } else x) := by
  cases acq with
  | false => exact settle_tracked e m rm lu on ht
  | true =>
    refine (settle_tracked e m rm lu on (t := (e.withRows m rm lu).acquire t id_) ht).trans ?_
    exact goesTracked_updSplit e on t (f := fun x => { x with acq := id_ :: x.acq }) (fun _ => rfl) (fun _ _ => rfl)

/-- An access that is posted, over the rows given, is awaited as posted. -/
theorem post_awaits {d : DestUse} (hd : ∀ b, d ≠ .record b) {a : Nat → Access} {x : Access}
    (ha : ∀ k, a k = { x with id := k }) (hcrew : x.crew = e.cid) :
    (e.withRows m rm lu).post { e.s with crews := m } d a = (e.awaits { e.s with crews := m } d x, e.s.nextId) := by
  obtain rfl : a = _ := funext ha
  cases x
  subst hcrew
  cases d with
  | record b => exact absurd rfl (hd b)
  | none | q | l => rfl

/-- R434: a record that is loaded is empty until it arrives. -/
theorem post_record (bd : BitVec 4) {a : Nat → Access} {x : Access} (ha : ∀ k, a k = { x with id := k })
    (hcrew : x.crew = e.cid) :
    (e.withRows m rm lu).post { e.s with crews := m } (.record bd) a
      = (updCrew (e.awaits { e.s with crews := m } (.record bd) x) e.cid (fun cr =>
          { cr with recs := changeAt cr.recs bd.toNat (fun r =>
            { r with full := false, pend := some e.s.nextId }) }), e.s.nextId) := by
  obtain rfl : a = _ := funext ha
  cases x
  subst hcrew
  simp only [Env.awaits, updCrew, SMap.change_change]
  rfl

/-- R73: an instruction that posts an access goes on as `goesTracked` says. -/
theorem settle_posted (on : Bool) {d : DestUse} (hd : ∀ b, d ≠ .record b) (a : Nat → Access) (x : Access)
    (ha : ∀ k, a k = { x with id := k }) (hcrew : x.crew = e.cid) :
    (e.withRows m rm lu).settle e.s ((e.withRows m rm lu).tracked on
        (.next ((e.withRows m rm lu).post { e.s with crews := m } d a).1))
      = e.goesTracked on (e.awaits { e.s with crews := m } d x) id := by
  rw [post_awaits e m rm lu hd ha hcrew]
  exact settle_tracked e m rm lu on (by rfl)

/-- The access of an instruction is the same over the rows given to its crew. -/
theorem withRows_access (k : AccKind) (path : Nat) (r : BitVec 128) (qs : List LaneReq) (n : Nat) :
    (e.withRows m rm lu).access k path r qs n = { e.access k path r qs 0 with id := n } := rfl

end

/-- R134, R135: an access within its record passes the checks. -/
theorem memCheck_reaches {e : Env} {x : MemRef} {n : Need} {o : Nat → Int}
    (ho : o = e.offset (e.recBits x.br) x.a (memDisp x.sz x.off))
    (h : e.reaches (e.recBits x.br) n x.sz.bytes x.sz.bytes o) : e.memCheck x n = none := by
  obtain ⟨hm, hg, hl⟩ := h
  rw [memCheck_eq, ← ho]
  exact checkLanes_passes hm hg (List.forall_mem_map.mpr hl)

/-- R136, R494: the lanes of a load, with their swizzled addresses. -/
def Env.loadLanes (e : Env) (x : MemRef) : List LaneReq :=
  e.lanes.map (fun l =>
    { lane := l, va := recAddr (e.recBits x.br) (e.offset (e.recBits x.br) x.a (memDisp x.sz x.off) l).toNat })

theorem memLanes_eq (e : Env) (x : MemRef) : e.memLanes x (fun _ => []) = e.loadLanes x := by
  simp only [Env.memLanes, Env.memOffsets, List.map_map, Function.comp_def, Env.loadLanes]

@[simp] theorem withRows_loadLanes (e : Env) (m : SMap Crew) (rm : SMap RegPlace) (lu : SMap Nat) (x : MemRef) :
    (e.withRows m rm lu).loadLanes x = e.loadLanes x := by
  simp only [Env.loadLanes, withRows_lanes, withRows_recBits, withRows_offset]

theorem loadLanes_isEmpty {e : Env} (ha : e.active) (x : MemRef) : (e.loadLanes x).isEmpty = false := by
  simpa [Env.loadLanes, Env.active] using ha

/-- R480, R494: LD and GATHER within their record put their access in flight. -/
theorem loads_reach {i : Instr} (d : Dest) (x : MemRef) (k : AccKind) (acq : Bool)
    (hi : ∀ s, exec i s = issue s i (fun e => e.loads d x k acq)) :
    let o (e : Env) : Nat → Int := e.offset (e.recBits x.br) x.a (memDisp x.sz x.off)
    Does i (fun e _ => e.active ∧ e.reaches (e.recBits x.br) { r := true } x.sz.bytes x.sz.bytes (o e))
      (fun e b => e.goesTracked (recRep (e.recBits x.br)) (e.awaits b (.l d x.sz.operand)
          (e.access k 0 (e.recBits x.br) (e.loadLanes x) 0))
        (fun sp => if acq then { sp with acq := b.nextId :: sp.acq } else sp)) := by
  refine does_of_rows _ hi (fun e m rm lu ⟨ha, hr⟩ => ?_)
  simp only [Env.loads, withRows_memCheck, memCheck_reaches rfl hr, withRows_recBits, memLanes_eq, withRows_loadLanes,
    loadLanes_isEmpty ha x, Bool.false_eq_true, if_false, withRows_s]
  rw [post_awaits e m rm lu (fun _ => DestUse.noConfusion) (withRows_access e m rm lu k 0 _ _) rfl]
  exact settle_acquired e m rm lu _ acq (by rfl) _

/-- R433, R434: BRLD within its record puts its access in flight, and its record is empty until it arrives. -/
theorem brld_reaches (g : Guard) (bd br : BitVec 4) (a : Src) (off : BitVec 11) (acq : Option Scope) :
    let o (e : Env) : Int := e.offset (e.recBits br) a (memDisp .b128 off) e.lead
    Does (.brld g bd a br off acq)
      (fun e _ => e.active ∧ recMalformed (e.recBits br) = false ∧ recR (e.recBits br) = true ∧ 0 ≤ o e
        ∧ o e + 16 ≤ recSpan (e.recBits br) ∧ recAddr (e.recBits br) (o e).toNat % 16 = 0)
      (fun e b => e.goesTracked (recRep (e.recBits br)) (updCrew (e.awaits b (.record bd)
          (e.access (.record bd.toNat acq.isSome) 0 (e.recBits br)
            [{ lane := e.lead, va := recAddr (e.recBits br) (o e).toNat }] 0)) e.cid
          (fun cr => { cr with recs := changeAt cr.recs bd.toNat (fun r => { r with full := false, pend := some b.nextId }) }))
        (fun sp => if acq.isSome then { sp with acq := b.nextId :: sp.acq } else sp)) := by
  refine does_of_rows _ (fun _ => rfl) (fun e m rm lu ⟨ha, hm, hr, ho⟩ => ?_)
  have hne : e.lanes.isEmpty = false := by simpa [Env.active] using ha
  have hcheck : checkLanes (e.recBits br) br.toNat { r := true } 16 16
      [e.offset (e.recBits br) a (memDisp .b128 off) e.lead] = none :=
    checkLanes_passes hm (by simp [recGrants, hr]) (List.forall_mem_singleton.mpr ho)
  simp only [withRows_lanes, hne, Bool.false_eq_true, if_false, withRows_recBits, withRows_offset, withRows_lead, hcheck,
    withRows_s]
  rw [post_record e m rm lu bd (withRows_access e m rm lu _ 0 _ _) rfl]
  exact settle_acquired e m rm lu _ _ (by rfl) _

/-- The lanes of an ACCEPT, with the place of their blocks and their operands (R407). -/
def Env.blocks (e : Env) (br : BitVec 4) (a padlo n : Src) : List LaneReq :=
  e.lanes.map (fun l =>
    { lane := l, va := recAddr (e.recBits br) (e.offset (e.recBits br) a 0 l).toNat, aux := (e.int32 n l).toNat
      aux2 := (e.int32 padlo l).toNat, res := BitVec.ofInt 64 (e.offset (e.recBits br) a 0 l) })

/-- R407: ACCEPT over blocks within its record puts its access in flight. -/
theorem accept_reaches (g : Guard) (d : Dest) (a padlo n : Src) (vm1 padhi : BitVec 24) (br : BitVec 4) (sq : Bool) :
    let o (e : Env) : Nat → Int := e.offset (e.recBits br) a 0
    Does (.accept g d a padlo n vm1 padhi br sq)
      (fun e _ => e.active ∧ (∀ l ∈ e.lanes, 1 ≤ (e.int32 n l).toNat ∧ (e.int32 n l).toNat ≤ 64)
        ∧ e.reaches (e.recBits br) { r := true } 640 64 (o e))
      (fun e b => e.goesTracked (recRep (e.recBits br)) (e.awaits b (.l d .w64)
        { e.access (.accept padhi.toNat (vm1.toNat + 1) sq) 0 (e.recBits br) (e.blocks br a padlo n) 0 with
          lines := acceptLines (e.recBits br) (e.blocks br a padlo n) }) id) := by
  refine does_of_rows _ (fun _ => rfl) (fun e m rm lu ⟨ha, hn, hm, hg, hl⟩ => ?_)
  have hne : e.lanes.isEmpty = false := by simpa [Env.active] using ha
  have hcount : e.lanes.any (fun l => decide ((e.int32 n l).toNat < 1) || decide (64 < (e.int32 n l).toNat)) = false := by
    simpa only [List.any_eq_false, Bool.or_eq_true, decide_eq_true_eq, not_or, Nat.not_lt] using hn
  have hcheck : checkLanes (e.recBits br) br.toNat { r := true } acceptBytes 64
      (e.lanes.map (e.offset (e.recBits br) a 0)) = none :=
    checkLanes_passes hm hg (List.forall_mem_map.mpr hl)
  simp only [withRows_lanes, withRows_int32, hcount, Bool.false_eq_true, if_false, withRows_recBits, withRows_offset, hcheck,
    hne, withRows_s]
  exact settle_posted e m rm lu _ (fun _ => DestUse.noConfusion) _
    { e.access (.accept padhi.toNat (vm1.toNat + 1) sq) 0 (e.recBits br) (e.blocks br a padlo n) 0 with
      lines := acceptLines (e.recBits br) (e.blocks br a padlo n) } (fun _ => rfl) rfl

/-- R526: the right that a PREF needs. -/
def prefNeed (tgt : PrefTarget) : Need := if tgt = .icache then { x := true } else { r := true }

/-- The path of a PREF's requests. -/
def prefPath (tgt : PrefTarget) : Nat := if tgt = .icache then 6 else 0

/-- R526: whether the lane of an offset is fetched by a PREF. -/
def prefKeeps (e : Env) (x : MemRef) (tgt : PrefTarget) (o : Int) : Bool :=
  (checkLanes (e.recBits x.br) 0 (prefNeed tgt) x.sz.bytes x.sz.bytes [o]).isNone

/-- R526, R527: a PREF of the lanes that pass the checks. -/
def Env.prefetches (e : Env) (x : MemRef) (tgt : PrefTarget) : Eff :=
  let ok := (e.memOffsets x).filter (fun p => prefKeeps e x tgt p.2)
  if ok.isEmpty then .next e.s
  else .next (e.post e.s .none (e.access (.pref tgt) (prefPath tgt) (e.recBits x.br)
    (ok.map (fun p => { lane := p.1, va := recAddr (e.recBits x.br) p.2.toNat })))).1

theorem exec_pref (g : Guard) (x : MemRef) (tgt : PrefTarget) (s : State) :
    exec (.pref g x tgt) s = issue s (.pref g x tgt) (fun e => e.prefetches x tgt) := by
  cases tgt <;> rfl

/-- R526: with every lane within the record, a PREF puts all of them in flight. -/
theorem pref_reaches (g : Guard) (x : MemRef) (tgt : PrefTarget) :
    let o (e : Env) : Nat → Int := e.offset (e.recBits x.br) x.a (memDisp x.sz x.off)
    Does (.pref g x tgt)
      (fun e _ => e.active ∧ e.reaches (e.recBits x.br) (prefNeed tgt) x.sz.bytes x.sz.bytes (o e))
      (fun e b => e.goesOn (e.awaits b .none
        (e.access (.pref tgt) (prefPath tgt) (e.recBits x.br) (e.loadLanes x) 0))) := by
  refine does_of_rows _ (exec_pref g x tgt) (fun e m rm lu ⟨ha, hm, hg, hl⟩ => ?_)
  have hkeep : (e.memOffsets x).filter (fun p => prefKeeps e x tgt p.2) = e.memOffsets x := by
    refine List.filter_eq_self.mpr (List.forall_mem_map.mpr fun l hmem => ?_)
    exact Option.isNone_iff_eq_none.mpr (checkLanes_passes hm hg (List.forall_mem_singleton.mpr (hl l hmem)))
  have hne : (e.memOffsets x).isEmpty = false := by simpa [Env.memOffsets, Env.active] using ha
  have hrows : prefKeeps (e.withRows m rm lu) x tgt = prefKeeps e x tgt := rfl
  simp only [Env.prefetches, hrows, withRows_memOffsets, hkeep, hne, Bool.false_eq_true, if_false]
  rw [← memLanes_eq]
  exact settle_posted e m rm lu false (fun _ => DestUse.noConfusion) _
    (e.access (.pref tgt) (prefPath tgt) (e.recBits x.br) (e.memLanes x (fun _ => [])) 0) (fun _ => rfl) rfl

/-- R526: a PREF with no lane within the record only goes on. -/
theorem pref_misses (g : Guard) (x : MemRef) (tgt : PrefTarget) :
    Does (.pref g x tgt)
      (fun e _ => e.active ∧ (recMalformed (e.recBits x.br) = true
        ∨ ∀ l ∈ e.lanes, e.offset (e.recBits x.br) x.a (memDisp x.sz x.off) l < 0)) Env.goesOn := by
  refine does_of_rows _ (exec_pref g x tgt) (fun e m rm lu ⟨_, hbad⟩ => ?_)
  have hdrop : (e.memOffsets x).filter (fun p => prefKeeps e x tgt p.2) = [] := by
    refine List.filter_eq_nil_iff.mpr (List.forall_mem_map.mpr fun l hl => ?_)
    rcases hbad with hm | hneg
    · simp [prefKeeps, checkLanes, hm]
    · simp only [prefKeeps, checkLanes, List.isEmpty_cons, Bool.false_eq_true, if_false, List.find?, hneg l hl, decide_true,
        Bool.true_or]
      split <;> exact Bool.false_ne_true
  have hrows : prefKeeps (e.withRows m rm lu) x tgt = prefKeeps e x tgt := rfl
  simp only [Env.prefetches, hrows, withRows_memOffsets, hdrop, List.isEmpty_nil, if_true, withRows_s, settle_next]

/-- Settles O26: each instruction in turn. -/
theorem loads : Obligations.Loads := by
  intro g d m acq bd br a padlo n off tgt vm1 padhi sq
  exact ⟨loads_reach d m (.load m.sz acq.isSome) acq.isSome (fun _ => rfl), loads_reach d m (.gather m.sz) false (fun _ => rfl),
    brld_reaches g bd br a off acq, accept_reaches g d a padlo n vm1 padhi br sq, pref_reaches g m tgt, pref_misses g m tgt⟩

end Sys2Proof.Machine
end

section
/-! SUPPORT. The canonical form of device and host memory, through a step (R131, log entry 5). `Canon` is the
invariant; each function of the model from which a step is built keeps it, and its lemma is named after it
(`Canon.sendWrite` for `sendWrite`), so a function that is a chain of others is proved by the chain of their lemmas.
A function that answers more than a state, or perhaps none, is stated by `CanonIn`, with the projection of its type of
answer that says which state it holds. Few functions write a memory: `landBytes`, `storeRemote`, `remoteWrite`,
`finishCommand`, `execAttest`, `execImageComplete`, `restoreMemory`, the resets and the host's stores of a cue. -/
namespace Sys2Proof.Machine
set_option Elab.async false

/-- Device and host memory of a state are in canonical form. -/
structure Canon (s : State) : Prop where
  mem  : Memory.wf s.mem = true
  host : Memory.wf s.hostMem = true

theorem canon_iff (s : State) : s.memOk = true ↔ Canon s := by
  rw [State.memOk, Bool.and_eq_true]
  exact ⟨fun ⟨h, k⟩ => ⟨h, k⟩, fun ⟨h, k⟩ => ⟨h, k⟩⟩

variable {s t : State}

/-- What leaves both memories as they were keeps them canonical. -/
theorem Canon.upd (h : Canon s) (hm : t.mem = s.mem := by rfl) (hh : t.hostMem = s.hostMem := by rfl) : Canon t :=
  ⟨hm ▸ h.mem, hh ▸ h.host⟩

/-- `Canon.upd` for a record update of a state that is itself an expression: no definition is unfolded, so the
expression can be read off the update. -/
theorem Canon.set (h : Canon s) (hm : t.mem = s.mem := by with_reducible rfl)
    (hh : t.hostMem = s.hostMem := by with_reducible rfl) : Canon t := h.upd hm hh

theorem Canon.ite {c : Prop} [Decidable c] (hs : Canon s) (ht : Canon t) : Canon (if c then s else t) := by
  split <;> assumption

theorem Canon.iteSnd {α : Type} {c : Prop} [Decidable c] {p q : α × State} (hp : Canon p.2) (hq : Canon q.2) :
    Canon (if c then p else q).2 := by
  split <;> assumption

theorem Canon.iteFst {α : Type} {c : Prop} [Decidable c] {p q : State × α} (hp : Canon p.1) (hq : Canon q.1) :
    Canon (if c then p else q).1 := by
  split <;> assumption

/-- A fold of steps that each keep memory canonical keeps it canonical. -/
theorem Canon.foldl {α : Type} {f : State → α → State} {xs : List α} (h : Canon s)
    (hf : ∀ t x, Canon t → Canon (f t x)) : Canon (xs.foldl f s) := by
  induction xs generalizing s with
  | nil => exact h
  | cons x xs ih => exact ih (hf _ x h)

theorem Canon.foldlFst {α β : Type} {f : State × β → α → State × β} {xs : List α} {p : State × β} (h : Canon p.1)
    (hf : ∀ q x, Canon q.1 → Canon (f q x).1) : Canon (xs.foldl f p).1 := by
  induction xs generalizing p with
  | nil => exact h
  | cons x xs ih => exact ih (hf _ x h)

theorem Canon.foldlSnd {α β : Type} {f : β × State → α → β × State} {xs : List α} {p : β × State} (h : Canon p.2)
    (hf : ∀ q x, Canon q.2 → Canon (f q x).2) : Canon (xs.foldl f p).2 := by
  induction xs generalizing p with
  | nil => exact h
  | cons x xs ih => exact ih (hf _ x h)

theorem Canon.fst {α : Type} {p : State × α} {b : α} (h : Canon p.1) (e : p = (s, b)) : Canon s := by
  rw [e] at h
  exact h

theorem Canon.snd {α : Type} {p : α × State} {a : α} (h : Canon p.2) (e : p = (a, s)) : Canon s := by
  rw [e] at h
  exact h

/-- The state that an answer holds, if it holds one, is canonical; `st` says which state that is. -/
structure CanonIn {α : Type} (st : α → Option State) (x : α) : Prop where
  all : match st x with
    | some t => Canon t
    | none => True

section
variable {α β : Type} {st : α → Option State} {x y : α} {o : Option State}

theorem CanonIn.eq (h : CanonIn st x) (e : x = y) : CanonIn st y := e ▸ h

theorem CanonIn.of (h : CanonIn st x) (e : x = y) (hy : st y = some t := by rfl) : Canon t := by
  have ht := (h.eq e).all
  rwa [hy] at ht

theorem CanonIn.empty (e : st x = none := by rfl) : CanonIn st x := by
  constructor
  rw [e]
  trivial

theorem CanonIn.ite {c : Prop} [Decidable c] (hx : CanonIn st x) (hy : CanonIn st y) :
    CanonIn st (if c then x else y) := by
  split <;> assumption

theorem CanonIn.getD (h : CanonIn id o) (hd : Canon s) : Canon (o.getD s) := by
  cases o with
  | none => exact hd
  | some t => exact h.all

theorem CanonIn.map {o : Option β} {f : β → State} (hf : ∀ b, Canon (f b)) : CanonIn id (o.map f) := by
  cases o with
  | none => exact .empty
  | some b => exact ⟨hf b⟩

theorem CanonIn.findSome {xs : List β} {f : β → Option State} (hf : ∀ x, CanonIn id (f x)) :
    CanonIn id (xs.findSome? f) := by
  induction xs with
  | nil => exact .empty
  | cons x xs ih =>
    rw [List.findSome?_cons]
    split
    · next hx => exact hx ▸ hf x
    · exact ih

theorem CanonIn.bind {f : State → Option β} {st : Option β → Option State} (h : CanonIn id o)
    (hf : ∀ t, Canon t → CanonIn st (f t)) (hn : st none = none := by rfl) : CanonIn st (o.bind f) := by
  cases o with
  | none => exact .empty hn
  | some t => exact hf t h.all

theorem CanonIn.mapState {f : State → β} {st : Option β → Option State} (h : CanonIn id o)
    (hf : ∀ t, Canon t → CanonIn st (some (f t))) (hn : st none = none := by rfl) : CanonIn st (o.map f) := by
  cases o with
  | none => exact .empty hn
  | some t => exact hf t h.all

end

/-! The states of the model's answers: for each type of answer, the state that it holds. -/

/-- The first component that an answer holds. -/
def firstState {α : Type} : Option (State × α) → Option State := Option.map Prod.fst

/-- The state that the check of a record write for a race answers. -/
def raced : Except State State → Option State
  | .ok s | .error s => some s

/-- The next state of a move. -/
def nextState : Host.Outcome State Fault Refusal → Option State
  | .next s => some s
  | .fault _ | .refused _ => none

/-- The state that an instruction's effect answers. -/
def Eff.state : Eff → Option State
  | .next s | .hold _ s | .park _ s | .go s | .trapNoted _ s => some s
  | .trap _ | .trapAfter _ => none

/-- The state that a sibling's entry is read in. -/
def sibState : Except Eff (W64 × State) → Option State
  | .ok (_, s) => some s
  | .error f => f.state

def Fenced.state : Fenced → Option State
  | .wait _ s | .done s => some s

def Walks.state : Walks → Option State
  | .stall s => some s
  | .done | .report _ => none

def SyncFill.state : SyncFill → Option State
  | .waits s => some s
  | .filled => none

def Virt.state {α : Type} : Virt α → Option State
  | .ok _ s | .absent _ _ s | .wait s => some s
  | .bad => none

def Offered.state : Offered → Option State
  | .written s _ | .waits s | .absent s => some s
  | .full | .untranslated => none

def PumpAns.state {α : Type} : PumpAns α → Option State
  | .ok _ s | .wait s | .bad s => some s

def Begun.state : Begun → Option State
  | .isOver s | .begun s _ _ => some s
  | .blocked => none

def CopyGo.state : CopyGo → Option State
  | .ok _ s | .wait s | .violation _ s => some s

def Piece.state : Piece → Option State
  | .moved _ s | .wait s | .ended s => some s

def Appended.state : Appended → Option State
  | .ok _ s | .wait s | .bad s => some s

def Walked.state : Walked → Option State
  | .ok _ s | .wait s | .bad s => some s

/-- The state that the write of a freed page answers. -/
def freeState {α : Type} : Except Walked (State × α) → Option State
  | .ok (s, _) => some s
  | .error r => r.state

def Retire.state : Retire → Option State
  | .accepted s => some s
  | .refused | .needFree => none

def EngAns.state {α : Type} : EngAns α → Option State
  | .ok _ s | .wait s | .fault _ s | .kill s => some s

def RowA.state : RowA → Option State
  | .ok _ s | .badCount s | .wait s | .fault _ s | .kill s => some s

def PassEnd.state : PassEnd → Option State
  | .whole s | .stopped s => some s

def WellAns.state {α : Type} : WellAns α → Option State
  | .ok _ s | .wait s | .violation s | .kill s => some s

def CmdAns.state : CmdAns → Option State
  | .done s _ | .wait s => some s

def Issued.state : Issued → Option State
  | .done s | .run _ s => some s

variable {e : Env}

/-! Bytes, granules and lines: what the memory path does (R131, R169 to R187). -/

protected theorem Canon.cisternTouch {line : Nat} (h : Canon s) : Canon (cisternTouch s line) := h.ite h.upd

protected theorem Canon.dropWindow {ctx w : Nat} (h : Canon s) : Canon (dropWindow s ctx w) := by
  unfold dropWindow
  split
  · exact h
  · exact h.upd.foldl fun _ _ h => h.upd

protected theorem Canon.sendGranule {pa : Nat} {write : Bool} {acc : Option (Nat × Nat)} (h : Canon s) :
    CanonIn id (sendGranule s pa write acc) :=
  .ite .empty (.map fun _ => h.upd)

protected theorem Canon.sendGranules {acc : Option (Nat × Nat)} {xs : List Nat} (h : Canon s) :
    CanonIn id (sendGranules s acc xs) := by
  induction xs generalizing s with
  | nil => exact ⟨h⟩
  | cons x xs ih =>
    unfold sendGranules
    split
    · exact .empty
    · exact ih (h.sendGranule.of ‹_›)

protected theorem Canon.askFill {line : Nat} (h : Canon s) : Canon (askFill s line) := h.ite (h.sendGranules.getD h)

protected theorem Canon.clearFailed {line : Nat} {ws : List (Nat × Byte)} (h : Canon s) :
    Canon (clearFailed s line ws) :=
  h.upd

protected theorem Canon.sendWrite {g : Nat} (h : Canon s) : Canon (sendWrite s g) :=
  (h.sendGranule.getD h.upd).ite h.upd

protected theorem Canon.sendHeld {n k : Nat} (h : Canon s) : Canon (sendHeld n s k) := by
  induction n generalizing s k with
  | zero => exact h
  | succ n ih =>
    unfold sendHeld
    split
    · exact h
    · split
      · exact h
      · exact ih (h.sendGranule.of ‹_›).upd

protected theorem Canon.sendWrites {line : Nat} {ws : List (Nat × Byte)} (h : Canon s) :
    Canon (sendWrites s line ws) :=
  h.foldl fun _ _ h => h.sendWrite

protected theorem Canon.landBytes {line : Nat} {ws : List (Nat × Byte)} (h : Canon s) :
    Canon (landBytes s line ws) := by
  unfold landBytes
  refine Canon.clearFailed (Canon.sendWrites ?_)
  exact ⟨Memory.wf_setAll h.mem _, h.host⟩

protected theorem Canon.raiseIrq {v : Option Nat} (h : Canon s) : Canon (raiseIrq s v) := by
  unfold raiseIrq
  split
  · exact h.upd
  · exact h

protected theorem Canon.raiseNotice {v : Option Notice} (h : Canon s) : Canon (raiseNotice s v) := h.raiseIrq

protected theorem Canon.landDue {line dh : Nat} {xs : List Pend} (h : Canon s) : Canon (landDue s line dh xs).1 := by
  induction xs generalizing s with
  | nil => exact h
  | cons x xs ih => exact Canon.iteFst (ih h.landBytes.raiseNotice) h

protected theorem Canon.settle {line : Nat} (h : Canon s) : Canon (settle s line) := by
  unfold settle
  dsimp only
  split
  · exact h
  · exact h.landDue.upd

protected theorem Canon.arriveStoreFrom {line src : Nat} {ws : List (Nat × Byte)} {from_ : Nat} {vec : Option Notice}
    (h : Canon s) : Canon (arriveStoreFrom s line src ws from_ vec).1 :=
  h.settle.upd.settle

protected theorem Canon.arriveStore {line src : Nat} {ws : List (Nat × Byte)} (h : Canon s) :
    Canon (arriveStore s line src ws).1 :=
  h.arriveStoreFrom

protected theorem Canon.ackTw {cid path tw : Nat} (h : Canon s) : Canon (ackTw s cid path tw) := h.upd

protected theorem Canon.returnSump {ctx n : Nat} (h : Canon s) : Canon (returnSump s ctx n) := h.upd

protected theorem Canon.orderedPerform {acc : Nat} {a : Access} {q : LaneReq} {op : AtomOp} {ty : AtomTy} {pa : Nat}
    (h : Canon s) : Canon (orderedPerform s acc a q op ty pa) :=
  (h.arriveStore.upd.returnSump.ite h.arriveStore.upd).ackTw

protected theorem Canon.stalePerform {acc : Nat} {a : Access} {q : LaneReq} {pa : Nat} (h : Canon s) :
    Canon (stalePerform s acc a q pa) :=
  h.upd.returnSump.ite h.upd

protected theorem Canon.releaseHeld {n line : Nat} (h : Canon s) : Canon (releaseHeld n s line) := by
  induction n generalizing s line with
  | zero => exact h
  | succ n ih =>
    unfold releaseHeld
    split
    · exact ih h.orderedPerform
    · split
      · exact ih h.stalePerform
      · exact h

protected theorem Canon.examineHeld {line : Nat} (h : Canon s) : Canon (examineHeld s line) := h.releaseHeld

protected theorem Canon.touchWindows {pa : Nat} (h : Canon s) : Canon (touchWindows s pa) := h.upd

protected theorem Canon.storeLine {line src : Nat} {ws : List (Nat × Byte)} (h : Canon s) :
    Canon (storeLine s line src ws).1 :=
  h.touchWindows.arriveStore.examineHeld

protected theorem Canon.storeOrStall {line src : Nat} {ws : List (Nat × Byte)} (h : Canon s) :
    Canon (storeOrStall s line src ws).1 :=
  Canon.iteFst h.upd h.storeLine

protected theorem Canon.arriveAll {src : Nat} {ws : SMap (List (Nat × Byte))} (h : Canon s) :
    Canon (arriveAll s src ws).1 := by
  induction ws generalizing s with
  | nil => exact h
  | cons x xs ih => exact ih h.storeOrStall

protected theorem Canon.devWrite {pa : Nat} {bs : List Byte} (h : Canon s) : Canon (devWrite s pa bs).1 := h.arriveAll

protected theorem Canon.devWriteAfter {pa : Nat} {bs : List Byte} {from_ : Nat} {vec : Option Notice} (h : Canon s) :
    Canon (devWriteAfter s pa bs from_ vec).1 :=
  h.touchWindows.arriveStoreFrom.examineHeld

protected theorem Canon.ringPost {r : RingRef} {x : BitVec 256} (h : Canon s) : Canon (ringPost s r x) := by
  unfold ringPost
  dsimp only
  exact h.devWrite.devWriteAfter

protected theorem Canon.ringDrop {r : RingRef} (h : Canon s) : Canon (ringDrop s r) := h.devWrite

protected theorem Canon.postOrDrop {r : RingRef} {x : BitVec 256} (h : Canon s) : Canon (postOrDrop s r x) :=
  h.ringDrop.ite h.ringPost

protected theorem Canon.ctxPost {ctx : Nat} {evt : Bool} {x : BitVec 256} (h : Canon s) :
    Canon (ctxPost s ctx evt x) := by
  unfold ctxPost
  split
  · exact h
  · exact h.upd.ite h.postOrDrop

protected theorem Canon.postStalled (h : Canon s) : Canon (postStalled s) := by
  unfold postStalled
  refine (h.upd.foldl fun _ _ h => h.storeLine).foldl fun _ _ h => ?_
  split
  · exact h
  · exact h.upd.foldl fun _ _ h => h.ctxPost

protected theorem Canon.barRingPut {k : BarRing} {r : DevRing} (h : Canon s) : Canon (BarRing.put k s r) := by
  unfold BarRing.put
  split <;> exact h.upd

protected theorem Canon.barWrite {k : BarRing} {x : BitVec 256} (h : Canon s) : Canon (barWrite k s x) :=
  h.devWriteAfter.barRingPut

protected theorem Canon.evtDrain {n : Nat} (h : Canon s) : Canon (evtDrain n s) := by
  induction n generalizing s with
  | zero => exact h
  | succ n ih =>
    unfold evtDrain
    split
    · exact (ih h.upd.barWrite).ite h
    · exact h

protected theorem Canon.barPost {k : BarRing} {x : BitVec 256} (h : Canon s) : Canon (barPost k s x) := by
  unfold barPost
  refine Canon.ite h.barWrite ?_
  split
  · exact h.upd
  · exact h.upd.ite h.upd

protected theorem Canon.postHeld (h : Canon s) : Canon (postHeld s) := (h.upd.foldl fun _ _ h => h.barPost).evtDrain

protected theorem Canon.setAD {pa : Nat} {w : Bool} (h : Canon s) : Canon (setAD s pa w).1 :=
  Canon.iteFst h h.devWrite

protected theorem Canon.updDie {d : Nat} {f : Die → Die} (h : Canon s) : Canon (updDie s d f) := h.upd

protected theorem Canon.updCore {u : Nat} {f : CoreUnit → CoreUnit} (h : Canon s) : Canon (updCore s u f) := h.upd

protected theorem Canon.tlbFill {u : Option Nat} {d : Nat} {t : TlbEntry} (h : Canon s) :
    Canon (tlbFill s u d t) := by
  unfold tlbFill
  dsimp only
  split
  · exact h.updDie.updCore
  · exact h.updDie

protected theorem Canon.translate {u : Option Nat} {d ctx va : Nat} {need : Need} {demand : Bool} (h : Canon s) :
    Canon (translate s u d ctx va need demand).2 := by
  unfold translate
  split
  · exact h
  · dsimp only
    split
    · exact Canon.iteSnd h h
    · split
      · exact h.updDie
      · exact h.updDie
      · exact h.updDie.ite h.updDie.askFill
      · exact Canon.iteSnd h.updDie (Canon.iteFst h.updDie.setAD h.updDie).tlbFill

protected theorem Canon.updCtx {ctx : Nat} {f : Context → Context} (h : Canon s) : Canon (updCtx s ctx f) := h.upd

protected theorem Canon.postFault {ctx tag : Nat} (h : Canon s) : Canon (postFault s ctx tag) := by
  unfold postFault
  split
  · exact h
  · split
    · exact h
    · exact h.ite (h.ringPost.updCtx.ite (h.updCtx.ite h))

protected theorem Canon.joinFault {ctx va lvl : Nat} {q : Requester} (h : Canon s) :
    Canon (joinFault s ctx va lvl q).2 := by
  unfold joinFault
  split
  · exact h
  · dsimp only
    split
    · exact h
    · split
      · exact Canon.iteSnd h h.updCtx.postFault
      · exact h

protected theorem Canon.updCrew {cid : Nat} {f : Crew → Crew} (h : Canon s) : Canon (updCrew s cid f) := h.upd

protected theorem Canon.updCohort {k : Nat} {f : Cohort → Cohort} (h : Canon s) : Canon (updCohort s k f) := h.upd

protected theorem Canon.updAcc {a : Nat} {f : Access → Access} (h : Canon s) : Canon (updAcc s a f) := h.upd

protected theorem Canon.updSplit {cid sid : Nat} {f : Split → Split} (h : Canon s) : Canon (updSplit s cid sid f) :=
  h.updCrew

protected theorem Canon.allocRow {cid r : Nat} (h : Canon s) : CanonIn id (allocRow s cid r) := by
  unfold allocRow
  split
  · exact .empty
  · split
    · exact ⟨h⟩
    · dsimp only
      split
      · exact .empty
      · exact ⟨h.updCrew⟩

protected theorem Canon.allocRows {cid : Nat} {xs : List Nat} (h : Canon s) : CanonIn id (allocRows s cid xs) := by
  induction xs generalizing s with
  | nil => exact ⟨h⟩
  | cons x xs ih =>
    unfold allocRows
    split
    · exact .empty
    · exact ih (h.allocRow.of ‹_›)

protected theorem Canon.writeQ {cid sid : Nat} {d : Dest} {w : Width} {lanes : List Nat} {vals : List (Nat × W64)}
    (h : Canon s) : Canon (writeQ s cid sid d w lanes vals) := by
  unfold writeQ
  dsimp only
  split
  · exact h.updSplit
  · exact h.updCrew
  · split
    · exact h.updSplit
    · exact h.updCrew

protected theorem Canon.addFlags {cid : Nat} {f : Flags} (h : Canon s) : Canon (addFlags s cid f) := h.updCrew

protected theorem Canon.spillTo {cid r : Nat} (h : Canon s) : Canon (spillTo s cid r) := by
  unfold spillTo
  split
  · exact h
  · refine Canon.updCrew ?_
    split
    · exact h.devWrite
    · exact h

protected theorem Canon.spillAll {cid : Nat} (h : Canon s) : Canon (spillAll s cid) := by
  unfold spillAll
  split
  · exact h
  · exact h.foldl fun _ _ h => h.spillTo.ite h

protected theorem Canon.writeSaveArea {cid : Nat} (h : Canon s) : Canon (writeSaveArea s cid) := by
  unfold writeSaveArea
  split
  · exact h
  · split
    · exact h
    · exact h.devWrite

protected theorem Canon.saveWords {cid : Nat} (h : Canon s) : Canon (saveWords s cid) := h.spillAll.writeSaveArea

protected theorem Canon.l1Fill {u : Nat} {e : CLine} (h : Canon s) : Canon (l1Fill s u e) := h.updCore

protected theorem Canon.l1Drop {u line : Nat} (h : Canon s) : Canon (l1Drop s u line) := h.updCore

protected theorem Canon.l2Touch {line : Nat} (h : Canon s) : Canon (l2Touch s line) := by
  unfold l2Touch
  dsimp only
  split
  · exact h.upd
  · exact h.upd

protected theorem Canon.grantLease {line len : Nat} (h : Canon s) : Canon (grantLease s line len).1 := h.upd

protected theorem Canon.icFill {u : Nat} {e : ILine} (h : Canon s) : Canon (icFill s u e) := h.updCore

protected theorem Canon.traceEvent {ctx : Nat} {fields : List (Nat × Nat)} (h : Canon s) :
    Canon (traceEvent s ctx fields) := by
  unfold traceEvent
  dsimp only
  split
  · exact h
  · split
    · exact h
    · split
      · exact h.updCtx
      · exact h.devWrite.updCtx

protected theorem Canon.traceMatch {ctx i : Nat} (h : Canon s) : Canon (traceMatch s ctx i) := h.updCtx

/-! Crews, their splits and their ends. -/

protected theorem Canon.wakeSplits {cid : Nat} {f : Split → Bool} (h : Canon s) : Canon (wakeSplits s cid f) := by
  unfold wakeSplits
  split
  · exact h
  · exact h.updCrew

protected theorem Canon.wakeCrew {cid : Nat} (h : Canon s) : Canon (wakeCrew s cid) := by
  unfold wakeCrew
  split
  · exact h
  · exact h.wakeSplits

protected theorem Canon.wakeAll (h : Canon s) : Canon (wakeAll s) := h.foldl fun _ _ h => h.wakeCrew

protected theorem Canon.wakeRows {u : Nat} (h : Canon s) : Canon (wakeRows s u) :=
  h.foldl fun _ _ h => h.wakeSplits.ite h

protected theorem Canon.wakeTimes (h : Canon s) : Canon (wakeTimes s) := h.foldl fun _ _ h => h.wakeSplits

protected theorem Canon.countWakes {cid k : Nat} (h : Canon s) : Canon (countWakes s cid k) := by
  unfold countWakes
  split
  · exact h
  · exact h.updCrew

protected theorem Canon.addCount {cid k : Nat} (h : Canon s) : Canon (addCount s cid k) := h.updCrew.countWakes

protected theorem Canon.barrierCheck {k n : Nat} (h : Canon s) : Canon (barrierCheck s k n) :=
  h.ite ((h.foldl fun _ _ h => h.updCohort).foldl fun _ _ h => h.updCrew)

protected theorem Canon.barriersCheck {k : Nat} (h : Canon s) : Canon (barriersCheck s k) :=
  h.foldl fun _ _ h => h.barrierCheck

protected theorem Canon.updSplits {cid : Nat} {f : Crew → Crew} (h : Canon s) : Canon (updSplits s cid f) := by
  unfold updSplits
  split
  · exact h
  · exact h.upd.updCtx

protected theorem Canon.joinLoop {n cid : Nat} (h : Canon s) : Canon (joinLoop n s cid) := by
  induction n generalizing s cid with
  | zero => exact h
  | succ n ih =>
    unfold joinLoop
    split
    · exact h
    · split
      · exact h
      · exact (ih h.updSplits.wakeSplits).ite h.updSplits.wakeSplits

protected theorem Canon.joinCheck {cid : Nat} (h : Canon s) : Canon (joinCheck s cid) := h.joinLoop

protected theorem Canon.exitCheck {cid : Nat} (h : Canon s) : Canon (exitCheck s cid) := by
  unfold exitCheck
  split
  · exact h
  · split
    · exact h
    · split
      · exact h
      · exact h.ite h.updSplits.wakeSplits

protected theorem Canon.dealRows {cid : Nat} {keep : W64} (h : Canon s) : Canon (dealRows s cid keep) := by
  unfold dealRows
  refine h.foldl fun _ _ h => ?_
  split
  · exact h
  · refine Canon.ite h.updCrew ?_
    split
    · exact h.allocRow.of ‹_›
    · exact h.spillTo

protected theorem Canon.reformPerform {cs : List Crew} {ps : Nat} {keep : W64} {place : Place} {block : Option Block}
    (h : Canon s) : Canon (reformPerform s cs ps keep place block) := by
  unfold reformPerform
  dsimp only
  split
  · exact ((h.foldl fun _ _ h => h.updSplits).foldl fun _ _ h => h.dealRows).foldl fun _ _ h => h.wakeSplits
  · exact (((h.foldl fun _ _ h => h.updSplits).foldl fun _ _ h => h.dealRows).foldl fun _ _ h =>
      h.wakeSplits).wakeRows

protected theorem Canon.reformCheck {k : Nat} (h : Canon s) : Canon (reformCheck s k) := by
  unfold reformCheck
  dsimp only
  split
  · exact h
  · split
    · exact h
    · exact h.ite (h.ite h.reformPerform)

protected theorem Canon.freeEntry {inSump : Option Nat} (h : Canon s) : Canon (freeEntry s inSump) := by
  unfold freeEntry
  split
  · exact h.returnSump
  · exact h

protected theorem Canon.lockAnswer {w : Waiter} {status : Nat} (h : Canon s) : Canon (lockAnswer s w status) :=
  h.traceEvent.updAcc

protected theorem Canon.lockStatus {w : Waiter} {status : Nat} (h : Canon s) : Canon (lockStatus s w status) :=
  h.freeEntry.lockAnswer

protected theorem Canon.clearTrack {line : Nat} (h : Canon s) : Canon (clearTrack s line) := h.upd

protected theorem Canon.holdLock {line : Nat} {w : Waiter} {status : Nat} (h : Canon s) :
    Canon (holdLock s line w status) := by
  unfold holdLock
  refine Canon.ite h.upd.lockAnswer.updCrew.clearTrack.settle ?_
  split
  · exact h.upd.lockAnswer.updCrew.clearTrack.settle
  · exact h.upd.lockAnswer.updCrew.clearTrack.settle.l2Touch.grantLease.ite
      h.upd.lockAnswer.updCrew.clearTrack.settle.l2Touch.grantLease.l1Fill

protected theorem Canon.dropIdleLocks (h : Canon s) : Canon (dropIdleLocks s) := h.upd

protected theorem Canon.grantLock {line : Nat} {w : Waiter} {status : Nat} (h : Canon s) :
    Canon (grantLock s line w status) :=
  h.freeEntry.upd.dropIdleLocks.ite h.holdLock

protected theorem Canon.replayLock {n : Nat} {free : Bool} {line : Nat} (h : Canon s) :
    Canon (replayLock n free s line) := by
  induction n generalizing free s line with
  | zero => exact h
  | succ n ih =>
    unfold replayLock
    dsimp only
    split
    · exact h
    · split
      · exact h
      · split
        · split
          · exact ih h.traceMatch.grantLock
          · exact h
        · exact ih h.traceMatch.set.lockStatus

protected theorem Canon.serveLock {line status : Nat} {rotate : Bool} (h : Canon s) :
    Canon (serveLock s line status rotate) := by
  unfold serveLock
  split
  · exact h
  · refine Canon.ite h.replayLock.dropIdleLocks ?_
    split
    · exact h
    · exact h.upd
    · refine Canon.ite h ?_
      split
      · split
        · exact h
        · exact h.upd.grantLock
      · split
        · exact h
        · exact h.grantLock

protected theorem Canon.releaseLock {cid line : Nat} (h : Canon s) : Canon (releaseLock s cid line) := by
  unfold releaseLock
  dsimp only
  split
  · exact h.updCrew
  · exact h.updCrew.freeEntry.upd.serveLock.ite h.updCrew

protected theorem Canon.serveBroken {line : Nat} {rotate : Bool} (h : Canon s) :
    Canon (serveBroken s line rotate) := by
  unfold serveBroken
  split
  · refine Canon.ite h.serveLock ?_
    split
    · exact h.replayLock.ite h
    · exact h
  · exact h

protected theorem Canon.leaveLock {cid status line : Nat} (h : Canon s) : Canon (leaveLock s cid status line) := by
  unfold leaveLock
  split
  · exact h.ite (h.freeEntry.upd.ite h.freeEntry.upd.serveBroken)
  · exact h

protected theorem Canon.serveFree {line : Nat} (h : Canon s) : Canon (serveFree s line) := by
  unfold serveFree
  split
  · exact h.serveBroken
  · exact h.serveLock

protected theorem Canon.markLeaving {acc ev cyc : Nat} (h : Canon s) : Canon (markLeaving s acc ev cyc) := h.upd

protected theorem Canon.dropWaiters {cid : Nat} (h : Canon s) : Canon (dropWaiters s cid) := h.upd

protected theorem Canon.leaveQueue {w : Waiter} (h : Canon s) : Canon (leaveQueue s w) :=
  h.upd.dropIdleLocks.freeEntry.ite (h.upd.dropIdleLocks.barPost.ite h.upd.dropIdleLocks).lockStatus

protected theorem Canon.settleWaiters (h : Canon s) : Canon (settleWaiters s) := h.foldl fun _ _ h => h.leaveQueue

protected theorem Canon.serveBrokens (h : Canon s) : Canon (serveBrokens s) := h.foldl fun _ _ h => h.serveBroken

protected theorem Canon.refillLine {line : Nat} (h : Canon s) : Canon (refillLine s line) := by
  unfold refillLine
  split
  · exact h
  · refine Canon.ite h (Canon.ite h.freeEntry.upd ?_)
    split
    · exact h
    · exact h.freeEntry.upd

protected theorem Canon.refillWaiters {n : Nat} (h : Canon s) : Canon (refillWaiters n s) := by
  induction n generalizing s with
  | zero => exact h
  | succ n ih =>
    unfold refillWaiters
    split
    · exact h
    · exact ih h.refillLine

protected theorem Canon.refillOverflow (h : Canon s) : Canon (refillOverflow s) := h.refillWaiters

protected theorem Canon.newAccess {f : Nat → Access} (h : Canon s) : Canon (newAccess s f).1 := h.upd

protected theorem Canon.postStamp {cid q : Nat} {r : BitVec 512} (h : Canon s) : Canon (postStamp s cid q r) := by
  unfold postStamp
  split
  · exact h
  · exact h.newAccess

protected theorem Canon.retireStream {cid : Nat} {c : Cohort} {st : Stream} (h : Canon s) :
    Canon (retireStream s cid c st) :=
  h.foldl fun _ _ h => h.postStamp

protected theorem Canon.retireCohort {cid : Nat} {c : Cohort} (h : Canon s) : Canon (retireCohort s cid c) :=
  h.postStamp

protected theorem Canon.updStream {k : Nat} {f : Stream → Stream} (h : Canon s) : Canon (updStream s k f) := h.upd

protected theorem Canon.updCluster {cl : Nat} {f : Cluster → Cluster} (h : Canon s) : Canon (updCluster s cl f) :=
  h.upd

protected theorem Canon.endStream {c : Cohort} (h : Canon s) : Canon (endStream s c) := by
  unfold endStream
  split <;> exact h.upd

protected theorem Canon.keepTile {k : Nat} {tile : Mem} (h : Canon s) : Canon (keepTile s k tile) := h.upd

protected theorem Canon.endCohort {k cid : Nat} {killed : Bool} (h : Canon s) : Canon (endCohort s k cid killed) := by
  unfold endCohort
  split
  · exact h
  · split
    · exact h
    · extract_lets t
      have ht : Canon t := by
        unfold t
        split
        · exact h
        · split
          · exact h.retireStream
          · exact h.retireCohort
      exact ht.endStream.keepTile.updCtx.updCohort.updCore.set.wakeAll

protected theorem Canon.chargeSibling {cr : Crew} (h : Canon s) : Canon (chargeSibling s cr) := by
  unfold chargeSibling
  split
  · exact h
  · exact h.updCtx

protected theorem Canon.dropAccesses {cid : Nat} (h : Canon s) : Canon (dropAccesses s cid) := h.upd

protected theorem Canon.unfocusCrew {cid : Nat} (h : Canon s) : Canon (unfocusCrew s cid) := by
  unfold unfocusCrew
  split
  · exact h.upd.ite h
  · exact h

protected theorem Canon.endCrewOnly {cid : Nat} {how : Ending} (h : Canon s) : Canon (endCrewOnly s cid how) := by
  unfold endCrewOnly
  split
  · exact h
  · refine h.ite ?_
    extract_lets dropped left charged u freed ended t
    have hl : Canon left := h.dropWaiters.dropAccesses.foldl fun _ _ h => h.leaveLock
    have ht : Canon t := hl.chargeSibling.updCtx.updCrew.unfocusCrew
    exact (ht.set.ite ht).wakeRows

protected theorem Canon.endDone {k cid : Nat} (h : Canon s) : Canon (endDone s k cid) := h.endCohort.ite h

protected theorem Canon.endIdle {k : Nat} (h : Canon s) : Canon (endIdle s k) :=
  h.ite (h.foldl fun _ _ h => h.endCrewOnly)

protected theorem Canon.raiseCtxError {ctx cause : Nat} {cid : Option Nat} (h : Canon s) :
    Canon (raiseCtxError s ctx cause cid) := by
  unfold raiseCtxError
  dsimp only
  split
  · exact h.updCtx.endCrewOnly
  · exact h.updCtx

protected theorem Canon.endCrew {cid : Nat} {how : Ending} (h : Canon s) : Canon (endCrew s cid how) := by
  unfold endCrew
  split
  · exact h
  · exact (h.endCrewOnly.raiseCtxError.ite h.endCrewOnly).endIdle.barriersCheck.reformCheck.endDone

protected theorem Canon.killCohort {k : Nat} (h : Canon s) : Canon (killCohort s k) := h.updCohort

protected theorem Canon.killCrew {cr : Crew} (h : Canon s) : Canon (killCrew s cr) := h.raiseCtxError.ite h.killCohort

protected theorem Canon.deferReport {cid : Nat} {lanes : Mask} {r : Report} (h : Canon s) :
    Canon (deferReport s cid lanes r) := by
  unfold deferReport
  split
  · exact h
  · exact (h.raiseCtxError.ite h).ite (h.updCrew.ite h.raiseCtxError)

protected theorem Canon.hotNotify {die i : Nat} {w : HotEntry} (h : Canon s) : Canon (hotNotify s die i w) := by
  unfold hotNotify
  split
  · exact h
  · exact (h.ite h.ringPost).updDie

protected theorem Canon.hotInsert {die ctx page : Nat} (h : Canon s) : Canon (hotInsert s die ctx page) := by
  unfold hotInsert
  dsimp only
  split
  · split
    · exact h.updDie
    · exact h
  · split
    · exact h.updDie
    · split
      · exact h.ringDrop
      · exact h

protected theorem Canon.hotTable {die ctx page thresh : Nat} (h : Canon s) :
    Canon (hotTable s die ctx page thresh) := by
  unfold hotTable
  dsimp only
  split
  · split
    · exact h.hotInsert
    · exact h.updDie
  · split
    · split
      · refine Canon.hotNotify ?_
        split
        · exact h.hotInsert
        · exact h.updDie
      · split
        · exact h.hotInsert
        · exact h.updDie
    · refine Canon.hotNotify ?_
      split
      · exact h.hotInsert
      · exact h.updDie
    · split
      · exact h.hotInsert
      · exact h.updDie

protected theorem Canon.takeSample {c : Context} {ctx va acc : Nat} {q : Requests} (h : Canon s) :
    Canon (takeSample s c ctx va acc q) :=
  h.ctxPost.hotTable

protected theorem Canon.sampleAt {n ctx va acc : Nat} {q : Requests} (h : Canon s) :
    Canon (sampleAt s n ctx va acc q) := by
  unfold sampleAt
  split
  · exact h
  · exact h.takeSample.ite h

protected theorem Canon.countCore {cr : Crew} {va acc : Nat} (h : Canon s) : Canon (countCore s cr va acc) :=
  h.updCore.sampleAt

protected theorem Canon.countCopy {u ctx va acc : Nat} (h : Canon s) : Canon (countCopy s u ctx va acc) :=
  h.updCore.sampleAt

protected theorem Canon.countMatrix {cl ctx va acc : Nat} (h : Canon s) : Canon (countMatrix s cl ctx va acc) :=
  h.upd.sampleAt

protected theorem Canon.countWell {w ctx va acc : Nat} (h : Canon s) : Canon (countWell s w ctx va acc) :=
  h.upd.sampleAt

/-! What an instruction does: operands, results and accesses. -/

protected theorem Canon.fetchLine {cr : Crew} {vline : Nat} (h : Canon s) : Canon (fetchLine s cr vline).2 := by
  unfold fetchLine
  dsimp only
  split
  · exact h
  · split
    · exact Canon.iteSnd h.translate (Canon.iteSnd h.translate.askFill
        (Canon.iteSnd h.translate h.translate.touchWindows.countCore.icFill))
    · exact h.translate
    · exact h.translate
    · exact h.translate
    · split <;> exact (h.translate.joinFault.snd ‹_›)

protected theorem Canon.fetchLines {cr : Crew} {xs : List Nat} (h : Canon s) : Canon (fetchLines s cr xs).2 := by
  induction xs generalizing s with
  | nil => exact h
  | cons x xs ih =>
    unfold fetchLines
    split
    · exact ih (h.fetchLine.snd ‹_›)
    · exact h.fetchLine

protected theorem Canon.fetchWord {cr : Crew} {va : Nat} (h : Canon s) : Canon (fetchWord s cr va).2 := by
  unfold fetchWord
  split
  · split <;> exact (h.fetchLine.snd ‹_›)
  · exact h.fetchLine

protected theorem Canon.trapUnhandled {cid code : Nat} (h : Canon s) : Canon (trapUnhandled s cid code) := by
  unfold trapUnhandled
  split
  · exact h
  · exact h.killCohort.ite h.raiseCtxError

protected theorem Canon.takeTrap {cid sid : Nat} {resume : Place} {r : Report} (h : Canon s) :
    Canon (takeTrap s cid sid resume r) := by
  unfold takeTrap
  split
  · exact h
  · split
    · exact h.trapUnhandled.ite (h.updCrew.ite h).updSplit
    · exact h.trapUnhandled

protected theorem Canon.returnFromTrap {cid sid : Nat} (h : Canon s) : Canon (returnFromTrap s cid sid) := by
  unfold returnFromTrap
  split
  · exact h
  · exact h.endCrew.ite h.updSplit

protected theorem Canon.ddtSeen {d ddt : Nat} (h : Canon s) : Canon (ddtSeen s d ddt).2 :=
  Canon.iteSnd h (Canon.iteSnd h h.upd)

protected theorem Canon.cancelsHere {cr : Crew} (h : Canon s) : Canon (cancelsHere s cr).2 := by
  unfold cancelsHere
  split
  · exact h
  · split
    · exact Canon.iteSnd h.ddtSeen h
    · exact h

protected theorem Canon.setState {cid sid : Nat} {st : SplitState} (h : Canon s) : Canon (setState s cid sid st) :=
  h.updSplit

protected theorem Canon.enterBlock {cid sid : Nat} {b : Block} (h : Canon s) : Canon (enterBlock s cid sid b) := by
  unfold enterBlock
  split
  · exact h
  · split
    · exact h
    · extract_lets
      split
      · exact h.setState
      · split
        · exact h.takeTrap
        · split
          · exact h.updCrew.wakeRows.updCrew.joinCheck
          · exact h.updCrew.wakeRows

protected theorem Canon.enterHeader {cid sid : Nat} {off : Int} {how : Entering} (h : Canon s) :
    Canon (enterHeader s cid sid off how) := by
  unfold enterHeader
  split
  · exact h
  · split
    · refine Canon.ite h.cancelsHere.endCrew (Canon.ite h.cancelsHere.takeTrap (Canon.ite h.cancelsHere.takeTrap ?_))
      dsimp only
      split
      · exact (h.cancelsHere.fetchWord.snd ‹_›).setState
      · exact (h.cancelsHere.fetchWord.snd ‹_›).setState
      · exact (h.cancelsHere.fetchWord.snd ‹_›).takeTrap
      · exact (h.cancelsHere.fetchWord.snd ‹_›).killCrew
      · split
        · exact (h.cancelsHere.fetchWord.snd ‹_›).takeTrap
        · refine Canon.ite (h.cancelsHere.fetchWord.snd ‹_›).takeTrap
            (Canon.ite (h.cancelsHere.fetchWord.snd ‹_›).takeTrap ?_)
          split
          · exact ((h.cancelsHere.fetchWord.snd ‹_›).fetchLines.snd ‹_›).enterBlock
          · exact ((h.cancelsHere.fetchWord.snd ‹_›).fetchLines.snd ‹_›).setState
          · exact ((h.cancelsHere.fetchWord.snd ‹_›).fetchLines.snd ‹_›).setState
          · exact ((h.cancelsHere.fetchWord.snd ‹_›).fetchLines.snd ‹_›).takeTrap
          · exact ((h.cancelsHere.fetchWord.snd ‹_›).fetchLines.snd ‹_›).killCrew
    · exact h

protected theorem Canon.deliverDeferred {cid : Nat} (h : Canon s) : Canon (deliverDeferred s cid) := by
  unfold deliverDeferred
  split
  · exact h
  · split
    · exact h
    · refine Canon.ite h ?_
      split
      · exact h.raiseCtxError
      · exact h.updCrew.takeTrap

protected theorem Canon.envPerform {f : Eff} (h : Canon e.s) (hf : CanonIn Eff.state f) :
    Canon (Env.perform e f) := by
  unfold Env.perform
  split
  · exact hf.all.updSplit
  · exact hf.all.setState
  · exact hf.all.updSplit
  · exact hf.all
  · exact h.takeTrap
  · exact hf.all.takeTrap
  · exact h.takeTrap

protected theorem Canon.prepare {cid : Nat} {used dest : List Nat} (h : Canon s) :
    CanonIn id (prepare s cid used dest) :=
  h.updCrew.allocRows

protected theorem Canon.unprepare {cid : Nat} (h : Canon t) : Canon (unprepare s t cid) := by
  unfold unprepare
  split
  · exact h.updCrew
  · exact h

protected theorem Canon.keepUndo {cid : Nat} (h : Canon t) : Canon (keepUndo s t cid) := by
  unfold keepUndo
  split
  · exact h.updAcc
  · exact h

protected theorem Canon.envSettle {f : Eff} (he : Canon e.s) (hs : Canon s) (hf : CanonIn Eff.state f) :
    Canon (Env.settle e s f) := by
  unfold Env.settle
  split
  · exact hs.takeTrap
  · exact hs.takeTrap
  · exact hf.all.unprepare.takeTrap
  · exact hf.all.unprepare.setState
  · exact Canon.envPerform he ⟨hf.all.keepUndo⟩
  · exact Canon.envPerform he hf

/-- What the checks before an instruction's effect answer holds canonical states only. -/
def Vetted.Keeps : Vetted → Prop
  | .idle => True
  | .stop e f => Canon e.s ∧ CanonIn Eff.state f
  | .ok e => Canon e.s
theorem Vetted.Keeps.ite {c : Prop} [Decidable c] {v w : Vetted} (hv : v.Keeps) (hw : w.Keeps) :
    (if c then v else w).Keeps := by
  split <;> assumption

protected theorem Canon.operandCheck {i : Instr} (h : Canon e.s) : (operandCheck e i).Keeps := by
  have trapKeeps (r : Report) : Vetted.Keeps (.stop e (.trap r)) := ⟨h, .empty⟩
  have holdKeeps (w : SplitState) : Vetted.Keeps (.stop e (.hold w e.s)) := ⟨h, ⟨h⟩⟩
  unfold operandCheck
  extract_lets
  split
  · exact trapKeeps _
  · refine .ite (holdKeeps _) (.ite (holdKeeps _) (.ite (holdKeeps _) ?_))
    split
    · exact trapKeeps _
    · split
      · exact trapKeeps _
      · split
        · exact holdKeeps _
        · split
          · trivial
          · exact h.prepare.of ‹_›

protected theorem Canon.vet {i : Instr} (h : Canon s) : (vet s i).Keeps := by
  unfold vet
  split
  · trivial
  · extract_lets
    refine .ite ⟨h, ⟨h⟩⟩ (.ite ⟨h, ⟨h⟩⟩ ?_)
    split
    · exact ⟨h, .empty⟩
    · exact Canon.operandCheck h

protected theorem Canon.issue {i : Instr} {body : Env → Eff} (h : Canon s)
    (hb : ∀ e, Canon e.s → CanonIn Eff.state (body e)) : CanonIn nextState (issue s i body) := by
  have hv := h.vet (i := i)
  unfold issue
  split
  · exact .empty
  · next e f he =>
    rw [he] at hv
    exact ⟨Canon.envPerform hv.1 hv.2⟩
  · next e he =>
    rw [he] at hv
    exact ⟨Canon.envSettle hv h (hb _ hv)⟩

protected theorem Canon.envResult {d : Dest} {w : Width} {vals : List (Nat × W64)} {fl : Flags} (h : Canon e.s) :
    CanonIn Eff.state (Env.result e d w vals fl) :=
  ⟨h.writeQ.addFlags⟩

protected theorem Canon.envLanewise {d : Dest} {w : Width} {f : Nat → Res} (h : Canon e.s) :
    CanonIn Eff.state (Env.lanewise e d w f) :=
  Canon.envResult h

protected theorem Canon.envIntBin {d : Dest} {ty : IntTy} {sat : Bool} {a b : Src} {f : Int → Int → Int}
    (h : Canon e.s) : CanonIn Eff.state (Env.intBin e d ty sat a b f) :=
  Canon.envLanewise h

protected theorem Canon.envIntUn {d : Dest} {ty : IntTy} {sat : Bool} {a : Src} {f : Int → Int} (h : Canon e.s) :
    CanonIn Eff.state (Env.intUn e d ty sat a f) :=
  Canon.envLanewise h

protected theorem Canon.execIadd {g : Guard} {d : Dest} {ty : IntTy} {sat : Bool} {a b : Src} (h : Canon s) :
    CanonIn nextState (execIadd g d ty sat a b s) :=
  h.issue fun _ h => Canon.envIntBin h

protected theorem Canon.execIsub {g : Guard} {d : Dest} {ty : IntTy} {sat : Bool} {a b : Src} (h : Canon s) :
    CanonIn nextState (execIsub g d ty sat a b s) :=
  h.issue fun _ h => Canon.envIntBin h

protected theorem Canon.execImul {g : Guard} {d : Dest} {ty : IntTy} {sat : Bool} {a b : Src} (h : Canon s) :
    CanonIn nextState (execImul g d ty sat a b s) :=
  h.issue fun _ h => Canon.envIntBin h

protected theorem Canon.execImulh {g : Guard} {d : Dest} {ty : IntTy} {a b : Src} (h : Canon s) :
    CanonIn nextState (execImulh g d ty a b s) :=
  h.issue fun _ h => Canon.envIntBin h

protected theorem Canon.execImad {g : Guard} {d : Dest} {ty : IntTy} {sat : Bool} {a b c : Src} (h : Canon s) :
    CanonIn nextState (execImad g d ty sat a b c s) :=
  h.issue fun _ h => Canon.envLanewise h

protected theorem Canon.envDue {dest : DestUse} {kind : AccKind} {ready : Bool} {res : List (Nat × BitVec 128)}
    {fl : Flags} {park : Option SplitState} (h : Canon e.s) :
    CanonIn Eff.state (Env.due e dest kind ready res fl park) := by
  unfold Env.due
  refine .ite ⟨h⟩ ?_
  dsimp only
  split <;> exact ⟨h.newAccess.updCrew⟩

protected theorem Canon.execIdiv {g : Guard} {d : Dest} {ty : IntTy} {sat z rem : Bool} {a b : Src} (h : Canon s) :
    CanonIn nextState (execIdiv g d ty sat z rem a b s) :=
  h.issue fun _ h => .ite .empty (Canon.envDue h)

protected theorem Canon.execImin {g : Guard} {d : Dest} {ty : IntTy} {a b : Src} (h : Canon s) :
    CanonIn nextState (execImin g d ty a b s) :=
  h.issue fun _ h => Canon.envIntBin h

protected theorem Canon.execImax {g : Guard} {d : Dest} {ty : IntTy} {a b : Src} (h : Canon s) :
    CanonIn nextState (execImax g d ty a b s) :=
  h.issue fun _ h => Canon.envIntBin h

protected theorem Canon.execIabs {g : Guard} {d : Dest} {ty : IntTy} {sat : Bool} {a : Src} (h : Canon s) :
    CanonIn nextState (execIabs g d ty sat a s) :=
  h.issue fun _ h => Canon.envIntUn h

protected theorem Canon.execIneg {g : Guard} {d : Dest} {ty : IntTy} {sat : Bool} {a : Src} (h : Canon s) :
    CanonIn nextState (execIneg g d ty sat a s) :=
  h.issue fun _ h => Canon.envIntUn h

protected theorem Canon.envBitResult {d : Dest} {pw : Option (BitVec 3)} {bits : List (Nat × Bool)} {fl : Flags}
    (h : Canon e.s) : CanonIn Eff.state (Env.bitResult e d pw bits fl) := by
  unfold Env.bitResult
  refine ⟨Canon.addFlags ?_⟩
  split
  · exact h.writeQ.updSplit
  · exact h.writeQ

protected theorem Canon.execIcmp {g : Guard} {d : Dest} {ty : IntTy} {cond : ICond} {pw : Option (BitVec 3)}
    {a b : Src} (h : Canon s) : CanonIn nextState (execIcmp g d ty cond pw a b s) :=
  h.issue fun _ h => Canon.envBitResult h

protected theorem Canon.execIdp4 {g : Guard} {d : Dest} {aty bty : NumTy} {sat : Bool} {a b c : Src} (h : Canon s) :
    CanonIn nextState (execIdp4 g d aty bty sat a b c s) :=
  h.issue fun _ h => Canon.envLanewise h

protected theorem Canon.execSel {g : Guard} {d : Dest} {w64 neg : Bool} {p : BitVec 3} {a b : Src} (h : Canon s) :
    CanonIn nextState (execSel g d w64 neg p a b s) :=
  h.issue fun _ h => Canon.envLanewise h

protected theorem Canon.execMov {g : Guard} {d : Dest} {w64 : Bool} {a : Src} (h : Canon s) :
    CanonIn nextState (execMov g d w64 a s) :=
  h.issue fun _ h => Canon.envLanewise h

protected theorem Canon.execMovi {g : Guard} {d : Dest} {form : MoviForm} {a : Src} {imm : W32} (h : Canon s) :
    CanonIn nextState (execMovi g d form a imm s) := by
  unfold execMovi
  refine h.issue fun _ h => ?_
  split <;> exact Canon.envLanewise h

protected theorem Canon.dropL1 {cr : Crew} {vas : List Nat} (h : Canon s) : Canon (dropL1 s cr vas) := by
  unfold dropL1
  refine h.foldl fun _ _ h => ?_
  split
  · exact h.l1Drop
  · exact h

protected theorem Canon.raceRecord {ctx : Nat} {i : Ident} {r w : Bool} {ps : List (Nat × Nat)} (h : Canon s) :
    Canon (raceRecord s ctx i r w ps) :=
  h.foldl fun _ _ h => h.upd

protected theorem Canon.raceAccess {ctx : Nat} {i : Ident} {r w : Bool} {ps : List (Nat × Nat)} (h : Canon s) :
    CanonIn Except.toOption (raceAccess s ctx i r w ps) := by
  unfold raceAccess
  split
  · exact .empty
  · exact ⟨h.raceRecord⟩

protected theorem Canon.raceCheck {a : Access} (h : Canon s) : CanonIn Except.toOption (raceCheck s a) := by
  unfold raceCheck
  dsimp only
  split
  · exact .empty
  · split
    · exact .empty
    · exact ⟨h.raceAccess.of ‹_›⟩

protected theorem Canon.envPost {dest : DestUse} {f : Nat → Access} (h : Canon s) :
    Canon (Env.post e s dest f).1 := by
  unfold Env.post
  dsimp only
  exact h.newAccess.updCrew

protected theorem Canon.envAcquire {id : Nat} (h : Canon s) : Canon (Env.acquire e s id) := h.updSplit

protected theorem Canon.enqueue {cid id : Nat} (h : Canon s) : Canon (enqueue s cid id) := h.updCrew

protected theorem Canon.envQueueing {k : Eff} (h : Canon e.s) (hk : CanonIn Eff.state k) :
    CanonIn Eff.state (Env.queueing e k) :=
  .ite ⟨h⟩ hk

protected theorem Canon.dropLayouts {cls : List Nat} (h : Canon s) : Canon (dropLayouts s cls) := h.upd

protected theorem Canon.envFence {scope : Scope} {src dst : BitVec 8} (h : Canon e.s) :
    CanonIn Fenced.state (Env.fence e scope src dst) :=
  .ite ⟨h.updSplit⟩ (.ite ⟨h.updSplit⟩ (.ite ⟨h.updSplit⟩ ⟨h.updSplit.dropLayouts.ite h.updSplit⟩))

protected theorem Canon.envFenced {scope : Scope} {src dst : BitVec 8} {k : Env → Eff} (h : Canon e.s)
    (hk : ∀ e, Canon e.s → CanonIn Eff.state (k e)) : CanonIn Eff.state (Env.fenced e scope src dst k) := by
  unfold Env.fenced
  split
  · exact ⟨(Canon.envFence h).of ‹_›⟩
  · exact hk _ ((Canon.envFence h).of ‹_›)

protected theorem Canon.envTracked {tracked : Bool} {f : Eff} (hf : CanonIn Eff.state f) :
    CanonIn Eff.state (Env.tracked e tracked f) := by
  unfold Env.tracked
  split
  · exact .ite ⟨hf.all.updAcc⟩ hf
  · exact hf

protected theorem Canon.envLoads {d : Dest} {m : MemRef} {kind : AccKind} {acq : Bool} (h : Canon e.s) :
    CanonIn Eff.state (Env.loads e d m kind acq) := by
  unfold Env.loads
  split
  · exact .empty
  · exact .ite ⟨h⟩ (Canon.envTracked ⟨h.envPost.envAcquire.ite h.envPost⟩)

protected theorem Canon.execLd {g : Guard} {d : Dest} {m : MemRef} {acq : Option Scope} (h : Canon s) :
    CanonIn nextState (execLd g d m acq s) :=
  h.issue fun _ h => Canon.envLoads h

protected theorem Canon.execGather {g : Guard} {d : Dest} {m : MemRef} (h : Canon s) :
    CanonIn nextState (execGather g d m s) :=
  h.issue fun _ h => Canon.envLoads h

protected theorem Canon.envEnqueueStore {kind : AccKind} {rec : BitVec 128} {qs : List LaneReq} (h : Canon s) :
    CanonIn Eff.state (Env.enqueueStore e s kind rec qs) :=
  ⟨(h.dropL1.ite h).envPost.enqueue⟩

protected theorem Canon.envStores {m : MemRef} {data : Src} {rel : Option Scope} {scatter : Bool} (h : Canon e.s) :
    CanonIn Eff.state (Env.stores e m data rel scatter) := by
  unfold Env.stores
  split
  · exact .empty
  · refine .ite ⟨h⟩ (Canon.envQueueing h ?_)
    split
    · exact Canon.envFenced h fun _ h => Canon.envTracked h.envEnqueueStore
    · exact Canon.envTracked h.envEnqueueStore

protected theorem Canon.execSt {g : Guard} {m : MemRef} {data : Src} {rel : Option Scope} (h : Canon s) :
    CanonIn nextState (execSt g m data rel s) :=
  h.issue fun _ h => Canon.envStores h

protected theorem Canon.execScatter {g : Guard} {m : MemRef} {data : Src} (h : Canon s) :
    CanonIn nextState (execScatter g m data s) :=
  h.issue fun _ h => Canon.envStores h

protected theorem Canon.execLds {g : Guard} {d : Dest} {m : SpadRef} (h : Canon s) :
    CanonIn nextState (execLds g d m s) := by
  unfold execLds
  refine h.issue fun _ h => ?_
  split
  · exact .empty
  · exact Canon.envDue h

protected theorem Canon.execSts {g : Guard} {m : SpadRef} {data : Src} (h : Canon s) :
    CanonIn nextState (execSts g m data s) := by
  unfold execSts
  refine h.issue fun _ h => ?_
  split
  · exact .empty
  · exact ⟨h.updCohort⟩

protected theorem Canon.execSpgrow {g : Guard} {d : Dest} {n : Src} (h : Canon s) :
    CanonIn nextState (execSpgrow g d n s) := by
  refine h.issue fun _ h => .ite ⟨h⟩ (.ite .empty ?_)
  dsimp only
  exact ⟨h.envPost.updAcc.set⟩

protected theorem Canon.execPref {g : Guard} {m : MemRef} {target : PrefTarget} (h : Canon s) :
    CanonIn nextState (execPref g m target s) :=
  h.issue fun _ h => .ite ⟨h⟩ ⟨h.envPost⟩

protected theorem Canon.dropTileEntries {u : Nat} (h : Canon s) : Canon (dropTileEntries s u) := h.upd

protected theorem Canon.execFence {g : Guard} {smask dmask : BitVec 8} {scope : Scope} {spadw : Bool} (h : Canon s) :
    CanonIn nextState (execFence g smask dmask scope spadw s) :=
  h.issue fun _ h => .ite .empty (.ite ⟨h⟩ (Canon.envFenced h fun _ h => ⟨h.dropTileEntries.ite h⟩))

protected theorem Canon.dropCode {ctx lo hi : Nat} (h : Canon s) : Canon (dropCode s ctx lo hi) := h.upd

protected theorem Canon.execIcsync {g : Guard} {br : BitVec 4} {a len : Src} (h : Canon s) :
    CanonIn nextState (execIcsync g br a len s) :=
  h.issue fun _ h => .ite ⟨h⟩ (.ite .empty (.ite .empty ⟨h.dropCode⟩))

protected theorem Canon.execBrld {g : Guard} {bd : BitVec 4} {a : Src} {br : BitVec 4} {off : BitVec 11}
    {acq : Option Scope} (h : Canon s) : CanonIn nextState (execBrld g bd a br off acq s) := by
  unfold execBrld
  refine h.issue fun _ h => (.ite ⟨h⟩ ?_)
  dsimp only
  split
  · exact .empty
  · exact Canon.envTracked ⟨h.envPost.envAcquire.ite h.envPost⟩

protected theorem Canon.execBrmk {g : Guard} {bd : BitVec 4} {base extent : Src} {baseHi : BitVec 8}
    {stride : BitVec 16} {rights : BitVec 5} {sw : BitVec 3} (h : Canon s) :
    CanonIn nextState (execBrmk g bd base extent baseHi stride rights sw s) :=
  h.issue fun _ h => .ite ⟨h⟩ (.ite .empty ⟨h.updCrew⟩)

protected theorem Canon.execPin {g : Guard} {d : Dest} {br : BitVec 4} {fade : BitVec 8} {a n : Src} (h : Canon s) :
    CanonIn nextState (execPin g d br fade a n s) :=
  h.issue fun _ h => .ite ⟨h⟩ (.ite .empty (.ite .empty (.ite .empty (.ite .empty ⟨h.envPost⟩))))

protected theorem Canon.execUnpin {g : Guard} {w : Src} (h : Canon s) : CanonIn nextState (execUnpin g w s) :=
  h.issue fun _ h => .ite ⟨h⟩ ⟨h.dropWindow⟩

protected theorem Canon.envYieldOn {k pend : Nat} {w : Int} (h : Canon s) :
    CanonIn Eff.state (Env.yieldOn e s k pend w) :=
  .ite ⟨h.updSplit⟩ ⟨h⟩

protected theorem Canon.noteCopy {k : Nat} {src dst : CopySide} (h : Canon s) : Canon (noteCopy s k src dst) := by
  unfold noteCopy
  dsimp only
  split
  · split
    · exact h.upd
    · exact h.updCohort
  · exact h.updCohort
  · exact h

protected theorem Canon.envStartCopy {src dst : CopySide} {rows rb kc : Nat} (h : Canon e.s) :
    Canon (Env.startCopy e src dst rows rb kc) :=
  h.upd.noteCopy.updCrew

protected theorem Canon.execCopy {g : Guard} {dir : CopyDir} {src dst shape : Src} {x : CopyExt} (h : Canon s) :
    CanonIn nextState (execCopy g dir src dst shape x s) := by
  unfold execCopy
  refine h.issue fun _ h => (.ite .empty ?_)
  split
  · split
    · exact h.envYieldOn
    · exact ⟨h⟩
  · refine .ite .empty ?_
    dsimp only
    split
    · exact .empty
    · exact .empty
    · refine .ite ⟨h⟩ ?_
      split
      · exact (Canon.envStartCopy h).envYieldOn
      · exact ⟨Canon.envStartCopy h⟩

/-! Requests of lines, their returns and the store queues. -/

protected theorem Canon.updLine {acc i : Nat} {f : LineReq → LineReq} (h : Canon s) : Canon (updLine s acc i f) :=
  h.updAcc

protected theorem Canon.logAdmit {cid : Nat} (h : Canon s) : Canon (logAdmit s cid) := by
  unfold logAdmit
  split
  · exact h
  · dsimp only
    split
    · exact h
    · exact h.updCore.updCrew.updAcc.ite h

protected theorem Canon.endAccess {acc : Nat} (h : Canon s) : Canon (endAccess s acc) := by
  unfold endAccess
  split
  · exact h
  · exact h.upd.updCrew.logAdmit.wakeCrew

protected theorem Canon.returnValues {acc : Nat} {vals : List (Nat × BitVec 128 × Option Nat)} (h : Canon s) :
    Canon (returnValues s acc vals) := by
  unfold returnValues
  split
  · exact h
  · extract_lets u w
    have hu : Canon u := h.updCrew
    have hw : Canon w := hu.saveWords.ite hu
    split
    · exact hw.wakeSplits.endAccess.reformCheck
    · exact hw.wakeSplits.endAccess

protected theorem Canon.violate {acc : Nat} {r : Report} (h : Canon s) : Canon (violate s acc r) := by
  unfold violate
  split
  · exact h
  · exact h.returnValues.deferReport

protected theorem Canon.xlateLine {cr : Crew} {a : Access} {demand : Bool} {l : LineReq} (h : Canon s) :
    Canon (xlateLine s cr a demand l).2 := by
  unfold xlateLine
  dsimp only
  split
  · exact h.translate.snd ‹_›
  · exact h.translate

protected theorem Canon.walkLines {cr : Crew} {a : Access} {ls : List LineReq} (h : Canon s) :
    CanonIn Walks.state (walkLines s cr a ls) := by
  induction ls with
  | nil => exact .empty
  | cons l ls ih =>
    unfold walkLines
    split
    · split
      · exact .empty
      · exact .empty
      · exact .empty
      · exact ⟨h.xlateLine.snd ‹_›⟩
      · exact ih
    · exact ih

protected theorem Canon.xlateLines {cr : Crew} {a : Access} {ls : List LineReq} (h : Canon s) :
    Canon (xlateLines s cr a ls).2 := by
  induction ls generalizing s with
  | nil => exact h
  | cons x xs ih =>
    unfold xlateLines
    refine ih ?_
    split
    · split
      · exact h.xlateLine.snd ‹_›
      · split <;> exact ((h.xlateLine.snd ‹_›).joinFault.snd ‹_›)
      · exact h.xlateLine.snd ‹_›
    · exact h

protected theorem Canon.prefLines {cr : Crew} {a : Access} {ls : List LineReq} (h : Canon s) :
    Canon (prefLines s cr a ls).2 := by
  induction ls generalizing s with
  | nil => exact h
  | cons x xs ih => exact ih (Canon.iteSnd h.xlateLine h)

protected theorem Canon.logAccess {acc : Nat} {a : Access} {cr : Crew} (h : Canon s) : Canon (logAccess s acc a cr) :=
  h.ite (h.updCrew.updAcc.ite h.updCore)

protected theorem Canon.pinOutcome {ctx base len fade : Nat} {pages : List Nat} (h : Canon s) :
    Canon (pinOutcome s ctx base len fade pages).2 := by
  unfold pinOutcome
  split
  · exact h
  · refine Canon.iteSnd h (Canon.iteSnd h (Canon.iteSnd h ?_))
    split
    · exact h
    · exact h.updCtx

protected theorem Canon.pinPerform {acc : Nat} (h : Canon s) : Canon (pinPerform s acc) := by
  unfold pinPerform
  split
  · exact h
  · split
    · refine Canon.ite h (Canon.updAcc (Canon.pinOutcome ?_))
      split
      · exact h.foldl fun _ _ h => h.countCore
      · exact h
    · exact h

protected theorem Canon.withdraw {acc : Nat} {a : Access} {r : Report} (h : Canon s) :
    Canon (withdraw s acc a r) := by
  unfold withdraw
  dsimp only
  split
  · exact h.endAccess
  · exact h.updCrew.endAccess.updSplit.takeTrap

protected theorem Canon.raceWalk {acc : Nat} (h : Canon s) : Canon (raceWalk s acc) := by
  unfold raceWalk
  split
  · exact h
  · refine Canon.ite h ?_
    split
    · exact h.withdraw
    · exact (h.raceCheck.of ‹_›).updAcc

protected theorem Canon.dropStored {cr : Crew} {a : Access} {ls : List LineReq} (h : Canon s) :
    Canon (dropStored s cr a ls) :=
  (h.foldl fun _ _ h => h.l1Drop).ite h

protected theorem Canon.execPageWalk {req : Nat} (h : Canon s) : CanonIn nextState (execPageWalk req s) := by
  unfold execPageWalk
  split
  · exact ⟨h⟩
  · split
    · exact ⟨h⟩
    · refine .ite ⟨h⟩ ?_
      split
      · exact ⟨h.prefLines.updAcc⟩
      · split
        · exact ⟨h.violate⟩
        · exact ⟨h.walkLines.of ‹_›⟩
        · exact ⟨(h.xlateLines.updAcc.logAccess.ite h.xlateLines.updAcc).dropStored.pinPerform.raceWalk⟩

protected theorem Canon.execOperandLogReplay {crew : Nat} (h : Canon s) :
    CanonIn nextState (execOperandLogReplay crew s) := by
  unfold execOperandLogReplay
  split
  · exact ⟨h⟩
  · split
    · exact ⟨h⟩
    · split
      · exact ⟨h.updCrew⟩
      · refine .ite ⟨h⟩ ?_
        split
        · exact ⟨h.violate⟩
        · exact ⟨h.walkLines.of ‹_›⟩
        · exact ⟨h.xlateLines.dropStored.updAcc.pinPerform.raceWalk.wakeCrew⟩

protected theorem Canon.execPendingFaultPost {ctx : Nat} (h : Canon s) :
    CanonIn nextState (execPendingFaultPost ctx s) := by
  unfold execPendingFaultPost
  split
  · exact ⟨h⟩
  · dsimp only
    split
    · split
      · exact ⟨h.postFault⟩
      · exact ⟨h⟩
    · split
      · split
        · exact ⟨h.postFault⟩
        · exact ⟨h⟩
      · refine ⟨Canon.updCtx ?_⟩
        split
        · exact h.ringPost
        · exact h

protected theorem Canon.serve {acc i pa : Nat} {a : Access} {cr : Crew} {l : LineReq} {bs : List Byte} (h : Canon s) :
    Canon (serve s acc i pa a cr l bs) := by
  unfold serve
  dsimp only
  split
  · exact h.updLine
  · exact h.updLine.touchWindows.countCore

protected theorem Canon.serveHome {acc i pa : Nat} {a : Access} {cr : Crew} {l : LineReq} (h : Canon s) :
    Canon (serveHome s acc i pa a cr l) := by
  unfold serveHome
  dsimp only
  split
  · exact h.settle.icFill.serve
  · exact h.settle.l2Touch.grantLease.l1Fill.serve.ite (h.settle.l2Touch.ite h.settle).serve

protected theorem Canon.servePasses {acc pa : Nat} {a : Access} {cr : Crew} (h : Canon s) :
    Canon (servePasses s acc pa a cr) :=
  h.foldl fun _ _ h => h.serveHome.ite h

protected theorem Canon.requestLine {acc i pa : Nat} {a : Access} (h : Canon s) :
    Canon (requestLine s acc i pa a) := by
  unfold requestLine
  refine Canon.ite h.updLine ?_
  split
  · exact (h.sendGranules.of ‹_›).updLine.ite (h.sendGranules.of ‹_›).updAcc
  · exact h

protected theorem Canon.remoteRead {k : Option Nat} {addr n : Nat} (h : Canon s) :
    Canon (remoteRead s k addr n).2 := by
  unfold remoteRead
  split
  · exact h
  · exact h.upd

protected theorem Canon.remoteWrite {k : Option Nat} {addr : Nat} {bs : List Byte} (h : Canon s) :
    Canon (remoteWrite s k addr bs) := by
  unfold remoteWrite
  split
  · exact ⟨h.mem, Memory.wf_setN h.host _ _⟩
  · exact h

protected theorem Canon.serveRemote {acc pa : Nat} {a : Access} {cr : Crew} {l : LineReq} {k : Option Nat}
    {addr : Nat} (h : Canon s) : Canon (serveRemote s acc pa a cr l k addr) :=
  h.violate.ite h.remoteRead.countCore.updAcc

protected theorem Canon.execLineRequestHome {acc line : Nat} (h : Canon s) :
    CanonIn nextState (execLineRequestHome acc line s) := by
  unfold execLineRequestHome
  split
  · exact ⟨h⟩
  · split
    · split
      · refine .ite ⟨h⟩ (.ite ⟨h⟩ ?_)
        split
        · exact ⟨h.serveRemote⟩
        · exact ⟨h.l1Fill.foldl fun _ _ h => h.serve.ite h⟩
        · exact .ite ⟨h.updLine⟩ (.ite ⟨h.servePasses⟩ (.ite ⟨(h.ite h.l2Touch).cisternTouch.servePasses⟩
            (.ite ⟨h.requestLine⟩ (.ite ⟨h⟩ ⟨(h.l2Touch.cisternTouch.ite h).servePasses⟩))))
      · exact ⟨h⟩
    · exact ⟨h⟩

protected theorem Canon.execGatherExpand {acc stack : Nat} (h : Canon s) :
    CanonIn nextState (execGatherExpand acc stack s) := by
  unfold execGatherExpand
  split
  · exact ⟨h⟩
  · split
    · refine ⟨h.foldl fun _ _ h => ?_⟩
      split
      · exact h.ite (h.sendGranules.getD h)
      · exact h
    · exact ⟨h⟩

protected theorem Canon.waitCancels {a : Access} {cr : Crew} (h : Canon s) : Canon (waitCancels s a cr).2 := by
  unfold waitCancels
  split
  · exact Canon.iteSnd h.cancelsHere h
  · exact h

protected theorem Canon.execResultArrive {acc : Nat} (h : Canon s) : CanonIn nextState (execResultArrive acc s) := by
  unfold execResultArrive
  split
  · exact ⟨h⟩
  · refine .ite ⟨h⟩ ?_
    split
    · exact ⟨h.endAccess⟩
    · exact .ite ⟨h.waitCancels.ite h.waitCancels.endAccess.endCrew⟩ ⟨h.waitCancels.returnValues⟩

protected theorem Canon.execStoreQueueSend {crew : Nat} (h : Canon s) :
    CanonIn nextState (execStoreQueueSend crew s) := by
  unfold execStoreQueueSend
  split
  · exact ⟨h⟩
  · refine .ite ⟨h⟩ ?_
    split
    · exact ⟨h⟩
    · exact ⟨h.updAcc.updCrew.wakeCrew⟩

protected theorem Canon.markLines {acc pa : Nat} {a : Access} {st : LineState} (h : Canon s) :
    Canon (markLines s acc pa a st) :=
  h.foldl fun _ _ h => h.updLine.ite h

protected theorem Canon.storeRemote {acc pa : Nat} {a : Access} {cr : Crew} {l : LineReq} {k : Option Nat}
    {addr : Nat} (h : Canon s) : Canon (storeRemote s acc pa a cr l k addr) := by
  unfold storeRemote
  refine Canon.ite h.violate.updCrew ?_
  split
  · exact h.markLines.updCrew.endAccess.ite h.markLines.updCrew.wakeCrew
  · extract_lets _ posted sent
    have hp : Canon posted := h.countCore.markLines.updCrew
    have hs : Canon sent := by
      unfold sent
      split
      · exact ⟨hp.mem, Memory.wf_setAll hp.host _⟩
      · exact hp
    exact hs.wakeCrew

protected theorem Canon.execStoreArrive {acc line : Nat} (h : Canon s) :
    CanonIn nextState (execStoreArrive acc line s) := by
  unfold execStoreArrive
  split
  · exact ⟨h⟩
  · split
    · split
      · exact ⟨h⟩
      · refine .ite ⟨h⟩ ?_
        split
        · exact ⟨h.storeRemote⟩
        · exact ⟨(h.storeLine.ackTw.foldl fun _ _ h => h.countCore.updLine.ite h).endAccess.ite
            (h.storeLine.ackTw.foldl fun _ _ h => h.countCore.updLine.ite h)⟩
    · exact ⟨h⟩

protected theorem Canon.execStoreLand {line : Nat} (h : Canon s) : CanonIn nextState (execStoreLand line s) :=
  ⟨h.settle⟩

protected theorem Canon.execStaleRequest {acc line : Nat} (h : Canon s) :
    CanonIn nextState (execStaleRequest acc line s) := by
  unfold execStaleRequest
  split
  · split
    · exact .ite ⟨h.updLine⟩ ⟨h⟩
    · exact ⟨h⟩
  · exact ⟨h⟩

protected theorem Canon.execSpillEvict {core : Nat} (h : Canon s) : CanonIn nextState (execSpillEvict core s) := by
  unfold execSpillEvict
  split
  · exact ⟨h.wakeRows⟩
  · split
    · exact ⟨h⟩
    · exact ⟨h.spillTo.wakeRows⟩

protected theorem Canon.wakeFills {cid : Nat} (h : Canon s) : Canon (wakeFills s cid) := by
  unfold wakeFills
  split
  · exact h
  · exact h.wakeSplits

protected theorem Canon.execRegisterFill {crew reg : Nat} (h : Canon s) :
    CanonIn nextState (execRegisterFill crew reg s) := by
  unfold execRegisterFill
  split
  · exact ⟨h⟩
  · refine .ite ⟨h⟩ (.ite ⟨h.wakeFills⟩ (.ite ⟨h.foldl fun _ _ h => h.askFill⟩ (.ite ⟨h.killCrew⟩ ?_)))
    split
    · exact ⟨h⟩
    · exact ⟨h.updCrew.wakeFills⟩

/-! The SYNC path: atomics, contributions and line locks. -/

protected theorem Canon.victimise {k : Nat} {f : SyncFrame} (h : Canon s) : Canon (victimise s k f) := by
  unfold victimise
  dsimp only
  split
  · exact h.upd.l2Touch
  · exact h.upd

protected theorem Canon.makeFrame {k : Nat} (h : Canon s) : CanonIn id (makeFrame s k) :=
  .ite ⟨h⟩ (.map fun _ => h.victimise)

protected theorem Canon.touchFrame {k : Nat} {f : SyncFrame} (h : Canon s) : CanonIn id (touchFrame s k f) :=
  .ite ⟨h.upd⟩ (h.makeFrame.mapState fun _ h => ⟨h.upd⟩)

protected theorem Canon.enterFrames {fs : List SyncFrame} (h : Canon s) : Canon (enterFrames s fs) := by
  unfold enterFrames
  refine h.foldl fun _ _ h => ?_
  split
  · exact h.touchFrame.getD h
  · exact h

protected theorem Canon.fetchVictims {p : Nat → Bool} (h : Canon s) : Canon (fetchVictims s p) := h.upd.enterFrames

protected theorem Canon.syncTake {line : Nat} (h : Canon s) : CanonIn id (syncTake s line) :=
  .ite (h.settle.touchFrame.mapState fun _ h => ⟨h.l2Touch⟩) .empty

protected theorem Canon.engineTake {pa : Nat} (h : Canon s) : CanonIn id (engineTake s pa) := .ite ⟨h⟩ h.syncTake

protected theorem Canon.cellRead {pa n : Nat} (h : Canon s) : Canon (cellRead s pa n).2 := by
  unfold cellRead
  split
  · exact h.remoteRead
  · exact h

protected theorem Canon.cellWrite {cid pa : Nat} {bs : List Byte} (h : Canon s) : Canon (cellWrite s cid pa bs) := by
  unfold cellWrite
  split
  · exact h.remoteWrite
  · exact h.arriveStore.ackTw

protected theorem Canon.syncFill {acc i pa : Nat} {l : LineReq} (h : Canon s) :
    CanonIn SyncFill.state (syncFill s acc i pa l) := by
  unfold syncFill
  refine .ite .empty ?_
  split
  · exact ⟨(h.sendGranules.of ‹_›).updLine⟩
  · exact ⟨h⟩

protected theorem Canon.logDone {acc : Nat} (h : Canon s) : Canon (logDone s acc) := by
  unfold logDone
  split
  · exact h
  · exact h.updAcc.updCrew.logAdmit.wakeCrew.ite h

protected theorem Canon.updLane {acc lane : Nat} {f : LaneReq → LaneReq} (h : Canon s) :
    Canon (updLane s acc lane f) :=
  h.updAcc

protected theorem Canon.settleLanes {acc : Nat} (h : Canon s) : Canon (settleLanes s acc) := h.updAcc.logDone

protected theorem Canon.envPostSync {d : DestUse} {kind : AccKind} {br : BitVec 4} {qs : List LaneReq} {acq : Bool}
    (h : Canon s) : Canon (Env.postSync e s d kind br qs acq).1 := by
  unfold Env.postSync
  dsimp only
  exact h.envPost.envAcquire.ite h.envPost

protected theorem Canon.envAtomFence {scope : Option Scope} {k : Env → Eff} (h : Canon e.s)
    (hk : ∀ e, Canon e.s → CanonIn Eff.state (k e)) : CanonIn Eff.state (Env.atomFence e scope k) := by
  unfold Env.atomFence
  split
  · exact Canon.envFenced h fun _ h => hk _ h
  · exact hk _ h

protected theorem Canon.execAtom {g : Guard} {d : Dest} {op : AtomOp} {ty : AtomTy} {br : BitVec 4} {off : BitVec 11}
    {scope : Option Scope} {a b c : Src} (h : Canon s) :
    CanonIn nextState (execAtom g d op ty br off scope a b c s) := by
  unfold execAtom
  refine h.issue fun _ h => ?_
  dsimp only
  split
  · exact .empty
  · exact .ite ⟨h⟩ (Canon.envAtomFence h fun _ h => Canon.envTracked ⟨h.envPostSync⟩)

protected theorem Canon.atomLane {acc pa : Nat} {a : Access} {op : AtomOp} {ty : AtomTy} {q : LaneReq} (h : Canon s) :
    Canon (atomLane s acc pa a op ty q) := by
  unfold atomLane
  dsimp only
  exact (h.cellRead.cellWrite.ite h.cellRead).updLane

protected theorem Canon.atomPerform {acc pa : Nat} {a : Access} {l : LineReq} {op : AtomOp} {ty : AtomTy}
    (h : Canon s) : Canon (atomPerform s acc pa a l op ty) :=
  (h.touchWindows.updAcc.foldl fun _ _ h => h.updLane.ite h.atomLane).examineHeld

protected theorem Canon.execCombine {g : Guard} {grp : BitVec 12} (h : Canon s) :
    CanonIn nextState (execCombine g grp s) := by
  refine h.issue fun _ h => .ite ⟨h⟩ (Canon.envQueueing h ?_)
  dsimp only
  exact ⟨h.envPost.enqueue⟩

protected theorem Canon.foldBegin {acc i slice : Nat} {a : Access} {grp : Nat} (h : Canon s) :
    Canon (foldBegin s acc i slice a grp) :=
  h.ite h.upd.updAcc

protected theorem Canon.foldSized {pa : Nat} {a : Access} {l : LineReq} {all : List Staging} {n : Nat} (h : Canon s) :
    Canon (foldSized pa a l all s n) := by
  unfold foldSized
  extract_lets
  exact h.foldl fun _ _ h => (h.upd.iteSnd h.cellRead).cellWrite

protected theorem Canon.foldLine {pa : Nat} {a : Access} {l : LineReq} (h : Canon s) : Canon (foldLine s pa a l) :=
  (h.touchWindows.foldl fun _ _ h => h.foldSized).examineHeld

protected theorem Canon.combineEnd {acc : Nat} (h : Canon s) : Canon (combineEnd s acc) := h.endAccess.ite h

protected theorem Canon.execSyncAccess {acc line : Nat} (h : Canon s) :
    CanonIn nextState (execSyncAccess acc line s) := by
  unfold execSyncAccess
  split
  · exact ⟨h⟩
  · split
    · exact ⟨h⟩
    · split
      · exact ⟨h.foldBegin.combineEnd⟩
      · refine .ite ⟨h⟩ (.ite ⟨h.updLine.deferReport.combineEnd⟩ ?_)
        split
        · exact ⟨h.syncFill.of ‹_›⟩
        · split
          · exact ⟨h⟩
          · exact ⟨(h.engineTake.of ‹_›).foldLine.updLine.combineEnd⟩
      · refine .ite ⟨h⟩ (.ite ⟨h.violate⟩ ?_)
        split
        · exact ⟨h.syncFill.of ‹_›⟩
        · split
          · exact ⟨(h.engineTake.of ‹_›).atomPerform.countCore.settleLanes⟩
          · exact ⟨h⟩
      · exact ⟨h⟩

protected theorem Canon.execAtomo {g : Guard} {d : Dest} {op : AtomOp} {ty : AtomTy} {br : BitVec 4} {off : BitVec 11}
    {scope : Option Scope} {a b sq : Src} (h : Canon s) :
    CanonIn nextState (execAtomo g d op ty br off scope a b sq s) := by
  unfold execAtomo
  refine h.issue fun _ h => ?_
  split
  · exact .empty
  · exact .ite ⟨h⟩ (Canon.envAtomFence h fun _ h => ⟨h.envPostSync⟩)

protected theorem Canon.holdOrdered {acc lane pa ctx : Nat} (h : Canon s) : Canon (holdOrdered s acc lane pa ctx) :=
  h.updLane.ite (h.updCtx.updLane.ite h.updLane)

protected theorem Canon.orderedRemote {acc pa : Nat} {a : Access} {q : LaneReq} {op : AtomOp} {ty : AtomTy}
    (h : Canon s) : Canon (orderedRemote s acc pa a q op ty) :=
  h.cellRead.cellWrite.updLane.ite (h.cellRead.updLane.ite h.cellRead.updLane)

protected theorem Canon.orderedAt {acc pa ctx : Nat} {a : Access} {q : LaneReq} {op : AtomOp} {ty : AtomTy}
    (h : Canon s) : Canon (orderedAt s acc pa ctx a q op ty) :=
  h.orderedPerform.examineHeld.ite (h.holdOrdered.ite h.stalePerform)

protected theorem Canon.execAtomoRequest {acc lane : Nat} (h : Canon s) :
    CanonIn nextState (execAtomoRequest acc lane s) := by
  unfold execAtomoRequest
  split
  · exact ⟨h⟩
  · split
    · split
      · exact ⟨h⟩
      · split
        · refine .ite ⟨h⟩ (.ite ⟨h.violate⟩ ?_)
          split
          · exact ⟨h.syncFill.of ‹_›⟩
          · split
            · exact ⟨h⟩
            · next ht =>
              have ht := h.engineTake.of ht
              exact ⟨(ht.touchWindows.updLane.ite
                (ht.touchWindows.orderedRemote.ite ht.touchWindows.orderedAt)).countCore.settleLanes⟩
        · exact ⟨h⟩
    · exact ⟨h⟩

protected theorem Canon.execAtomoResend {acc lane : Nat} (h : Canon s) :
    CanonIn nextState (execAtomoResend acc lane s) := by
  unfold execAtomoResend
  split
  · exact ⟨h⟩
  · split
    · exact ⟨h.updLane⟩
    · exact ⟨h⟩

protected theorem Canon.execReds {g : Guard} {op : RedsOp} {ty : AtomTy} {br : BitVec 4} {off : BitVec 11}
    {a b c : Src} (h : Canon s) : CanonIn nextState (execReds g op ty br off a b c s) := by
  unfold execReds
  refine h.issue fun _ h => ?_
  dsimp only
  split
  · exact .empty
  · exact .ite ⟨h⟩ (Canon.envQueueing h ⟨h.envPostSync.enqueue⟩)

protected theorem Canon.redsEnd {acc : Nat} (h : Canon s) : Canon (redsEnd s acc) := by
  unfold redsEnd
  split
  · exact h
  · refine Canon.ite h ?_
    dsimp only
    split
    · exact h.endAccess.deferReport
    · exact h.endAccess

protected theorem Canon.redsDemand {a : Access} {pa : Nat} {l : LineReq} (h : Canon s) :
    Canon (redsDemand s a pa l) := by
  unfold redsDemand
  refine Canon.ite h ?_
  dsimp only
  split
  · exact h.touchWindows.countCore
  · exact h.touchWindows

protected theorem Canon.execRedsContribution {acc lane : Nat} (h : Canon s) :
    CanonIn nextState (execRedsContribution acc lane s) := by
  unfold execRedsContribution
  split
  · exact ⟨h⟩
  · split
    · split
      · exact ⟨h⟩
      · split
        · refine .ite ⟨h⟩ (.ite ⟨h.violate⟩ ?_)
          dsimp only
          split
          · refine .ite ⟨h.redsDemand.updLane.settleLanes.redsEnd⟩ ⟨?_⟩
            exact (h.redsDemand.touchFrame.mapState fun _ h => ⟨h.set.updLane.settleLanes.redsEnd⟩).getD h
          · exact ⟨(h.redsDemand.touchFrame.of ‹_›).set.updLane.settleLanes.redsEnd⟩
          · exact ⟨h⟩
        · exact ⟨h⟩
    · exact ⟨h⟩

protected theorem Canon.execLlock {g : Guard} {d : Dest} {br : BitVec 4} {off : BitVec 11} {limit : W32} {a : Src}
    (h : Canon s) : CanonIn nextState (execLlock g d br off limit a s) := by
  unfold execLlock
  refine h.issue fun _ h => (.ite ⟨h⟩ ?_)
  dsimp only
  split
  · exact .empty
  · exact .ite ⟨h.envPost⟩ (.ite .empty (.ite .empty (.ite .empty ⟨h.envPost⟩)))

protected theorem Canon.divergeLock {w : Waiter} {i : Nat} (h : Canon s) : Canon (divergeLock s w i) := by
  unfold divergeLock
  split
  · exact h.freeEntry.upd.dropIdleLocks.withdraw
  · exact h

protected theorem Canon.divergeSpent (h : Canon s) : Canon (divergeSpent s) := h.foldl fun _ _ h => h.divergeLock

protected theorem Canon.execLunlock {g : Guard} {br : BitVec 4} {off : BitVec 10} {a : Src} (h : Canon s) :
    CanonIn nextState (execLunlock g br off a s) := by
  unfold execLunlock
  refine h.issue fun _ h => (.ite ⟨h⟩ ?_)
  dsimp only
  split
  · exact .empty
  · split
    · exact .empty
    · exact Canon.envFenced h fun _ h => .ite ⟨h⟩ ⟨h.releaseLock⟩

protected theorem Canon.enqueueLock {acc pa : Nat} {a : Access} {cr : Crew} {limit : Nat} (h : Canon s) :
    Canon (enqueueLock s acc pa a cr limit) := by
  unfold enqueueLock
  extract_lets line isOver w t l
  have ht : Canon t := h.updCtx.ite h
  exact ht.set.updAcc.serveFree.logDone

protected theorem Canon.refuseLock {acc : Nat} {a : Access} (h : Canon s) : Canon (refuseLock s acc a) := h.withdraw

protected theorem Canon.holdsAlready {acc : Nat} (h : Canon s) : Canon (holdsAlready s acc) := h.updAcc.logDone

protected theorem Canon.execLockRequest {acc : Nat} (h : Canon s) : CanonIn nextState (execLockRequest acc s) := by
  unfold execLockRequest
  split
  · exact ⟨h⟩
  · split
    · split
      · refine .ite ⟨h⟩ (.ite ⟨h.violate⟩ (.ite ⟨h.holdsAlready⟩ (.ite ⟨h.refuseLock⟩ ?_)))
        split
        · exact ⟨h⟩
        · next t ht =>
          have hl : Canon t := by
            refine CanonIn.of (st := id) ?_ ht
            exact .ite ⟨h⟩ h.engineTake
          exact ⟨hl.touchWindows.countCore.enqueueLock.markLeaving.ite hl.touchWindows.countCore.enqueueLock⟩
      · exact ⟨h⟩
    · exact ⟨h⟩

protected theorem Canon.execLockTimeout {crew : Nat} (h : Canon s) : CanonIn nextState (execLockTimeout crew s) :=
  .ite ⟨h⟩ ⟨h.foldl fun _ _ h => h.markLeaving⟩

protected theorem Canon.breakCycles {n : Nat} (h : Canon s) : Canon (breakCycles n s) := by
  induction n generalizing s with
  | zero => exact h
  | succ n ih =>
    unfold breakCycles
    split
    · exact h
    · split
      · exact h
      · exact ih h.markLeaving

protected theorem Canon.execDeadlockScan (h : Canon s) : CanonIn nextState (execDeadlockScan s) :=
  .ite ⟨h.breakCycles⟩ ⟨h⟩

/-! Queues, graphs, sessions and copies. -/

protected theorem Canon.virtAndThen {α β : Type} {r : Virt α} {f : α → State → Virt β} (hr : CanonIn Virt.state r)
    (hf : ∀ x t, Canon t → CanonIn Virt.state (f x t)) : CanonIn Virt.state (Virt.andThen r f) := by
  unfold Virt.andThen
  split
  · exact hf _ _ hr.all
  · exact ⟨hr.all⟩
  · exact ⟨hr.all⟩
  · exact .empty

protected theorem Canon.virtBytes {ctx : Nat} {need : Need} {xs : List (Nat × Byte)} (h : Canon s) :
    CanonIn Virt.state (virtBytes s ctx need xs) := by
  induction xs generalizing s with
  | nil => exact ⟨h⟩
  | cons x xs ih =>
    unfold virtBytes
    split
    · exact .ite ⟨h.translate.snd ‹_›⟩ (Canon.virtAndThen (ih (h.translate.snd ‹_›)) fun _ _ h => ⟨h⟩)
    · exact ⟨h.translate.snd ‹_›⟩
    · exact ⟨h.translate.snd ‹_›⟩
    · exact .empty

protected theorem Canon.virtWrite {ctx va : Nat} {bs : List Byte} (h : Canon s) :
    CanonIn Virt.state (virtWrite s ctx va bs) :=
  Canon.virtAndThen h.virtBytes fun _ _ h => ⟨h.arriveAll⟩

protected theorem Canon.virtRead {ctx va n : Nat} (h : Canon s) : CanonIn Virt.state (virtRead s ctx va n) := by
  unfold virtRead
  refine Canon.virtAndThen h.virtBytes fun _ _ h => ?_
  split
  · exact ⟨h.askFill⟩
  · exact .ite .empty ⟨h⟩

protected theorem Canon.sessionPut {ctx : Nat} {r : RingRef} {x : BitVec 256} {prod : Nat} (h : Canon s) :
    CanonIn Virt.state (sessionPut s ctx r x prod) :=
  Canon.virtAndThen h.virtWrite fun _ _ h => Canon.virtAndThen h.virtBytes fun _ _ h => ⟨h.devWriteAfter⟩

protected theorem Canon.sessionWrite {ctx q : Nat} {cseq : W32} {r : RingRef} {x : BitVec 256} (h : Canon s) :
    CanonIn Offered.state (sessionWrite s ctx q cseq r x) := by
  unfold sessionWrite
  extract_lets pages put
  have hp : CanonIn Virt.state put :=
    Canon.virtAndThen (Canon.virtAndThen h.virtRead fun _ _ h => Canon.virtAndThen h.virtRead fun _ _ h => ⟨h⟩)
      fun _ _ h => .ite ⟨h⟩ (Canon.virtAndThen h.sessionPut fun _ _ h => ⟨h⟩)
  clear_value put
  split
  · exact ⟨hp.all⟩
  · exact .empty
  · exact ⟨hp.all.joinFault⟩
  · exact ⟨hp.all⟩
  · exact .empty

protected theorem Canon.updQueue {q : Nat} {f : Queue → Queue} (h : Canon s) : Canon (updQueue s q f) := h.upd

protected theorem Canon.flushTail {ctx q : Nat} {r : RingRef} {xs : List (BitVec 256)} (h : Canon s) :
    Canon (flushTail ctx q r xs s) := by
  induction xs generalizing s with
  | nil => exact h.updQueue
  | cons x xs ih =>
    unfold flushTail
    dsimp only
    split
    · exact ih (h.sessionWrite.of ‹_›).updQueue
    · exact ih h.updQueue
    · exact (h.sessionWrite.of ‹_›).updQueue
    · exact (h.sessionWrite.of ‹_›).updQueue
    · exact h.updQueue

protected theorem Canon.flushLost {q : Nat} {x : Queue} {r : RingRef} (h : Canon s) : Canon (flushLost s q x r) := by
  unfold flushLost
  refine Canon.ite h ?_
  split
  · exact (h.sessionWrite.of ‹_›).updQueue
  · exact h

protected theorem Canon.flushSession {q : Nat} (h : Canon s) : Canon (flushSession s q) := by
  unfold flushSession
  split
  · exact h
  · split
    · exact h
    · exact h.ite h.flushLost.flushTail

protected theorem Canon.sessionAppend {q : Nat} {x : BitVec 256} (h : Canon s) : Canon (sessionAppend s q x) := by
  unfold sessionAppend
  split
  · exact h
  · exact h.ite (h.updQueue.ite (h.updQueue.flushSession.ite h.updQueue))

protected theorem Canon.sessionTake {q : Nat} {cseq : W32} {x : BitVec 256} (h : Canon s) :
    Canon (sessionTake s q cseq x) :=
  h.ite h.sessionAppend

protected theorem Canon.sessionNode {q : Nat} {cseq : W32} {ty node : Nat} (h : Canon s) :
    Canon (sessionNode s q cseq ty node) :=
  h.sessionTake

protected theorem Canon.stopHit {q : Nat} {cseq : W32} {after : Bool} (h : Canon s) :
    Canon (stopHit s q cseq after) :=
  h.barPost

protected theorem Canon.updGraph {q : Nat} {f : GraphRun → GraphRun} (h : Canon s) : Canon (updGraph s q f) :=
  h.updQueue

protected theorem Canon.pumpXlate {ctx q va : Nat} {g : GraphRun} {w : Bool} (h : Canon s) :
    CanonIn PumpAns.state (pumpXlate s ctx q va g w) := by
  unfold pumpXlate
  split
  · exact .ite ⟨h.translate.snd ‹_›⟩ ⟨h.translate.snd ‹_›⟩
  · split
    · exact ⟨((h.translate.snd ‹_›).joinFault.snd ‹_›).updGraph⟩
    · exact ⟨(h.translate.snd ‹_›).joinFault.snd ‹_›⟩
  · exact ⟨h.translate.snd ‹_›⟩
  · exact ⟨h.translate.snd ‹_›⟩

protected theorem Canon.pumpRead {ctx q va n : Nat} {g : GraphRun} (h : Canon s) :
    CanonIn PumpAns.state (pumpRead s ctx q va n g) := by
  unfold pumpRead
  split
  · exact .ite ⟨(h.pumpXlate.of ‹_›).askFill⟩ (.ite ⟨h.pumpXlate.of ‹_›⟩ ⟨(h.pumpXlate.of ‹_›).touchWindows⟩)
  · exact ⟨h.pumpXlate.of ‹_›⟩
  · exact ⟨h.pumpXlate.of ‹_›⟩

protected theorem Canon.pumpWrite {ctx q va : Nat} {bs : List Byte} {g : GraphRun} (h : Canon s) :
    CanonIn PumpAns.state (pumpWrite s ctx q va bs g) := by
  unfold pumpWrite
  split
  · split
    · exact ⟨h.pumpXlate.of ‹_›⟩
    · exact ⟨((h.pumpXlate.of ‹_›).syncTake.of ‹_›).storeLine.updGraph⟩
  · exact ⟨h.pumpXlate.of ‹_›⟩
  · exact ⟨h.pumpXlate.of ‹_›⟩

protected theorem Canon.finishNode {q status next : Nat} (h : Canon s) : Canon (finishNode s q status next) :=
  h.updGraph

protected theorem Canon.phaseArrive {ctx q : Nat} {w : BitVec 512} {skipped : Bool} (h : Canon s) :
    Canon (phaseArrive s ctx q w skipped).2 := by
  unfold phaseArrive
  split
  · exact h
  · extract_lets
    split
    · exact h
    · split
      · split
        · exact h.updCtx
        · exact h.updCtx.updGraph
      · refine h.updCtx.foldl fun _ _ h => ?_
        split
        · exact h.finishNode
        · exact h

protected theorem Canon.phaseWithdraw {ctx q : Nat} (h : Canon s) : Canon (phaseWithdraw s ctx q) := h.updCtx

protected theorem Canon.ringInterrupt {ctx rh : Nat} (h : Canon s) : Canon (ringInterrupt s ctx rh) := by
  unfold ringInterrupt
  split
  · exact h
  · exact h.ite h.updCtx.raiseIrq

protected theorem Canon.endGraph {q : Nat} (h : Canon s) : Canon (endGraph s q) := by
  unfold endGraph
  split
  · exact h
  · split
    · exact h
    · exact (h.foldl fun _ _ h => h.ringInterrupt).updCtx.phaseWithdraw.updQueue

protected theorem Canon.completeEntry {q status node : Nat} (h : Canon s) :
    Canon (completeEntry s q status node) := by
  unfold completeEntry
  split
  · exact h
  · exact h.devWrite.devWrite.endGraph.updQueue

protected theorem Canon.execQueueEntryStart {queue : Nat} (h : Canon s) :
    CanonIn nextState (execQueueEntryStart queue s) := by
  unfold execQueueEntryStart
  split
  · exact ⟨h⟩
  · exact .ite ⟨h⟩ ⟨h.updQueue.ite h.updQueue.completeEntry⟩

protected theorem Canon.startNode {q : Nat} (h : Canon s) : CanonIn Begun.state (startNode s q) := by
  unfold startNode
  split
  · exact .empty
  · next x g _ =>
    refine .ite .empty ?_
    split
    · exact ⟨h⟩
    · refine .ite ⟨h.updGraph.stopHit⟩ ?_
      have hp : CanonIn PumpAns.state (pumpRead s x.ctx q g.node 64 g) := h.pumpRead
      generalize pumpRead s x.ctx q g.node 64 g = r at hp ⊢
      cases r with
      | wait => exact ⟨hp.all⟩
      | _ =>
        have ht := hp.all
        refine .ite ⟨ht.updQueue.sessionNode.finishNode⟩ (.ite ⟨ht.updQueue.sessionNode.finishNode⟩
          (.ite ⟨(ht.updQueue.sessionNode.phaseArrive.ite ht.updQueue.sessionNode).finishNode⟩ ?_))
        split
        · exact ⟨ht.updQueue.sessionNode⟩
        · exact ⟨ht.updQueue.sessionNode⟩
    · exact .empty

protected theorem Canon.nodeEvent {q kind : Nat} {body : State → Queue → GraphRun → State} (h : Canon s)
    (hbody : ∀ t x x1, Canon t → Canon (body t x x1)) : CanonIn nextState (nodeEvent s q kind body) := by
  unfold nodeEvent
  split
  · exact ⟨h⟩
  · exact ⟨h.startNode.of ‹_›⟩
  · exact .ite ⟨hbody _ _ _ (h.startNode.of ‹_›)⟩ ⟨h⟩

protected theorem Canon.nextInterval {ctx : Nat} (h : Canon s) : Canon (nextInterval s ctx) := h.updCtx

protected theorem Canon.kernelStart {q : Nat} {x : Queue} {g : GraphRun} (h : Canon s) :
    Canon (kernelStart s q x g) := by
  unfold kernelStart
  extract_lets rept send
  have hsend (t : State) (args : List W32) (ht : Canon t) : Canon (send t args) := ht.nextInterval.set.updGraph
  split
  · exact h.finishNode
  · split
    · split
      · exact h.pumpRead.of ‹_›
      · exact (h.pumpRead.of ‹_›).finishNode
      · exact hsend _ _ (h.pumpRead.of ‹_›)
    · exact hsend _ _ h

protected theorem Canon.execKernelNodeStart {queue : Nat} (h : Canon s) :
    CanonIn nextState (execKernelNodeStart queue s) :=
  h.nodeEvent fun _ _ _ h => h.kernelStart

protected theorem Canon.dropLaunch {id : Nat} (h : Canon s) : Canon (dropLaunch s id) := h.upd

protected theorem Canon.execCopyNode {queue : Nat} (h : Canon s) : CanonIn nextState (execCopyNode queue s) :=
  h.nodeEvent fun _ _ _ h => h.nextInterval.set.updGraph

protected theorem Canon.execCondNode {queue : Nat} (h : Canon s) : CanonIn nextState (execCondNode queue s) := by
  unfold execCondNode
  refine h.nodeEvent fun _ _ _ h => ?_
  dsimp only
  split
  · exact h.pumpRead.of ‹_›
  · exact (h.pumpRead.of ‹_›).finishNode
  · exact (h.pumpRead.of ‹_›).finishNode

protected theorem Canon.goTo {q addr : Nat} (h : Canon s) : Canon (goTo s q addr) := h.updGraph

protected theorem Canon.loopExit {q status : Nat} {fr : LoopFrame} (h : Canon s) : Canon (loopExit s q status fr) :=
  h.updGraph.finishNode

protected theorem Canon.loopDecide {q : Nat} {x : Queue} {g : GraphRun} {fr : LoopFrame} (h : Canon s) :
    Canon (loopDecide s q x g fr) := by
  unfold loopDecide
  dsimp only
  split
  · exact h.pumpRead.of ‹_›
  · exact (h.pumpRead.of ‹_›).updGraph.finishNode
  · refine Canon.ite (h.pumpRead.of ‹_›).loopExit
      (Canon.ite (h.pumpRead.of ‹_›).loopExit (Canon.ite (h.pumpRead.of ‹_›).nextInterval.updGraph.goTo ?_))
    split
    · exact ((h.pumpRead.of ‹_›).pumpWrite.of ‹_›).nextInterval.updGraph.goTo
    · exact (h.pumpRead.of ‹_›).pumpWrite.of ‹_›
    · exact ((h.pumpRead.of ‹_›).pumpWrite.of ‹_›).updGraph.finishNode

protected theorem Canon.execLoopIteration {queue : Nat} (h : Canon s) :
    CanonIn nextState (execLoopIteration queue s) := by
  unfold execLoopIteration
  split
  · split
    · exact .ite ⟨h.loopDecide⟩ ⟨h⟩
    · exact h.nodeEvent fun _ _ _ h => h.finishNode.ite h.updGraph.loopDecide
  · exact ⟨h⟩

protected theorem Canon.execEndNode {queue : Nat} (h : Canon s) : CanonIn nextState (execEndNode queue s) := by
  unfold execEndNode
  split
  · split
    · refine .ite ⟨h⟩ ?_
      split
      · exact ⟨h.completeEntry⟩
      · exact ⟨h.updGraph⟩
    · exact h.nodeEvent fun _ _ _ h => h.finishNode
  · exact ⟨h⟩

protected theorem Canon.execPhaseArrive {queue : Nat} (h : Canon s) :
    CanonIn nextState (execPhaseArrive queue s) := by
  unfold execPhaseArrive
  refine h.nodeEvent fun _ _ _ h => ?_
  split
  · exact h.phaseArrive.snd ‹_›
  · exact (h.phaseArrive.snd ‹_›).finishNode

protected theorem Canon.evaluateWait {q : Nat} {x : Queue} {g : GraphRun} {since : Nat} (h : Canon s) :
    Canon (evaluateWait s q x g since) := by
  unfold evaluateWait
  dsimp only
  split
  · exact h.pumpRead.of ‹_›
  · exact (h.pumpRead.of ‹_›).finishNode
  · exact (h.pumpRead.of ‹_›).finishNode.ite (h.pumpRead.of ‹_›).updGraph

protected theorem Canon.execWaitEvaluate {queue : Nat} (h : Canon s) :
    CanonIn nextState (execWaitEvaluate queue s) := by
  unfold execWaitEvaluate
  split
  · split
    · exact .ite ⟨h⟩ ⟨h.evaluateWait⟩
    · exact ⟨h⟩
    · exact h.nodeEvent fun _ _ _ h => h.updGraph.evaluateWait
  · exact ⟨h⟩

protected theorem Canon.wakeWait {q : Nat} (h : Canon s) : Canon (wakeWait s q) := h.updGraph

protected theorem Canon.wakeWaits {ctx : Nat} (h : Canon s) : Canon (wakeWaits s ctx) :=
  h.foldl fun _ _ h => h.wakeWait

protected theorem Canon.execWaitTick (h : Canon s) : CanonIn nextState (execWaitTick s) :=
  .ite ⟨h.foldl fun _ _ h => h.wakeWait⟩ ⟨h⟩

protected theorem Canon.execWaitTimeout {queue : Nat} (h : Canon s) :
    CanonIn nextState (execWaitTimeout queue s) := by
  unfold execWaitTimeout
  split
  · exact .ite ⟨h.finishNode⟩ ⟨h⟩
  · exact ⟨h⟩

protected theorem Canon.execSignalNode {queue : Nat} (h : Canon s) : CanonIn nextState (execSignalNode queue s) := by
  unfold execSignalNode
  refine h.nodeEvent fun _ _ _ h => ?_
  dsimp only
  split
  · exact h.pumpXlate.of ‹_›
  · exact (h.pumpXlate.of ‹_›).finishNode
  · split
    · exact h.pumpXlate.of ‹_›
    · exact ((h.pumpXlate.of ‹_›).syncTake.of ‹_›).storeLine.updGraph.finishNode.wakeWaits

protected theorem Canon.execRingNode {queue : Nat} (h : Canon s) : CanonIn nextState (execRingNode queue s) := by
  unfold execRingNode
  refine h.nodeEvent fun _ _ _ h => ?_
  dsimp only
  split
  · exact h.pumpWrite.of ‹_›
  · exact (h.pumpWrite.of ‹_›).finishNode
  · exact (h.pumpWrite.of ‹_›).ringInterrupt.updCtx.finishNode

protected theorem Canon.kernelDone {q id : Nat} {g : GraphRun} (h : Canon s) : Canon (kernelDone s q id g) := by
  unfold kernelDone
  split
  · exact h
  · exact h.ite (h.ite h.dropLaunch.finishNode)

protected theorem Canon.nodeDone {q : Nat} {x : Queue} {g : GraphRun} {status next : Nat} (h : Canon s) :
    Canon (nodeDone s q x g status next) := by
  unfold nodeDone
  refine Canon.ite h ?_
  extract_lets
  split
  · exact h.raiseIrq.updGraph.pumpWrite.of ‹_›
  · exact (h.raiseIrq.updGraph.pumpWrite.of ‹_›).sessionNode.completeEntry
  · next ht =>
    have ht := h.raiseIrq.updGraph.pumpWrite.of ht
    exact ht.sessionNode.completeEntry.ite (ht.sessionNode.updGraph.stopHit.ite ht.sessionNode.goTo)

protected theorem Canon.execNodeComplete {queue : Nat} (h : Canon s) :
    CanonIn nextState (execNodeComplete queue s) := by
  unfold execNodeComplete
  split
  · exact ⟨h⟩
  · refine .ite ⟨h⟩ ?_
    split
    · exact ⟨h.kernelDone⟩
    · exact ⟨h.nodeDone⟩
    · split
      · exact ⟨h.startNode.of ‹_›⟩
      · exact ⟨h⟩
    · exact ⟨h⟩

protected theorem Canon.execGsig {g : Guard} {a : Src} (h : Canon s) : CanonIn nextState (execGsig g a s) := by
  unfold execGsig
  refine h.issue fun _ h => (.ite ⟨h⟩ (.ite .empty (Canon.envFenced h fun _ h => ?_)))
  split
  · exact ⟨h.wakeWait⟩
  · exact ⟨h⟩

protected theorem Canon.updCopy {id : Nat} {f : CopyOp → CopyOp} (h : Canon s) : Canon (updCopy s id f) := h.upd

protected theorem Canon.copyXlate {c : CopyOp} {va : Nat} {w : Bool} (h : Canon s) :
    CanonIn CopyGo.state (copyXlate s c va w) := by
  unfold copyXlate
  split
  · exact .ite ⟨h.translate.snd ‹_›⟩ ⟨h.translate.snd ‹_›⟩
  · split
    · exact .ite ⟨h.translate.snd ‹_›⟩ ⟨h.translate.snd ‹_›⟩
    · exact ⟨h.translate.snd ‹_›⟩
  · split
    · exact ⟨((h.translate.snd ‹_›).joinFault.snd ‹_›).updCopy⟩
    · exact ⟨(h.translate.snd ‹_›).joinFault.snd ‹_›⟩
  · exact ⟨h.translate.snd ‹_›⟩
  · exact ⟨h.translate.snd ‹_›⟩

protected theorem Canon.endCopy {c : CopyOp} {how : CopyEnd} (h : Canon s) : Canon (endCopy s c how) := by
  unfold endCopy
  dsimp only
  split
  · split <;> exact h.upd.updGraph.finishNode
  · split
    · exact h.upd
    · refine Canon.wakeAll ?_
      split
      · exact h.upd.updCrew.addCount
      · exact h.upd.updCrew.deferReport
      · exact h.upd.updCrew.deferReport
      · exact h.upd.updCrew.killCohort

protected theorem Canon.copyMarks {c : CopyOp} (h : Canon s) : Canon (copyMarks s c) := by
  unfold copyMarks
  refine Canon.ite h ?_
  split
  · exact h
  · split
    · exact h.upd.ite h
    · exact h.updCohort

protected theorem Canon.pieceAddr {c : CopyOp} {sd : CopySide} {r b : Nat} {w : Bool} (h : Canon s) :
    CanonIn CopyGo.state (pieceAddr s c sd r b w) :=
  .ite h.copyXlate ⟨h⟩

protected theorem Canon.pieceRace {c : CopyOp} {sd : CopySide} {pa r b n : Nat} {w : Bool} (h : Canon s) :
    CanonIn Except.toOption (pieceRace s c sd pa r b n w) :=
  .ite ⟨h⟩ h.raceAccess

protected theorem Canon.copyDemand {c : CopyOp} {sd : CopySide} {r b acc : Nat} (h : Canon s) :
    Canon (copyDemand s c sd r b acc) :=
  h.countCopy.ite h

protected theorem Canon.pieceRead {c : CopyOp} {spa n : Nat} (h : Canon s) : Canon (pieceRead s c spa n).2 := by
  unfold pieceRead
  split
  · split
    · exact h.remoteRead
    · exact h.touchWindows
  · exact h
  · exact h

protected theorem Canon.copyDrop {c : CopyOp} {pa : Nat} (h : Canon s) : Canon (copyDrop s c pa) := by
  unfold copyDrop
  split
  · exact h.l1Drop.ite h
  · exact h

protected theorem Canon.pieceWrite {c : CopyOp} {dpa n : Nat} {bs : List Byte} (h : Canon s) :
    Canon (pieceWrite s c dpa n bs) := by
  unfold pieceWrite
  dsimp only
  split
  · split
    · exact h.remoteWrite.updCopy
    · refine Canon.updCopy ?_
      split
      · exact h.copyDrop.storeLine.ackTw
      · exact h.copyDrop.storeLine
  · exact h.updCohort.updCopy
  · exact h.updCopy

protected theorem Canon.pieceMove {c : CopyOp} {spa dpa r b n : Nat} (h : Canon s) :
    Canon (pieceMove s c spa dpa r b n) :=
  h.pieceRead.copyDemand.copyDemand.pieceWrite

protected theorem Canon.pieceRaces {c : CopyOp} {spa dpa r b n : Nat} (h : Canon s) :
    CanonIn Except.toOption (pieceRaces s c spa dpa r b n) := by
  unfold pieceRaces
  split
  · exact .empty
  · exact (h.pieceRace.of ‹_›).pieceRace

protected theorem Canon.copyPiece {c : CopyOp} {n : Nat} (h : Canon s) : CanonIn Piece.state (copyPiece s c n) := by
  unfold copyPiece
  refine .ite ⟨h⟩ ?_
  split
  · exact ⟨h.pieceAddr.of ‹_›⟩
  · exact ⟨(h.pieceAddr.of ‹_›).endCopy⟩
  · split
    · exact ⟨(h.pieceAddr.of ‹_›).pieceAddr.of ‹_›⟩
    · exact ⟨((h.pieceAddr.of ‹_›).pieceAddr.of ‹_›).endCopy⟩
    · refine .ite ⟨(h.pieceAddr.of ‹_›).pieceAddr.of ‹_›⟩ (.ite ⟨((h.pieceAddr.of ‹_›).pieceAddr.of ‹_›).askFill⟩ ?_)
      split
      · exact ⟨((h.pieceAddr.of ‹_›).pieceAddr.of ‹_›).endCopy⟩
      · exact .ite ⟨(((h.pieceAddr.of ‹_›).pieceAddr.of ‹_›).pieceRaces.of ‹_›).endCopy⟩
          ⟨(((h.pieceAddr.of ‹_›).pieceAddr.of ‹_›).pieceRaces.of ‹_›).pieceMove⟩

protected theorem Canon.copyMove {n id m : Nat} (h : Canon s) : Canon (copyMove n s id m) := by
  induction n generalizing s id m with
  | zero => exact h
  | succ n ih =>
    unfold copyMove
    split
    · exact h
    · refine Canon.ite h ?_
      split
      · exact ih (h.copyPiece.of ‹_›)
      · exact h.copyPiece.of ‹_›
      · exact h.copyPiece.of ‹_›

protected theorem Canon.execCopyComplete {id n : Nat} (h : Canon s) :
    CanonIn nextState (execCopyComplete id n s) := by
  unfold execCopyComplete
  dsimp only
  split
  · exact ⟨h.copyMove⟩
  · exact ⟨h.copyMove.copyMarks.endCopy.ite h.copyMove⟩

protected theorem Canon.execCopyViolation {id : Nat} (h : Canon s) : CanonIn nextState (execCopyViolation id s) := by
  unfold execCopyViolation
  split
  · exact ⟨h⟩
  · exact .ite ⟨h.endCopy⟩ ⟨h⟩

/-! CSRs, rings, siblings and the lists of pages. -/

protected theorem Canon.updCsrs {f : PackageCsrs → PackageCsrs} (h : Canon s) : Canon (updCsrs s f) := h.upd

protected theorem Canon.writeLeaseset {v : W32} (h : Canon s) : Canon (writeLeaseset s v) := h.updCsrs.updCtx

protected theorem Canon.execLeasesetWrite {v : W32} (h : Canon s) : CanonIn nextState (execLeasesetWrite v s) :=
  ⟨h.writeLeaseset⟩

protected theorem Canon.writeRepmode {v : W32} (h : Canon s) : Canon (writeRepmode s v) := h.updCsrs.updCtx

protected theorem Canon.execRepmodeWrite {v : W32} (h : Canon s) : CanonIn nextState (execRepmodeWrite v s) :=
  ⟨h.writeRepmode⟩

protected theorem Canon.execRepmodeTakeEffect {ctx : Nat} (h : Canon s) :
    CanonIn nextState (execRepmodeTakeEffect ctx s) := by
  unfold execRepmodeTakeEffect
  split
  · exact .ite ⟨h.updCtx⟩ ⟨h⟩
  · exact ⟨h⟩

protected theorem Canon.writeMondata {v : W32} (h : Canon s) : Canon (writeMondata s v) := h.upd

protected theorem Canon.execMondataWrite {v : W32} (h : Canon s) : CanonIn nextState (execMondataWrite v s) :=
  ⟨h.writeMondata⟩

protected theorem Canon.startRequal (h : Canon s) : Canon (startRequal s) := h.ite h.upd

protected theorem Canon.writeWellthr {v : W32} (h : Canon s) : Canon (writeWellthr s v) :=
  h.updCsrs.startRequal.ite h.updCsrs

protected theorem Canon.execRequalify {v : W32} (h : Canon s) : CanonIn nextState (execRequalify v s) :=
  ⟨h.writeWellthr⟩

protected theorem Canon.writeHotcfg {v : W32} (h : Canon s) : Canon (writeHotcfg s v) := h.updCsrs.updCtx

protected theorem Canon.execHotcfgWrite {v : W32} (h : Canon s) : CanonIn nextState (execHotcfgWrite v s) :=
  ⟨h.writeHotcfg⟩

protected theorem Canon.updTrain {st pch : Nat} {f : Train → Train} (h : Canon s) : Canon (updTrain s st pch f) :=
  h.upd

protected theorem Canon.writeTrndata {v : W32} (h : Canon s) : Canon (writeTrndata s v) := h.updTrain.ite h

protected theorem Canon.readTrndata (h : Canon s) : Canon (readTrndata s).2 := by
  unfold readTrndata
  split
  · exact h.updTrain.ite h
  · exact h

protected theorem Canon.execPatternTest {v : W32} (h : Canon s) : CanonIn nextState (execPatternTest v s) :=
  ⟨h.updTrain⟩

protected theorem Canon.execPatternTestDone {stack pch : Nat} {fails : BitVec 17} (h : Canon s) :
    CanonIn nextState (execPatternTestDone stack pch fails s) :=
  .ite ⟨h.updTrain⟩ ⟨h⟩

protected theorem Canon.execTrnHoldWrite {v : W32} (h : Canon s) : CanonIn nextState (execTrnHoldWrite v s) :=
  ⟨h.updTrain⟩

protected theorem Canon.execTrnResRead (h : Canon s) : CanonIn nextState (execTrnResRead s) := ⟨h.upd.updTrain⟩

protected theorem Canon.readCsr {cr : Crew} {sp : Split} {n : Nat} (h : Canon s) : Canon (readCsr s cr sp n).2 := by
  unfold readCsr
  dsimp only
  split
  · exact h
  · exact h
  · exact h
  · exact h
  · exact h
  · exact h
  · exact h
  · exact h
  · exact h
  · exact h
  · exact h
  · exact h
  · exact h
  · exact h
  · exact h
  · exact h
  · exact h
  · exact h.readTrndata
  · exact h
  · exact h
  · exact h

protected theorem Canon.writeCsr {cid sid n : Nat} {v : W32} (h : Canon s) : Canon (writeCsr s cid sid n v) := by
  unfold writeCsr
  split
  · exact h.updCrew
  · exact h.updCrew
  · exact h.updSplit
  · exact h.writeLeaseset
  · exact h.writeRepmode
  · exact h.updCsrs
  · exact h.writeWellthr
  · exact h.updCsrs
  · exact h.writeTrndata
  · exact h.writeMondata
  · exact h.writeHotcfg
  · exact h

protected theorem Canon.execCsrr {g : Guard} {d : Dest} {csr : BitVec 12} {w64 : Bool} (h : Canon s) :
    CanonIn nextState (execCsrr g d csr w64 s) :=
  h.issue fun _ h => Canon.envResult (h.iteSnd h.readCsr)

protected theorem Canon.execCsrw {g : Guard} {csr : BitVec 12} {w64 : Bool} {a : Src} (h : Canon s) :
    CanonIn nextState (execCsrw g csr w64 a s) :=
  h.issue fun _ h => .ite ⟨h⟩ ⟨h.writeCsr⟩

protected theorem Canon.execAccept {g : Guard} {d : Dest} {a padlo n : Src} {vm1 padhi : BitVec 24} {br : BitVec 4}
    {sq : Bool} (h : Canon s) : CanonIn nextState (execAccept g d a padlo n vm1 padhi br sq s) := by
  unfold execAccept
  refine h.issue fun _ h => (.ite .empty ?_)
  dsimp only
  split
  · exact .empty
  · exact .ite ⟨h⟩ (Canon.envTracked ⟨h.envPost⟩)

protected theorem Canon.execBallot {g : Guard} {d : Dest} {hash : Option Src} (h : Canon s) :
    CanonIn nextState (execBallot g d hash s) := by
  unfold execBallot
  refine h.issue fun _ h => (.ite ⟨h⟩ (.ite .empty (.ite ⟨h.envPost⟩ ?_)))
  split
  · exact .empty
  · exact .ite ⟨h.envPost⟩ ⟨h⟩

protected theorem Canon.wakeBallots {ctx : Nat} (h : Canon s) : Canon (wakeBallots s ctx) :=
  h.foldl fun _ _ h => h.wakeSplits

protected theorem Canon.startAccount {ctx k : Nat} (h : Canon s) : Canon (startAccount s ctx k) :=
  h.foldl fun _ _ h => h.updCrew

protected theorem Canon.cancelSibling {ctx k ddt : Nat} (h : Canon s) : Canon (cancelSibling s ctx k ddt) :=
  h.updCtx.startAccount.ite (h.updCtx.startAccount.foldl fun _ _ h => h.markLeaving)

protected theorem Canon.groupWrite {cid pa : Nat} {bs : List Byte} (h : Canon s) : Canon (groupWrite s cid pa bs) :=
  h.devWriteAfter.ackTw

protected theorem Canon.ballotPerform {cid ctx pa g k : Nat} {hash : Option W64} (h : Canon s) :
    Canon (ballotPerform s cid ctx pa g k hash).2 := by
  unfold ballotPerform
  refine Canon.iteSnd h (Canon.iteSnd h ?_)
  extract_lets e word hashed worded counted posted count decided
  have hh : Canon hashed := by
    unfold hashed
    split
    · exact h.groupWrite
    · exact h
  have hp : Canon posted := hh.groupWrite.groupWrite.updCtx
  have hd (st dh : Nat) : Canon (decided posted st dh) := hp.groupWrite.groupWrite.groupWrite
  clear_value posted decided
  split
  · refine Canon.iteSnd ((hd _ _).foldl fun _ _ h => h.cancelSibling) (Canon.iteSnd ?_ hp)
    split
    · exact hd _ _
    · exact hd _ _
  · refine Canon.iteSnd ?_ hp
    split
    · exact hd _ _
    · exact hd _ _

protected theorem Canon.execBallotPost {acc : Nat} (h : Canon s) : CanonIn nextState (execBallotPost acc s) := by
  unfold execBallotPost
  split
  · exact ⟨h⟩
  · split
    · split
      · refine .ite ⟨h⟩ ?_
        split
        · exact ⟨h.syncFill.of ‹_›⟩
        · split
          · exact ⟨h⟩
          · have ht := (h.syncTake.bind fun _ h => h.syncTake).of ‹_›
            extract_lets u posted void
            have hu : Canon u := ht.touchWindows.countCore
            refine .ite ⟨hu.updAcc.logDone⟩ ?_
            split
            next v hv =>
            have hb : Canon v := by
              refine Canon.snd ?_ hv
              exact Canon.iteSnd hu hu.ballotPerform
            extract_lets ci traced matched woke
            have hm : Canon matched := by
              refine Canon.ite ?_ hb.traceEvent
              split
              · exact hb.traceEvent.traceMatch
              · exact hb.traceEvent
            have hw : Canon woke := hm.updAcc.logDone.wakeBallots
            exact ⟨hw.deferReport.ite hw⟩
      · exact ⟨h⟩
    · exact ⟨h⟩

protected theorem Canon.sibValue {grp k : Nat} (h : Canon e.s) : CanonIn sibState (sibValue e grp k) := by
  unfold sibValue
  dsimp only
  split
  · next ht =>
    have ht := h.translate.snd ht
    exact .ite ⟨ht.touchWindows⟩ (.ite ⟨ht.touchWindows⟩ ⟨ht.touchWindows.ddtSeen⟩)
  · next ht =>
    split
    · exact ⟨(h.translate.snd ht).joinFault.snd ‹_›⟩
    · exact ⟨(h.translate.snd ht).joinFault.snd ‹_›⟩
  · exact ⟨h.translate.snd ‹_›⟩
  · exact ⟨(h.translate.snd ‹_›).upd⟩

protected theorem Canon.execSibchk {g : Guard} {d : Dest} {trp : Bool} (h : Canon s) :
    CanonIn nextState (execSibchk g d trp s) := by
  refine h.issue fun e h => .ite ⟨h.writeQ⟩ ?_
  extract_lets
  split
  next t ht =>
  have hd : Canon t := by
    refine Canon.snd ?_ ht
    exact Canon.iteSnd h.ddtSeen h
  refine .ite (.ite .empty ⟨hd.endCrew⟩) ?_
  have hv : CanonIn sibState (sibValue { e with s := t } (e.crew.sib.toNat / 64) (e.crew.sib.toNat % 64)) :=
    Canon.sibValue hd
  split
  · exact ⟨(hv.eq ‹_›).all⟩
  · exact ⟨(hv.of ‹_›).writeQ⟩

protected theorem Canon.execRingput {g : Guard} {sq pos token : Src} {rh : BitVec 6} (h : Canon s) :
    CanonIn nextState (execRingput g sq pos token rh s) := by
  unfold execRingput
  refine h.issue fun _ h => (.ite ⟨h⟩ ?_)
  dsimp only
  split
  · exact Canon.envQueueing h ⟨h.envPost.enqueue⟩
  · split
    · exact .empty
    · exact Canon.envQueueing h ⟨(h.raceAccess.of ‹_›).envPost.enqueue⟩

protected theorem Canon.enqueueStamp {cid : Nat} (h : Canon t) : Canon (enqueueStamp s t cid) := h.enqueue.ite h

protected theorem Canon.execStamp {g : Guard} {a : Src} (h : Canon s) : CanonIn nextState (execStamp g a s) := by
  unfold execStamp
  refine h.issue fun _ h => (.ite ⟨h⟩ ?_)
  split
  · exact ⟨h⟩
  · exact Canon.envQueueing h ⟨h.postStamp.enqueueStamp⟩

protected theorem Canon.execTrace {g : Guard} {a : Src} (h : Canon s) : CanonIn nextState (execTrace g a s) := by
  unfold execTrace
  refine h.issue fun _ h => (.ite ⟨h⟩ ?_)
  split
  · exact ⟨h⟩
  · exact ⟨h.sessionTake⟩

protected theorem Canon.appendXlate {acc : Nat} {cr : Crew} {ctx q va cb : Nat} {need : Need} (h : Canon s) :
    CanonIn Appended.state (appendXlate s acc cr ctx q va cb need) := by
  unfold appendXlate
  dsimp only
  split
  · exact .ite ⟨h.translate.snd ‹_›⟩ ⟨h.translate.snd ‹_›⟩
  · split
    · exact ⟨((h.translate.snd ‹_›).joinFault.snd ‹_›).updAcc⟩
    · exact ⟨(h.translate.snd ‹_›).joinFault.snd ‹_›⟩
  · exact ⟨h.translate.snd ‹_›⟩
  · exact ⟨(h.translate.snd ‹_›).updAcc⟩

protected theorem Canon.appendWrite {acc : Nat} {a : Access} {va pa : Nat} {bs : List Byte} {vec : Option Notice}
    (h : Canon s) : CanonIn firstState (appendWrite s acc a va pa bs vec) :=
  .ite .empty (h.syncTake.mapState fun _ h => ⟨h.devWriteAfter⟩)

protected theorem Canon.appendRace {acc : Nat} {a : Access} {ctx cb va : Nat} (h : Canon s) :
    CanonIn raced (appendRace s acc a ctx cb va) := by
  unfold appendRace
  refine .ite ⟨h⟩ ?_
  split
  · exact ⟨(h.raceAccess.of ‹_›).updAcc⟩
  · exact ⟨h.endAccess.deferReport⟩

protected theorem Canon.appendRecord {acc lane : Nat} {a : Access} {cr : Crew} {ctx : Nat} {b : Binding} {q : LaneReq}
    (h : Canon s) : CanonIn Appended.state (appendRecord s acc lane a cr ctx b q) := by
  unfold appendRecord
  split
  · split
    · exact ⟨(h.appendXlate.of ‹_›).appendRace.of ‹_›⟩
    · refine .ite ⟨(h.appendXlate.of ‹_›).appendRace.of ‹_›⟩ ?_
      dsimp only
      split
      · split
        · exact ⟨((h.appendXlate.of ‹_›).appendRace.of ‹_›).appendXlate.of ‹_›⟩
        · exact ⟨((((h.appendXlate.of ‹_›).appendRace.of ‹_›).appendXlate.of ‹_›).appendWrite.of ‹_›).updLane⟩
      · exact ((h.appendXlate.of ‹_›).appendRace.of ‹_›).appendXlate
  · exact h.appendXlate

protected theorem Canon.ringCount {ctx rh : Nat} (h : Canon s) : Canon (ringCount s ctx rh) := by
  unfold ringCount
  dsimp only
  split
  · exact h.updCtx.ringInterrupt.ite h.updCtx
  · exact h.updCtx

protected theorem Canon.tokCount {ctx : Nat} {cr : Crew} {a : Access} (h : Canon s) :
    Canon (tokCount s ctx cr a) := by
  unfold tokCount
  split
  · exact h
  · exact h.updCtx

protected theorem Canon.appendProd {acc lane : Nat} {a : Access} {cr : Crew} {ctx rh : Nat} {b : Binding}
    (h : Canon s) : CanonIn Appended.state (appendProd s acc lane a cr ctx rh b) := by
  unfold appendProd
  split
  · split
    · exact ⟨h.appendXlate.of ‹_›⟩
    · exact ⟨((h.appendXlate.of ‹_›).appendWrite.of ‹_›).ackTw.ringCount.tokCount.updLane⟩
  · exact h.appendXlate

protected theorem Canon.appendFail {acc : Nat} (h : Canon s) : Canon (appendFail s acc) := by
  unfold appendFail
  split
  · exact h
  · exact h.endAccess.deferReport

protected theorem Canon.ringStep {acc lane : Nat} {a : Access} {cr : Crew} {rh : Nat} (h : Canon s) :
    Canon (ringStep s acc lane a cr rh) := by
  unfold ringStep
  split
  · exact h
  · next q _ =>
    refine Canon.ite h ?_
    split
    · exact h.endAccess.deferReport
    · extract_lets r
      have hr : CanonIn Appended.state r := .ite h.appendRecord (.ite ⟨h⟩ h.appendProd)
      clear_value r
      split
      · exact hr.all
      · exact hr.all.appendFail
      · exact Canon.ite hr.all.endAccess hr.all

protected theorem Canon.stampStep {acc : Nat} {a : Access} {cr : Crew} {q : Nat} {x : BitVec 512} (h : Canon s) :
    Canon (stampStep s acc a cr q x) := by
  unfold stampStep
  split
  · refine Canon.ite h ?_
    split
    · exact h.appendXlate.of ‹_›
    · exact (h.appendXlate.of ‹_›).appendFail
    · dsimp only
      split
      · split
        · split
          · exact h.appendXlate.of ‹_›
          · exact ((h.appendXlate.of ‹_›).appendWrite.of ‹_›).endAccess
        · split
          · exact (h.appendXlate.of ‹_›).appendXlate.of ‹_›
          · exact ((h.appendXlate.of ‹_›).appendXlate.of ‹_›).appendFail
          · split
            · exact (h.appendXlate.of ‹_›).appendXlate.of ‹_›
            · exact (((h.appendXlate.of ‹_›).appendXlate.of ‹_›).appendWrite.of ‹_›).updLane
      · refine Canon.ite (h.appendXlate.of ‹_›) ?_
        split
        · exact h.appendXlate.of ‹_›
        · exact ((h.appendXlate.of ‹_›).appendWrite.of ‹_›).ackTw.endAccess
  · exact h.endAccess

protected theorem Canon.execRingAppend {acc lane : Nat} (h : Canon s) :
    CanonIn nextState (execRingAppend acc lane s) := by
  unfold execRingAppend
  split
  · exact ⟨h⟩
  · refine .ite ⟨h⟩ ?_
    split
    · exact ⟨h.ringStep⟩
    · exact ⟨h.stampStep⟩
    · exact ⟨h.endAccess⟩
    · exact ⟨h⟩

protected theorem Canon.execRingCoalesceTimeout {ctx ring : Nat} (h : Canon s) :
    CanonIn nextState (execRingCoalesceTimeout ctx ring s) := by
  unfold execRingCoalesceTimeout
  split
  · exact ⟨h.ringInterrupt.ite h⟩
  · exact ⟨h⟩

protected theorem Canon.updSib {ctx k : Nat} {f : Sibling → Sibling} (h : Canon s) : Canon (updSib s ctx k f) :=
  h.updCtx

protected theorem Canon.walkXlate {ctx k va gpa : Nat} {need : Need} (h : Canon s) :
    CanonIn Walked.state (walkXlate s ctx k va gpa need) := by
  unfold walkXlate
  split
  · exact .ite ⟨h.translate.snd ‹_›⟩ ⟨h.translate.snd ‹_›⟩
  · split
    · exact ⟨((h.translate.snd ‹_›).joinFault.snd ‹_›).updSib⟩
    · exact ⟨(h.translate.snd ‹_›).joinFault.snd ‹_›⟩
  · exact ⟨h.translate.snd ‹_›⟩
  · exact ⟨h.translate.snd ‹_›⟩

protected theorem Canon.walkWrites {ctx k : Nat} {ws : List (Nat × List Byte)} (h : Canon s) :
    CanonIn id (walkWrites s ctx k ws) := by
  have taken (o : Option State) (ho : CanonIn id o) :
      CanonIn id (ws.foldl (fun o w => o.bind (fun s => syncTake s (lineOf w.1))) o) := by
    induction ws generalizing o with
    | nil => exact ho
    | cons w ws ih => exact ih _ (ho.bind fun _ h => h.syncTake)
  exact (taken _ ⟨h⟩).mapState fun _ h => ⟨h.foldl fun _ _ h => h.devWriteAfter.updSib⟩

protected theorem Canon.freeWrites {ctx k gpa page : Nat} (h : Canon s) :
    CanonIn freeState (freeWrites s ctx k gpa page) := by
  unfold freeWrites
  refine .ite ⟨h⟩ ?_
  split
  · exact ⟨h.walkXlate.of ‹_›⟩
  · exact ⟨h.walkXlate.all⟩

protected theorem Canon.walkCommit {ctx k pa : Nat} {ws : List (Nat × List Byte)} (h : Canon s) :
    CanonIn Walked.state (walkCommit s ctx k pa ws) := by
  unfold walkCommit
  split
  · exact ⟨h.walkWrites.of ‹_›⟩
  · exact ⟨h⟩

protected theorem Canon.releaseEntry {ctx k gpa ent : Nat} {refused : Bool} (h : Canon s) :
    CanonIn Walked.state (releaseEntry s ctx k gpa ent refused) := by
  unfold releaseEntry
  extract_lets page free
  have hfree (t : State) (ht : Canon t) : CanonIn freeState (free t) := .ite ⟨ht⟩ ht.freeWrites
  split
  · have hf := hfree s h
    split
    · exact ⟨(hf.eq ‹_›).all⟩
    · exact (hf.of ‹_›).walkCommit
  · refine .ite ⟨h⟩ ?_
    split
    · next t ht =>
      have hw : Canon t := h.walkXlate.of ht
      extract_lets c
      refine .ite ⟨hw.touchWindows⟩ (.ite ?_ hw.walkCommit)
      have hf := hfree t hw
      split
      · have hb := (hf.eq ‹_›).all
        exact Canon.walkCommit hb
      · exact ⟨(hf.eq ‹_›).all⟩
      · exact (hf.of ‹_›).walkCommit
    · exact h.walkXlate

protected theorem Canon.releaseEnd {ctx k gpa : Nat} {x : Sibling} (h : Canon s) :
    Canon (releaseEnd s ctx k gpa x) := by
  unfold releaseEnd
  dsimp only
  split
  · exact h
  · exact (h.walkWrites.of ‹_›).updSib

protected theorem Canon.releaseDone {ctx k gpa : Nat} {x : Sibling} (h : Canon s) :
    Canon (releaseDone s ctx k gpa x) := by
  unfold releaseDone
  refine Canon.ite h ?_
  dsimp only
  split
  · exact h
  · exact (h.walkWrites.of ‹_›).updSib

protected theorem Canon.releaseStep {ctx k gpa : Nat} {x : Sibling} (h : Canon s) :
    Canon (releaseStep s ctx k gpa x) := by
  unfold releaseStep
  refine Canon.ite h.releaseDone (Canon.ite h.releaseEnd (Canon.ite h.releaseEnd ?_))
  split
  · exact h.walkXlate.of ‹_›
  · exact (h.walkXlate.of ‹_›).releaseEnd
  · refine Canon.ite (h.walkXlate.of ‹_›).askFill (Canon.ite (h.walkXlate.of ‹_›).releaseEnd ?_)
    split
    · exact (h.walkXlate.of ‹_›).releaseEntry.of ‹_›
    · exact ((h.walkXlate.of ‹_›).releaseEntry.of ‹_›).touchWindows.touchWindows.updSib
    · exact ((h.walkXlate.of ‹_›).releaseEntry.of ‹_›).touchWindows.touchWindows.updSib

protected theorem Canon.execSiblingPageRelease {ctx group sib : Nat} (h : Canon s) :
    CanonIn nextState (execSiblingPageRelease ctx group sib s) := by
  unfold execSiblingPageRelease
  dsimp only
  split
  · exact ⟨h⟩
  · refine .ite ⟨h⟩ (.ite ⟨h.updSib⟩ ?_)
    split
    · exact ⟨h.walkXlate.of ‹_›⟩
    · exact ⟨(h.walkXlate.of ‹_›).updSib⟩
    · exact ⟨(h.walkXlate.of ‹_›).releaseStep⟩

/-! Placing, starting and issuing. -/

protected theorem Canon.placeMatched {ln : Launch} {idx : Nat} (h : Canon s) : Canon (placeMatched s ln idx) := by
  unfold placeMatched
  refine Canon.ite ?_ h
  split
  · exact h.traceMatch
  · exact h

protected theorem Canon.enterQueue {k u : Nat} (h : Canon s) : Canon (enterQueue s k u) := by
  unfold enterQueue
  split
  · exact h
  · exact h.updCohort.updCore

protected theorem Canon.tracePlace {u : Nat} {ln : Launch} {idx : Nat} (h : Canon s) :
    Canon (tracePlace s u ln idx) :=
  h.placeMatched.traceEvent

protected theorem Canon.newCohort {lid : Nat} {ln : Launch} {idx u : Nat} {again : Bool} (h : Canon s) :
    Canon (newCohort s lid ln idx u again) :=
  h.upd.updCtx.enterQueue.tracePlace

protected theorem Canon.placeNext {lid : Nat} (h : Canon s) : CanonIn id (placeNext s lid) := by
  unfold placeNext
  split
  · exact .empty
  · exact .ite .empty (.ite .empty (.ite (.map fun _ => (h.foldl fun _ _ h => h.newCohort).upd)
      (.map fun _ => h.newCohort.upd)))

protected theorem Canon.placeAll {n lid : Nat} (h : Canon s) : CanonIn id (placeAll n s lid) := by
  induction n generalizing s lid with
  | zero => exact .empty
  | succ n ih =>
    unfold placeAll
    split
    · exact .empty
    · exact .ite ⟨h⟩ (h.placeNext.bind fun _ h => ih h)

protected theorem Canon.placeAgain {lid : Nat} {ln : Launch} {idx : Nat} (h : Canon s) :
    CanonIn id (placeAgain s lid ln idx) :=
  .ite .empty (.map fun _ => h.upd.newCohort)

protected theorem Canon.moveSpgrow {k u : Nat} (h : Canon s) : Canon (moveSpgrow s k u) := h.upd

protected theorem Canon.moveFaultsOf {k : Nat} {engine : Engine} {u : Nat} (h : Canon s) :
    Canon (moveFaultsOf s k engine u) :=
  h.ite h.upd.updCore

protected theorem Canon.moveFaults {k u : Nat} (h : Canon s) : Canon (moveFaults s k u) := h.moveFaultsOf.moveFaultsOf

protected theorem Canon.replaceCohort {ln : Launch} {c : Cohort} {u : Nat} (h : Canon s) :
    Canon (replaceCohort s ln c u) :=
  h.moveFaults.enterQueue.tracePlace

protected theorem Canon.placeSaved {lid : Nat} {ln : Launch} {c : Cohort} (h : Canon s) :
    CanonIn id (placeSaved s lid ln c) := by
  unfold placeSaved
  split
  · exact .map fun _ => h.replaceCohort
  · exact .map fun _ => h.foldl fun _ _ h => h.replaceCohort

protected theorem Canon.placeLaunch {lid : Nat} (h : Canon s) : CanonIn id (placeLaunch s lid) := by
  unfold placeLaunch
  split
  · exact .empty
  · refine .ite .empty ?_
    split
    · exact .ite h.placeSaved h.placeAgain
    · exact h.placeSaved
    · exact h.placeAgain
    · exact .ite .empty (.ite h.placeAll h.placeNext)

protected theorem Canon.execCohortPlace (h : Canon s) : CanonIn nextState (execCohortPlace s) := by
  unfold execCohortPlace
  split
  · exact ⟨(CanonIn.findSome fun _ => h.placeLaunch).of ‹_›⟩
  · exact ⟨h⟩

protected theorem Canon.startCrew {k : Nat} {ln : Launch} {c : Cohort} {index : Nat} {engine : Engine} {entry : Nat}
    (h : Canon s) : Canon (startCrew s k ln c index engine entry) := by
  unfold startCrew
  dsimp only
  exact h.updCore.set.updCrew

protected theorem Canon.startService {ln : Launch} (h : Canon s) : Canon (startService s ln) := h.ite h.upd

protected theorem Canon.startCohort {k : Nat} {ln : Launch} {c : Cohort} (h : Canon s) :
    Canon (startCohort s k ln c) := by
  unfold startCohort
  dsimp only
  split
  · exact (h.updCohort.foldl fun _ _ h => h.startCrew).upd.startCrew
  · exact h.updCohort.foldl fun _ _ h => h.startCrew

protected theorem Canon.restoreRow {n cid r : Nat} (h : Canon s) : CanonIn id (restoreRow n s cid r) := by
  induction n generalizing s cid r with
  | zero => exact .empty
  | succ n ih =>
    unfold restoreRow
    split
    · exact ⟨h⟩
    · dsimp only
      split
      · exact ⟨h.updCrew⟩
      · split
        · exact .empty
        · exact ih h.spillTo

protected theorem Canon.restoreRows {cid : Nat} {xs : List Nat} (h : Canon s) :
    CanonIn id (restoreRows s cid xs) := by
  induction xs generalizing s with
  | nil => exact ⟨h⟩
  | cons x xs ih => exact h.restoreRow.bind fun _ h => ih h

protected theorem Canon.presentWaiters {cid : Nat} (h : Canon s) : Canon (presentWaiters s cid) :=
  h.upd.foldl fun _ _ h => h.serveFree

protected theorem Canon.restoreCrew {cid : Nat} (h : Canon s) : CanonIn id (restoreCrew s cid) := by
  unfold restoreCrew
  split
  · exact ⟨h⟩
  · exact h.updCore.set.restoreRows.mapState fun _ h => ⟨h.presentWaiters⟩

protected theorem Canon.restoreCrews {xs : List Nat} (h : Canon s) : CanonIn id (restoreCrews s xs) := by
  induction xs generalizing s with
  | nil => exact ⟨h⟩
  | cons x xs ih => exact h.restoreCrew.bind fun _ h => ih h

protected theorem Canon.restoreStream {k key : Nat} (h : Canon s) : Canon (restoreStream s k key) := by
  unfold restoreStream
  split
  · exact h.upd.updCluster
  · exact h.updStream

protected theorem Canon.restoreCohort {k : Nat} {c : Cohort} (h : Canon s) : CanonIn id (restoreCohort s k c) := by
  unfold restoreCohort
  refine .ite ⟨h.killCohort⟩ (Canon.restoreCrews ?_)
  split
  · exact h.moveSpgrow.updCohort.restoreStream
  · exact h.moveSpgrow.updCohort

protected theorem Canon.execCohortStart {core : Nat} (h : Canon s) : CanonIn nextState (execCohortStart core s) := by
  unfold execCohortStart
  split
  · exact ⟨h⟩
  · dsimp only
    split
    · exact ⟨h.updCore⟩
    · refine .ite ⟨h⟩ ?_
      split
      · exact ⟨h.updCore⟩
      · refine .ite ⟨h.updCore.startCohort⟩ (.ite ⟨h.foldl fun _ _ h => h.askFill⟩ ?_)
        split
        · exact ⟨h.updCore.restoreCohort.of ‹_›⟩
        · exact ⟨h⟩

protected theorem Canon.chooseCand {u : Nat} {c : Cand} (h : Canon s) : Canon (chooseCand s u c) := by
  unfold chooseCand
  extract_lets counted now stamped
  have hs : Canon stamped := Canon.foldl h.upd fun _ _ h => h.updCrew
  split
  · exact hs
  · exact hs.set

protected theorem Canon.execIssueSelect {core : Nat} (h : Canon s) : CanonIn nextState (execIssueSelect core s) := by
  unfold execIssueSelect
  extract_lets
  split
  · exact ⟨h⟩
  · split
    · exact ⟨h.updCore.updCore⟩
    · split
      · exact ⟨h.updCore⟩
      · exact ⟨h.updCore.chooseCand⟩

protected theorem Canon.execPriorityAge {crew split : Nat} (h : Canon s) :
    CanonIn nextState (execPriorityAge crew split s) := by
  unfold execPriorityAge
  split
  · exact ⟨h⟩
  · split
    · exact ⟨h⟩
    · exact .ite ⟨h.updSplit⟩ ⟨h⟩

protected theorem Canon.spgrowAnswer {p : Spgrow} {v : Nat} (h : Canon s) : Canon (spgrowAnswer s p v) := h.upd.updAcc

protected theorem Canon.execSpgrowGrant {core : Nat} (h : Canon s) : CanonIn nextState (execSpgrowGrant core s) := by
  unfold execSpgrowGrant
  dsimp only
  split
  · exact ⟨h.spgrowAnswer⟩
  · split
    · exact ⟨h⟩
    · refine .ite ⟨h.updCohort.spgrowAnswer⟩ ?_
      split
      · exact .ite ⟨h.spgrowAnswer⟩ ⟨h⟩
      · exact ⟨h⟩

/-! Stacks, migration and translation. -/

protected theorem Canon.releaseWindow {ctx w reason : Nat} (h : Canon s) : Canon (releaseWindow s ctx w reason) := by
  unfold releaseWindow
  split
  · exact h
  · split
    · exact h
    · exact h.dropWindow.ctxPost

protected theorem Canon.markRemap {ctx w : Nat} (h : Canon s) : Canon (markRemap s ctx w) := h.upd

protected theorem Canon.releaseRemaps (h : Canon s) : Canon (releaseRemaps s) := h.foldl fun _ _ h => h.releaseWindow

protected theorem Canon.fadeWindows (h : Canon s) : Canon (fadeWindows s) := h.upd

protected theorem Canon.execFadeTick (h : Canon s) : CanonIn nextState (execFadeTick s) := by
  unfold execFadeTick
  refine .ite ⟨h⟩ (⟨h.upd.fadeWindows.foldl fun _ _ h => ?_⟩)
  split
  · exact h.releaseWindow.ite h
  · exact h

protected theorem Canon.updStack {k : Nat} {f : Stack → Stack} (h : Canon s) : Canon (updStack s k f) := h.upd

protected theorem Canon.stackRecord {ty pa k : Nat} (h : Canon s) : Canon (stackRecord s ty pa k) := h.barPost

protected theorem Canon.pageRetired {page k : Nat} (h : Canon s) : Canon (pageRetired s page k) := by
  unfold pageRetired
  split
  · exact h.upd.stackRecord.ite h.upd
  · exact h.upd.stackRecord

protected theorem Canon.pageReleased {page : Nat} (h : Canon s) : Canon (pageReleased s page) := by
  unfold pageReleased
  split
  · exact h.ite h.upd.stackRecord
  · exact h

protected theorem Canon.stackProposed {k : Nat} (h : Canon s) : Canon (stackProposed s k) := by
  unfold stackProposed
  split
  · exact h.updStack.ite h.updStack.stackRecord
  · exact h

protected theorem Canon.stackEventNow {x : Nat × Nat × Nat} (h : Canon s) : Canon (stackEventNow s x) :=
  (h.pageRetired.upd.ite h.pageRetired).ite (h.pageReleased.ite h.stackProposed)

protected theorem Canon.drainEventsDue {n : Nat} (h : Canon s) : Canon (drainEventsDue n s) := by
  induction n generalizing s with
  | zero => exact h
  | succ n ih =>
    unfold drainEventsDue
    split
    · exact h
    · exact h.ite (ih h.upd.stackEventNow)

protected theorem Canon.stackEvent {ty page k : Nat} (h : Canon s) : Canon (stackEvent s ty page k) :=
  h.upd.drainEventsDue

protected theorem Canon.proposeStack {k : Nat} (h : Canon s) : Canon (proposeStack s k) := h.stackEvent

protected theorem Canon.proposeCounted {k : Nat} (h : Canon s) : Canon (proposeCounted s k) := h.proposeStack.ite h

protected theorem Canon.retirePage {g : Nat} (h : Canon s) : Canon (retirePage s g) :=
  h.updStack.ite h.updStack.stackEvent

protected theorem Canon.failRow {g : Nat} (h : Canon s) : Canon (failRow s g) := by
  unfold failRow
  exact h.updStack

protected theorem Canon.noteCorrected {g : Nat} (h : Canon s) : Canon (noteCorrected s g) :=
  h.updStack.failRow.ite h.updStack

protected theorem Canon.listFailed {g : Nat} (h : Canon s) : Canon (listFailed s g) :=
  h.ite ((h.updStack.proposeStack.ite h.updStack).ite h.updStack.proposeStack.retirePage)

protected theorem Canon.noteUncorrectable {g : Nat} (h : Canon s) : Canon (noteUncorrectable s g) :=
  h.listFailed.failRow

protected theorem Canon.readBefore {g : Nat} {listed : Bool} {ecc : EccOutcome} (h : Canon s) :
    Canon (readBefore s g listed ecc).2 := by
  unfold readBefore
  refine Canon.iteSnd h ?_
  split
  · exact h
  · exact h.noteCorrected
  · exact h.failRow

protected theorem Canon.readGranule {g : Nat} {ecc : EccOutcome} (h : Canon s) : Canon (readGranule s g ecc).2 := by
  unfold readGranule
  refine Canon.iteSnd h ?_
  split
  · exact h
  · exact h.noteCorrected
  · exact h.noteUncorrectable

protected theorem Canon.execStackRequest {stack : Nat} (h : Canon s) :
    CanonIn nextState (execStackRequest stack s) := by
  unfold execStackRequest
  dsimp only
  split
  · exact ⟨h⟩
  · exact ⟨h.updStack⟩

protected theorem Canon.fillCistern {r : StackReq} {bad : Bool} (h : Canon s) : Canon (fillCistern s r bad) :=
  h.ite h.cisternTouch

protected theorem Canon.completeRead {r : StackReq} {bad : Bool} (h : Canon s) : Canon (completeRead s r bad) := by
  unfold completeRead
  split
  · exact h.fillCistern.wakeAll
  · exact (h.ite h.fillCistern).updLine

protected theorem Canon.execStackCompletion {stack tag : Nat} {ecc : EccOutcome} (h : Canon s) :
    CanonIn nextState (execStackCompletion stack tag ecc s) := by
  unfold execStackCompletion
  extract_lets st
  split
  · exact ⟨h⟩
  · next r _ =>
    split
    · exact ⟨h⟩
    · split
      · exact ⟨h⟩
      · have hread : Canon (if r.write then (false, s) else
            match r.late with
            | some listed => readBefore s r.granule listed ecc
            | none => readGranule s r.granule ecc).2 := by
          split
          · exact h
          · split
            · exact h.readBefore
            · exact h.readGranule
        dsimp only
        exact ⟨hread.updStack.sendHeld.ite hread.updStack.sendHeld.completeRead⟩

protected theorem Canon.execScrub {stack : Nat} {ecc : EccOutcome} (h : Canon s) :
    CanonIn nextState (execScrub stack ecc s) :=
  .ite ⟨h⟩ ⟨h.readGranule.updStack⟩

protected theorem Canon.execRowRepair {stack : Nat} (h : Canon s) : CanonIn nextState (execRowRepair stack s) := by
  unfold execRowRepair
  dsimp only
  split
  · exact ⟨h⟩
  · exact .ite ⟨h⟩ (.ite ⟨h.updStack⟩ (.ite ⟨h.updStack⟩ (.ite ⟨h.updStack⟩ ⟨h.updStack.retirePage⟩)))

protected theorem Canon.failBad (h : Canon s) : Canon (failBad s) := h.foldl fun _ _ h => h.violate

protected theorem Canon.retireStackCmd {k : Nat} {confirm : Bool} (h : Canon s) :
    CanonIn Retire.state (retireStackCmd s k confirm) := by
  unfold retireStackCmd
  extract_lets
  split
  · exact .empty
  · split
    · exact .empty
    · exact ⟨h.set.updStack.failBad⟩

protected theorem Canon.execRegionClose (h : Canon s) : CanonIn nextState (execRegionClose s) := ⟨h.upd.ite h⟩

protected theorem Canon.closeRegion (h : Canon s) : Canon (closeRegion s) := h.upd.ite h

protected theorem Canon.moveFrames {r : Nat} (h : Canon s) : Canon (moveFrames s r) := h.upd.fetchVictims

protected theorem Canon.recallReads {r : Nat} (h : Canon s) : Canon (recallReads s r) :=
  h.upd.foldl fun _ _ h => h.updLine

protected theorem Canon.moveFailed {r : Nat} (h : Canon s) : Canon (moveFailed s r) :=
  h.upd.foldl fun _ _ h => h.listFailed

protected theorem Canon.recountPages (h : Canon s) : Canon (recountPages s) :=
  (h.foldl fun _ _ h => h.stackEvent).foldl fun _ _ h => h.stackEvent

protected theorem Canon.refitWindows (h : Canon s) : Canon (refitWindows s) := by
  unfold refitWindows
  refine Canon.foldlSnd h fun _ _ h => ?_
  split
  · exact h
  · exact Canon.iteSnd h h.markRemap

protected theorem Canon.migrationDone {k : Nat} (h : Canon s) : Canon (migrationDone s k) :=
  (h.upd.updStack.stackRecord.recountPages.refitWindows.foldl fun _ _ h => h.updStack.proposeStack).foldl fun _ _ h =>
    h.proposeCounted

protected theorem Canon.execRegionReopen (h : Canon s) : CanonIn nextState (execRegionReopen s) := by
  unfold execRegionReopen
  split
  · refine .ite ⟨h⟩ ?_
    extract_lets settled _ _ _ _ t moved done
    have hs : Canon settled := h.foldl fun _ _ h => h.settle
    have ht : Canon t := hs.upd
    have hm : Canon moved := ht.recallReads.moveFailed.moveFrames
    have hd : Canon done := hm.migrationDone.ite hm
    exact ⟨hd.postStalled.postHeld.drainEventsDue.wakeAll⟩
  · exact ⟨h⟩

/-! Matrix streams, layouts and drains. -/

protected theorem Canon.drawNoise {cid : Nat} {cr : Crew} {keyed : Bool} {lanes : List Nat} (h : Canon s) :
    Canon (drawNoise s cid cr keyed lanes).2 :=
  h.upd.updCrew

protected theorem Canon.wakeCohort {k : Nat} (h : Canon s) : Canon (wakeCohort s k) := h.foldl fun _ _ h => h.wakeCrew

protected theorem Canon.engXlate {g : Eng} {va path : Nat} {w : Bool} (h : Canon s) :
    CanonIn EngAns.state (engXlate s g va path w) := by
  unfold engXlate
  refine .ite ⟨h⟩ ?_
  split
  · exact .ite ⟨h.translate.snd ‹_›⟩ ⟨h.translate.snd ‹_›⟩
  · split <;> exact ⟨(h.translate.snd ‹_›).joinFault.snd ‹_›⟩
  · exact ⟨h.translate.snd ‹_›⟩
  · exact ⟨h.translate.snd ‹_›⟩

protected theorem Canon.engFill {cl ctx line : Nat} (h : Canon s) : Canon (engFill s cl ctx line).2 := by
  unfold engFill
  dsimp only
  split
  · exact h.settle
  · dsimp only
    exact h.settle.l2Touch.grantLease.updCluster

protected theorem Canon.engLineBytes {g : Eng} {line : Nat} (h : Canon s) : Canon (engLineBytes s g line).2 := by
  unfold engLineBytes
  split
  · exact h
  · exact h.engFill

protected theorem Canon.engRace {g : Eng} {w : Bool} {ps : List (Nat × Nat)} (h : Canon s) :
    CanonIn Except.toOption (engRace s g w ps) := by
  unfold engRace
  refine .ite ⟨h⟩ ?_
  split
  · exact .empty
  · exact ⟨h.raceAccess.of ‹_›⟩

protected theorem Canon.engDemand {g : Eng} {vline line : Nat} (h : Canon s) : Canon (engDemand s g vline line) :=
  h.ite h.countMatrix.touchWindows.updStream

protected theorem Canon.engLine {g : Eng} {path vline : Nat} {vas : List Nat} (h : Canon s) :
    CanonIn EngAns.state (engLine s g path vline vas) := by
  unfold engLine
  split
  · exact ⟨h.engXlate.of ‹_›⟩
  · exact ⟨h.engXlate.of ‹_›⟩
  · exact ⟨h.engXlate.of ‹_›⟩
  · refine .ite ⟨h.engXlate.of ‹_›⟩ (.ite ⟨(h.engXlate.of ‹_›).askFill⟩ (.ite ⟨h.engXlate.of ‹_›⟩ ?_))
    split
    · exact ⟨h.engXlate.of ‹_›⟩
    · exact ⟨((h.engXlate.of ‹_›).engRace.of ‹_›).engDemand.engLineBytes⟩

protected theorem Canon.engLines {g : Eng} {path : Nat} {vas xs : List Nat} (h : Canon s) :
    CanonIn EngAns.state (engLines s g path vas xs) := by
  induction xs generalizing s with
  | nil => exact ⟨h⟩
  | cons x xs ih =>
    unfold engLines
    split
    · split
      · exact ⟨(ih (h.engLine.of ‹_›)).of ‹_›⟩
      · exact ih (h.engLine.of ‹_›)
    · exact h.engLine

protected theorem Canon.engRead {g : Eng} {path : Nat} {vas : List Nat} (h : Canon s) :
    CanonIn EngAns.state (engRead s g path vas) :=
  h.engLines

protected theorem Canon.engReadN {g : Eng} {path va n : Nat} (h : Canon s) :
    CanonIn EngAns.state (engReadN s g path va n) := by
  unfold engReadN
  split <;> exact ⟨h.engRead.of ‹_›⟩

protected theorem Canon.readLayout {g : Eng} {w : Nat} (h : Canon s) : CanonIn EngAns.state (readLayout s g w) := by
  unfold readLayout
  dsimp only
  split
  · split
    · exact ⟨h.upd.updCluster⟩
    · exact ⟨h.updCluster⟩
  · split
    · exact ⟨(h.engReadN.of ‹_›).updCluster⟩
    · exact ⟨h.engReadN.of ‹_›⟩
    · exact ⟨h.engReadN.of ‹_›⟩
    · exact ⟨h.engReadN.of ‹_›⟩

protected theorem Canon.stopStream {key cause handle row : Nat} (h : Canon s) :
    Canon (stopStream s key cause handle row) :=
  h.updStream.wakeCohort

protected theorem Canon.stopFree {key cause : Nat} (h : Canon s) : Canon (stopFree s key cause) := h.upd.stopStream

protected theorem Canon.faultStream {key tag : Nat} (h : Canon s) : Canon (faultStream s key tag) := h.updStream

protected theorem Canon.doomStream {key : Nat} (h : Canon s) : Canon (doomStream s key) := h.updStream

protected theorem Canon.killStream {key : Nat} (h : Canon s) : Canon (killStream s key) := by
  unfold killStream
  split
  · exact h.updStream.killCohort
  · exact h

protected theorem Canon.killDoomed (h : Canon s) : Canon (killDoomed s) := h.foldl fun _ _ h => h.updStream.killStream

protected theorem Canon.endCommand {key : Nat} (h : Canon s) : Canon (endCommand s key) := by
  unfold endCommand
  split
  · exact h
  · split
    · exact h
    · exact h.updStream.wakeCohort

protected theorem Canon.noteProgress {key pass row : Nat} {cseq : W32} (h : Canon s) :
    Canon (noteProgress s key pass row cseq) :=
  h.updStream

protected theorem Canon.engFail {α : Type} {key : Nat} {a : EngAns α} {k : α → State → State}
    (ha : CanonIn EngAns.state a) (hk : ∀ x t, Canon t → Canon (k x t)) : Canon (engFail key a k) := by
  unfold engFail
  split
  · exact hk _ _ ha.all
  · exact ha.all
  · exact ha.all.faultStream
  · exact ha.all.killStream

protected theorem Canon.consumePost {key w : Nat} {r : BitVec 512} {last : Bool} (h : Canon s) :
    Canon (consumePost s key w r last) := by
  unfold consumePost
  refine Canon.ite h ?_
  split
  · exact h.updCluster
  · exact h

protected theorem Canon.beginMma {g : Eng} {arow brow ha hb : Nat} {sparse : Bool} (h : Canon s) :
    Canon (beginMma s g arow brow ha hb sparse) := by
  unfold beginMma
  refine Canon.engFail h.readLayout fun _ _ h => (Canon.engFail h.readLayout fun _ _ h => ?_)
  split
  · exact h.stopStream
  · exact h.updStream

protected theorem Canon.readGroups {g : Eng} {cls : Option Nat} {xs : List (Nat × GroupEntry)} (h : Canon s) :
    CanonIn EngAns.state (readGroups s g cls xs) := by
  induction xs generalizing s cls with
  | nil => exact ⟨h⟩
  | cons x xs ih =>
    unfold readGroups
    split
    · exact ⟨h.readLayout.of ‹_›⟩
    · exact ⟨h.readLayout.of ‹_›⟩
    · exact ⟨h.readLayout.of ‹_›⟩
    · refine .ite ⟨h.readLayout.of ‹_›⟩ ?_
      split
      · exact ⟨(ih (h.readLayout.of ‹_›)).of ‹_›⟩
      · exact ih (h.readLayout.of ‹_›)

protected theorem Canon.beginMgrp {g : Eng} {table groups ha : Nat} (h : Canon s) :
    Canon (beginMgrp s g table groups ha) := by
  unfold beginMgrp
  refine Canon.engFail h.readLayout fun _ _ h => (Canon.ite h.stopStream (Canon.engFail h.engReadN fun _ _ h => ?_))
  dsimp only
  split
  · exact h.stopStream
  · refine Canon.ite h.stopFree (Canon.engFail h.readGroups fun _ _ h => ?_)
    split
    · exact h.stopStream
    · exact h.updStream

protected theorem Canon.beginCommand {key : Nat} (h : Canon s) : Canon (beginCommand s key) := by
  unfold beginCommand
  split
  · exact h
  · refine Canon.ite h ?_
    split
    · exact h
    · dsimp only
      split
      · exact (h.ite h.noteProgress).beginMma
      · exact (h.ite h.noteProgress).beginMgrp
      · exact h

protected theorem Canon.noteRequest {key : Nat} (h : Canon s) : Canon (noteRequest s key) := by
  unfold noteRequest
  split
  · exact h
  · exact h.ite (h.updStream.ite h.updStream)

protected theorem Canon.noteRequests {keys : List Nat} (h : Canon s) : Canon (noteRequests s keys) :=
  h.foldl fun _ _ h => h.beginCommand.noteRequest

protected theorem Canon.scout {key : Nat} (h : Canon s) : Canon (scout s key) := by
  unfold scout
  split
  · exact h
  · split
    · dsimp only
      split
      · exact h.upd
      · exact h.upd.ite h.upd.engFill
    · exact h

protected theorem Canon.execPassGrant {cluster : Nat} (h : Canon s) :
    CanonIn nextState (execPassGrant cluster s) := by
  unfold execPassGrant
  refine .ite ⟨h.noteRequests.foldl fun _ _ h => h.scout⟩ ?_
  split
  · exact ⟨h.noteRequests.foldl fun _ _ h => h.scout⟩
  · exact ⟨(h.noteRequests.foldl fun _ _ h => h.scout).updStream⟩

protected theorem Canon.execMatrixPriorityAge {stream : Nat} (h : Canon s) :
    CanonIn nextState (execMatrixPriorityAge stream s) := by
  unfold execMatrixPriorityAge
  split
  · exact ⟨h⟩
  · split
    · exact ⟨h⟩
    · exact .ite ⟨h.updStream⟩ ⟨h⟩

protected theorem Canon.readElems {g : Eng} {w : Nat} {r : BitVec 512} {xs : List (Nat × Nat)} (h : Canon s) :
    CanonIn EngAns.state (readElems s g w r xs) := by
  unfold readElems
  dsimp only
  split
  · exact ⟨h⟩
  · refine .ite ⟨h⟩ ?_
    split <;> exact ⟨h.engRead.of ‹_›⟩

protected theorem Canon.readValues {g : Eng} {w : Nat} {r : BitVec 512} {xs : List (Nat × Nat × Nat)} (h : Canon s) :
    CanonIn RowA.state (readValues s g w r xs) := by
  unfold readValues
  split <;> exact ⟨h.readElems.of ‹_›⟩

protected theorem Canon.readRowA {g : Eng} {p : Product} {r : BitVec 512} {row : Nat} {ks : List Nat} (h : Canon s) :
    CanonIn RowA.state (readRowA s g p r row ks) := by
  unfold readRowA
  refine .ite h.readValues ?_
  dsimp only
  split
  · exact ⟨h.engRead.of ‹_›⟩
  · exact ⟨h.engRead.of ‹_›⟩
  · exact ⟨h.engRead.of ‹_›⟩
  · refine .ite ⟨h.engRead.of ‹_›⟩ ?_
    split
    · exact ⟨(h.engRead.of ‹_›).readValues.of ‹_›⟩
    · exact (h.engRead.of ‹_›).readValues

protected theorem Canon.readPassB {g : Eng} {p : Product} {ks : List Nat} {xs : List MGroup} (h : Canon s) :
    CanonIn EngAns.state (readPassB s g p ks xs) := by
  induction xs generalizing s with
  | nil => exact ⟨h⟩
  | cons x xs ih =>
    unfold readPassB
    dsimp only
    split
    · split
      · exact ⟨(ih (h.readElems.of ‹_›)).of ‹_›⟩
      · exact ih (h.readElems.of ‹_›)
    · exact ⟨h.readElems.of ‹_›⟩
    · exact ⟨h.readElems.of ‹_›⟩
    · exact ⟨h.readElems.of ‹_›⟩

protected theorem Canon.passRows {g : Eng} {p : Product} {pb : PassB} {chunks : List (List Nat)} {last : Bool}
    {n i : Nat} (h : Canon s) : CanonIn PassEnd.state (passRows g p pb chunks last n i s) := by
  induction n generalizing i s with
  | zero => exact ⟨h⟩
  | succ n ih =>
    unfold passRows
    split
    · exact ⟨h⟩
    · dsimp only
      split
      · exact ih h
      · split
        · exact ⟨(h.readRowA.of ‹_›).updStream⟩
        · exact ⟨(h.readRowA.of ‹_›).updStream.faultStream⟩
        · exact ⟨(h.readRowA.of ‹_›).killStream⟩
        · exact ⟨(h.readRowA.of ‹_›).updStream.stopStream⟩
        · exact ih (h.readRowA.of ‹_›).updStream

protected theorem Canon.endProduct {key : Nat} {st : Stream} {p : Product} (h : Canon s) :
    Canon (endProduct s key st p) := by
  unfold endProduct
  refine Canon.endCommand (Canon.updStream ?_)
  split
  · exact h.consumePost.consumePost
  · exact h.consumePost

protected theorem Canon.runPass {key : Nat} (h : Canon s) : Canon (runPass s key) := by
  unfold runPass
  split
  · exact h
  · split
    · exact h
    · refine Canon.engFail h.readPassB fun _ _ h => ?_
      split
      · exact h.passRows.of ‹_›
      · exact (h.passRows.of ‹_›).upd.updStream.endProduct.ite (h.passRows.of ‹_›).upd.updStream

protected theorem Canon.endIdleStream {key : Nat} (h : Canon s) : Canon (endIdleStream s key) := by
  unfold endIdleStream
  split
  · exact h
  · exact h.endDone.ite h

protected theorem Canon.execPassComplete {cluster : Nat} (h : Canon s) :
    CanonIn nextState (execPassComplete cluster s) := by
  unfold execPassComplete
  split
  · exact ⟨h⟩
  · exact ⟨h.runPass.endIdleStream⟩

protected theorem Canon.execMatrixFaultLimit {stream : Nat} (h : Canon s) :
    CanonIn nextState (execMatrixFaultLimit stream s) := by
  unfold execMatrixFaultLimit
  split
  · exact ⟨h⟩
  · exact .ite ⟨h.doomStream⟩ ⟨h⟩

protected theorem Canon.execMzeroPerform {stream : Nat} (h : Canon s) :
    CanonIn nextState (execMzeroPerform stream s) := by
  unfold execMzeroPerform
  split
  · exact ⟨h⟩
  · split
    · exact ⟨h.updStream.endCommand⟩
    · exact ⟨h⟩

protected theorem Canon.execMmaskPerform {stream : Nat} (h : Canon s) :
    CanonIn nextState (execMmaskPerform stream s) := by
  unfold execMmaskPerform
  split
  · exact ⟨h⟩
  · split
    · exact ⟨h.updStream.endCommand⟩
    · refine ⟨Canon.engFail h.noteProgress.engReadN fun _ _ h => ?_⟩
      split
      · exact h.stopFree
      · exact h.updStream.endCommand
    · exact ⟨h⟩

protected theorem Canon.engWriteAddrs {g : Eng} {xs : List Nat} (h : Canon s) :
    CanonIn EngAns.state (engWriteAddrs s g xs) := by
  induction xs generalizing s with
  | nil => exact ⟨h⟩
  | cons x xs ih =>
    unfold engWriteAddrs
    split
    · split
      · exact ⟨(ih (h.engXlate.of ‹_›)).of ‹_›⟩
      · exact ih (h.engXlate.of ‹_›)
    · exact ⟨h.engXlate.of ‹_›⟩
    · exact ⟨h.engXlate.of ‹_›⟩
    · exact ⟨h.engXlate.of ‹_›⟩

protected theorem Canon.engStore {g : Eng} {ws : List (Nat × Byte)} (h : Canon s) : Canon (engStore s g ws) :=
  h.arriveAll.updCluster.updStream

protected theorem Canon.writeBand {g : Eng} {r : BitVec 512} {fs : List FieldWrite} {scales : List (Nat × Byte)}
    (h : Canon s) : CanonIn EngAns.state (writeBand s g r fs scales) := by
  unfold writeBand
  dsimp only
  split
  · exact ⟨h⟩
  · refine .ite ⟨h⟩ ?_
    split
    · exact ⟨h.engWriteAddrs.of ‹_›⟩
    · exact ⟨h.engWriteAddrs.of ‹_›⟩
    · exact ⟨h.engWriteAddrs.of ‹_›⟩
    · split
      · exact ⟨h.engWriteAddrs.of ‹_›⟩
      · exact ⟨(((h.engWriteAddrs.of ‹_›).engRace.of ‹_›).updCohort.ite
          ((h.engWriteAddrs.of ‹_›).engRace.of ‹_›).engStore).engStore⟩

protected theorem Canon.statOlds {g : Eng} {d : Drain} {i b : Nat} (h : Canon s) :
    CanonIn EngAns.state (statOlds s g d i b) := by
  unfold statOlds
  split
  · exact ⟨h⟩
  · exact ⟨h⟩
  · split <;> exact ⟨h.engReadN.of ‹_›⟩

protected theorem Canon.statPlaces {g : Eng} {d : Drain} {i b : Nat} (h : Canon s) :
    CanonIn EngAns.state (statPlaces s g d i b) := by
  unfold statPlaces
  split
  · exact ⟨h⟩
  · split
    · split
      · exact ⟨h.engWriteAddrs.of ‹_›⟩
      · exact ⟨(h.engWriteAddrs.of ‹_›).engRace.of ‹_›⟩
    · exact h.engWriteAddrs

protected theorem Canon.writeStats {g : Eng} {st : Stream} {d : Drain} {i : Nat} {olds : List (Option (Nat × Nat))}
    {ps : List (Nat × Nat)} (h : Canon s) : Canon (writeStats s g st d i olds ps) :=
  h.engStore

protected theorem Canon.drainFrom {g : Eng} {d : Drain} {r : BitVec 512} {n : Nat} (h : Canon s) :
    Canon (drainFrom g d r n s) := by
  induction n generalizing s with
  | zero => exact h
  | succ n ih =>
    unfold drainFrom
    split
    · exact h
    · exact h.updStream.ite (Canon.engFail h.statOlds fun _ _ h => Canon.engFail h.statPlaces fun _ _ h =>
        Canon.engFail (.ite ⟨h⟩ h.writeBand) fun _ _ h => ih h.writeStats.updStream)

protected theorem Canon.takeDrainEntry {key hd : Nat} (h : Canon s) : Canon (takeDrainEntry s key hd) :=
  h.updCluster.updStream

protected theorem Canon.execMdrainPerform {stream : Nat} (h : Canon s) :
    CanonIn nextState (execMdrainPerform stream s) := by
  unfold execMdrainPerform
  split
  · exact ⟨h⟩
  · split
    · exact ⟨h⟩
    · refine .ite ⟨h⟩ (.ite ⟨h⟩ ?_)
      extract_lets t run
      have ht : Canon t := h.ite h.noteProgress.takeDrainEntry
      have hrun (r : BitVec 512) (u : State) (hu : Canon u) : Canon (run r u) := hu.drainFrom.set
      exact .ite ⟨hrun _ _ ht.updStream⟩ (.ite ⟨hrun _ _ ht⟩
        ⟨Canon.engFail ht.readLayout fun _ _ h => h.stopStream.ite (hrun _ _ h.updStream)⟩)

protected theorem Canon.execDrainComplete {stream : Nat} (h : Canon s) :
    CanonIn nextState (execDrainComplete stream s) := by
  unfold execDrainComplete
  split
  · exact ⟨h⟩
  · split
    · exact ⟨h⟩
    · refine ⟨Canon.endIdleStream (Canon.endCommand ?_)⟩
      split
      · exact h.updCluster.updStream.ackTw
      · exact h.updCluster.updStream

protected theorem Canon.envCommand {c : MCmd} (h : Canon e.s) : CanonIn Eff.state (Env.command e c) := by
  unfold Env.command
  split
  · exact ⟨h⟩
  · exact .ite ⟨h⟩ ⟨h.upd.updStream⟩

protected theorem Canon.envGuarded {k : Eff} (h : Canon e.s) (hk : CanonIn Eff.state k) :
    CanonIn Eff.state (Env.guarded e k) :=
  .ite ⟨h⟩ hk

protected theorem Canon.execMma {g : Guard} {arow brow k0 : Src} {ha hb : BitVec 12} {km1 : BitVec 20}
    {lastA lastB : Bool} (h : Canon s) : CanonIn nextState (execMma g arow brow k0 ha hb km1 lastA lastB s) :=
  h.issue fun _ h => Canon.envGuarded h (Canon.envCommand h)

protected theorem Canon.execMmas {g : Guard} {arow brow k0 : Src} {ha hb : BitVec 12} {km1 : BitVec 20}
    {lastA lastB : Bool} (h : Canon s) : CanonIn nextState (execMmas g arow brow k0 ha hb km1 lastA lastB s) :=
  h.issue fun _ h => Canon.envGuarded h (.ite .empty (Canon.envCommand h))

protected theorem Canon.execMgrp {g : Guard} {table k0 groups : Src} {ha : BitVec 12} {km1 : BitVec 20} {lastA : Bool}
    (h : Canon s) : CanonIn nextState (execMgrp g table k0 groups ha km1 lastA s) :=
  h.issue fun _ h => Canon.envGuarded h (.ite .empty (.ite .empty (Canon.envCommand h)))

protected theorem Canon.execMzero {g : Guard} (h : Canon s) : CanonIn nextState (execMzero g s) :=
  h.issue fun _ h => Canon.envGuarded h (Canon.envCommand h)

protected theorem Canon.execMdrain {g : Guard} {stats key posseq : Src} {rnd : Rnd} {epi : Epi}
    {merge clr notile keyed : Bool} {hd : BitVec 12} (h : Canon s) :
    CanonIn nextState (execMdrain g stats key posseq rnd epi merge clr notile keyed hd s) :=
  h.issue fun _ h => Canon.envGuarded h (.ite .empty (Canon.envCommand h))

protected theorem Canon.execMmask {g : Guard} {addr : Src} {off : Bool} (h : Canon s) :
    CanonIn nextState (execMmask g addr off s) :=
  h.issue fun _ h => Canon.envGuarded h (.ite .empty (Canon.envCommand h))

protected theorem Canon.envFill {d : Dest} {v : W32} (h : Canon s) : CanonIn Eff.state (Env.fill e s d v) := by
  unfold Env.fill
  split
  · exact ⟨h.updCrew⟩
  · exact ⟨h⟩

protected theorem Canon.execMwait {g : Guard} {d : Dest} (h : Canon s) : CanonIn nextState (execMwait g d s) := by
  unfold execMwait
  refine h.issue fun _ h => (Canon.envGuarded h ?_)
  split
  · exact ⟨h⟩
  · split
    · exact .ite ⟨h.updStream⟩ ⟨h.updStream⟩
    · exact .ite h.envFill ⟨h⟩

protected theorem Canon.setResv {k : Nat} {f : SMap Resv → SMap Resv} (h : Canon s) : Canon (setResv s k f) :=
  h.updCluster

protected theorem Canon.postTile {k cohort w i : Nat} (h : Canon s) : Canon (postTile s k cohort w i) := by
  unfold postTile
  exact h.updStream.updCluster

protected theorem Canon.execTilepost {g : Guard} {w : BitVec 12} (h : Canon s) :
    CanonIn nextState (execTilepost g w s) := by
  unfold execTilepost
  refine h.issue fun _ h => ?_
  split
  · exact .empty
  · refine .ite ⟨h⟩ ?_
    split
    · exact ⟨h⟩
    · exact ⟨h.postTile⟩

protected theorem Canon.retireTask {cid k : Nat} {c : Cohort} (h : Canon s) : Canon (retireTask s cid k c) := by
  unfold retireTask
  split
  · exact h
  · refine Canon.updStream ?_
    split
    · exact h.postStamp
    · exact h

protected theorem Canon.envWaitPost {k w : Nat} {d : Dest} (h : Canon e.s) :
    CanonIn Eff.state (Env.waitPost e k w d) := by
  unfold Env.waitPost
  split
  · exact h.envFill
  · exact .ite ⟨h⟩ h.setResv.wakeCohort.envFill

protected theorem Canon.envWaitDrain {k w : Nat} {d : Dest} (h : Canon e.s) :
    CanonIn Eff.state (Env.waitDrain e k w d) := by
  unfold Env.waitDrain
  split
  · exact ⟨h⟩
  · refine .ite ⟨h⟩ (Canon.envFill ?_)
    split
    · exact h.setResv.ackTw.retireTask
    · exact h.setResv.ackTw

protected theorem Canon.execTilewait {g : Guard} {d : Dest} {w : BitVec 12} {drain : Bool} (h : Canon s) :
    CanonIn nextState (execTilewait g d w drain s) := by
  unfold execTilewait
  refine h.issue fun _ h => ?_
  split
  · exact .empty
  · exact .ite ⟨h⟩ (.ite (Canon.envWaitDrain h) (Canon.envWaitPost h))

/-! Wells, their commands and sweeps. -/

protected theorem Canon.updWell {w : Nat} {f : Well → Well} (h : Canon s) : Canon (updWell s w f) := h.upd

protected theorem Canon.publish {w : Nat} (h : Canon s) : Canon (publish s w) := h.upd

protected theorem Canon.execBoundaryStateArrive {well slot : Nat} (h : Canon s) :
    CanonIn nextState (execBoundaryStateArrive well slot s) := by
  unfold execBoundaryStateArrive
  dsimp only
  split
  · exact ⟨h⟩
  · exact ⟨h.updWell⟩

protected theorem Canon.wellRace {ctx : Nat} {c : WellCmd} {ps : List (Nat × Nat)} (h : Canon s) :
    CanonIn Except.toOption (wellRace s ctx c ps) := by
  unfold wellRace
  refine .ite ⟨h⟩ ?_
  split
  · exact .empty
  · exact ⟨h.raceAccess.of ‹_›⟩

protected theorem Canon.wellRead {w ctx : Nat} {c : WellCmd} {stream : Bool} {va n : Nat} (h : Canon s) :
    CanonIn WellAns.state (wellRead s w ctx c stream va n) := by
  unfold wellRead
  split
  · split
    · exact ⟨((h.translate.snd ‹_›).joinFault.snd ‹_›).updWell⟩
    · exact ⟨(h.translate.snd ‹_›).joinFault.snd ‹_›⟩
  · next t ht =>
    have ht := h.translate.snd ht
    refine .ite ⟨ht⟩ (.ite ⟨ht.askFill⟩ (.ite ⟨ht⟩ ?_))
    split
    · exact ⟨ht⟩
    · next hr =>
      refine ⟨Canon.touchWindows ?_⟩
      refine CanonIn.of (st := Except.toOption) ?_ hr
      exact .ite ht.wellRace ⟨ht⟩
  · exact ⟨h.translate.snd ‹_›⟩
  · exact ⟨h.translate.snd ‹_›⟩

protected theorem Canon.srcRead {w ctx : Nat} {c : WellCmd} {stream : Bool} {src : WellSrc} {o n : Nat} (h : Canon s)
    : CanonIn WellAns.state (srcRead s w ctx c stream src o n) := by
  unfold srcRead
  split
  · exact h.wellRead
  · split
    · exact ⟨h⟩
    · exact .ite ⟨h⟩ ⟨h⟩
  · exact ⟨h⟩

protected theorem Canon.countSrc {w ctx : Nat} {src : WellSrc} {o n : Nat} (h : Canon s) :
    Canon (countSrc s w ctx src o n) := by
  unfold countSrc
  split
  · exact h.foldl fun _ _ h => h.countWell
  · exact h

protected theorem Canon.streamWord {w ctx : Nat} {c : WellCmd} {src : WellSrc} {i : Nat} (h : Canon s) :
    CanonIn WellAns.state (streamWord s w ctx c src i) := by
  unfold streamWord
  split <;> exact ⟨h.srcRead.of ‹_›⟩

protected theorem Canon.streamWords {w ctx : Nat} {c : WellCmd} {src : WellSrc} {n i : Nat} (h : Canon s) :
    CanonIn WellAns.state (streamWords w ctx c src n i s) := by
  induction n generalizing i s with
  | zero => exact ⟨h⟩
  | succ n ih =>
    unfold streamWords
    split
    · split
      · exact ⟨(ih (h.streamWord.of ‹_›)).of ‹_›⟩
      · exact ih (h.streamWord.of ‹_›)
    · exact ⟨h.streamWord.of ‹_›⟩
    · exact ⟨h.streamWord.of ‹_›⟩
    · exact ⟨h.streamWord.of ‹_›⟩

protected theorem Canon.classRecords {w ctx : Nat} {c : WellCmd} {src : WellSrc} {len cls : Nat} (h : Canon s) :
    CanonIn WellAns.state (classRecords s w ctx c src len cls) := by
  unfold classRecords
  split
  · exact ⟨h.streamWord.of ‹_›⟩
  · exact ⟨h.streamWord.of ‹_›⟩
  · exact ⟨h.streamWord.of ‹_›⟩
  · refine .ite ⟨h.streamWord.of ‹_›⟩ ?_
    split
    · exact ⟨((h.streamWord.of ‹_›).streamWords.of ‹_›).countSrc.ite
        ((h.streamWord.of ‹_›).streamWords.of ‹_›).countSrc.countSrc⟩
    · exact ⟨(h.streamWord.of ‹_›).streamWords.of ‹_›⟩
    · exact ⟨(h.streamWord.of ‹_›).streamWords.of ‹_›⟩
    · exact ⟨(h.streamWord.of ‹_›).streamWords.of ‹_›⟩

protected theorem Canon.wellPop {w : Nat} {count : Bool} (h : Canon s) : Canon (wellPop s w count) := by
  unfold wellPop
  split
  · exact h
  · refine Canon.wakeAll ?_
    split
    · exact h.updWell.updCrew.addCount.ite h.updWell.updCrew
    · exact h.updWell

protected theorem Canon.wellDone {w : Nat} {cause : Option WellCause} (h : Canon s) : Canon (wellDone s w cause) := by
  unfold wellDone
  split
  · exact h
  · exact h.wellPop
  · exact h.wellPop.deferReport

protected theorem Canon.wellKill {w : Nat} {c : WellCmd} (h : Canon s) : Canon (wellKill s w c) := by
  unfold wellKill
  refine Canon.wellPop ?_
  split
  · exact h.killCohort
  · exact h

protected theorem Canon.countElem {w ctx : Nat} {src : WellSrc} {size i : Nat} (h : Canon s) :
    Canon (countElem s w ctx src size i) := by
  unfold countElem
  split
  · exact h.countSrc.ite h
  · exact h

protected theorem Canon.loadFrom {w ctx : Nat} {c : WellCmd} {kind : WloadKind} {src : WellSrc} {first n i : Nat}
    (h : Canon s) : Canon (loadFrom w ctx c kind src first n i s) := by
  induction n generalizing i s with
  | zero => exact h.wellDone
  | succ n ih =>
    unfold loadFrom
    split
    · exact ih (h.srcRead.of ‹_›).countElem.updWell
    · exact h.srcRead.of ‹_›
    · exact (h.srcRead.of ‹_›).wellDone
    · exact (h.srcRead.of ‹_›).wellKill

protected theorem Canon.linkSlot {w stale : Nat} {a : State × Bool} {p : Nat × W32} (h : Canon a.1) :
    Canon (linkSlot w stale a p).1 := by
  unfold linkSlot
  dsimp only
  refine Canon.iteFst ?_ (Canon.iteFst ?_ (Canon.iteFst h ?_)) <;> dsimp only
  · exact h.updWell
  · exact h.updWell
  · exact h.updWell.updWell

protected theorem Canon.beginSweep {w : Nat} {beta : BitVec 16} {n : Nat} {phys : Bool} (h : Canon s) :
    Canon (beginSweep s w beta n phys) :=
  h.updWell.wellDone.ite (h.updWell.wellDone.ite h.updWell.updWell)

protected theorem Canon.performWell {w ctx : Nat} {c : WellCmd} (h : Canon s) : Canon (performWell s w ctx c) := by
  unfold performWell
  split
  · exact h.loadFrom
  · exact h.updWell.wellDone
  · exact h.updWell.wellDone
  · exact h.updWell.wellDone
  · exact h.updWell.wellDone
  · exact h.beginSweep
  · exact h.updAcc.wellDone
  · exact (Canon.foldlFst h fun _ _ h => Canon.linkSlot h).updWell.wellDone

protected theorem Canon.execWellCommandPerform {well : Nat} (h : Canon s) :
    CanonIn nextState (execWellCommandPerform well s) := by
  unfold execWellCommandPerform
  dsimp only
  split
  · exact .ite ⟨h.performWell⟩ ⟨h⟩
  · exact ⟨h⟩

protected theorem Canon.classStep {w ctx : Nat} {c : WellCmd} {classes : List Nat} {src : Option (WellSrc × Nat)}
    {p : SweepPos} (h : Canon s) : Canon (classStep s w ctx c classes src p) := by
  unfold classStep
  extract_lets x p t cls ans
  have ht : Canon t := h.updWell
  have ha : CanonIn WellAns.state ans := by
    unfold ans
    split
    · exact ⟨ht⟩
    · exact ht.classRecords
  clear_value ans
  split
  · exact ha.all
  · exact ha.all.wellDone
  · exact ha.all.wellKill
  · next u =>
    have hu : Canon u := ha.all
    exact hu.set.updWell.ite
      (hu.set.updWell.updWell.publish.wellDone.ite hu.set.updWell.updWell.publish.updWell)

protected theorem Canon.execWellClassUpdate {well : Nat} (h : Canon s) :
    CanonIn nextState (execWellClassUpdate well s) := by
  unfold execWellClassUpdate
  dsimp only
  split
  · exact .ite ⟨h⟩ (.ite ⟨h.wellDone⟩ (.ite ⟨h⟩ ⟨h.classStep⟩))
  · exact ⟨h⟩

protected theorem Canon.stopPhys {w : Nat} (h : Canon s) : Canon (stopPhys s w) := by
  unfold stopPhys
  dsimp only
  split
  · exact h.ite h.wellDone
  · exact h

protected theorem Canon.substitute {w failed : Nat} (h : Canon s) : Canon (substitute s w failed) :=
  h.upd.updWell.stopPhys.barPost

protected theorem Canon.requalWindow {w : Nat} {pass : Bool} (h : Canon s) : Canon (requalWindow s w pass) := by
  unfold requalWindow
  split
  · exact h
  · exact h.updWell.set

protected theorem Canon.execHealthWindow {well ones corr : Nat} (h : Canon s) :
    CanonIn nextState (execHealthWindow well ones corr s) :=
  .ite ⟨h⟩ ⟨(h.updWell.substitute.ite h.updWell).requalWindow⟩

protected theorem Canon.envOnWell {w : Nat} {bad : Bool} {k : Eff} (hk : CanonIn Eff.state k) :
    CanonIn Eff.state (Env.onWell e w bad k) :=
  .ite .empty (.ite .empty hk)

protected theorem Canon.envWellQueue {w : Nat} {cnt : Option WellCount} {body : WellBody} (he : Canon e.s)
    (hs : Canon s) : CanonIn Eff.state (Env.wellQueue e s w cnt body) := by
  unfold Env.wellQueue
  refine .ite ⟨he⟩ ?_
  dsimp only
  split
  · exact ⟨hs.upd.updWell.updCrew⟩
  · exact ⟨hs.upd.updWell⟩

protected theorem Canon.envWells {w : Src} {k : Nat → Eff} (h : Canon e.s) (hk : ∀ x, CanonIn Eff.state (k x)) :
    CanonIn Eff.state (Env.wells e w k) :=
  .ite ⟨h⟩ (hk _)

protected theorem Canon.execWload {g : Guard} {w off first : Src} {kind : WloadKind} {sp : Bool} {cnt : WellCount}
    {br : BitVec 4} {xs : BitVec 3} {count : BitVec 18} (h : Canon s) :
    CanonIn nextState (execWload g w off first kind sp cnt br xs count s) := by
  unfold execWload
  refine h.issue fun _ h => (Canon.envWells h fun _ => (Canon.envOnWell ?_))
  split
  · exact .empty
  · exact Canon.envWellQueue h h

protected theorem Canon.execWbias {g : Guard} {w cell bias : Src} {cnt : WellCount} (h : Canon s) :
    CanonIn nextState (execWbias g w cell bias cnt s) :=
  h.issue fun _ h => Canon.envWells h fun _ => Canon.envOnWell (Canon.envWellQueue h h)

protected theorem Canon.execWclamp {g : Guard} {w cell clamp : Src} {cnt : WellCount} (h : Canon s) :
    CanonIn nextState (execWclamp g w cell clamp cnt s) :=
  h.issue fun _ h => Canon.envWells h fun _ => Canon.envOnWell (Canon.envWellQueue h h)

protected theorem Canon.execWsweep {g : Guard} {w off order : Src} {nclsm1 : BitVec 3} {cnt : WellCount}
    {x : SweepExt} (h : Canon s) : CanonIn nextState (execWsweep g w off order nclsm1 cnt x s) := by
  unfold execWsweep
  refine h.issue fun _ h => (Canon.envWells h fun _ => (Canon.envOnWell ?_))
  split
  · exact .empty
  · exact Canon.envWellQueue h h

protected theorem Canon.execWread {g : Guard} {d : Dest} {w index : Src} {kind : WreadKind} (h : Canon s) :
    CanonIn nextState (execWread g d w index kind s) := by
  refine h.issue fun _ h => Canon.envWells h fun _ => Canon.envOnWell ?_
  dsimp only
  exact Canon.envWellQueue h h.envPost

protected theorem Canon.execWkey {g : Guard} {w key : Src} {imm : Option W64} {cnt : WellCount} (h : Canon s) :
    CanonIn nextState (execWkey g w key imm cnt s) :=
  h.issue fun _ h => Canon.envWells h fun _ => Canon.envOnWell (Canon.envWellQueue h h)

protected theorem Canon.execWkeyPhys {g : Guard} {w : Src} {cnt : WellCount} (h : Canon s) :
    CanonIn nextState (execWkeyPhys g w cnt s) :=
  h.issue fun _ h => Canon.envWells h fun _ => Canon.envOnWell (Canon.envWellQueue h h)

protected theorem Canon.execWkeyDraw {g : Guard} {key : Src} {imm : Option W64} (h : Canon s) :
    CanonIn nextState (execWkeyDraw g key imm s) :=
  h.issue fun _ h => .ite ⟨h⟩ ⟨h.updCrew⟩

protected theorem Canon.execWnoise {g : Guard} {d : Dest} {keyed : Bool} (h : Canon s) :
    CanonIn nextState (execWnoise g d keyed s) := by
  refine h.issue fun e h => .ite ⟨h⟩ ?_
  split
  next t ht =>
  exact Canon.envDue (e := { e with s := t }) (Canon.snd h.drawNoise ht)

protected theorem Canon.execWstat {g : Guard} {d : Dest} {w : Src} (h : Canon s) :
    CanonIn nextState (execWstat g d w s) := by
  refine h.issue fun _ h => Canon.envWells h fun _ => Canon.envOnWell ?_
  refine Canon.envDue ?_
  dsimp only
  exact h.updWell

protected theorem Canon.execWlink {g : Guard} {w slot value : Src} {cnt : WellCount} {stale : BitVec 4} (h : Canon s)
    : CanonIn nextState (execWlink g w slot value cnt stale s) := by
  unfold execWlink
  refine h.issue fun _ h => (Canon.envWells h fun _ => (Canon.envOnWell ?_))
  split
  · exact .empty
  · exact Canon.envWellQueue h h

protected theorem Canon.execSpfree {g : Guard} {n : Src} (h : Canon s) : CanonIn nextState (execSpfree g n s) := by
  unfold execSpfree
  refine h.issue fun _ h => (.ite ⟨h⟩ ?_)
  dsimp only
  split
  · exact ⟨h⟩
  · exact .ite ⟨h⟩ (.ite .empty (.ite ⟨h⟩ ⟨h.updCohort⟩))

/-! Faults, the host, ticks and boot. -/

protected theorem Canon.execTrapDelivery {crew : Nat} (h : Canon s) :
    CanonIn nextState (execTrapDelivery crew s) := by
  unfold execTrapDelivery
  split
  · exact ⟨h⟩
  · exact ⟨h.deliverDeferred.ite h⟩

protected theorem Canon.endCohortCrews {k : Nat} {killed : Bool} (h : Canon s) :
    Canon (endCohortCrews s k killed) := by
  unfold endCohortCrews
  extract_lets cs t
  have ht : Canon t := h.foldl fun _ _ h => h.endCrewOnly
  exact (ht.killCohort.ite ht).ite ht.endCohort

protected theorem Canon.cohortError {c : Cohort} {cause : Nat} (h : Canon s) : Canon (cohortError s c cause) :=
  h.updCtx

protected theorem Canon.execCohortKill {cohort : Nat} (h : Canon s) :
    CanonIn nextState (execCohortKill cohort s) := by
  unfold execCohortKill
  split
  · exact ⟨h⟩
  · refine .ite ⟨h⟩ ?_
    extract_lets t
    have ht : Canon t := h.endCohortCrews.barriersCheck
    refine .ite ⟨ht⟩ ?_
    split
    · exact ⟨ht⟩
    · exact ⟨ht.ite (ht.set.ite ht.cohortError)⟩

protected theorem Canon.stopQueue {q : Nat} {x : Queue} (h : Canon s) : Canon (stopQueue s q x) := by
  unfold stopQueue
  refine Canon.updQueue ?_
  split
  · exact h
  · refine Canon.completeEntry (Canon.sessionNode ?_)
    split
    · split
      · exact (h.translate.snd ‹_›).devWrite
      · exact h.translate.snd ‹_›
    · exact h

protected theorem Canon.endService {ctx : Nat} (h : Canon s) : Canon (endService s ctx) :=
  h.foldl fun _ _ h => h.endCrewOnly

protected theorem Canon.failContext {ctx : Nat} (h : Canon s) : Canon (failContext s ctx) :=
  ((h.endService.foldl fun _ _ h => h.endCohortCrews).upd.foldl fun _ _ h => h.stopQueue).updCtx

protected theorem Canon.statusStalls {ctx : Nat} (h : Canon s) : CanonIn id (statusStalls s ctx) := by
  refine .findSome fun x => .ite .empty ?_
  split
  · exact .empty
  · split
    · exact ⟨h.translate.snd ‹_›⟩
    · exact .empty

protected theorem Canon.execContextError {ctx : Nat} (h : Canon s) : CanonIn nextState (execContextError ctx s) := by
  unfold execContextError
  split
  · exact ⟨h⟩
  · exact ⟨h.statusStalls.of ‹_›⟩
  · exact ⟨h.failContext.barPost⟩

protected theorem Canon.answerAccess {ans : Answer} {tag : Nat} {p : Nat × Access} (h : Canon s) :
    Canon (answerAccess ans tag s p) := by
  unfold answerAccess
  split
  · exact h.updAcc
  · exact h.appendFail
  · exact h.appendFail
  · exact h.violate
  · exact h.violate

protected theorem Canon.answerCopy {ans : Answer} {c : CopyOp} (h : Canon s) : Canon (answerCopy ans s c) := by
  unfold answerCopy
  split <;> exact h.updCopy

protected theorem Canon.pumpViolation {q : Nat} {g : GraphRun} (h : Canon s) : Canon (pumpViolation s q g) := by
  unfold pumpViolation
  split
  · exact h.updQueue.finishNode
  · exact h.updGraph.finishNode
  · exact h.completeEntry
  · exact h.finishNode

protected theorem Canon.answerGraph {ans : Answer} {q : Nat} {g : GraphRun} (h : Canon s) :
    Canon (answerGraph ans s q g) := by
  unfold answerGraph
  dsimp only
  split
  · exact h.updGraph
  · exact h.updGraph.pumpViolation

protected theorem Canon.answerStream {ans : Answer} {key : Nat} (h : Canon s) : Canon (answerStream ans s key) := by
  unfold answerStream
  dsimp only
  split
  · exact h.updStream
  · exact h.updStream.killStream

protected theorem Canon.answerWell {ans : Answer} {w : Nat} (h : Canon s) : Canon (answerWell ans s w) := by
  unfold answerWell
  dsimp only
  split
  · exact h.updWell
  · exact h.updWell.wellDone

protected theorem Canon.fetchViolation {cid page : Nat} {sp : Split} (h : Canon s) :
    Canon (fetchViolation s cid page sp) := by
  unfold fetchViolation
  split
  · exact h
  · dsimp only
    split <;> exact h.takeTrap

protected theorem Canon.answerFetch {ans : Answer} {tag page : Nat} {p : Nat × Crew} (h : Canon s) :
    Canon (answerFetch ans tag page s p) := by
  unfold answerFetch
  split
  · exact h.wakeSplits
  · exact h.foldl fun _ _ h => h.wakeSplits.fetchViolation

protected theorem Canon.answerWalk {ans : Answer} {ctx k : Nat} (h : Canon s) : Canon (answerWalk ans s ctx k) :=
  h.updSib

protected theorem Canon.answerFault {ctx tag : Nat} {ans : Answer} (h : Canon s) :
    CanonIn id (answerFault s ctx tag ans) := by
  unfold answerFault
  split
  · exact .empty
  · split
    · exact .empty
    · extract_lets held ctxAnswered accsAnswered copiesAnswered graphsAnswered streams wells walks fetches
      have ha : Canon accsAnswered := h.updCtx.foldl fun _ _ h => h.answerAccess
      have hc : Canon copiesAnswered := ha.foldl fun _ _ h => h.answerCopy
      have hg : Canon graphsAnswered := by
        refine hc.foldl fun _ _ h => ?_
        split
        · exact h.answerGraph.ite h
        · exact h
      have hs : Canon streams := hg.foldl fun _ _ h => h.answerStream
      have hw : Canon wells := hs.foldl fun _ _ h => h.answerWell
      have hk : Canon walks := hw.foldl fun _ _ h => h.answerWalk
      have hf : Canon fetches := hk.foldl fun _ _ h => h.answerFetch
      exact ⟨hf.wakeAll⟩

protected theorem Canon.drainEvents (h : Canon s) : Canon (drainEvents s) := h.evtDrain

protected theorem Canon.writeMsix {off : Nat} {v : W64} (h : Canon s) : Canon (writeMsix s off v) := h.upd

protected theorem Canon.writeBar0 {off : Nat} {v : W64} (h : Canon s) : Canon (writeBar0 s off v) := by
  unfold writeBar0
  split
  · exact h.upd.ite h
  · exact h.upd
  · exact h.upd
  · exact h.upd
  · exact h.upd.drainEvents
  · exact h.upd.drainEvents
  · exact h.upd
  · exact h.upd
  · exact h.upd
  · exact h.writeMsix.ite h

protected theorem Canon.execRegisterWrite {r : RegRef} {v : W64} (h : Canon s) :
    CanonIn nextState (execRegisterWrite r v s) := by
  unfold execRegisterWrite
  split
  · exact .ite ⟨h.writeBar0⟩ ⟨h⟩
  · exact ⟨h.writeCsr.ite h⟩

protected theorem Canon.execViolRead {queue : Nat} (h : Canon s) : CanonIn nextState (execViolRead queue s) :=
  .ite ⟨h⟩ ⟨h.upd⟩

protected theorem Canon.execEvtdropRead {dbg : Bool} (h : Canon s) : CanonIn nextState (execEvtdropRead dbg s) :=
  .ite ⟨h⟩ (.ite ⟨h.upd⟩ ⟨h.upd⟩)

protected theorem Canon.execEvtconsWrite {dbg : Bool} {v : W32} (h : Canon s) :
    CanonIn nextState (execEvtconsWrite dbg v s) :=
  .ite ⟨h.writeBar0⟩ ⟨h⟩

protected theorem Canon.execDoorbell {queue : Nat} {v : W32} (h : Canon s) :
    CanonIn nextState (execDoorbell queue v s) :=
  .ite ⟨h⟩ ⟨h.updQueue⟩

protected theorem Canon.execWindowViolation {queue off : Nat} (h : Canon s) :
    CanonIn nextState (execWindowViolation queue off s) :=
  .ite ⟨h⟩ ⟨h.upd⟩

protected theorem Canon.execHostMemRead {link : Option Nat} {addr len : Nat} (h : Canon s) :
    CanonIn nextState (execHostMemRead link addr len s) :=
  .ite ⟨h⟩ (.ite ⟨h.upd⟩ (.ite ⟨h⟩ (.ite ⟨h.foldl fun _ _ h => h.askFill⟩
    ⟨(h.foldl fun _ _ h => h.touchWindows).upd⟩)))

protected theorem Canon.execHostMemWrite {link : Option Nat} {addr : Nat} {bytes : List Byte} (h : Canon s) :
    CanonIn nextState (execHostMemWrite link addr bytes s) :=
  .ite ⟨h⟩ (.ite ⟨h.upd⟩ (.ite ⟨h⟩ ⟨h.devWrite⟩))

protected theorem Canon.finishCommand {at_ status : Nat} (h : Canon s) : Canon (finishCommand s at_ status) := by
  unfold finishCommand
  have hw : Canon { s with hostMem := Memory.setN s.hostMem (at_ + 2) (leBytes 2 status) } :=
    ⟨h.mem, Memory.wf_setN h.host _ _⟩
  exact (hw.ite hw.raiseIrq).set

protected theorem Canon.cmdAnsRefuse {status : Nat} (h : Canon s) : CanonIn CmdAns.state (CmdAns.refuse s status) :=
  ⟨h⟩

protected theorem Canon.command {opc : Nat} {used : List (Nat × Nat)} {body : List Byte → State → CmdAns}
    (h : Canon s) (hbody : ∀ x t, Canon t → CanonIn CmdAns.state (body x t)) :
    CanonIn nextState (command s opc used body) := by
  unfold command
  split
  · exact ⟨h⟩
  · refine .ite ⟨h.finishCommand⟩ (.ite ⟨h⟩ (.ite ⟨h.finishCommand⟩ ?_))
    split
    · exact ⟨((hbody _ _ h).of ‹_›).finishCommand⟩
    · exact ⟨(hbody _ _ h).of ‹_›⟩

protected theorem Canon.tick (h : Canon s) : Canon (tick s) := by
  unfold tick
  extract_lets settled ticked closed
  have hs : Canon settled := h.settleWaiters.divergeSpent.killDoomed.releaseRemaps.noteRequests
  have ht : Canon ticked := hs.upd
  have hc : Canon closed := ht.wakeTimes.serveBrokens.closeRegion.drainEventsDue
  exact hc.set

protected theorem Canon.issueWord {cid sid : Nat} {cr : Crew} {sp : Split} {ln : Launch} {off : Nat} {w : W64}
    (h : Canon s) : CanonIn Issued.state (issueWord s cid sid cr sp ln off w) := by
  unfold issueWord
  refine .ite ⟨h⟩ (.ite ⟨h.takeTrap⟩ ?_)
  dsimp only
  split
  · exact ⟨((Canon.iteSnd h.fetchWord h).snd ‹_›).setState⟩
  · exact ⟨((Canon.iteSnd h.fetchWord h).snd ‹_›).setState⟩
  · exact ⟨((Canon.iteSnd h.fetchWord h).snd ‹_›).takeTrap⟩
  · exact ⟨((Canon.iteSnd h.fetchWord h).snd ‹_›).killCrew⟩
  · split
    · exact ⟨(Canon.iteSnd h.fetchWord h).snd ‹_›⟩
    · exact ⟨((Canon.iteSnd h.fetchWord h).snd ‹_›).takeTrap⟩

protected theorem Canon.issueFocus {f : Focus} (h : Canon s) : CanonIn Issued.state (issueFocus s f) := by
  unfold issueFocus
  split
  · exact ⟨h⟩
  · split
    · refine .ite ⟨h⟩ (.ite ⟨h.deliverDeferred⟩ ?_)
      split
      · exact .ite ⟨h.setState⟩ (.ite ⟨h.setState⟩ ⟨h.enterHeader⟩)
      · split
        · exact ⟨(h.fetchWord.snd ‹_›).setState⟩
        · exact ⟨(h.fetchWord.snd ‹_›).setState⟩
        · exact ⟨(h.fetchWord.snd ‹_›).takeTrap⟩
        · exact ⟨(h.fetchWord.snd ‹_›).killCrew⟩
        · exact (h.fetchWord.snd ‹_›).issueWord
    · exact ⟨h⟩

protected theorem Canon.choose (h : Canon s) : Canon (choose s).2 := h.upd

protected theorem Canon.absentWaiters {cid : Nat} (h : Canon s) : Canon (absentWaiters s cid) := h.upd

protected theorem Canon.saveCrew {cid : Nat} (h : Canon s) : Canon (saveCrew s cid) := by
  unfold saveCrew
  split
  · exact h
  · exact h.ite h.absentWaiters.updCrew.saveWords.unfocusCrew

protected theorem Canon.saveStream {k key : Nat} {vacate : Bool} (h : Canon s) :
    Canon (saveStream s k key vacate) := by
  unfold saveStream
  split
  · exact h
  · exact h.updStream.updCluster.ite h.upd.updCluster

protected theorem Canon.saveCohort {k : Nat} {c : Cohort} {vacate : Bool} (h : Canon s) :
    Canon (saveCohort s k c vacate) := by
  unfold saveCohort
  dsimp only
  split
  · refine Canon.wakeRows (Canon.updCore (Canon.updCohort ?_))
    split
    · exact (h.foldl fun _ _ h => h.saveCrew).saveStream
    · exact h.foldl fun _ _ h => h.saveCrew
  · refine Canon.updCohort ?_
    split
    · exact (h.foldl fun _ _ h => h.saveCrew).saveStream
    · exact h.foldl fun _ _ h => h.saveCrew

protected theorem Canon.stopCohort {vacate : Bool} {p : Nat × Cohort} (h : Canon s) :
    Canon (stopCohort vacate s p) := by
  unfold stopCohort
  refine Canon.ite h ?_
  split
  · exact h.saveCohort.ite h
  · split
    · refine Canon.ite h (Canon.ite ?_ h.saveCohort)
      split
      · exact h.doomStream
      · exact h
    · exact h.saveCohort
  · exact h

protected theorem Canon.holdWells {ctx : Nat} {held : Bool} (h : Canon s) : Canon (holdWells s ctx held) := h.upd

protected theorem Canon.stopContext {ctx : Nat} {vacate : Bool} (h : Canon s) : Canon (stopContext s ctx vacate) :=
  h.updCtx.holdWells.foldl fun _ _ h => h.stopCohort

protected theorem Canon.saveAll {ctx : Nat} (h : Canon s) : Canon (saveAll s ctx) := h.foldl fun _ _ h => h.saveWords

protected theorem Canon.resumeCohort {p : Nat × Cohort} (h : Canon s) : Canon (resumeCohort s p) := h.ite h.updCore

protected theorem Canon.resumeContext {ctx : Nat} (h : Canon s) : Canon (resumeContext s ctx) := by
  unfold resumeContext
  split
  · exact h
  · exact h.ite (h.updCtx.holdWells.foldl fun _ _ h => h.resumeCohort).wakeWaits

/-! Commands of the host. -/

protected theorem Canon.resetSamples {ctx : Nat} (h : Canon s) : Canon (resetSamples s ctx) := h.upd

protected theorem Canon.createContext {ctx : Nat} {priv : Bool} {d : List Byte} (h : Canon s) :
    CanonIn CmdAns.state (createContext s ctx priv d) := by
  unfold createContext
  refine .ite h.cmdAnsRefuse ⟨?_⟩
  have hn {c : SMap Context} : Canon { s with ctxs := c } := h.upd
  exact hn.resetSamples.foldl fun _ _ h => h.updWell

protected theorem Canon.execCtxCreate (h : Canon s) : CanonIn nextState (execCtxCreate s) :=
  h.command fun _ _ h => .ite h.cmdAnsRefuse h.createContext

protected theorem Canon.endContextWork {ctx : Nat} (h : Canon s) : Canon (endContextWork s ctx) :=
  (h.updCtx.endService.foldl fun _ _ h => h.endCohortCrews).upd

protected theorem Canon.forgetContext {ctx : Nat} (h : Canon s) : Canon (forgetContext s ctx) := h.upd

protected theorem Canon.freeContext {ctx : Nat} (h : Canon s) : Canon (freeContext s ctx) := by
  unfold freeContext
  extract_lets windows wells gone forgotten
  have hw : Canon windows := h.foldl fun _ _ h => h.releaseWindow
  have hf : Canon forgotten := Canon.forgetContext (hw.upd)
  exact hf.set

protected theorem Canon.execCtxDestroy (h : Canon s) : CanonIn nextState (execCtxDestroy s) :=
  h.command fun _ _ h => .ite h.cmdAnsRefuse (.ite ⟨h.endContextWork⟩ ⟨h.endContextWork.freeContext⟩)

protected theorem Canon.execPreempt (h : Canon s) : CanonIn nextState (execPreempt s) :=
  h.command fun _ _ h => .ite h.cmdAnsRefuse (.ite ⟨h.updCtx.stopContext.saveAll⟩ ⟨h.updCtx.stopContext⟩)

protected theorem Canon.execResume (h : Canon s) : CanonIn nextState (execResume s) :=
  h.command fun _ _ h => .ite h.cmdAnsRefuse ⟨h.updCtx.resumeContext⟩

protected theorem Canon.execQueueBind (h : Canon s) : CanonIn nextState (execQueueBind s) :=
  h.command fun _ _ h => .ite h.cmdAnsRefuse ⟨h.upd⟩

protected theorem Canon.resetSession {q : Nat} (h : Canon s) : Canon (resetSession s q) := h.updQueue

protected theorem Canon.closeSession {q : Nat} (h : Canon s) : Canon (closeSession s q) :=
  h.flushSession.ite h.flushSession.updQueue

protected theorem Canon.beginReset {q : Nat} (h : Canon s) : Canon (beginReset s q) :=
  (h.foldl fun _ _ h => h.endCohortCrews).upd.resetSession.updQueue

protected theorem Canon.endReset {q : Nat} (h : Canon s) : Canon (endReset s q) :=
  (h.upd.endGraph.foldl fun _ _ h => h.dropLaunch).updQueue

protected theorem Canon.execQueueReset (h : Canon s) : CanonIn nextState (execQueueReset s) := by
  unfold execQueueReset
  refine h.command fun _ _ h => ?_
  dsimp only
  split
  · exact h.cmdAnsRefuse
  · exact .ite ⟨(h.ite h.beginReset).closeSession⟩ ⟨(h.ite h.beginReset).closeSession.endReset⟩

protected theorem Canon.forgetRange {ctx base len : Nat} (h : Canon s) : Canon (forgetRange s ctx base len) := h.upd

protected theorem Canon.dropHot {gone : HotEntry → Bool} (h : Canon s) : Canon (dropHot s gone) := h.upd

protected theorem Canon.dropRange {ctx base len : Nat} (h : Canon s) : Canon (dropRange s ctx base len) := by
  unfold dropRange
  dsimp only
  split
  · exact h.dropHot
  · exact h.dropHot.foldl fun _ _ h => h.markRemap

protected theorem Canon.execInvalidate (h : Canon s) : CanonIn nextState (execInvalidate s) :=
  h.command fun _ _ h => .ite h.cmdAnsRefuse (.ite ⟨h.forgetRange⟩ ⟨h.forgetRange.dropRange.wakeAll⟩)

protected theorem Canon.execFaultAnswer (h : Canon s) : CanonIn nextState (execFaultAnswer s) := by
  refine h.command fun bs t ht => ?_
  split
  · next ha =>
    obtain ⟨a, -, ha⟩ := Option.bind_eq_some_iff.mp ha
    exact ⟨ht.answerFault.of ha⟩
  · exact ht.cmdAnsRefuse

protected theorem Canon.execRetireStack (h : Canon s) : CanonIn nextState (execRetireStack s) := by
  unfold execRetireStack
  refine h.command fun _ _ h => (.ite h.cmdAnsRefuse ?_)
  split
  · exact ⟨h.retireStackCmd.of ‹_›⟩
  · exact h.cmdAnsRefuse
  · exact h.cmdAnsRefuse

protected theorem Canon.execRetireAck (h : Canon s) : CanonIn nextState (execRetireAck s) := by
  unfold execRetireAck
  refine h.command fun _ _ h => (.ite h.cmdAnsRefuse ?_)
  split
  · exact .ite h.cmdAnsRefuse ⟨h.upd.failBad⟩
  · exact .ite ⟨h.upd⟩ h.cmdAnsRefuse
  · exact h.cmdAnsRefuse

protected theorem Canon.execBreakCmd (h : Canon s) : CanonIn nextState (execBreakCmd s) :=
  h.command fun _ _ h => .ite h.cmdAnsRefuse ⟨h.updQueue⟩

protected theorem Canon.continueQueue {q : Nat} (h : Canon s) : Canon (continueQueue s q) := by
  unfold continueQueue
  split
  · exact h
  · split
    · exact h.updGraph
    · exact h.goTo
    · exact h

protected theorem Canon.execContinueCmd (h : Canon s) : CanonIn nextState (execContinueCmd s) :=
  h.command fun _ _ h => .ite h.cmdAnsRefuse ⟨h.continueQueue⟩

protected theorem Canon.execStampBind (h : Canon s) : CanonIn nextState (execStampBind s) :=
  h.command fun _ _ h => .ite h.cmdAnsRefuse ⟨h.updQueue⟩

protected theorem Canon.execTraceOpen (h : Canon s) : CanonIn nextState (execTraceOpen s) := by
  unfold execTraceOpen
  refine h.command fun _ _ h => ?_
  dsimp only
  split
  · exact h.cmdAnsRefuse
  · exact .ite h.cmdAnsRefuse ⟨h.updQueue⟩

protected theorem Canon.execTraceClose (h : Canon s) : CanonIn nextState (execTraceClose s) :=
  h.command fun _ _ h => .ite h.cmdAnsRefuse (.ite ⟨h.updQueue.closeSession⟩ ⟨h.updQueue.closeSession⟩)

protected theorem Canon.execHotAck (h : Canon s) : CanonIn nextState (execHotAck s) :=
  h.command fun _ _ h => .ite h.cmdAnsRefuse ⟨h.dropHot⟩

protected theorem Canon.setLevels {v : Nat} (h : Canon s) : Canon (setLevels s v) := h.upd

protected theorem Canon.setGating {bm : Nat} (h : Canon s) : Canon (setGating s bm) :=
  h.foldl fun _ _ h => h.ite h.updWell

protected theorem Canon.setCap {cap level : Nat} (h : Canon s) : Canon (setCap s cap level) := h.upd

protected theorem Canon.execPower (h : Canon s) : CanonIn nextState (execPower s) := by
  refine h.command fun _ t h => .ite h.cmdAnsRefuse ?_
  extract_lets leveled _ refreshed gated
  have hl : Canon leveled := h.setLevels.ite h
  have hr : Canon refreshed := Canon.ite hl.set hl
  have hg : Canon gated := hr.setGating.ite hr
  exact ⟨hg.setCap.ite hg⟩

protected theorem Canon.execApplyMargin (h : Canon s) : CanonIn nextState (execApplyMargin s) :=
  h.command fun _ _ h => ⟨h.upd⟩

protected theorem Canon.execNop {g : Guard} (h : Canon s) : CanonIn nextState (execNop g s) := h.issue fun _ h => ⟨h⟩

protected theorem Canon.boundsAt {w : Int} : CanonIn Eff.state (boundsAt w) := .empty

protected theorem Canon.envGoto {w : Int} {how : Entering} {f : Split → Split} (h : Canon e.s) :
    CanonIn Eff.state (Env.goto e w how f) :=
  ⟨h.updSplit⟩

protected theorem Canon.envBranchTo {w : Int} {how : Entering} {f : Split → Split} (h : Canon e.s) :
    CanonIn Eff.state (Env.branchTo e w how f) :=
  .ite Canon.boundsAt (Canon.envGoto h)

protected theorem Canon.execBra {off : BitVec 32} (h : Canon s) : CanonIn nextState (execBra off s) :=
  h.issue fun _ h => Canon.envBranchTo h

protected theorem Canon.envDiverge {taken : Mask} {w : Int} (h : Canon e.s) : Canon (Env.diverge e taken w) :=
  h.updSplits

protected theorem Canon.execBrc {g : Guard} {off : BitVec 32} (h : Canon s) : CanonIn nextState (execBrc g off s) :=
  h.issue fun _ h => .ite (Canon.envBranchTo h)
    (.ite (Canon.envGoto h) (.ite .empty (.ite Canon.boundsAt ⟨Canon.envDiverge h⟩)))

protected theorem Canon.execCall {off : BitVec 32} (h : Canon s) : CanonIn nextState (execCall off s) :=
  h.issue fun _ h => .ite .empty (Canon.envBranchTo h)

protected theorem Canon.execRet (h : Canon s) : CanonIn nextState (execRet s) := by
  unfold execRet
  refine h.issue fun _ h => ?_
  split
  · exact .empty
  · exact Canon.envBranchTo h

protected theorem Canon.splitEnded {cid k : Nat} (h : Canon s) : Canon (splitEnded s cid k) := by
  unfold splitEnded
  split
  · exact h
  · exact h.endCrew.ite h.joinCheck.exitCheck.barriersCheck.reformCheck

protected theorem Canon.envEndLanes (h : Canon e.s) : Canon (Env.endLanes e) :=
  h.updSplits.wakeRows.splitEnded.ite h.updSplits.wakeRows

protected theorem Canon.execExit {g : Guard} (h : Canon s) : CanonIn nextState (execExit g s) :=
  h.issue fun _ h => .ite (Canon.envGoto h) ⟨Canon.envEndLanes h⟩

protected theorem Canon.execExitSuccessor {off : BitVec 32} {keep : W64} (h : Canon s) :
    CanonIn nextState (execExitSuccessor off keep s) :=
  h.issue fun _ h => .ite Canon.boundsAt (.ite .empty ⟨h.updSplit.exitCheck⟩)

protected theorem Canon.execYield {t : Src} {k : BitVec 3} {off : BitVec 32} (h : Canon s) :
    CanonIn nextState (execYield t k off s) :=
  h.issue fun _ h => .ite Canon.boundsAt (.ite (Canon.envGoto h) ⟨h⟩)

protected theorem Canon.execWaitc {g : Guard} {t : Src} {k : BitVec 3} (h : Canon s) :
    CanonIn nextState (execWaitc g t k s) :=
  h.issue fun _ h => .ite ⟨h⟩ ⟨h⟩

protected theorem Canon.execBar {n : BitVec 4} {arrive : Bool} (h : Canon s) :
    CanonIn nextState (execBar n arrive s) :=
  h.issue fun _ h => ⟨h.updSplit.barrierCheck⟩

protected theorem Canon.execTrap {g : Guard} {imm : W32} (h : Canon s) : CanonIn nextState (execTrap g imm s) :=
  h.issue fun _ h => .ite ⟨h⟩ .empty

protected theorem Canon.execRtt (h : Canon s) : CanonIn nextState (execRtt s) :=
  h.issue fun _ h => .ite ⟨h.returnFromTrap⟩ .empty

protected theorem Canon.execIllegalOpcode {op : BitVec 8} (h : Canon s) :
    CanonIn nextState (execIllegalOpcode op s) :=
  h.issue fun _ h => .empty

/-! Float, crew and control-flow instructions. -/

protected theorem Canon.envDraw {rnd : Rnd} (h : Canon e.s) : Canon (e.draw rnd).1.s := by
  unfold Env.draw
  split
  · split
    next ht => exact Canon.snd h.drawNoise ht
  · exact h

protected theorem Canon.envRounded {d : Dest} {ty : FTy} {m : FMod} {f : Rounding → (Src → FVal) → Nat × Flags}
    (h : Canon e.s) : CanonIn Eff.state (Env.rounded e d ty m f) :=
  Canon.envLanewise (Canon.envDraw h)

protected theorem Canon.execFadd {g : Guard} {d : Dest} {ty : FTy} {m : FMod} {a b : Src} (h : Canon s) :
    CanonIn nextState (execFadd g d ty m a b s) :=
  h.issue fun _ h => Canon.envRounded h

protected theorem Canon.execFsub {g : Guard} {d : Dest} {ty : FTy} {m : FMod} {a b : Src} (h : Canon s) :
    CanonIn nextState (execFsub g d ty m a b s) :=
  h.issue fun _ h => Canon.envRounded h

protected theorem Canon.execFmul {g : Guard} {d : Dest} {ty : FTy} {m : FMod} {a b : Src} (h : Canon s) :
    CanonIn nextState (execFmul g d ty m a b s) :=
  h.issue fun _ h => Canon.envRounded h

protected theorem Canon.execFfma {g : Guard} {d : Dest} {ty : FTy} {m : FMod} {a b c : Src} (h : Canon s) :
    CanonIn nextState (execFfma g d ty m a b c s) :=
  h.issue fun _ h => Canon.envRounded h

protected theorem Canon.envExtreme {d : Dest} {ty : FTy} {wantMax nanp ftz : Bool} {a b : Src} (h : Canon e.s) :
    CanonIn Eff.state (Env.extreme e d ty wantMax nanp ftz a b) :=
  Canon.envLanewise h

protected theorem Canon.execFmin {g : Guard} {d : Dest} {ty : FTy} {nanp ftz : Bool} {a b : Src} (h : Canon s) :
    CanonIn nextState (execFmin g d ty nanp ftz a b s) :=
  h.issue fun _ h => Canon.envExtreme h

protected theorem Canon.execFmax {g : Guard} {d : Dest} {ty : FTy} {nanp ftz : Bool} {a b : Src} (h : Canon s) :
    CanonIn nextState (execFmax g d ty nanp ftz a b s) :=
  h.issue fun _ h => Canon.envExtreme h

protected theorem Canon.execFcmp {g : Guard} {d : Dest} {ty : FTy} {cond : FCond} {ftz : Bool}
    {pw : Option (BitVec 3)} {a b : Src} (h : Canon s) : CanonIn nextState (execFcmp g d ty cond ftz pw a b s) :=
  h.issue fun _ h => Canon.envBitResult h

protected theorem Canon.execFclass {g : Guard} {d : Dest} {ty : FTy} {a : Src} (h : Canon s) :
    CanonIn nextState (execFclass g d ty a s) :=
  h.issue fun _ h => Canon.envLanewise h

protected theorem Canon.envFunction {d : Dest} {ty : FTy} {ftz : Bool} {fn : Fn} {a : Src} (h : Canon e.s) :
    CanonIn Eff.state (Env.function e d ty ftz fn a) :=
  Canon.envRounded h

protected theorem Canon.execFrcp {g : Guard} {d : Dest} {ty : FTy} {ftz : Bool} {a : Src} (h : Canon s) :
    CanonIn nextState (execFrcp g d ty ftz a s) :=
  h.issue fun _ h => Canon.envFunction h

protected theorem Canon.execFrsq {g : Guard} {d : Dest} {ty : FTy} {ftz : Bool} {a : Src} (h : Canon s) :
    CanonIn nextState (execFrsq g d ty ftz a s) :=
  h.issue fun _ h => Canon.envFunction h

protected theorem Canon.execFsqrt {g : Guard} {d : Dest} {ty : FTy} {ftz : Bool} {a : Src} (h : Canon s) :
    CanonIn nextState (execFsqrt g d ty ftz a s) :=
  h.issue fun _ h => Canon.envFunction h

protected theorem Canon.execFlog2 {g : Guard} {d : Dest} {ty : FTy} {ftz : Bool} {a : Src} (h : Canon s) :
    CanonIn nextState (execFlog2 g d ty ftz a s) :=
  h.issue fun _ h => Canon.envFunction h

protected theorem Canon.execFexp2 {g : Guard} {d : Dest} {ty : FTy} {ftz : Bool} {a : Src} (h : Canon s) :
    CanonIn nextState (execFexp2 g d ty ftz a s) :=
  h.issue fun _ h => Canon.envFunction h

protected theorem Canon.execFtanh {g : Guard} {d : Dest} {ty : FTy} {ftz : Bool} {a : Src} (h : Canon s) :
    CanonIn nextState (execFtanh g d ty ftz a s) :=
  h.issue fun _ h => Canon.envFunction h

protected theorem Canon.execFsig {g : Guard} {d : Dest} {ty : FTy} {ftz : Bool} {a : Src} (h : Canon s) :
    CanonIn nextState (execFsig g d ty ftz a s) :=
  h.issue fun _ h => Canon.envFunction h

protected theorem Canon.envPacked {d : Dest} {ty : FTy} {m : FMod} {f : Rounding → (Src → FVal) → Nat × Flags}
    (h : Canon e.s) : CanonIn Eff.state (Env.packed e d ty m f) :=
  Canon.envLanewise (Canon.envDraw h)

protected theorem Canon.execHadd2 {g : Guard} {d : Dest} {ty : FTy} {m : FMod} {a b : Src} (h : Canon s) :
    CanonIn nextState (execHadd2 g d ty m a b s) :=
  h.issue fun _ h => Canon.envPacked h

protected theorem Canon.execHmul2 {g : Guard} {d : Dest} {ty : FTy} {m : FMod} {a b : Src} (h : Canon s) :
    CanonIn nextState (execHmul2 g d ty m a b s) :=
  h.issue fun _ h => Canon.envPacked h

protected theorem Canon.execHfma2 {g : Guard} {d : Dest} {ty : FTy} {m : FMod} {a b c : Src} (h : Canon s) :
    CanonIn nextState (execHfma2 g d ty m a b c s) :=
  h.issue fun _ h => Canon.envPacked h

protected theorem Canon.execCvt {g : Guard} {d : Dest} {dty sty : NumTy} {m : FMod} {a : Src} (h : Canon s) :
    CanonIn nextState (execCvt g d dty sty m a s) :=
  h.issue fun _ h => Canon.envLanewise (Canon.envDraw h)

protected theorem Canon.execShfl {g : Guard} {d : Dest} {ty : BTy} {mode : ShflMode} {a b : Src} (h : Canon s) :
    CanonIn nextState (execShfl g d ty mode a b s) :=
  h.issue fun _ h => Canon.envLanewise h

protected theorem Canon.execVote {g : Guard} {d : Dest} {mode : VoteMode} {pw : Option (BitVec 3)} {a : Src}
    (h : Canon s) : CanonIn nextState (execVote g d mode pw a s) := by
  unfold execVote
  refine h.issue fun _ h => ?_
  dsimp only
  split
  · exact Canon.envBitResult h
  · exact Canon.envBitResult h
  · exact Canon.envBitResult h
  · exact Canon.envLanewise h

protected theorem Canon.execRed {g : Guard} {d : Dest} {ty : RedTy} {op : RedOp} {m : FMod} {a : Src} (h : Canon s) :
    CanonIn nextState (execRed g d ty op m a s) :=
  h.issue fun _ h => Canon.envLanewise h

protected theorem Canon.execScan {g : Guard} {d : Dest} {ty : RedTy} {op : RedOp} {excl : Bool} {m : FMod} {a : Src}
    (h : Canon s) : CanonIn nextState (execScan g d ty op excl m a s) :=
  h.issue fun _ h => Canon.envLanewise h

protected theorem Canon.execRmaxi {g : Guard} {d : Dest} {ty : RedTy} {ftz : Bool} {a idx : Src} (h : Canon s) :
    CanonIn nextState (execRmaxi g d ty ftz a idx s) :=
  h.issue fun _ h => Canon.envLanewise h

protected theorem Canon.execElect {g : Guard} {d : Dest} {pw : Option (BitVec 3)} {cnd : Option Src} (h : Canon s) :
    CanonIn nextState (execElect g d pw cnd s) := by
  unfold execElect
  refine h.issue fun _ h => ?_
  dsimp only
  split
  · exact ⟨h.writeQ.updSplit⟩
  · exact ⟨h.writeQ⟩

protected theorem Canon.execReform {ps : BitVec 3} {keep : W64} (h : Canon s) :
    CanonIn nextState (execReform ps keep s) :=
  h.issue fun _ h => .ite .empty ⟨h.updSplit.reformCheck⟩

/-! Images, logic, power and monitors. -/

protected theorem Canon.stopScope {x : QScope} (h : Canon s) : Canon (stopScope s x) :=
  h.foldl fun _ _ h => h.stopContext

protected theorem Canon.execQuiesce (h : Canon s) : CanonIn nextState (execQuiesce s) := by
  unfold execQuiesce
  refine h.command fun _ _ h => ?_
  split
  · exact h.cmdAnsRefuse
  · exact .ite h.cmdAnsRefuse ⟨h.upd.stopScope⟩

protected theorem Canon.quiescedRecords {x : QScope} (h : Canon s) : Canon (quiescedRecords s x) :=
  h.foldl fun _ _ h => h.barPost

protected theorem Canon.flushScope {k : Nat} {x : QScope} (h : Canon s) : Canon (flushScope s k x) :=
  (h.fetchVictims.foldl fun _ _ h => h.flushSession).upd

protected theorem Canon.execQuiesceComplete {scope : Nat} (h : Canon s) :
    CanonIn nextState (execQuiesceComplete scope s) := by
  unfold execQuiesceComplete
  split
  · exact ⟨h⟩
  · exact .ite ⟨h⟩ (.ite ⟨h.stopScope⟩ (.ite ⟨h.stopScope.flushScope⟩ ⟨h.stopScope.upd.quiescedRecords⟩))

protected theorem Canon.shiftRings {ctx d : Nat} (h : Canon s) : Canon (shiftRings s ctx d) := h.updCtx

protected theorem Canon.releaseScope {k : Nat} {x : QScope} (h : Canon s) : Canon (releaseScope s k x) :=
  (h.upd.foldl fun _ _ h => h.shiftRings).foldl fun _ _ h => h.resumeContext

protected theorem Canon.execRelease (h : Canon s) : CanonIn nextState (execRelease s) := by
  unfold execRelease
  refine h.command fun _ _ h => ?_
  split
  · exact h.cmdAnsRefuse
  · split
    · exact ⟨h.releaseScope⟩
    · exact h.cmdAnsRefuse

protected theorem Canon.execImage (h : Canon s) : CanonIn nextState (execImage s) := by
  unfold execImage
  refine h.command fun _ _ h => (.ite ⟨h⟩ (.ite h.cmdAnsRefuse ?_))
  split
  · exact h.cmdAnsRefuse
  · exact .ite h.cmdAnsRefuse ⟨h.upd⟩

protected theorem Canon.execImageComplete {scope : Nat} {linkOk : Bool} (h : Canon s) :
    CanonIn nextState (execImageComplete scope linkOk s) := by
  unfold execImageComplete
  split
  · exact ⟨h⟩
  · split
    · extract_lets bs n u
      have hu : Canon u := ⟨h.mem, Memory.wf_setN h.host _ _⟩
      split
      · exact ⟨hu.finishCommand⟩
      · exact ⟨hu⟩
    · exact ⟨h⟩

protected theorem Canon.restoreMemory {bs : List Byte} (h : Canon s) : Canon (restoreMemory s bs) :=
  ⟨restoreMemory_wf h.mem bs, h.host⟩

protected theorem Canon.restoreFailed {gs : List Nat} (h : Canon s) : Canon (restoreFailed s gs) :=
  h.foldl fun _ _ h => h.listFailed

protected theorem Canon.restoreState {p : Parsed} {im : ImageState} {roots : List (Nat × Nat)} (h : Canon s) :
    Canon (restoreState s p im roots) :=
  (h.restoreMemory.restoreFailed.ite h).upd.dropIdleLocks.enterFrames.refitWindows

protected theorem Canon.execRestore (h : Canon s) : CanonIn nextState (execRestore s) := by
  unfold execRestore
  refine h.command fun _ _ h => (.ite h.cmdAnsRefuse ?_)
  split
  · exact h.cmdAnsRefuse
  · dsimp only
    split
    · exact h.cmdAnsRefuse
    · exact .ite h.cmdAnsRefuse ⟨h.restoreState⟩

protected theorem Canon.execAttest (h : Canon s) : CanonIn nextState (execAttest s) :=
  h.command fun _ _ h => ⟨⟨h.mem, Memory.wf_setN h.host _ _⟩⟩

protected theorem Canon.envLogic {d : Dest} {w : Width} {f : Nat → W64} (h : Canon e.s) :
    CanonIn Eff.state (Env.logic e d w f) :=
  Canon.envLanewise h

protected theorem Canon.execAndL {g : Guard} {d : Dest} {ty : BTy} {a b : Src} (h : Canon s) :
    CanonIn nextState (execAndL g d ty a b s) :=
  h.issue fun _ h => Canon.envLogic h

protected theorem Canon.execOrL {g : Guard} {d : Dest} {ty : BTy} {a b : Src} (h : Canon s) :
    CanonIn nextState (execOrL g d ty a b s) :=
  h.issue fun _ h => Canon.envLogic h

protected theorem Canon.execXorL {g : Guard} {d : Dest} {ty : BTy} {a b : Src} (h : Canon s) :
    CanonIn nextState (execXorL g d ty a b s) :=
  h.issue fun _ h => Canon.envLogic h

protected theorem Canon.execNotL {g : Guard} {d : Dest} {ty : BTy} {a : Src} (h : Canon s) :
    CanonIn nextState (execNotL g d ty a s) :=
  h.issue fun _ h => Canon.envLogic h

protected theorem Canon.execBool3 {g : Guard} {d : Dest} {ty : BTy} {lut : BitVec 8} {a b c : Src} (h : Canon s) :
    CanonIn nextState (execBool3 g d ty lut a b c s) :=
  h.issue fun _ h => Canon.envLogic h

protected theorem Canon.envShift {d : Dest} {ty : BTy} {a n : Src} {f : Nat → Nat → Nat} (h : Canon e.s) :
    CanonIn Eff.state (Env.shift e d ty a n f) :=
  Canon.envLogic h

protected theorem Canon.execShl {g : Guard} {d : Dest} {ty : BTy} {a n : Src} (h : Canon s) :
    CanonIn nextState (execShl g d ty a n s) :=
  h.issue fun _ h => Canon.envShift h

protected theorem Canon.execShr {g : Guard} {d : Dest} {ty : BTy} {a n : Src} (h : Canon s) :
    CanonIn nextState (execShr g d ty a n s) :=
  h.issue fun _ h => Canon.envShift h

protected theorem Canon.execSar {g : Guard} {d : Dest} {ty : BTy} {a n : Src} (h : Canon s) :
    CanonIn nextState (execSar g d ty a n s) :=
  h.issue fun _ h => Canon.envShift h

protected theorem Canon.execRot {g : Guard} {d : Dest} {ty : BTy} {right : Bool} {a n : Src} (h : Canon s) :
    CanonIn nextState (execRot g d ty right a n s) :=
  h.issue fun _ h => Canon.envShift h

protected theorem Canon.execFsh {g : Guard} {d : Dest} {ty : BTy} {right : Bool} {a b n : Src} (h : Canon s) :
    CanonIn nextState (execFsh g d ty right a b n s) :=
  h.issue fun _ h => Canon.envLogic h

protected theorem Canon.execBfx {g : Guard} {d : Dest} {ty : IntTy} {a pos len : Src} (h : Canon s) :
    CanonIn nextState (execBfx g d ty a pos len s) :=
  h.issue fun _ h => Canon.envLogic h

protected theorem Canon.execBfi {g : Guard} {d : Dest} {ty : BTy} {a b c : Src} (h : Canon s) :
    CanonIn nextState (execBfi g d ty a b c s) :=
  h.issue fun _ h => Canon.envLogic h

protected theorem Canon.execPopc {g : Guard} {d : Dest} {ty : BTy} {a : Src} (h : Canon s) :
    CanonIn nextState (execPopc g d ty a s) :=
  h.issue fun _ h => Canon.envLogic h

protected theorem Canon.execClz {g : Guard} {d : Dest} {ty : BTy} {a : Src} (h : Canon s) :
    CanonIn nextState (execClz g d ty a s) :=
  h.issue fun _ h => Canon.envLogic h

protected theorem Canon.execBrev {g : Guard} {d : Dest} {ty : BTy} {a : Src} (h : Canon s) :
    CanonIn nextState (execBrev g d ty a s) :=
  h.issue fun _ h => Canon.envLogic h

protected theorem Canon.execPrmt {g : Guard} {d : Dest} {mode : PrmtMode} {a b sel : Src} (h : Canon s) :
    CanonIn nextState (execPrmt g d mode a b sel s) :=
  h.issue fun _ h => Canon.envLogic h

protected theorem Canon.execBrakeOn {milliwatts : Nat} (h : Canon s) : CanonIn nextState (execBrakeOn milliwatts s) :=
  .ite ⟨h⟩ ⟨h.upd.barPost⟩

protected theorem Canon.execBrakeOff {milliwatts : Nat} (h : Canon s) :
    CanonIn nextState (execBrakeOff milliwatts s) := by
  unfold execBrakeOff
  split
  · exact ⟨h⟩
  · exact .ite ⟨h⟩ ⟨h.upd.barPost⟩

protected theorem Canon.execDeviceReset {verified : Bool} (h : Canon s) :
    CanonIn nextState (execDeviceReset verified s) :=
  ⟨Canon.ite ⟨Memory.wf_nil, h.host⟩ ⟨h.mem, h.host⟩⟩

protected theorem Canon.bootDone (h : Canon s) : Canon (bootDone s) := h.upd.ite h

protected theorem Canon.execPowerRemove (h : Canon s) : CanonIn nextState (execPowerRemove s) :=
  ⟨⟨Memory.wf_nil, h.host⟩⟩

protected theorem Canon.execLaneRepair {boundary : Nat} (h : Canon s) :
    CanonIn nextState (execLaneRepair boundary s) :=
  ⟨h.upd⟩

protected theorem Canon.execDeviceError {what : DeviceFailure} (h : Canon s) :
    CanonIn nextState (execDeviceError what s) := by
  unfold execDeviceError
  refine .ite ⟨h⟩ (⟨(Canon.barPost ?_).upd⟩)
  split
  · exact (h.foldl fun _ _ h => h.failContext).upd
  · exact h.foldl fun _ _ h => h.failContext

protected theorem Canon.execPeerLinkFail {link : Nat} (h : Canon s) : CanonIn nextState (execPeerLinkFail link s) :=
  .ite ⟨h⟩ ⟨h.upd⟩

protected theorem Canon.divergeLocks {ctx : Nat} (h : Canon s) : Canon (divergeLocks s ctx) := by
  unfold divergeLocks
  refine h.foldl fun _ _ h => ?_
  dsimp only
  split
  · exact h.divergeLock
  · exact h

protected theorem Canon.divergeBallots {ctx : Nat} (h : Canon s) : Canon (divergeBallots s ctx) := by
  unfold divergeBallots
  refine h.foldl fun _ _ h => ?_
  dsimp only
  split
  · exact h
  · exact h.foldl fun _ _ h => h.takeTrap

protected theorem Canon.divergePlace {ctx : Nat} (h : Canon s) : Canon (divergePlace s ctx) := by
  unfold divergePlace
  split
  · exact h.ite h.barPost.updCtx
  · exact h

protected theorem Canon.execReplayTimeout {ctx : Nat} (h : Canon s) : CanonIn nextState (execReplayTimeout ctx s) :=
  .ite ⟨h⟩ ⟨h.divergeLocks.divergeBallots.divergePlace⟩

protected theorem Canon.execCountingRetry (h : Canon s) : CanonIn nextState (execCountingRetry s) :=
  .ite ⟨h⟩ ⟨h.foldl fun _ _ h => h.hotNotify⟩

protected theorem Canon.applyAction {q a count : Nat} (h : Canon s) : Canon (applyAction s q a count) := by
  unfold applyAction
  refine Canon.ite h ?_
  split
  · exact h
  · exact h.upd.sessionAppend.updQueue

protected theorem Canon.fireMonitor {k : Nat} {m : Monitor} (h : Canon s) : Canon (fireMonitor s k m) :=
  h.upd.barPost.applyAction

protected theorem Canon.sampleMonitor {free k : Nat} (h : Canon s) : Canon (sampleMonitor free s k) :=
  h.ite (h.upd.ite (h.fireMonitor.ite h.upd))

protected theorem Canon.execMonitorSample (h : Canon s) : CanonIn nextState (execMonitorSample s) :=
  .ite ⟨h⟩ ⟨h.upd.foldl fun _ _ h => h.sampleMonitor⟩

protected theorem Canon.execTraceFlush (h : Canon s) : CanonIn nextState (execTraceFlush s) :=
  .ite ⟨h⟩ ⟨h.foldl fun _ _ h => h.flushSession⟩

/-! Dispatch of an instruction and of an event, and the step. -/

protected theorem Canon.exec {i : Instr} (h : Canon s) : CanonIn nextState (exec i s) := by
  unfold exec
  split
  · exact h.execNop
  · exact h.execBra
  · exact h.execBrc
  · exact h.execCall
  · exact h.execRet
  · exact h.execExit
  · exact h.execExitSuccessor
  · exact h.execYield
  · exact h.execWaitc
  · exact h.execBar
  · exact h.execTrap
  · exact h.execRtt
  · exact h.execGsig
  · exact h.execIadd
  · exact h.execIsub
  · exact h.execImul
  · exact h.execImulh
  · exact h.execImad
  · exact h.execIdiv
  · exact h.execImin
  · exact h.execImax
  · exact h.execIabs
  · exact h.execIneg
  · exact h.execIcmp
  · exact h.execIdp4
  · exact h.execSel
  · exact h.execMov
  · exact h.execMovi
  · exact h.execCvt
  · exact h.execAndL
  · exact h.execOrL
  · exact h.execXorL
  · exact h.execNotL
  · exact h.execBool3
  · exact h.execShl
  · exact h.execShr
  · exact h.execSar
  · exact h.execRot
  · exact h.execFsh
  · exact h.execBfx
  · exact h.execBfi
  · exact h.execPopc
  · exact h.execClz
  · exact h.execBrev
  · exact h.execPrmt
  · exact h.execFadd
  · exact h.execFsub
  · exact h.execFmul
  · exact h.execFfma
  · exact h.execFmin
  · exact h.execFmax
  · exact h.execFcmp
  · exact h.execFclass
  · exact h.execFrcp
  · exact h.execFrsq
  · exact h.execFsqrt
  · exact h.execFlog2
  · exact h.execFexp2
  · exact h.execFtanh
  · exact h.execFsig
  · exact h.execHadd2
  · exact h.execHmul2
  · exact h.execHfma2
  · exact h.execShfl
  · exact h.execVote
  · exact h.execRed
  · exact h.execRmaxi
  · exact h.execScan
  · exact h.execReform
  · exact h.execElect
  · exact h.execLd
  · exact h.execSt
  · exact h.execLds
  · exact h.execSts
  · exact h.execGather
  · exact h.execScatter
  · exact h.execPref
  · exact h.execFence
  · exact h.execIcsync
  · exact h.execCopy
  · exact h.execBrld
  · exact h.execBrmk
  · exact h.execSpgrow
  · exact h.execSpfree
  · exact h.execPin
  · exact h.execUnpin
  · exact h.execAtom
  · exact h.execAtomo
  · exact h.execReds
  · exact h.execCombine
  · exact h.execLlock
  · exact h.execLunlock
  · exact h.execMma
  · exact h.execMmas
  · exact h.execMgrp
  · exact h.execMzero
  · exact h.execMdrain
  · exact h.execMmask
  · exact h.execMwait
  · exact h.execTilepost
  · exact h.execTilewait
  · exact h.execWload
  · exact h.execWbias
  · exact h.execWclamp
  · exact h.execWsweep
  · exact h.execWread
  · exact h.execWkey
  · exact h.execWkeyPhys
  · exact h.execWkeyDraw
  · exact h.execWnoise
  · exact h.execWstat
  · exact h.execWlink
  · exact h.execAccept
  · exact h.execBallot
  · exact h.execSibchk
  · exact h.execRingput
  · exact h.execCsrr
  · exact h.execCsrw
  · exact h.execStamp
  · exact h.execTrace
  · exact h.execLeasesetWrite
  · exact h.execRepmodeWrite
  · exact h.execRepmodeTakeEffect
  · exact h.execMondataWrite
  · exact h.execRequalify
  · exact h.execHotcfgWrite
  · exact h.execPatternTest
  · exact h.execPatternTestDone
  · exact h.execTrnHoldWrite
  · exact h.execTrnResRead
  · exact h.execRegisterWrite
  · exact h.execDoorbell
  · exact h.execWindowViolation
  · exact h.execViolRead
  · exact h.execEvtdropRead
  · exact h.execEvtconsWrite
  · exact h.execCtxCreate
  · exact h.execCtxDestroy
  · exact h.execQueueBind
  · exact h.execQueueReset
  · exact h.execPreempt
  · exact h.execResume
  · exact h.execInvalidate
  · exact h.execFaultAnswer
  · exact h.execRetireStack
  · exact h.execRetireAck
  · exact h.execBreakCmd
  · exact h.execContinueCmd
  · exact h.execStampBind
  · exact h.execTraceOpen
  · exact h.execTraceClose
  · exact h.execQuiesce
  · exact h.execRelease
  · exact h.execImage
  · exact h.execRestore
  · exact h.execPower
  · exact h.execApplyMargin
  · exact h.execHotAck
  · exact h.execAttest
  · exact h.execDeviceReset
  · exact h.execPowerRemove
  · exact h.execBrakeOn
  · exact h.execBrakeOff
  · exact h.execLaneRepair
  · exact h.execDeviceError
  · exact h.execPeerLinkFail
  · exact h.execHostMemRead
  · exact h.execHostMemWrite
  · exact h.execIssueSelect
  · exact h.execPriorityAge
  · exact h.execCohortPlace
  · exact h.execCohortStart
  · exact h.execSpillEvict
  · exact h.execRegisterFill
  · exact h.execResultArrive
  · exact h.execLineRequestHome
  · exact h.execStoreArrive
  · exact h.execStoreLand
  · exact h.execStoreQueueSend
  · exact h.execPageWalk
  · exact h.execPendingFaultPost
  · exact h.execOperandLogReplay
  · exact h.execTrapDelivery
  · exact h.execContextError
  · exact h.execCohortKill
  · exact h.execSyncAccess
  · exact h.execAtomoRequest
  · exact h.execAtomoResend
  · exact h.execRedsContribution
  · exact h.execLockRequest
  · exact h.execLockTimeout
  · exact h.execDeadlockScan
  · exact h.execCopyComplete
  · exact h.execCopyViolation
  · exact h.execGatherExpand
  · exact h.execStackRequest
  · exact h.execStackCompletion
  · exact h.execScrub
  · exact h.execRowRepair
  · exact h.execRegionClose
  · exact h.execRegionReopen
  · exact h.execStaleRequest
  · exact h.execFadeTick
  · exact h.execPassGrant
  · exact h.execPassComplete
  · exact h.execMatrixFaultLimit
  · exact h.execMatrixPriorityAge
  · exact h.execMzeroPerform
  · exact h.execMmaskPerform
  · exact h.execMdrainPerform
  · exact h.execDrainComplete
  · exact h.execWellCommandPerform
  · exact h.execWellClassUpdate
  · exact h.execBoundaryStateArrive
  · exact h.execHealthWindow
  · exact h.execQueueEntryStart
  · exact h.execKernelNodeStart
  · exact h.execCopyNode
  · exact h.execCondNode
  · exact h.execLoopIteration
  · exact h.execEndNode
  · exact h.execPhaseArrive
  · exact h.execWaitEvaluate
  · exact h.execWaitTick
  · exact h.execWaitTimeout
  · exact h.execSignalNode
  · exact h.execRingNode
  · exact h.execNodeComplete
  · exact h.execRingAppend
  · exact h.execRingCoalesceTimeout
  · exact h.execBallotPost
  · exact h.execSiblingPageRelease
  · exact h.execSpgrowGrant
  · exact h.execReplayTimeout
  · exact h.execCountingRetry
  · exact h.execMonitorSample
  · exact h.execTraceFlush
  · exact h.execQuiesceComplete
  · exact h.execImageComplete
  · exact h.execIllegalOpcode

protected theorem Canon.wakeUnits (h : Canon s) : Canon (wakeUnits s) := h.foldl fun _ _ h => h.wakeSplits.ite h

protected theorem Canon.moveOn {f : Focus} (h : Canon s) : Canon (moveOn f s) := h.upd.ite h.upd

protected theorem Canon.unfocus {f : Focus} {r : Host.Outcome State Fault Refusal} (hr : CanonIn nextState r) :
    CanonIn nextState (unfocus f r) := by
  unfold unfocus
  split
  · exact ⟨hr.all.moveOn⟩
  · exact .empty
  · exact .empty

protected theorem Canon.stepFocus {f : Focus} (h : Canon s) : CanonIn nextState (stepFocus s f) := by
  unfold stepFocus
  split
  · exact ⟨(h.issueFocus.of ‹_›).moveOn⟩
  · exact Canon.unfocus (h.issueFocus.of ‹_›).exec

protected theorem Canon.leaveTick {s' : State} (hs : Canon s) (hs' : Canon s') : CanonIn nextState (leaveTick s s') :=
  .ite hs.exec ⟨hs'.tick⟩

protected theorem Canon.stepFree (h : Canon s) : CanonIn nextState (stepFree s) := by
  unfold stepFree
  refine .ite ⟨h.upd.bootDone⟩ ?_
  split
  · exact (h.choose.snd ‹_›).exec
  · exact (h.choose.snd ‹_›).leaveTick (h.choose.snd ‹_›)

protected theorem Canon.stepCue {ev : Option Instr} (h : Canon s) : CanonIn nextState (stepCue s ev) := by
  unfold stepCue
  split
  · exact .ite h.exec ⟨h⟩
  · exact h.stepFree

protected theorem Canon.stepAgenda {c : Cue} {cs : List Cue} (h : Canon s) :
    CanonIn nextState (stepAgenda s c cs) := by
  unfold stepAgenda
  split
  · exact h.leaveTick h.set
  · have hw : Canon { s with agenda := cs, hostMem := hostStores s.hostMem c.host
                             mig := { s.mig with found := s.mig.found ++ c.found } } :=
      ⟨h.mem, hostStores_wf h.host _⟩
    refine Canon.stepCue ?_
    split
    · exact hw.startService
    · exact hw

protected theorem Canon.stepOn (h : Canon s) : CanonIn nextState (stepOn s) := by
  unfold stepOn
  split
  · exact h.stepAgenda
  · split
    · exact h.stepFocus
    · exact h.stepFree

protected theorem Canon.woken {r : Host.Outcome State Fault Refusal} (hr : CanonIn nextState r) :
    CanonIn nextState (woken r) := by
  unfold woken
  split
  · exact ⟨hr.all.refillOverflow.wakeUnits⟩
  · exact .empty
  · exact .empty

protected theorem Canon.step (h : Canon s) : CanonIn nextState (step s) := .ite (Canon.woken h.stepOn) .empty

/-- Settles O60: from canonical memories, the state that a step answers is canonical, because each function
that a step runs through keeps them so. -/
theorem memoryStaysCanonical : Obligations.MemoryStaysCanonical :=
  fun s t h e => (canon_iff t).mpr ((((canon_iff s).mp h).step).of e)

end Sys2Proof.Machine
end

section
/-! SUPPORT. What the chosen split's move is where its words are fetched and decode (R38, R90, R186). -/
namespace Sys2Proof.Machine

section
variable {s s1 s2 : State} {cid sid off : Nat} {cr : Crew} {sp : Split} {ln : Launch} {w x : W64} {i : Instr}

/-- R90: a word whose extension, where it takes one, is fetched from its block runs the instruction they decode to. -/
theorem issueWord_run (hop : opDefined (w.extractLsb' 56 8).toNat = true) (hext : extBeyond sp off w = false)
    (hx : (if hasExt (w.extractLsb' 56 8).toNat then fetchWord s cr (ln.seg + off + 8) else (.word 0, s)) = (.word x, s1))
    (hd : decode w (if hasExt (w.extractLsb' 56 8).toNat then some x else none) = .instr i) :
    issueWord s cid sid cr sp ln off w = .run i s1 := by
  simp only [issueWord, hop, Bool.not_true, Bool.false_eq_true, if_false, hext, hx, hd]

/-- R186: the chosen split, ready at a word that is fetched, with no deferred report due for it, issues that word. -/
theorem issueFocus_word {f : Focus} (he : executing s = some (f.crew, f.split, cr, sp, off))
    (hl : launchOf s cr = some ln) (hdef : deferredFor cr sp.id = false)
    (hw : fetchWord s cr (ln.seg + off) = (.word w, s1)) :
    issueFocus s f = issueWord s1 f.crew f.split cr sp ln off w := by
  obtain ⟨hc, hs, hp, hr, hst⟩ := executing_crew he
  simp only [issueFocus, hc, hs, hl, hr, hst, hdef, hp, hw, Bool.not_true, Bool.false_or, bne_self_eq_false,
    Bool.false_eq_true, if_false]

end

/-- With power and nothing on the agenda, a step is the chosen split's move. -/
theorem step_focus {s : State} {f : Focus} (hp : s.powered = true) (ha : s.agenda = []) (hf : s.focus = some f) :
    step s = woken (stepFocus s f) := by
  simp only [step, hp, Bool.true_or, if_true, stepOn, ha, hf]

/-- Settles O4: the words run the instruction they decode to, and the step is its outcome, moved on and woken. -/
theorem stepRunsInstruction : Obligations.StepRunsInstruction := by
  intro s s1 s2 f cr sp off ln w x i ext hp ha hf he hl hdef hw hop hext hx hd
  have hrun : issueFocus s f = .run i s2 := (issueFocus_word he hl hdef hw).trans (issueWord_run hop hext hx hd)
  have hstep : step s = woken (unfocus f (exec i s2)) := by simp only [step_focus hp ha hf, stepFocus, hrun]
  rw [hstep]
  cases exec i s2 <;> rfl

end Sys2Proof.Machine
end

section
/-! SUPPORT. A store at its line's home: its Tw, the stores that home DT has reached, and what they leave (R169, R170). -/
namespace Sys2Proof.Machine

/-- Between `s` and `t` stores have become visible: memory and the regions written, the requests at the stacks, interrupts
and the homes' own stores may differ, and nothing else. -/
structure Lands (s t : State) : Prop where
  state : t = { s with mem := t.mem, touched := t.touched, dramStacks := t.dramStacks, irqs := t.irqs, pba := t.pba
                       homes := t.homes }

namespace Lands

protected theorem refl (s : State) : Lands s s := ⟨rfl⟩

protected theorem trans {s t u : State} (h : Lands s t) (g : Lands t u) : Lands s u :=
  ⟨g.state.trans (congrArg (fun x : State => { x with mem := u.mem, touched := u.touched, dramStacks := u.dramStacks
                                                      irqs := u.irqs, pba := u.pba, homes := u.homes }) h.state)⟩

protected theorem foldl {β : Type} {f : State → β → State} (hf : ∀ s x, Lands s (f s x)) (xs : List β) (s : State) :
    Lands s (xs.foldl f s) := by
  induction xs generalizing s with
  | nil => exact .refl s
  | cons x xs ih => exact (hf s x).trans (ih (f s x))

protected theorem homeDT {s t : State} (h : Lands s t) (line : Nat) : homeDT t line = homeDT s line := by rw [h.state]; rfl

/-- R167: the lease horizon of a line is as its home's lease was. -/
protected theorem horizon {s t : State} (h : Lands s t) {line : Nat} (hh : (homeOf t line).h = (homeOf s line).h) :
    horizon t line = horizon s line := by
  have hl : inL2 t line = inL2 s line := by rw [h.state]; rfl
  have he : SMap.getD t.he (homeSlice t (line * 128)) 0 = SMap.getD s.he (homeSlice s (line * 128)) 0 := by
    rw [h.state]; rfl
  simp only [Machine.horizon, hl, he, hh]

end Lands

-- what a store that becomes visible leaves

theorem sendGranule_lands {s t : State} {pa : Nat} {write : Bool} {acc : Option (Nat × Nat)}
    (h : sendGranule s pa write acc = some t) : Lands s t := by
  dsimp only [sendGranule] at h
  split at h
  · cases h
  · obtain ⟨k, -, rfl⟩ := Option.map_eq_some_iff.mp h
    exact ⟨rfl⟩

theorem sendWrite_lands (s : State) (g : Nat) : Lands s (sendWrite s g) := by
  dsimp only [sendWrite]
  split
  · cases h : sendGranule s (g * 64) true none with
    | none => exact ⟨rfl⟩
    | some t => exact sendGranule_lands h
  · exact ⟨rfl⟩

theorem landBytes_lands (s : State) (line : Nat) (ws : List (Nat × Byte)) : Lands s (landBytes s line ws) := by
  have written : Lands s { s with
      mem := Memory.setAll s.mem (ws.map (fun p => (line * 128 + p.1, p.2)))
      touched := if s.touched.contains (line / 8192) then s.touched else line / 8192 :: s.touched } := ⟨rfl⟩
  exact (written.trans (.foldl (fun s _ => sendWrite_lands s _) _ _)).trans ⟨rfl⟩

theorem raiseNotice_lands (s : State) (v : Option Notice) : Lands s (raiseNotice s v) := by
  unfold raiseNotice raiseIrq
  split <;> exact ⟨rfl⟩

@[simp] theorem raiseNotice_mem (s : State) (v : Option Notice) : (raiseNotice s v).mem = s.mem := by
  unfold raiseNotice raiseIrq
  split <;> rfl

/-- R184, R316: a store's interrupt is raised where its condition holds. -/
theorem raiseNotice_irqs (s : State) (n : Notice) :
    (raiseNotice s (some n)).irqs = if n.when_.holds s then s.irqs ++ [n.vec] else s.irqs := by
  by_cases h : n.when_.holds s <;> simp [raiseNotice, raiseIrq, Option.filter, h]

/-- R170: a store becomes visible: its bytes replace the line's, and its interrupt follows. -/
def landPend (line : Nat) (s : State) (p : Pend) : State := raiseNotice (landBytes s line p.bytes) p.vec

theorem landPend_lands (line : Nat) (s : State) (p : Pend) : Lands s (landPend line s p) :=
  (landBytes_lands s line p.bytes).trans (raiseNotice_lands _ p.vec)

/-- The bytes that some stores of a line write, by address. -/
def pendBytes (line : Nat) (ps : List Pend) : List (Nat × Byte) :=
  ps.flatMap (fun p => p.bytes.map (fun q => (line * 128 + q.1, q.2)))

theorem pendBytes_append (line : Nat) (ps qs : List Pend) :
    pendBytes line (ps ++ qs) = pendBytes line ps ++ pendBytes line qs := List.flatMap_append

/-- Bytes written as offsets in a line have addresses in that line. -/
theorem pendBytes_line {line : Nat} {ps : List Pend} (h : ∀ p ∈ ps, ∀ q ∈ p.bytes, q.1 < 128) :
    ∀ w ∈ pendBytes line ps, w.1 / 128 = line := by
  intro w hw
  obtain ⟨p, hp, hw⟩ := List.mem_flatMap.mp hw
  obtain ⟨q, hq, rfl⟩ := List.mem_map.mp hw
  have := h p hp q hq
  omega

theorem Memory.setAll_append (m : Mem) (us ws : List (Nat × Byte)) :
    Memory.setAll m (us ++ ws) = Memory.setAll (Memory.setAll m us) ws := by
  induction us generalizing m with
  | nil => rfl
  | cons u us ih => exact ih _

theorem foldl_landPend_mem (line : Nat) (ps : List Pend) (s : State) :
    (ps.foldl (landPend line) s).mem = Memory.setAll s.mem (pendBytes line ps) := by
  induction ps generalizing s with
  | nil => rfl
  | cons p ps ih =>
    have hp : (landPend line s p).mem = Memory.setAll s.mem (p.bytes.map (fun q => (line * 128 + q.1, q.2))) := by
      rw [landPend, raiseNotice_mem, landBytes_mem]
    rw [List.foldl_cons, ih, hp, ← Memory.setAll_append]
    rfl

-- the stores that home DT has reached

/-- R170: home DT has reached a store's Tw. -/
def Pend.reached (dh : Nat) (p : Pend) : Bool := decide (p.tw ≤ dh)

theorem landDue_eq (line dh : Nat) (ps : List Pend) (s : State) :
    landDue s line dh ps = ((ps.takeWhile (Pend.reached dh)).foldl (landPend line) s, ps.dropWhile (Pend.reached dh)) := by
  induction ps generalizing s with
  | nil => rfl
  | cons p ps ih =>
    by_cases h : p.tw ≤ dh
    · simp only [landDue, h, if_true, ih, List.takeWhile, List.dropWhile, Pend.reached, decide_true, List.foldl_cons]
      rfl
    · simp only [landDue, h, if_false, List.takeWhile, List.dropWhile, Pend.reached, decide_false, List.foldl_nil]

/-- The pending stores of a line whose Tw home DT has reached. -/
def dueOf (s : State) (line : Nat) : List Pend := (homeOf s line).pending.takeWhile (Pend.reached (homeDT s line))

/-- The pending stores of a line that stay pending. -/
def stillOf (s : State) (line : Nat) : List Pend := (homeOf s line).pending.dropWhile (Pend.reached (homeDT s line))

/-- R170: settling a line lands the stores that are due, in order of arrival, and keeps the others: where none is pending,
there is nothing to do. -/
theorem settle_cases (s : State) (line : Nat) :
    (settle s line = s ∧ (homeOf s line).pending = [])
      ∨ settle s line = { (dueOf s line).foldl (landPend line) s with
          homes := ((dueOf s line).foldl (landPend line) s).homes.put line
            { homeOf s line with pending := stillOf s line } } := by
  cases h : (homeOf s line).pending with
  | nil => exact .inl ⟨by simp only [settle, h], rfl⟩
  | cons p ps => exact .inr (by simp only [settle, h, landDue_eq, dueOf, stillOf])

theorem settle_lands (s : State) (line : Nat) : Lands s (settle s line) := by
  rcases settle_cases s line with ⟨h, -⟩ | h
  · rw [h]; exact .refl s
  · rw [h]; exact (Lands.foldl (landPend_lands line) _ s).trans ⟨rfl⟩

theorem homeOf_settle (s : State) (line : Nat) :
    homeOf (settle s line) line = { homeOf s line with pending := stillOf s line } := by
  rcases settle_cases s line with ⟨h, hp⟩ | h
  · simp only [h, stillOf, hp, List.dropWhile_nil]
    rw [← hp]
  · rw [h]; exact SMap.getD_put_self _ _ _ _

theorem settle_mem (s : State) (line : Nat) :
    (settle s line).mem = Memory.setAll s.mem (pendBytes line (dueOf s line)) := by
  rcases settle_cases s line with ⟨h, hp⟩ | h
  · simp only [h, dueOf, hp, List.takeWhile_nil]; rfl
  · rw [h]; exact foldl_landPend_mem line _ s

theorem settle_irqs (s : State) (line : Nat) :
    (settle s line).irqs = ((dueOf s line).foldl (landPend line) s).irqs := by
  rcases settle_cases s line with ⟨h, hp⟩ | h
  · simp only [h, dueOf, hp, List.takeWhile_nil]; rfl
  · rw [h]

-- a store that arrives

/-- R169: the Tw of a store that arrives at a line's home now. -/
def arrivalTw (s : State) (line : Nat) : Nat :=
  Nat.max (homeDT s line) (Nat.max (horizon s line) (homeOf s line).tprev)

/-- R169: the line's home with a store that has arrived pending. -/
def withPend (s : State) (line : Nat) (tw : Nat) (p : Pend) : State :=
  { s with homes := s.homes.put line { homeOf s line with tprev := tw, pending := (homeOf s line).pending ++ [p] } }

theorem withPend_lands (s : State) (line tw : Nat) (p : Pend) : Lands s (withPend s line tw p) := ⟨rfl⟩

theorem homeOf_withPend (s : State) (line tw : Nat) (p : Pend) : homeOf (withPend s line tw p) line
    = { homeOf s line with tprev := tw, pending := (homeOf s line).pending ++ [p] } := SMap.getD_put_self _ _ _ _

/-- R170: settling a line changes nothing that the Tw of a store depends on. -/
theorem arrivalTw_settle (s : State) (line : Nat) : arrivalTw (settle s line) line = arrivalTw s line := by
  have hh := homeOf_settle s line
  simp only [arrivalTw, (settle_lands s line).homeDT, (settle_lands s line).horizon (by rw [hh]), hh]

/-- A store of some bytes that takes its Tw now. -/
def newPend (s : State) (line src : Nat) (ws : List (Nat × Byte)) : Pend :=
  { tw := arrivalTw s line, src := src, bytes := ws }

/-- R169: a store that arrives takes its Tw and joins the pending stores of its line, which are settled. -/
theorem arriveStore_eq (s : State) (line src : Nat) (ws : List (Nat × Byte)) : arriveStore s line src ws
    = (settle (withPend (settle s line) line (arrivalTw s line) (newPend s line src ws)) line, arrivalTw s line) := by
  have htw : Nat.max (Nat.max (homeDT (settle s line) line) 0)
      (Nat.max (horizon (settle s line) line) (homeOf (settle s line) line).tprev) = arrivalTw s line := by
    rw [← arrivalTw_settle, arrivalTw, show Nat.max _ 0 = _ from Nat.max_zero _]
  simp only [arriveStore, arriveStoreFrom, htw]
  rfl

/-- The stores pending at a line's home once a store has arrived, before those that are due become visible. -/
def withArrived (s : State) (line src : Nat) (ws : List (Nat × Byte)) : List Pend :=
  stillOf s line ++ [newPend s line src ws]

section
variable (s : State) (line src : Nat) (ws : List (Nat × Byte))

/-- The line's home as a store that has arrived finds it. -/
theorem homeOf_arrived : homeOf (withPend (settle s line) line (arrivalTw s line) (newPend s line src ws)) line
    = { homeOf s line with tprev := arrivalTw s line, pending := withArrived s line src ws } := by
  rw [homeOf_withPend, homeOf_settle]
  rfl

theorem homeDT_arrived :
    homeDT (withPend (settle s line) line (arrivalTw s line) (newPend s line src ws)) line = homeDT s line :=
  ((settle_lands s line).trans (withPend_lands _ _ _ _)).homeDT line

theorem homeOf_arriveStore : homeOf (arriveStore s line src ws).1 line = { homeOf s line with
    tprev := arrivalTw s line, pending := (withArrived s line src ws).dropWhile (Pend.reached (homeDT s line)) } := by
  rw [arriveStore_eq, homeOf_settle]
  simp only [stillOf, homeOf_arrived, homeDT_arrived]

theorem arriveStore_mem : (arriveStore s line src ws).1.mem = Memory.setAll s.mem (pendBytes line
    (dueOf s line ++ (withArrived s line src ws).takeWhile (Pend.reached (homeDT s line)))) := by
  have hdue : dueOf (withPend (settle s line) line (arrivalTw s line) (newPend s line src ws)) line
      = (withArrived s line src ws).takeWhile (Pend.reached (homeDT s line)) := by
    simp only [dueOf, homeOf_arrived, homeDT_arrived]
  rw [arriveStore_eq, settle_mem, hdue, pendBytes_append, Memory.setAll_append, ← settle_mem]
  rfl

/-- R170: the stores that become visible where a store arrives change bytes of their line alone. -/
theorem arriveStore_get_other (hp : ∀ p ∈ (homeOf s line).pending, ∀ q ∈ p.bytes, q.1 < 128) (hw : ∀ q ∈ ws, q.1 < 128)
    {k : Nat} (hk : k / 128 ≠ line) : Memory.get (arriveStore s line src ws).1.mem k = Memory.get s.mem k := by
  rw [arriveStore_mem]
  refine Memory.get_setAll_outside _ _ (fun w hmem heq => hk (heq ▸ pendBytes_line (fun p hmem => ?_) w hmem))
  rcases List.mem_append.mp hmem with hdue | hnew
  · exact hp p ((List.takeWhile_sublist _).mem hdue)
  · rcases List.mem_append.mp ((List.takeWhile_sublist _).mem hnew) with hstill | hone
    · exact hp p ((List.dropWhile_sublist _).mem hstill)
    · rw [List.mem_singleton.mp hone]
      exact hw

end

/-- Settles O44: a settled line has landed what is due; a store that arrives settles its line before and after it joins. -/
theorem storeOrder : Obligations.StoreOrder := by
  intro s line src ws
  exact ⟨rfl, settle_mem s line, homeOf_settle s line, settle_irqs s line, raiseNotice_irqs,
    congrArg Prod.snd (arriveStore_eq s line src ws), congrArg Home.tprev (homeOf_arriveStore s line src ws),
    congrArg Home.pending (homeOf_arriveStore s line src ws), arriveStore_mem s line src ws,
    fun hp hw _ hk => arriveStore_get_other s line src ws hp hw hk⟩

end Sys2Proof.Machine
end

section
/-! SUPPORT. Fields of 32-bit words under masks (R446). -/
namespace Sys2Proof.Machine

section
variable {v m : W32} {lo n : Nat}

theorem fieldOf_eq (v : W32) (lo n : Nat) : fieldOf v lo n = (v.extractLsb' lo n).toNat := by
  rw [BitVec.extractLsb'_toNat, Nat.shiftRight_eq_div_pow, fieldOf]

theorem fieldOf_lt (v : W32) (lo n : Nat) : fieldOf v lo n < 2 ^ n := Nat.mod_lt _ (Nat.two_pow_pos n)

theorem fieldOf_and_ones (v : W32) (h : m.extractLsb' lo n = BitVec.allOnes n) :
    fieldOf (v &&& m) lo n = fieldOf v lo n := by
  rw [fieldOf_eq, fieldOf_eq, BitVec.extractLsb'_and, h, BitVec.and_allOnes]

theorem fieldOf_and_zeros (v : W32) (h : m.extractLsb' lo n = 0) : fieldOf (v &&& m) lo n = 0 := by
  rw [fieldOf_eq, BitVec.extractLsb'_and, h]; simp

theorem fieldOf_or_zeros (v : W32) (h : m.extractLsb' lo n = 0) : fieldOf (v ||| m) lo n = fieldOf v lo n := by
  rw [fieldOf_eq, fieldOf_eq, BitVec.extractLsb'_or, h]; simp

theorem fieldOf_zero_or (m : W32) (h : fieldOf v lo n = 0) : fieldOf (v ||| m) lo n = fieldOf m lo n := by
  have hv : v.extractLsb' lo n = 0 := BitVec.eq_of_toNat_eq ((fieldOf_eq v lo n).symm.trans h)
  rw [fieldOf_eq, fieldOf_eq, BitVec.extractLsb'_or, hv]; simp

end

end Sys2Proof.Machine
end

section
/-! SUPPORT. Monitors as MONDATA writes them (R372). -/
namespace Sys2Proof.Machine

/-- R372: the bits of word 0 that a write with this ACT reaches. -/
def monMask (v : W32) : W32 := if 4 < fieldOf v 28 3 then 0x8FFF0FFF else 0xFFFF0FFF

/-- The mask of word 0 is the same below and above the reserved codes of ACT but for ACT itself. -/
theorem monMask_field (v : W32) {lo n : Nat} {x : BitVec n} (h : (0x8FFF0FFF : W32).extractLsb' lo n = x)
    (h' : (0xFFFF0FFF : W32).extractLsb' lo n = x) : (monMask v).extractLsb' lo n = x := by
  unfold monMask
  split
  · exact h
  · exact h'

theorem monWord0_eq (v : W32) : monWord0 v
    = if fieldOf v 16 8 = 0 then v &&& monMask v ||| 0x00010000 else v &&& monMask v := by
  have hper : fieldOf (v &&& monMask v) 16 8 = fieldOf v 16 8 := fieldOf_and_ones v (monMask_field v (by rfl) (by rfl))
  rw [← hper]
  rfl

/-- A field of word 0 apart from PER is what the mask leaves of it. -/
theorem fieldOf_monWord0 (v : W32) {lo n : Nat} (h : (0x00010000 : W32).extractLsb' lo n = 0) :
    fieldOf (monWord0 v) lo n = fieldOf (v &&& monMask v) lo n := by
  rw [monWord0_eq]
  split
  · exact fieldOf_or_zeros _ h
  · rfl

/-- A field of word 0 that neither the mask nor PER touches is written as it is. -/
theorem fieldOf_monWord0_kept (v : W32) {lo n : Nat} (hper : (0x00010000 : W32).extractLsb' lo n = 0)
    (h : (0x8FFF0FFF : W32).extractLsb' lo n = BitVec.allOnes n)
    (h' : (0xFFFF0FFF : W32).extractLsb' lo n = BitVec.allOnes n) : fieldOf (monWord0 v) lo n = fieldOf v lo n := by
  rw [fieldOf_monWord0 v hper, fieldOf_and_ones v (monMask_field v h h')]

theorem fieldOf_monWord0_reserved (v : W32) : fieldOf (monWord0 v) 12 4 = 0 := by
  rw [fieldOf_monWord0 v (by rfl), fieldOf_and_zeros v (monMask_field v (by rfl) (by rfl))]

/-- R372: PER 0 writes 1. -/
theorem fieldOf_monWord0_per (v : W32) :
    fieldOf (monWord0 v) 16 8 = if fieldOf v 16 8 = 0 then 1 else fieldOf v 16 8 := by
  have hper : fieldOf (v &&& monMask v) 16 8 = fieldOf v 16 8 := fieldOf_and_ones v (monMask_field v (by rfl) (by rfl))
  rw [monWord0_eq]
  split
  · next h => rw [fieldOf_zero_or _ (hper.trans h)]; rfl
  · exact hper

/-- R372: a reserved ACT reads as NONE. -/
theorem fieldOf_monWord0_act (v : W32) :
    fieldOf (monWord0 v) 28 3 = if 4 < fieldOf v 28 3 then 0 else fieldOf v 28 3 := by
  rw [fieldOf_monWord0 v (by rfl)]
  split
  · next h => exact fieldOf_and_zeros v (by rw [monMask, if_pos h]; rfl)
  · next h => exact fieldOf_and_ones v (by rw [monMask, if_neg h]; rfl)

theorem getLsbD_monWord0_en (v : W32) : (monWord0 v).getLsbD 31 = v.getLsbD 31 := by
  have hmask : (monMask v).getLsbD 31 = true := by
    unfold monMask
    split <;> rfl
  rw [monWord0_eq]
  split <;> simp [hmask]

theorem fieldOf_monWord3 (old v : W32) : fieldOf (monWord3 old v) 0 16 = fieldOf v 0 16 := by
  rw [monWord3, fieldOf_zero_or _ (fieldOf_and_zeros _ (by rfl)), fieldOf_and_ones v (by rfl)]

/-- R372: FIRED is cleared by writing 1. -/
theorem getLsbD_monWord3 (old v : W32) : (monWord3 old v).getLsbD 31 = (old.getLsbD 31 && !v.getLsbD 31) := by
  simp [monWord3]

/-- R372, R373: a monitor after a write of its word `k`. -/
def Monitor.written (o : Monitor) (k : Nat) (v : W32) : Monitor :=
  match k with
  | 0 => { o with w0 := monWord0 v, run := 0 }
  | 1 => { o with w1 := v, run := 0 }
  | 2 => { o with w2 := v, run := 0 }
  | _ => { o with w3 := monWord3 o.w3 v }

theorem writeMondata_eq (s : State) (v : W32) :
    let k := s.csrs.moncfg.toNat % 32
    writeMondata s v
      = { s with monitors := s.monitors.put k ((monitorOf s k).written (s.csrs.moncfg.toNat / 32) v) } := rfl

/-- R372: word 0 of a monitor, written. -/
theorem Monitor.written_zero (o : Monitor) (v : W32) : let n := o.written 0 v
    n.run = 0 ∧ n.w1 = o.w1 ∧ n.w2 = o.w2 ∧ n.w3 = o.w3 ∧ fieldOf n.w0 12 4 = 0
      ∧ fieldOf n.w0 16 8 = (if fieldOf v 16 8 = 0 then 1 else fieldOf v 16 8) ∧ fieldOf n.w0 0 12 = fieldOf v 0 12
      ∧ fieldOf n.w0 24 4 = fieldOf v 24 4 ∧ n.w0.getLsbD 31 = v.getLsbD 31
      ∧ fieldOf n.w0 28 3 = (if 4 < fieldOf v 28 3 then 0 else fieldOf v 28 3) :=
  ⟨rfl, rfl, rfl, rfl, fieldOf_monWord0_reserved v, fieldOf_monWord0_per v, fieldOf_monWord0_kept v rfl rfl rfl,
    fieldOf_monWord0_kept v rfl rfl rfl, getLsbD_monWord0_en v, fieldOf_monWord0_act v⟩

end Sys2Proof.Machine
end

section
/-! SUPPORT. The repeatable mode of a context, as REPMODE requests it and as it takes effect (R355, R364). -/
namespace Sys2Proof.Machine

variable {s : State} {c : Context} {m : RepMode} {k : Nat}

@[simp] theorem find_updCtx_self (s : State) (k : Nat) (f : Context → Context) :
    (updCtx s k f).ctxs.find k = (s.ctxs.find k).map f := SMap.find_change_self _ _ _

/-- R355: the mode that a write of REPMODE requests of a context. -/
def requestedMode (v : W32) (c : Context) : RepMode :=
  if modeOf (fieldOf v 0 2) = .replay && !c.valid then .free else modeOf (fieldOf v 0 2)

/-- R355: REPLAY without a valid trace requests FREE. -/
theorem requestedMode_untraced {v : W32} (h : fieldOf v 0 2 = 3) (hv : c.valid = false) : requestedMode v c = .free := by
  simp [requestedMode, h, modeOf, hv]

theorem modeOf_eq_replay {n : Nat} (h : modeOf n = .replay) : 3 ≤ n := by
  match n with
  | 0 | 1 | 2 => cases h
  | n + 3 => omega

/-- R355: a mode other than REPLAY, or REPLAY with a valid trace, is requested as written. -/
theorem requestedMode_allowed {v : W32} (h : fieldOf v 0 2 ≠ 3 ∨ c.valid = true) :
    requestedMode v c = modeOf (fieldOf v 0 2) := by
  refine if_neg (fun hr => ?_)
  obtain ⟨hm, hv⟩ : modeOf (fieldOf v 0 2) = .replay ∧ c.valid = false := by simpa using hr
  have hlo := modeOf_eq_replay hm
  have hhi : fieldOf v 0 2 < 4 := fieldOf_lt v 0 2
  rcases h with h | h
  · omega
  · rw [hv] at h; cases h

/-- R355: what a write of REPMODE leaves of the context that it selects, where the mode requested is known. -/
theorem repmodeWrite_found {v : W32} (hc : s.ctxs.find (fieldOf v 16 12) = some c) (hm : requestedMode v c = m) :
    ∃ u c', exec (.repmodeWrite v) s = .next u ∧ u.ctxs.find (fieldOf v 16 12) = some c'
      ∧ c' = { c with pendMode := some m } ∧ u.csrs.repCtx = fieldOf v 16 12 ∧ u.mem = s.mem := by
  refine ⟨_, _, rfl, ?_, rfl, rfl, rfl⟩
  have hc' : (updCsrs s (fun x => { x with repCtx := fieldOf v 16 12 })).ctxs.find (fieldOf v 16 12) = some c := hc
  rw [← hm, writeRepmode, find_updCtx_self, hc']
  rfl

/-- R355: a requested mode is due where no graph of its context runs. -/
theorem modeDue_of_idle (hc : s.ctxs.find k = some c) (hm : c.pendMode = some m)
    (hq : ∀ q y, (q, y) ∈ s.queues → y.ctx = k → y.graph = none) : modeDue s k = true := by
  simp only [modeDue, hc, hm, Option.isSome_some, Bool.true_and, List.all_eq_true, Bool.or_eq_true, bne_iff_ne,
    Option.isNone_iff_eq_none]
  exact fun p hp => (em (p.2.ctx = k)).symm.imp_right (hq p.1 p.2 hp)

/-- R355, R364: what a mode leaves of a context where it takes effect. -/
theorem setMode_spec (c : Context) (m : RepMode) (now : Nat) :
    (c.setMode m now).mode = m ∧ (c.setMode m now).pendMode = none
      ∧ (m = .record → (c.setMode m now).trCount = 0 ∧ (c.setMode m now).ovf = false ∧ (c.setMode m now).valid = false)
      ∧ (m = .replay → (c.setMode m now).matched = [] ∧ (c.setMode m now).repFrom = now)
      ∧ (c.mode = .record → m ≠ .record → (c.setMode m now).valid = !c.ovf)
      ∧ (c.mode ≠ .record → m ≠ .record → (c.setMode m now).valid = c.valid) := by
  by_cases hr : c.mode = .record <;> cases m <;> simp [Context.setMode, hr]

theorem repmodeTakeEffect_due (hc : s.ctxs.find k = some c) (hm : c.pendMode = some m)
    (hq : ∀ q y, (q, y) ∈ s.queues → y.ctx = k → y.graph = none) :
    exec (.repmodeTakeEffect k) s = .next (updCtx s k (fun c => c.setMode m s.dt)) := by
  show execRepmodeTakeEffect k s = _
  simp only [execRepmodeTakeEffect, hc, Option.bind_some, hm, modeDue_of_idle hc hm hq, if_true]

end Sys2Proof.Machine
end

section
/-! SUPPORT. The thresholds of wells and their requalification (R265). -/
namespace Sys2Proof.Machine

/-- R265: a requalification that starts leaves the thresholds. -/
theorem startRequal_thresholds (s : State) :
    (startRequal s).csrs.corrThr = s.csrs.corrThr ∧ (startRequal s).csrs.biasThr = s.csrs.biasThr := by
  unfold startRequal
  split <;> exact ⟨rfl, rfl⟩

/-- R265: every substituted well starts its windows where no requalification runs. -/
theorem startRequal_wells {s : State} (h : s.csrs.requal = false) {w : Nat} {y : Well} (hy : (w, y) ∈ s.wells) :
    (w, { y with requal := if y.subst.isSome then some 0 else y.requal }) ∈ (startRequal s).wells := by
  simp only [startRequal, h, Bool.false_eq_true, if_false]
  refine List.mem_map.mpr ⟨(w, y), hy, ?_⟩
  by_cases hs : y.subst.isSome <;> simp [hs]

/-- R265: the thresholds that a write of WELLTHR sets. -/
def withThresholds (s : State) (v : W32) : State :=
  updCsrs s (fun c => { c with corrThr := fieldOf v 16 12, biasThr := fieldOf v 0 16 })

theorem requalify_spec (s : State) (v : W32) : ∃ u, exec (.requalify v) s = .next u
    ∧ u.csrs.corrThr = fieldOf v 16 12 ∧ u.csrs.biasThr = fieldOf v 0 16
    ∧ (v.getLsbD 31 = false → u.wells = s.wells ∧ u.csrs.requal = s.csrs.requal)
    ∧ (v.getLsbD 31 = true → s.csrs.requal = false → ∀ w y, (w, y) ∈ s.wells →
        ∃ y', (w, y') ∈ u.wells ∧ y' = { y with requal := if y.subst.isSome then some 0 else y.requal }) := by
  have hw : writeWellthr s v = if v.getLsbD 31 then startRequal (withThresholds s v) else withThresholds s v := rfl
  refine ⟨writeWellthr s v, rfl, ?_⟩
  rw [hw]
  cases v.getLsbD 31 with
  | false => exact ⟨rfl, rfl, fun _ => ⟨rfl, rfl⟩, Bool.noConfusion⟩
  | true =>
    obtain ⟨hcorr, hbias⟩ := startRequal_thresholds (withThresholds s v)
    exact ⟨hcorr, hbias, Bool.noConfusion, fun _ hr _ _ hy =>
      ⟨_, startRequal_wells (s := withThresholds s v) hr hy, rfl⟩⟩

end Sys2Proof.Machine
end

section
/-! SUPPORT. The training registers of a pseudo-channel (R350 to R352). -/
namespace Sys2Proof.Machine

/-- R351: a write of TRN_PAT word 0 names a test that may start: HOLD is set, and DIR and KIND are defined. -/
def Train.testable (t : Train) (v : W32) : Bool :=
  t.hold && decide (fieldOf v 28 3 < 3) && decide (fieldOf v 24 4 < 3)

theorem testable_iff (t : Train) (v : W32) :
    t.testable v = true ↔ t.hold = true ∧ fieldOf v 28 3 < 3 ∧ fieldOf v 24 4 < 3 := by
  simp [Train.testable, and_assoc]

/-- R351: word 0 of TRN_PAT as written, with GO as it stood. -/
def Train.patField (t : Train) (v : W32) : W32 := t.pat0 &&& 0x80000000 ||| v &&& 0x7F00FFFF

/-- R351: GO starts a test, or sets ERR where it may not start. -/
theorem writePat_eq (t : Train) (v : W32) : t.writePat v
    = { t with pat0 := if v.getLsbD 31 && t.testable v then t.patField v ||| 0x80000000 else t.patField v
               res := if v.getLsbD 31 && !t.testable v then t.res ||| 0x40000000 else t.res } := by
  have hbad : (!t.hold || decide (3 ≤ fieldOf v 28 3) || decide (3 ≤ fieldOf v 24 4)) = !t.testable v := by
    simp only [Train.testable, Bool.not_and, ← decide_not, Nat.not_lt]
  simp only [Train.writePat, hbad]
  cases v.getLsbD 31 <;> cases t.testable v <;> rfl

theorem fieldOf_patField (t : Train) (v : W32) : fieldOf (t.patField v) 0 16 = fieldOf v 0 16 := by
  rw [Train.patField, fieldOf_zero_or _ (fieldOf_and_zeros _ rfl), fieldOf_and_ones _ rfl]

theorem getLsbD_patField (t : Train) (v : W32) : (t.patField v).getLsbD 31 = t.pat0.getLsbD 31 := by
  simp [Train.patField]

theorem fieldOf_writePat (t : Train) (v : W32) : fieldOf (t.writePat v).pat0 0 16 = fieldOf v 0 16 := by
  rw [writePat_eq]
  dsimp only
  split
  · rw [fieldOf_or_zeros _ rfl, fieldOf_patField]
  · exact fieldOf_patField t v

theorem getLsbD_writePat (t : Train) (v : W32) :
    (t.writePat v).pat0.getLsbD 31 = (t.pat0.getLsbD 31 || (v.getLsbD 31 && t.testable v)) := by
  rw [writePat_eq]
  dsimp only
  split
  · next h => rw [h, Bool.or_true, BitVec.getLsbD_or, Bool.or_eq_true]; exact .inr rfl
  · next h => rw [getLsbD_patField, Bool.eq_false_iff.mpr h, Bool.or_false]

theorem writePat_refused {t : Train} {v : W32} (hv : v.getLsbD 31 = true) (hb : t.testable v = false) :
    (t.writePat v).res = t.res ||| 0x40000000 := by
  simp [writePat_eq, hv, hb]

theorem writePat_res {t : Train} {v : W32} (h : v.getLsbD 31 = false ∨ t.testable v = true) :
    (t.writePat v).res = t.res := by
  rcases h with h | h <;> 
    simp only [writePat_eq, h, Bool.false_and, Bool.not_true, Bool.and_false, Bool.false_eq_true, if_false]

/-- R351: the registers of a pseudo-channel after a write of TRN_PAT word 0. -/
theorem patternTest_spec (t : Train) (v : W32) : let n := t.writePat v
    n.pat0.getLsbD 31 = (t.pat0.getLsbD 31
        || (v.getLsbD 31 && t.hold && decide (fieldOf v 28 3 < 3) && decide (fieldOf v 24 4 < 3)))
      ∧ n.pat1 = t.pat1 ∧ n.hold = t.hold
      ∧ (v.getLsbD 31 = true → ¬ (t.hold = true ∧ fieldOf v 28 3 < 3 ∧ fieldOf v 24 4 < 3) → n.res = t.res ||| 0x40000000)
      ∧ (¬ v.getLsbD 31 = true ∨ (t.hold = true ∧ fieldOf v 28 3 < 3 ∧ fieldOf v 24 4 < 3) → n.res = t.res)
      ∧ fieldOf n.pat0 0 16 = fieldOf v 0 16 := by
  refine ⟨?_, by rw [writePat_eq], by rw [writePat_eq], fun hv hb => ?_, fun h => ?_, fieldOf_writePat t v⟩
  · rw [getLsbD_writePat, Train.testable]
    simp only [Bool.and_assoc]
  · exact writePat_refused hv (Bool.eq_false_iff.mpr (fun ht => hb ((testable_iff t v).mp ht)))
  · exact writePat_res (h.imp Bool.eq_false_iff.mpr (testable_iff t v).mpr)

section
variable {s : State} {k p : Nat} {x : Stack} {t : Train}

theorem trainOf_found (hx : s.dramStacks.find k = some x) (ht : x.train.find p = some t) : trainOf s k p = t := by
  simp only [trainOf, SMap.getD, hx, ht, Option.getD_some]

theorem updTrain_found (hx : s.dramStacks.find k = some x) (ht : x.train.find p = some t) (f : Train → Train) :
    updTrain s k p f = { s with dramStacks := s.dramStacks.put k { x with train := x.train.put p (f t) } } := by
  simp only [updTrain, trainOf_found hx ht, SMap.getD, hx]

@[simp] theorem trainOf_updTrain (s : State) (k p : Nat) (f : Train → Train) :
    trainOf (updTrain s k p f) k p = f (trainOf s k p) := by
  simp [trainOf, updTrain]

end

/-- R351: the registers of a pseudo-channel once a test has ended. -/
def Train.tested (t : Train) (fails : BitVec 17) : Train :=
  { t with pat0 := t.pat0 &&& 0x7FFFFFFF
           res := 0x80000000 ||| (t.res &&& 0x40000000) ||| (if fieldOf t.pat0 28 3 = 2 then 0 else fails.setWidth 32) }

theorem patternTestDone_found {s : State} {k p : Nat} {x : Stack} {t : Train} (hx : s.dramStacks.find k = some x)
    (ht : x.train.find p = some t) (hgo : t.pat0.getLsbD 31 = true) (fails : BitVec 17) :
    exec (.patternTestDone k p fails) s
      = .next { s with dramStacks := s.dramStacks.put k { x with train := x.train.put p (t.tested fails) } } := by
  show execPatternTestDone k p fails s = _
  simp only [execPatternTestDone, trainOf_found hx ht, hgo, if_true, updTrain_found hx ht, Train.tested]

/-- R351: DONE is set, ERR is kept, and the failures are those of a test that compares. -/
theorem tested_res (t : Train) (fails : BitVec 17) : (t.tested fails).res.getLsbD 31 = true
    ∧ (t.tested fails).res.getLsbD 30 = t.res.getLsbD 30
    ∧ (fieldOf t.pat0 28 3 ≠ 2 → (t.tested fails).res.extractLsb' 0 17 = fails) := by
  refine ⟨?_, ?_, fun h => ?_⟩
  · simp [Train.tested]
  · by_cases h : fieldOf t.pat0 28 3 = 2 <;> simp [Train.tested, h]
  · simp [Train.tested, h, BitVec.extractLsb'_or, BitVec.extractLsb'_and, BitVec.extractLsb'_setWidth_of_le]

/-- R352: on the return to service the written values take effect. -/
theorem writeHold_eq (t : Train) (v : W32) : t.writeHold v = { t with
    hold := v.getLsbD 0, live := if t.hold = true ∧ v.getLsbD 0 = false then t.written else t.live } := by
  simp only [Train.writeHold, Bool.and_eq_true, Bool.not_eq_true']

/-- Settles O55: each CSR in turn. -/
theorem csrEvents : Obligations.CsrEvents := by
  intro s v k c m x p t fails
  refine ⟨fun _ _ => rfl, ⟨rfl, rfl⟩, fun hc hf hv => repmodeWrite_found hc (requestedMode_untraced hf hv),
    fun hc ha => repmodeWrite_found hc (requestedMode_allowed ha), fun hc hm hq => ?_, ?_, requalify_spec s v,
    ⟨_, rfl, patternTest_spec _ v⟩, fun hx ht hgo => ?_, ?_, ?_⟩
  · exact ⟨_, _, repmodeTakeEffect_due hc hm hq, (find_updCtx_self s k _).trans (by rw [hc]; rfl), setMode_spec c m s.dt⟩
  · refine ⟨_, congrArg Host.Outcome.next (writeMondata_eq s v), fun h => ?_, fun h => ?_, fun h => ?_, fun h => ?_⟩
    · rw [h]; exact Monitor.written_zero _ v
    · rw [h]; rfl
    · rw [h]; rfl
    · rw [h]; exact ⟨rfl, rfl, rfl, rfl, fieldOf_monWord3 _ v, getLsbD_monWord3 _ v⟩
  · exact ⟨_, patternTestDone_found hx ht hgo fails, rfl, tested_res t fails⟩
  · exact congrArg (fun f => Host.Outcome.next (updTrain s (trnStack s) (trnPch s) f)) (funext fun t => writeHold_eq t v)
  · exact ⟨_, rfl, rfl, trainOf_updTrain _ _ _ _, rfl⟩

end Sys2Proof.Machine
end

section
/-! SUPPORT. The tables of crews and of core units, as the store path reads and writes them: a translation looks at no crew,
and a store drops lines of L1s alone (R147, R310). -/
namespace Sys2Proof.Machine

section
variable (s : State) (m : SMap Crew)

theorem readHome_crews (pa n : Nat) : readHome { s with crews := m } pa n = readHome s pa n := by
  simp only [readHome, settle_mem]
  rfl

theorem readEntry_crews (again : Bool) (pa : Nat) : readEntry { s with crews := m } again pa = readEntry s again pa := by
  simp only [readEntry, readHome_crews]
  rfl

/-- A walk reads the state through `readEntry` alone. Its body is rewritten as it stands: the kernel does not get through
the equations that `unfold` would use. -/
theorem walkFrom_crews (again : Bool) (d : Die) (ctx va t lvl : Nat) :
    walkFrom { s with crews := m } again d ctx va t lvl = walkFrom s again d ctx va t lvl := by
  delta walkFrom walkFrom._f
  simp only [readEntry_crews]

theorem walkOf_crews (d : Die) (ctx va root : Nat) (demand : Bool) :
    walkOf { s with crews := m } d ctx va root demand = walkOf s d ctx va root demand := by
  simp only [walkOf, walkFrom_crews]
  rfl

/-- R310, R312: what a translation without effects answers depends on no crew: its TLB entries and its walk do not. -/
theorem translate_crews (u : Option Nat) (d ctx va : Nat) (need : Need) :
    (translate { s with crews := m } u d ctx va need false).1 = (translate s u d ctx va need false).1 := by
  have hcore (k : Nat) : coreUnit { s with crews := m } k = coreUnit s k := rfl
  simp only [translate, walkOf_crews, hcore]
  cases s.ctxs.find ctx with
  | none => rfl
  | some c =>
    dsimp only
    generalize Option.filter _ _ = hit
    cases hit with
    | some e =>
      cases h : leafGrants c.priv e.leaf need with
      | true => simp only [h, if_true]; rfl
      | false => simp only [h, Bool.false_eq_true, if_false]
    | none =>
      generalize walkOf s _ ctx va c.root false = w
      obtain ⟨r, es⟩ := w
      cases r with
      | leaf lvl pa e =>
        cases h : leafGrants c.priv e need with
        | true =>
          simp only [h, Bool.not_true, Bool.false_eq_true, if_false]
          cases u <;> rfl
        | false => simp only [h, Bool.not_false, if_true]
      | notPresent lvl | violation lvl | stall pa => rfl

theorem peek_crews (u : Option Nat) (d ctx va : Nat) : peek { s with crews := m } u d ctx va = peek s u d ctx va := by
  simp only [peek, translate_crews]

end

/-- R147: a store drops lines of L1s, whatever the table of crews holds. -/
theorem dropL1_crews (s : State) (m : SMap Crew) (cr : Crew) (vas : List Nat) :
    ∃ cores, dropL1 s cr vas = { s with cores := cores }
      ∧ dropL1 { s with crews := m } cr vas = { s with crews := m, cores := cores } := by
  have hu : unitOf { s with crews := m } cr = unitOf s cr := rfl
  simp only [dropL1, hu]
  clear hu
  generalize unitOf s cr = u
  induction vas generalizing s with
  | nil => exact ⟨s.cores, rfl, rfl⟩
  | cons va vas ih =>
    simp only [List.foldl_cons, peek_crews]
    cases peek s (some u) (Config.dieOfUnit u) cr.ctx va with
    | none => exact ih s
    | some pa => exact ih (l1Drop s (l1Unit s cr pa) (lineOf pa))

end Sys2Proof.Machine
end

section
/-! SUPPORT. A fence of the executing split that is done, and its mark, which the end of the instruction takes away (R178,
R180). -/
namespace Sys2Proof.Machine

/-- R178: a split with its fence's mark set. -/
def Split.marked (n : Nat) (sp : Split) : Split := { sp with mark := some n }

@[simp] theorem Split.marked_id (n : Nat) (sp : Split) : (sp.marked n).id = sp.id := rfl

/-- The table of crews in which a fence of the executing split has set its mark. -/
def Env.markedCrews (e : Env) (m : SMap Crew) : SMap Crew :=
  m.change e.cid (fun cr => cr.updSplit e.sid (Split.marked (e.split.mark.getD e.s.nextId)))

/-- A state whose crews have the mark of the executing split's fence. -/
theorem updSplit_marked (e : Env) (m : SMap Crew) : updSplit { e.s with crews := m } e.cid e.sid
    (Split.marked (e.split.mark.getD e.s.nextId)) = { e.s with crews := e.markedCrews m } := rfl

/-- R180: a fence finds the accesses before its mark complete, its scope's time come, and the link's answer. -/
theorem fence_eq_done {e : Env} {t : State} {n : Nat} {sc : Scope} {src dst : BitVec 8}
    (hn : e.split.mark.getD e.s.nextId = n) (ht : updSplit e.s e.cid e.sid (Split.marked n) = t)
    (hinc : incomplete t e.crew n src = false) (hdt : sc = .crew ∨ twmaxOf e.crew src + 2 ≤ crewDT t e.crew)
    (hack : sc = .sys → src.getLsbD 7 = true → e.crew.hostAck = true) (hd : dst.getLsbD 5 = false) :
    e.fence sc src dst = .done t := by
  have hmark : updSplit e.s e.cid e.sid (fun sp => { sp with mark := some n }) = t := ht
  have htime : (!scopeIsCrew sc && decide (crewDT t e.crew < twmaxOf e.crew src + 2)) = false := by
    rcases hdt with rfl | hdt
    · rfl
    · exact Bool.and_eq_false_iff.mpr (.inr (decide_eq_false (Nat.not_lt.mpr hdt)))
  have hlink : (sc == .sys && src.getLsbD 7 && !e.crew.hostAck) = false := by
    refine Bool.eq_false_iff.mpr (fun hall => ?_)
    simp only [Bool.and_eq_true, beq_iff_eq, Bool.not_eq_true'] at hall
    obtain ⟨⟨hs, h7⟩, hno⟩ := hall
    exact Bool.false_ne_true (hno.symm.trans (hack hs h7))
  simp only [Env.fence, hn, hmark, hinc, htime, hlink, hd, Bool.false_eq_true, if_false]

/-- R178, R180: a fence that is done, and that drops no layouts, only sets its mark. -/
theorem fence_done {e : Env} {m : SMap Crew} {sc : Scope} {src dst : BitVec 8}
    (h : e.fenceDone { e.s with crews := m } sc src) (hd : dst.getLsbD 5 = false) (rm : SMap RegPlace) (lu : SMap Nat) :
    (e.withRows m rm lu).fence sc src dst = .done { e.s with crews := e.markedCrews m } := by
  obtain ⟨hinc, hdt, hack⟩ := h
  exact fence_eq_done rfl (updSplit_marked e m) hinc hdt hack hd

/-- R178: an instruction whose fence is done goes on as it does without one, in the table of crews that has its mark. -/
theorem fenced_done {e : Env} {m : SMap Crew} {sc : Scope} {src dst : BitVec 8}
    (h : e.fenceDone { e.s with crews := m } sc src) (hd : dst.getLsbD 5 = false) (rm : SMap RegPlace) (lu : SMap Nat)
    (k : Env → Eff) : (e.withRows m rm lu).fenced sc src dst k = k (e.withRows (e.markedCrews m) rm lu) := by
  simp only [Env.fenced, fence_done h hd]
  rfl

/-- The end of an instruction takes the mark of its split away. -/
theorem goesTracked_marked (e : Env) (on : Bool) (t : State) (n : Nat) :
    e.goesTracked on (updSplit t e.cid e.sid (Split.marked n)) id = e.goesTracked on t id := by
  have hu : updAcc (updSplit t e.cid e.sid (Split.marked n)) e.s.nextId (fun a => { a with rep := true })
      = updSplit (updAcc t e.s.nextId (fun a => { a with rep := true })) e.cid e.sid (Split.marked n) := rfl
  simp only [Env.goesTracked, Env.moves, hu, keepUndo_updSplit, updSplit_updSplit _ _ _ (Split.marked_id n), id_eq]
  rfl

end Sys2Proof.Machine
end

section
/-! SUPPORT. ST and SCATTER within their record enter the store queue (R174, R544, R554 to R556). -/
namespace Sys2Proof.Machine

section
variable (e : Env) (m : SMap Crew) (rm : SMap RegPlace) (lu : SMap Nat)

/-- A store's bytes do not depend on where registers lie. -/
theorem withRows_storeBytes (sz : Size) (n : Nat) (a : Src) (l : Nat) :
    storeBytes (e.withRows m rm lu).s (e.withRows m rm lu).crew (e.withRows m rm lu).split sz n a l
      = storeBytes e.s e.crew e.split sz n a l := by
  have hr := readSrc_rows e.s e.crew e.split .int (Size.operand sz) a l m rm lu
  unfold storeBytes
  split
  · rfl
  · exact congrArg (fun x => leBytes n x.toNat) hr

end

/-- R147: a store of a core drops its copies of some lines; other engines have none. -/
def Env.drops (e : Env) (b : State) (vas : List Nat) : State := if e.crew.engine = .core then dropL1 b e.crew vas else b

/-- A drop of copies changes core units alone, whatever the table of crews holds. -/
theorem drops_crews (e : Env) (b : State) (m : SMap Crew) (vas : List Nat) :
    ∃ cores, e.drops b vas = { b with cores := cores }
      ∧ e.drops { b with crews := m } vas = { b with crews := m, cores := cores } := by
  unfold Env.drops
  split
  · exact dropL1_crews b m e.crew vas
  · exact ⟨b.cores, rfl, rfl⟩

/-- R174: a store of some lanes has entered the crew's store queue: its core's copies of their lines are dropped, and its
access is in flight. -/
def Env.queues (e : Env) (b : State) (vas : List Nat) (k : AccKind) (r : BitVec 128) (qs : List LaneReq) : State :=
  updCrew (e.awaits (e.drops b vas) .none (e.access k 0 r qs 0)) e.cid
    (fun cr => { cr with storeQ := cr.storeQ ++ [b.nextId] })

theorem queues_ctxs (e : Env) (b : State) (vas : List Nat) (k : AccKind) (r : BitVec 128) (qs : List LaneReq) :
    (e.queues b vas k r qs).ctxs = b.ctxs := by
  obtain ⟨cores, h, -⟩ := drops_crews e b b.crews vas
  rw [Env.queues, h]
  rfl

theorem enqueueStore_queues (e : Env) (m : SMap Crew) (rm : SMap RegPlace) (lu : SMap Nat) (b : State) (k : AccKind)
    (r : BitVec 128) (qs : List LaneReq) :
    (e.withRows m rm lu).enqueueStore b k r qs = .next (e.queues b (qs.map (·.va)) k r qs) := by
  have hdrop : (if (e.withRows m rm lu).hasL1 then dropL1 b (e.withRows m rm lu).crew (qs.map (·.va)) else b)
      = e.drops b (qs.map (·.va)) := by
    simp only [Env.hasL1, beq_iff_eq]
    rfl
  have hid : (e.drops b (qs.map (·.va))).nextId = b.nextId := by
    obtain ⟨cores, h, -⟩ := drops_crews e b b.crews (qs.map (·.va))
    rw [h]
  simp only [Env.enqueueStore, hdrop, Env.queues, ← hid]
  rfl

/-- A fact of a crew that no change of a split touches is found as it was. -/
theorem find_updSplit_map {α : Type} (s : State) (c i k : Nat) (f : Split → Split) (g : Crew → α)
    (hg : ∀ cr, g (cr.updSplit i f) = g cr) : ((updSplit s c i f).crews.find k).map g = (s.crews.find k).map g := by
  by_cases h : k = c
  · subst h
    rw [updSplit_def, updCrew, SMap.find_change_self, Option.map_map]
    exact congrArg (fun q => (s.crews.find k).map q) (funext hg)
  · rw [updSplit_def, updCrew, SMap.find_change_ne _ _ h]

theorem ctxOf_updSplit (s : State) (c i k : Nat) (f : Split → Split) : ctxOf (updSplit s c i f) k = ctxOf s k :=
  congrArg (fun o => Option.getD o 0) (find_updSplit_map s c i k f (·.ctx) (fun _ => rfl))

theorem crewIdent_updSplit (s : State) (c i k : Nat) (f : Split → Split) :
    crewIdent (updSplit s c i f) k = crewIdent s k :=
  congrArg (fun o => Option.getD o ({} : Ident))
    (find_updSplit_map s c i k f (fun cr => cohortIdent s cr.cohort) (fun _ => rfl))

theorem emptyReg_updSplit (cr : Crew) (r acc i : Nat) (ls : List Nat) (f : Split → Split) :
    (cr.updSplit i f).emptyReg r acc ls = (cr.emptyReg r acc ls).updSplit i f := by
  induction ls generalizing cr with
  | nil => rfl
  | cons l ls ih => exact ih (cr.setCell r l (cr.emptied acc r l))

/-- What an access empties of a crew's registers is apart from its splits. -/
theorem emptyRegs_updSplit (cr : Crew) (acc i : Nat) (ls rs : List Nat) (f : Split → Split) :
    (cr.updSplit i f).emptyRegs acc ls rs = (cr.emptyRegs acc ls rs).updSplit i f := by
  induction rs generalizing cr with
  | nil => rfl
  | cons r rs ih => rw [Crew.emptyRegs, Crew.emptyRegs, emptyReg_updSplit, ih]

/-- An access is awaited the same whatever its split has become. -/
theorem awaits_updSplit (e : Env) (b : State) (d : DestUse) (a : Access) (f : Split → Split) :
    e.awaits (updSplit b e.cid e.sid f) d a = updSplit (e.awaits b d a) e.cid e.sid f := by
  simp only [Env.awaits, ctxOf_updSplit, crewIdent_updSplit]
  simp only [updSplit_def, updCrew, SMap.change_change, emptyRegs_updSplit]

/-- R174: a store enters the queue the same whatever its split has become. -/
theorem queues_updSplit (e : Env) (b : State) (vas : List Nat) (k : AccKind) (r : BitVec 128) (qs : List LaneReq)
    (f : Split → Split) :
    e.queues (updSplit b e.cid e.sid f) vas k r qs = updSplit (e.queues b vas k r qs) e.cid e.sid f := by
  have hdrop : e.drops (updSplit b e.cid e.sid f) vas = updSplit (e.drops b vas) e.cid e.sid f := by
    obtain ⟨cores, hb, hm⟩ := drops_crews e b (updSplit b e.cid e.sid f).crews vas
    rw [hb]
    exact hm
  simp only [Env.queues, hdrop, awaits_updSplit, updSplit_nextId]
  simp only [updSplit_def, updCrew_updCrew]
  rfl

theorem settle_withRows (e : Env) (m m' : SMap Crew) (rm : SMap RegPlace) (lu : SMap Nat) (s : State) (f : Eff) :
    (e.withRows m rm lu).settle s f = (e.withRows m' rm lu).settle s f := by
  cases f <;> rfl

/-- R134, R136: the swizzled address of a lane of a format M access. -/
def Env.memAddr (e : Env) (x : MemRef) (l : Nat) : Nat :=
  recAddr (e.recBits x.br) (e.offset (e.recBits x.br) x.a (memDisp x.sz x.off) l).toNat

/-- R554: the lanes of a store, with their addresses and their bytes. -/
def Env.storeLanes (e : Env) (x : MemRef) (data : Src) : List LaneReq :=
  e.lanes.map (fun l =>
    { lane := l, va := e.memAddr x l, data := storeBytes e.s e.crew e.split x.sz x.sz.bytes data l })

theorem storeLanes_va (e : Env) (x : MemRef) (data : Src) :
    (e.storeLanes x data).map (·.va) = e.lanes.map (e.memAddr x) := by
  simp only [Env.storeLanes, List.map_map, Function.comp_def]

theorem memLanes_storeLanes (e : Env) (m : SMap Crew) (rm : SMap RegPlace) (lu : SMap Nat) (x : MemRef) (data : Src) :
    (e.withRows m rm lu).memLanes x (storeBytes (e.withRows m rm lu).s (e.withRows m rm lu).crew (e.withRows m rm lu).split
      x.sz x.sz.bytes data) = e.storeLanes x data := by
  simp only [Env.memLanes, withRows_memOffsets, withRows_recBits, withRows_storeBytes]
  simp only [Env.memOffsets, List.map_map, Function.comp_def, Env.storeLanes, Env.memAddr]

/-- What ST or SCATTER does once its fence is done. -/
def Env.queueLanes (e : Env) (x : MemRef) (data : Src) (scatter : Bool) (e' : Env) : Eff :=
  e'.tracked (recRep (e.recBits x.br))
    (e'.enqueueStore e'.s (.store x.sz.bytes scatter) (e.recBits x.br) (e.storeLanes x data))

/-- R174, R544, R555: a store that passes its checks and finds room waits for its fence, and enters the queue. -/
theorem stores_reach (e : Env) (m : SMap Crew) (rm : SMap RegPlace) (lu : SMap Nat) {x : MemRef} (data : Src)
    (rel : Option Scope) (scatter : Bool) (ha : e.active) (hroom : e.crew.storeQ.length < 32)
    (hr : e.reaches (e.recBits x.br) { w := true } x.sz.bytes x.sz.bytes
      (e.offset (e.recBits x.br) x.a (memDisp x.sz x.off))) :
    (e.withRows m rm lu).stores x data rel scatter = rel.elim (e.queueLanes x data scatter (e.withRows m rm lu))
      (fun sc => (e.withRows m rm lu).fenced sc allPaths 1 (e.queueLanes x data scatter)) := by
  have hne : e.lanes.isEmpty = false := by simpa [Env.active] using ha
  have hq : ¬ storeQueueSize ≤ (e.withRows m rm lu).crew.storeQ.length := Nat.not_le.mpr hroom
  simp only [Env.stores, withRows_memCheck, memCheck_reaches rfl hr, withRows_lanes, hne, Bool.false_eq_true, if_false,
    withRows_recBits, memLanes_storeLanes, Env.queueing, hq]
  cases rel <;> rfl

/-- A store in the queue goes on as `goesTracked` says, over the rows given to its crew. -/
theorem settle_queueLanes (e : Env) (m : SMap Crew) (rm : SMap RegPlace) (lu : SMap Nat) (x : MemRef) (data : Src)
    (scatter : Bool) : (e.withRows m rm lu).settle e.s (e.queueLanes x data scatter (e.withRows m rm lu))
      = e.goesTracked (recRep (e.recBits x.br))
          (e.queues { e.s with crews := m } (e.lanes.map (e.memAddr x)) (.store x.sz.bytes scatter) (e.recBits x.br)
            (e.storeLanes x data)) id := by
  rw [Env.queueLanes, enqueueStore_queues, storeLanes_va]
  exact settle_tracked e m rm lu _ (queues_ctxs e _ _ _ _ _)

/-- R174, R544, R554 to R556: ST and SCATTER whose offsets pass the checks enter the store queue once their fence is done. -/
theorem stores_queue {i : Instr} (x : MemRef) (data : Src) (rel : Option Scope) (scatter : Bool)
    (hi : ∀ s, exec i s = issue s i (fun e => e.stores x data rel scatter)) :
    Does i (fun e b => (e.active ∧ e.crew.storeQ.length < 32 ∧ e.reaches (e.recBits x.br) { w := true } x.sz.bytes x.sz.bytes
          (e.offset (e.recBits x.br) x.a (memDisp x.sz x.off))) ∧ ∀ sc, rel = some sc → e.fenceDone b sc 0xFF)
      (fun e b => e.goesTracked (recRep (e.recBits x.br))
        (e.queues b (e.lanes.map (e.memAddr x)) (.store x.sz.bytes scatter) (e.recBits x.br) (e.storeLanes x data)) id) := by
  refine does_of_rows _ hi (fun e m rm lu ⟨⟨ha, hroom, hr⟩, hf⟩ => ?_)
  rw [stores_reach e m rm lu data rel scatter ha hroom hr]
  cases rel with
  | none => exact settle_queueLanes e m rm lu x data scatter
  | some sc =>
    rw [Option.elim_some, fenced_done (src := allPaths) (hf sc rfl) rfl, settle_withRows e m (e.markedCrews m),
      settle_queueLanes, ← updSplit_marked, queues_updSplit, goesTracked_marked]

end Sys2Proof.Machine
end

section
/-! SUPPORT. STS and LDS on the tile store of the cohort (R141, R497, R498, R558). -/
namespace Sys2Proof.Machine

section
variable (e : Env) (m : SMap Crew) (rm : SMap RegPlace) (lu : SMap Nat)

@[simp] theorem withRows_tileOffset (x : SpadRef) (l : Nat) : (e.withRows m rm lu).tileOffset x l = e.tileOffset x l := by
  simp only [Env.tileOffset, withRows_int32]

@[simp] theorem withRows_tileAddr (x : SpadRef) (l : Nat) : (e.withRows m rm lu).tileAddr x l = e.tileAddr x l := by
  simp only [Env.tileAddr, withRows_tileOffset]

@[simp] theorem withRows_tileCheck (x : SpadRef) : (e.withRows m rm lu).tileCheck x = e.tileCheck x := by
  have halloc : (e.withRows m rm lu).alloc = e.alloc := rfl
  have hos : (e.withRows m rm lu).lanes.map ((e.withRows m rm lu).tileOffset x) = e.lanes.map (e.tileOffset x) :=
    List.map_congr_left (fun l _ => withRows_tileOffset e m rm lu x l)
  simp only [Env.tileCheck, halloc, hos]

/-- R73: an instruction whose results are known where it issues awaits them. -/
theorem due_awaits (d : DestUse) (k : AccKind) (res : List (Nat × BitVec 128)) (fl : Flags) (ha : e.active) :
    (e.withRows m rm lu).due d k true res fl none = .next (e.awaits { e.s with crews := m } d (e.known k res fl)) := by
  have hne : e.lanes.isEmpty = false := by simpa [Env.active] using ha
  simp only [Env.due, withRows_lanes, hne, Bool.false_eq_true, if_false]
  rfl

end

/-- R141: the lanes of LDS or STS lie within the cohort's allocation, aligned. -/
def Env.tileReaches (e : Env) (x : SpadRef) : Prop := ∃ c, e.s.cohorts.find e.crew.cohort = some c
  ∧ ∀ l ∈ e.lanes, 0 ≤ e.tileOffset x l ∧ e.tileOffset x l + x.sz.bytes ≤ c.alloc ∧ e.tileAddr x l % x.sz.bytes = 0

theorem tileCheck_reaches {e : Env} {x : SpadRef} (h : e.tileReaches x) : e.tileCheck x = none := by
  obtain ⟨c, hc, hl⟩ := h
  have halloc : e.alloc = c.alloc := by simp only [Env.alloc, Env.cohort, hc, Option.map_some, Option.getD_some]
  have hin : (e.lanes.map (e.tileOffset x)).find? (fun o => decide (o < 0) || decide ((e.alloc : Int) < o + x.sz.bytes))
      = none := by
    refine List.find?_eq_none.mpr (List.forall_mem_map.mpr fun l hmem => ?_)
    obtain ⟨h0, h1, -⟩ := hl l hmem
    simp only [Bool.or_eq_true, decide_eq_true_eq, halloc]
    omega
  have hal : (e.lanes.map (e.tileOffset x)).find? (fun o => swz o.toNat x.xs.toNat % x.sz.bytes != 0) = none :=
    List.find?_eq_none.mpr (List.forall_mem_map.mpr fun l hmem => by
      rw [bne_iff_ne, not_not]
      exact (hl l hmem).2.2)
  simp only [Env.tileCheck, hin, hal]

/-- R558: STS writes its lanes' bytes at once, lanes ascending. -/
theorem sts_writes (g : Guard) (x : SpadRef) (data : Src) :
    Does (.sts g x data) (fun e _ => e.tileReaches x)
      (fun e b => e.goesOn (updCohort b e.crew.cohort (fun c =>
        { c with tile := e.lanes.foldl (fun mem l => Memory.setN mem (e.tileAddr x l)
            (storeBytes e.s e.crew e.split x.sz x.sz.bytes data l)) c.tile }))) := by
  refine does_of_rows _ (fun _ => rfl) (fun e m rm lu h => ?_)
  simp only [withRows_tileCheck, tileCheck_reaches h, withRows_tileAddr, withRows_storeBytes]
  rfl

/-- R497, R498: LDS answers the bytes that stand in the tile store where it issues. -/
theorem lds_reads (g : Guard) (d : Dest) (x : SpadRef) :
    Does (.lds g d x) (fun e _ => e.tileReaches x ∧ e.active)
      (fun e b => e.goesOn (e.awaits b (.l d x.sz.operand) (e.known (.load x.sz false) (e.lanes.map (fun l =>
        (l, loadValue x.sz (Memory.getN ((e.cohort.map (·.tile)).getD []) (e.tileAddr x l) x.sz.bytes)))) 0))) := by
  refine does_of_rows _ (fun _ => rfl) (fun e m rm lu ⟨h, ha⟩ => ?_)
  have htile : (e.withRows m rm lu).cohort = e.cohort := rfl
  simp only [withRows_tileCheck, tileCheck_reaches h, withRows_tileAddr, htile, withRows_lanes,
    due_awaits e m rm lu _ _ _ _ ha]
  rfl

/-- Settles O27: each instruction in turn. -/
theorem stores : Obligations.Stores := by
  intro g d m x data rel
  exact ⟨stores_queue m data rel false (fun _ => rfl),
    fun s cid sid cr sp off hr hok => stores_queue m data none true (fun _ => rfl) s cid sid cr sp off hr ⟨hok, nofun⟩,
    sts_writes g x data, lds_reads g d x⟩

end Sys2Proof.Machine
end

section
/-! SUPPORT. LLOCK and LUNLOCK: the byte that their leading lane names, the request that is sent, and the lock that is
released (R183, R206 to R209, R499 to R504). -/
namespace Sys2Proof.Machine

/-- R134, R135, R499, R503: a lane is active, and the leading lane's byte passes the checks of its record, which
grants S. -/
def Env.namesLock (e : Env) (br : BitVec 4) (disp : Int) (a : Src) : Prop :=
  e.active ∧ recMalformed (e.recBits br) = false ∧ recS (e.recBits br) = true
    ∧ 0 ≤ e.leadOffset br disp a ∧ e.leadOffset br disp a + 1 ≤ recSpan (e.recBits br)

/-- R134, R136: the address of the leading lane's byte. -/
def Env.lockAddr (e : Env) (br : BitVec 4) (disp : Int) (a : Src) : Nat :=
  recAddr (e.recBits br) (e.leadOffset br disp a).toNat

/-- R207, R504: the crew holds the line of an address. -/
def Env.holdsLine (e : Env) (va : Nat) : Prop := ∃ h ∈ e.crew.locks, h.vline = va / 128

/-- R207: the waiter table of an address's line has room, where the address translates. -/
def Env.lockRoom (e : Env) (b : State) (va : Nat) : Prop :=
  ∀ pa, peek b (some (unitOf b e.crew)) (Config.dieOfUnit (unitOf b e.crew)) e.crew.ctx va = some pa →
    waiterRoom b e.crew.ctx pa = true

/-- R206: the lanes of an LLOCK, which all name one byte. -/
def Env.lockLanes (e : Env) (va : Nat) : List LaneReq := e.lanes.map (fun l => { lane := l, va := va })

/-- R206: the request of an LLOCK. -/
def Env.lockAccess (e : Env) (limit : W32) (r : BitVec 128) (va : Nat) : Access :=
  { e.access (.lock limit.toNat) 3 r (e.lockLanes va) 0 with lines := syncLines (e.lockLanes va) }

/-- R207: the access of an LLOCK that answers HELD at once. -/
def Env.heldAccess (e : Env) (limit : W32) (r : BitVec 128) (va : Nat) : Access :=
  { e.lockAccess limit r va with ready := true, xlated := true, lines := [], result := e.lanes.map (fun l => (l, 3)) }

/-- R45, R206: an LLOCK posts its access, and its split waits for the status. -/
def Env.parksLock (e : Env) (d : Dest) (x : Access) : Eff :=
  .park (.waitLock (e.post e.s (.l d .w32) (fun id => { x with id := id })).2)
    (e.post e.s (.l d .w32) (fun id => { x with id := id })).1

/-- R45, R206: the state once an LLOCK's split waits for the status; what the destination was is kept for a trap that the
request may meet. -/
def Env.awaitsLock (e : Env) (b : State) (d : Dest) (x : Access) : State :=
  e.moves (keepUndo e.s (e.awaits b (.l d .w32) x) e.cid) e.after (fun sp => { sp with state := .waitLock b.nextId })

/-- What LLOCK and LUNLOCK share: nothing without an active lane, and the checks of the leading lane's byte. -/
def Env.lockChecked (e : Env) (br : BitVec 4) (disp : Int) (a : Src) (k : Nat → Eff) : Eff :=
  if e.lanes.isEmpty then .next e.s
  else
    match checkLanes (e.recBits br) br.toNat { s := true } 1 1 [e.leadOffset br disp a] with
    | some t => .trap t
    | none => k (e.lockAddr br disp a)

/-- R206, R207: what an LLOCK of an address answers once its access checks pass. -/
def Env.requestsLock (e : Env) (d : Dest) (limit : W32) (r : BitVec 128) (va : Nat) : Eff :=
  if e.crew.locks.any (fun h => h.vline == va / 128) then e.parksLock d (e.heldAccess limit r va)
  else if 4 ≤ e.crew.locks.length + lockRequests e.s e.cid then .trap (reportVA 0x12 va)
  else if noGrantLeft e.s e.crew.ctx (va / 128) then
    .trap { code := 0x0E, addr := BitVec.ofNat 64 (((e.s.ctxs.find e.crew.ctx).map (·.trCount)).getD 0) }
  else if (match peek e.s (some (unitOf e.s e.crew)) (Config.dieOfUnit (unitOf e.s e.crew)) e.crew.ctx va with
    | some pa => !waiterRoom e.s e.crew.ctx pa
    | none => false) then .trap (reportVA 0x14 va)
  else e.parksLock d (e.lockAccess limit r va)

/-- R183, R209: what an LUNLOCK does of a held lock once its fence is done. -/
def Env.unlocksLine (e : Env) (h : HeldLock) : Eff :=
  if isClosed e.s (h.pline * 128) then .hold (.waitOperand (.region (h.pline * 128))) e.s
  else .next (releaseLock e.s e.cid h.pline)

/-- R183, R209: what an LUNLOCK of an address answers once its access checks pass. -/
def Env.unlocks (e : Env) (va : Nat) : Eff :=
  match e.crew.locks.find? (fun h => h.vline == va / 128) with
  | none => .trap { code := 0x03 }
  | some h => e.fenced .pkg allPaths 8 (fun e => e.unlocksLine h)

theorem heldAccess_result (e : Env) (limit : W32) (r : BitVec 128) (va : Nat) :
    e.heldAccess limit r va = { e.lockAccess limit r va with
      ready := true, xlated := true, lines := [], result := (e.lockLanes va).map (fun q => (q.lane, 3)) } := by
  simp only [Env.heldAccess, Env.lockLanes, List.map_map, Function.comp_def]

theorem exec_llock (g : Guard) (d : Dest) (br : BitVec 4) (off : BitVec 11) (limit : W32) (a : Src) (s : State) :
    exec (.llock g d br off limit a) s = issue s (.llock g d br off limit a)
      (fun e => e.lockChecked br off.toInt a (fun va => e.requestsLock d limit (e.recBits br) va)) := by
  simp only [Env.requestsLock, heldAccess_result]
  rfl

theorem exec_lunlock (g : Guard) (br : BitVec 4) (off : BitVec 10) (a : Src) (s : State) :
    exec (.lunlock g br off a) s
      = issue s (.lunlock g br off a) (fun e => e.lockChecked br off.toInt a e.unlocks) := rfl

section
variable {e : Env} {br : BitVec 4} {disp : Int} {a : Src} {d : Dest} {limit : W32} {r : BitVec 128} {va : Nat}

theorem lockChecked_names (h : e.namesLock br disp a) (k : Nat → Eff) :
    e.lockChecked br disp a k = k (e.lockAddr br disp a) := by
  obtain ⟨ha, hm, hs, h0, h1⟩ := h
  have hne : e.lanes.isEmpty = false := by simpa [Env.active] using ha
  have hcheck : checkLanes (e.recBits br) br.toNat { s := true } 1 1 [e.leadOffset br disp a] = none :=
    checkLanes_passes hm (by simp [recGrants, hs]) (List.forall_mem_singleton.mpr ⟨h0, h1, Nat.mod_one _⟩)
  simp only [Env.lockChecked, hne, hcheck, Bool.false_eq_true, if_false]

theorem holdsLine_iff : e.crew.locks.any (fun h => h.vline == va / 128) = true ↔ e.holdsLine va := by
  simp only [List.any_eq_true, beq_iff_eq, Env.holdsLine]

theorem requestsLock_held (h : e.holdsLine va) :
    e.requestsLock d limit r va = e.parksLock d (e.heldAccess limit r va) :=
  if_pos (holdsLine_iff.mpr h)

theorem requestsLock_full (h : ¬ e.holdsLine va) (hfour : 4 ≤ e.crew.locks.length + lockRequests e.s e.cid) :
    e.requestsLock d limit r va = .trap (reportVA 0x12 va) :=
  (if_neg (mt holdsLine_iff.mp h)).trans (if_pos hfour)

theorem requestsLock_sends (h : ¬ e.holdsLine va) (hfew : e.crew.locks.length + lockRequests e.s e.cid < 4)
    (htrace : noGrantLeft e.s e.crew.ctx (va / 128) = false) (hroom : e.lockRoom e.s va) :
    e.requestsLock d limit r va = e.parksLock d (e.lockAccess limit r va) := by
  refine (if_neg (mt holdsLine_iff.mp h)).trans ((if_neg (Nat.not_le.mpr hfew)).trans
    ((if_neg (Bool.eq_false_iff.mp htrace)).trans (if_neg ?_)))
  cases hpeek : peek e.s (some (unitOf e.s e.crew)) (Config.dieOfUnit (unitOf e.s e.crew)) e.crew.ctx va with
  | none => exact Bool.false_ne_true
  | some pa => simp [hroom pa hpeek]

theorem unlocks_found {h : HeldLock} (hfind : e.crew.locks.find? (fun x => x.vline == va / 128) = some h) :
    e.unlocks va = e.fenced .pkg allPaths 8 (fun e => e.unlocksLine h) := by
  simp only [Env.unlocks, hfind]

theorem unlocksLine_open {h : HeldLock} (hopen : isClosed e.s (h.pline * 128) = false) :
    e.unlocksLine h = .next (releaseLock e.s e.cid h.pline) :=
  if_neg (Bool.eq_false_iff.mp hopen)

theorem unlocks_stray (h : ¬ e.holdsLine va) : e.unlocks va = .trap { code := 0x03 } := by
  have hnone : e.crew.locks.find? (fun x => x.vline == va / 128) = none :=
    List.find?_eq_none.mpr (fun x hx hl => h ⟨x, hx, beq_iff_eq.mp hl⟩)
  simp only [Env.unlocks, hnone]

end

/-- R363: the trace of a context's dispatch is read from memory, whatever the table of crews holds. -/
theorem noGrantLeft_crews (s : State) (m : SMap Crew) (ctx vline : Nat) :
    noGrantLeft { s with crews := m } ctx vline = noGrantLeft s ctx vline := by
  simp only [noGrantLeft, traceHead, traceRec, readPhys, readHome_crews]
  rfl

section
variable (e : Env) (m : SMap Crew) (rm : SMap RegPlace) (lu : SMap Nat)

@[simp] theorem withRows_leadOffset (br : BitVec 4) (disp : Int) (a : Src) :
    (e.withRows m rm lu).leadOffset br disp a = e.leadOffset br disp a := by
  simp only [Env.leadOffset, withRows_recBits, withRows_offset, withRows_lead]

@[simp] theorem withRows_lockAddr (br : BitVec 4) (disp : Int) (a : Src) :
    (e.withRows m rm lu).lockAddr br disp a = e.lockAddr br disp a := by
  simp only [Env.lockAddr, withRows_recBits, withRows_leadOffset]

/-- The checks of a lock instruction pass over the rows given to its crew where they pass before. -/
theorem withRows_lockChecked {br : BitVec 4} {disp : Int} {a : Src} (h : e.namesLock br disp a) (k : Nat → Eff) :
    (e.withRows m rm lu).lockChecked br disp a k = k (e.lockAddr br disp a) := by
  have h' : (e.withRows m rm lu).namesLock br disp a := by
    rw [Env.namesLock, withRows_recBits, withRows_leadOffset]
    exact h
  rw [lockChecked_names h', withRows_lockAddr]

/-- R206: an LLOCK that posts its access waits for the access's status. -/
theorem settle_parksLock (d : Dest) (x : Access) (hcrew : x.crew = e.cid) :
    (e.withRows m rm lu).settle e.s ((e.withRows m rm lu).parksLock d x) = e.awaitsLock { e.s with crews := m } d x := by
  rw [Env.parksLock, withRows_s, post_awaits e m rm lu (fun _ => DestUse.noConfusion) (fun _ => rfl) hcrew]
  rfl

end

section
variable (g : Guard) (d : Dest) (br : BitVec 4) (limit : W32) (a : Src)

/-- R206: an LLOCK against which nothing stands sends its request. -/
theorem llock_sends (off : BitVec 11) :
    let va (e : Env) : Nat := e.lockAddr br off.toInt a
    Does (.llock g d br off limit a)
      (fun e b => e.namesLock br off.toInt a ∧ ¬ e.holdsLine (va e) ∧ e.crew.locks.length + lockRequests e.s e.cid < 4
        ∧ noGrantLeft e.s e.crew.ctx (va e / 128) = false ∧ e.lockRoom b (va e))
      (fun e b => e.awaitsLock b d (e.lockAccess limit (e.recBits br) (va e))) := by
  refine does_of_rows _ (exec_llock g d br off limit a) (fun e m rm lu ⟨hok, hfree, hfew, htrace, hroom⟩ => ?_)
  rw [withRows_lockChecked e m rm lu hok, requestsLock_sends (e := e.withRows m rm lu) hfree hfew
    ((noGrantLeft_crews e.s m _ _).trans htrace) hroom]
  exact settle_parksLock e m rm lu d _ rfl

/-- R207: an LLOCK of a line that its crew holds answers HELD at once. -/
theorem llock_holds (off : BitVec 11) :
    let va (e : Env) : Nat := e.lockAddr br off.toInt a
    Does (.llock g d br off limit a) (fun e _ => e.namesLock br off.toInt a ∧ e.holdsLine (va e))
      (fun e b => e.awaitsLock b d (e.heldAccess limit (e.recBits br) (va e))) := by
  refine does_of_rows _ (exec_llock g d br off limit a) (fun e m rm lu ⟨hok, hheld⟩ => ?_)
  rw [withRows_lockChecked e m rm lu hok, requestsLock_held (e := e.withRows m rm lu) hheld]
  exact settle_parksLock e m rm lu d _ rfl

/-- R207: an LLOCK beyond the four that a crew may hold or request traps. -/
theorem llock_fifth (off : BitVec 11) :
    let va (e : Env) : Nat := e.lockAddr br off.toInt a
    Does (.llock g d br off limit a)
      (fun e _ => e.namesLock br off.toInt a ∧ ¬ e.holdsLine (va e) ∧ 4 ≤ e.crew.locks.length + lockRequests e.s e.cid)
      (fun e _ => e.traps (reportVA 0x12 (va e))) := by
  refine does_of_rows _ (exec_llock g d br off limit a) (fun e m rm lu ⟨hok, hfree, hfour⟩ => ?_)
  rw [withRows_lockChecked e m rm lu hok, requestsLock_full (e := e.withRows m rm lu) hfree hfour, settle_trap]

/-- R183, R209: an LUNLOCK whose fence is done releases the lock of its line. -/
theorem lunlock_releases (off : BitVec 10) (hl : HeldLock) :
    Does (.lunlock g br off a)
      (fun e b => e.namesLock br off.toInt a
        ∧ e.crew.locks.find? (fun h => h.vline == e.lockAddr br off.toInt a / 128) = some hl
        ∧ e.fenceDone b .pkg allPaths ∧ isClosed b (hl.pline * 128) = false)
      (fun e b => e.goesOn (releaseLock (updSplit b e.cid e.sid (Split.marked (e.split.mark.getD b.nextId))) e.cid
        hl.pline)) := by
  refine does_of_rows _ (exec_lunlock g br off a) (fun e m rm lu ⟨hok, hfind, hfence, hopen⟩ => ?_)
  have hfind' : (e.withRows m rm lu).crew.locks.find? (fun h => h.vline == e.lockAddr br off.toInt a / 128) = some hl :=
    hfind
  have hopen' : isClosed (e.withRows (e.markedCrews m) rm lu).s (hl.pline * 128) = false := hopen
  rw [withRows_lockChecked e m rm lu hok, unlocks_found hfind', fenced_done hfence (dst := 8) rfl, unlocksLine_open hopen']
  rfl

/-- R504: an LUNLOCK of a line that its crew does not hold traps. -/
theorem lunlock_stray (off : BitVec 10) :
    Does (.lunlock g br off a)
      (fun e _ => e.namesLock br off.toInt a ∧ ¬ e.holdsLine (e.lockAddr br off.toInt a))
      (fun e _ => e.traps { code := 0x03 }) := by
  refine does_of_rows _ (exec_lunlock g br off a) (fun e m rm lu ⟨hok, hfree⟩ => ?_)
  rw [withRows_lockChecked e m rm lu hok, unlocks_stray (e := e.withRows m rm lu) hfree, settle_trap]

end

/-- Settles O33: each form in turn. -/
theorem locks : Obligations.Locks := by
  intro g d br off off10 limit a hl
  exact ⟨llock_sends g d br limit a off, llock_holds g d br limit a off, llock_fifth g d br limit a off,
    lunlock_releases g br a off10 hl, lunlock_stray g br a off10⟩

end Sys2Proof.Machine
end

section
/-! SUPPORT. The commands of a matrix stream, which its control crew enters in the stream's queue (R221, R505 to R516,
R521). -/
namespace Sys2Proof.Machine

section
variable (e : Env) (m : SMap Crew) (rm : SMap RegPlace) (lu : SMap Nat)

@[simp] theorem withRows_num (a : Src) : (e.withRows m rm lu).num a = e.num a :=
  congrArg BitVec.toNat (withRows_int32 e m rm lu a e.lead)

@[simp] theorem withRows_wide (a : Src) : (e.withRows m rm lu).wide a = e.wide a :=
  readSrc_rows e.s e.crew e.split .int .w64 a e.lead m rm lu

@[simp] theorem withRows_stream : (e.withRows m rm lu).stream = e.stream := rfl

end

/-- R219: the executing crew's cohort `ch` has the stream `st`, in the slot `slot` of its cluster. -/
def Env.onStream (e : Env) (ch : Cohort) (slot : Nat) (st : Stream) : Prop :=
  e.s.cohorts.find e.crew.cohort = some ch ∧ ch.slot = some slot ∧ e.s.streams.find (ch.core / 4 * 8 + slot) = some st

theorem stream_of_onStream {e : Env} {ch : Cohort} {slot : Nat} {st : Stream} (h : e.onStream ch slot st) :
    e.stream = some (ch.core / 4 * 8 + slot, st) := by
  obtain ⟨hch, hslot, hst⟩ := h
  simp only [Env.stream, hch, streamKey, hslot, Option.map_some, Option.bind_some, hst]

theorem lanes_nonempty {e : Env} (h : e.active) : e.lanes.isEmpty = false := by
  simpa [Env.active] using h

theorem guarded_active {e : Env} (h : e.active) (k : Eff) : e.guarded k = k := by
  simp only [Env.guarded, lanes_nonempty h, Bool.false_eq_true, if_false]

/-- R221, R505: a command has joined the end of a stream's queue. -/
def joinQueue (b : State) (key : Nat) (c : MCmd) : State :=
  { b with
    nextId := b.nextId + 1
    streams := b.streams.change key (fun x => { x with
      cmds := x.cmds ++ [{ seq := x.lastSeq + 1, cmd := c, id := b.nextId }]
      lastSeq := x.lastSeq + 1
      last := !c.isDrain
      run := if x.run = .idle then .active else x.run }) }

/-- R505: an active lane, and room in the queue of the crew's stream. -/
def Env.commandRoom (e : Env) (ch : Cohort) (slot : Nat) (st : Stream) : Prop :=
  e.active ∧ e.s.cohorts.find e.crew.cohort = some ch ∧ ch.slot = some slot
    ∧ e.s.streams.find (ch.core / 4 * 8 + slot) = some st ∧ st.cmds.length < 16

theorem command_joins {e : Env} {k : Nat} {st : Stream} (hs : e.stream = some (k, st)) (hroom : st.cmds.length < 16)
    (c : MCmd) : e.command c = .next (joinQueue e.s k c) := by
  simp only [Env.command, hs, Nat.not_le.mpr hroom, if_false, beq_iff_eq]
  rfl

section
variable {i : Instr} {cond : Env → Prop} {k : Env → Eff}

/-- R221, R505: an instruction whose effect is a command, where its stream's queue has room, joins the queue and goes on. -/
theorem does_join {ch : Cohort} {slot : Nat} {st : Stream} {c : Env → MCmd}
    (hi : ∀ s, exec i s = issue s i (fun e => e.guarded (k e)))
    (hroom : ∀ e, cond e → e.commandRoom ch slot st)
    (hk : ∀ e m rm lu, cond e → k (e.withRows m rm lu) = (e.withRows m rm lu).command (c e)) :
    Does i (fun e _ => cond e) (fun e b => e.goesOn (joinQueue b (ch.core / 4 * 8 + slot) (c e))) := by
  refine does_of_rows _ hi (fun e m rm lu hc => ?_)
  obtain ⟨ha, hch, hslot, hst, hlen⟩ := hroom e hc
  have hs : (e.withRows m rm lu).stream = some (ch.core / 4 * 8 + slot, st) := stream_of_onStream ⟨hch, hslot, hst⟩
  rw [guarded_active (e := e.withRows m rm lu) ha, hk e m rm lu hc, command_joins hs hlen]
  rfl

/-- R100, R505: an instruction whose effect is a trap takes it where a lane is active. -/
theorem does_trap {r : Env → Report} (hi : ∀ s, exec i s = issue s i (fun e => e.guarded (k e)))
    (hk : ∀ e m rm lu, cond e → k (e.withRows m rm lu) = .trap (r e)) :
    Does i (fun e _ => e.active ∧ cond e) (fun e _ => e.traps (r e)) := by
  refine does_of_rows _ hi (fun e m rm lu ⟨ha, hc⟩ => ?_)
  rw [guarded_active (e := e.withRows m rm lu) ha, hk e m rm lu hc, settle_trap]

end

section
variable (g : Guard) (a x y : Src) (ha hb : BitVec 12) (km1 : BitVec 20) (lastA lastB off : Bool) (rnd : Rnd) (epi : Epi)
  (merge clr notile keyed : Bool) (ch : Cohort) (slot : Nat) (st : Stream)

/-- R512. -/
theorem mma_joins : Does (.mma g a x y ha hb km1 lastA lastB) (fun e _ => e.commandRoom ch slot st)
    (fun e b => e.goesOn (joinQueue b (ch.core / 4 * 8 + slot)
      (.mma (e.num a) (e.num x) (e.num y) ha.toNat hb.toNat (km1.toNat + 1) lastA lastB false))) :=
  does_join (fun _ => rfl) (fun _ => id) (fun e m rm lu _ => by simp only [withRows_num])

/-- R512. -/
theorem mmas_joins : Does (.mmas g a x y ha hb km1 lastA lastB)
    (fun e _ => e.commandRoom ch slot st ∧ e.num y % 64 = 0)
    (fun e b => e.goesOn (joinQueue b (ch.core / 4 * 8 + slot)
      (.mma (e.num a) (e.num x) (e.num y) ha.toNat hb.toNat (km1.toNat + 1) lastA lastB true))) :=
  does_join (fun _ => rfl) (fun _ => And.left) (fun e m rm lu ⟨_, hk0⟩ => by
    simp only [withRows_num, hk0, ne_eq, not_true_eq_false, if_false])

/-- R512: the K range of MMAS begins at a multiple of 64. -/
theorem mmas_illegal : Does (.mmas g a x y ha hb km1 lastA lastB) (fun e _ => e.active ∧ e.num y % 64 ≠ 0)
    (fun e _ => e.traps { code := 0x03 }) :=
  does_trap (fun _ => rfl) (fun e m rm lu hk0 => by simp only [withRows_num]; exact if_pos hk0)

/-- R510: MGRP refuses a count of groups outside 1 to 64. -/
theorem groups_bad_iff (n : Nat) : (decide (n < 1) || decide (64 < n)) = true ↔ n < 1 ∨ 64 < n := by
  simp only [Bool.or_eq_true, decide_eq_true_eq]

theorem groups_good {n : Nat} (h1 : 1 ≤ n) (h64 : n ≤ 64) : ¬ (decide (n < 1) || decide (64 < n)) = true :=
  mt (groups_bad_iff n).mp (by omega)

/-- R510. -/
theorem mgrp_joins : Does (.mgrp g a x y ha km1 lastA)
    (fun e _ => e.commandRoom ch slot st ∧ 1 ≤ e.num y ∧ e.num y ≤ 64 ∧ (e.wide a).toNat % 16 = 0)
    (fun e b => e.goesOn (joinQueue b (ch.core / 4 * 8 + slot)
      (.mgrp (e.wide a).toNat (e.num x) (e.num y) ha.toNat (km1.toNat + 1) lastA))) :=
  does_join (fun _ => rfl) (fun _ => And.left) (fun e m rm lu ⟨_, h1, h64, h16⟩ => by
    simp only [withRows_num, withRows_wide]
    rw [if_neg (groups_good h1 h64), if_neg (not_not.mpr h16)])

/-- R510: an MGRP has from 1 to 64 groups. -/
theorem mgrp_illegal : Does (.mgrp g a x y ha km1 lastA) (fun e _ => e.active ∧ (e.num y < 1 ∨ 64 < e.num y))
    (fun e _ => e.traps { code := 0x03 }) :=
  does_trap (fun _ => rfl) (fun e m rm lu hbad => by
    simp only [withRows_num]
    exact if_pos ((groups_bad_iff _).mpr hbad))

/-- R510: a group table begins at a multiple of 16 bytes. -/
theorem mgrp_misaligned : Does (.mgrp g a x y ha km1 lastA)
    (fun e _ => e.active ∧ 1 ≤ e.num y ∧ e.num y ≤ 64 ∧ (e.wide a).toNat % 16 ≠ 0)
    (fun e _ => e.traps { code := 0x07, addr := e.wide a }) :=
  does_trap (fun _ => rfl) (fun e m rm lu ⟨h1, h64, h16⟩ => by
    simp only [withRows_num, withRows_wide]
    rw [if_neg (groups_good h1 h64), if_pos h16])

/-- R521. -/
theorem mzero_joins : Does (.mzero g) (fun e _ => e.commandRoom ch slot st)
    (fun e b => e.goesOn (joinQueue b (ch.core / 4 * 8 + slot) .mzero)) :=
  does_join (fun _ => rfl) (fun _ => id) (fun _ _ _ _ _ => rfl)

/-- R506: statistics records lie at multiples of 8 bytes, where a drain writes any. -/
theorem stats_bad_iff (epi : Epi) (n : Nat) : (epi != .none && n % 8 != 0) = true ↔ epi ≠ .none ∧ n % 8 ≠ 0 := by
  simp only [Bool.and_eq_true, bne_iff_ne]

/-- R506. -/
theorem mdrain_joins : Does (.mdrain g a x y rnd epi merge clr notile keyed ha)
    (fun e _ => e.commandRoom ch slot st ∧ (epi ≠ .none → (e.wide a).toNat % 8 = 0))
    (fun e b => e.goesOn (joinQueue b (ch.core / 4 * 8 + slot)
      (.mdrain (e.wide a).toNat (e.wide x) (lo32 (e.wide y)) (hi32 (e.wide y)) rnd epi merge clr notile keyed ha.toNat))) :=
  does_join (fun _ => rfl) (fun _ => And.left) (fun e m rm lu ⟨_, h8⟩ => by
    simp only [withRows_wide]
    exact if_neg (mt (stats_bad_iff epi _).mp (fun ⟨hepi, hbad⟩ => hbad (h8 hepi))))

/-- R506. -/
theorem mdrain_misaligned : Does (.mdrain g a x y rnd epi merge clr notile keyed ha)
    (fun e _ => e.active ∧ epi ≠ .none ∧ (e.wide a).toNat % 8 ≠ 0)
    (fun e _ => e.traps { code := 0x07, addr := e.wide a }) :=
  does_trap (fun _ => rfl) (fun e m rm lu hbad => by
    simp only [withRows_wide]
    exact if_pos ((stats_bad_iff epi _).mpr hbad))

/-- R516: a mask parameter block lies at a multiple of 64 bytes, where MMASK reads one. -/
theorem block_bad_iff (off : Bool) (n : Nat) : (!off && n % 64 != 0) = true ↔ off = false ∧ n % 64 ≠ 0 := by
  simp only [Bool.and_eq_true, Bool.not_eq_true', bne_iff_ne]

/-- R516. -/
theorem mmask_joins : Does (.mmask g a off)
    (fun e _ => e.commandRoom ch slot st ∧ (off = false → (e.wide a).toNat % 64 = 0))
    (fun e b => e.goesOn (joinQueue b (ch.core / 4 * 8 + slot) (.mmask (e.wide a).toNat off))) :=
  does_join (fun _ => rfl) (fun _ => And.left) (fun e m rm lu ⟨_, h64⟩ => by
    simp only [withRows_wide]
    exact if_neg (mt (block_bad_iff off _).mp (fun ⟨hon, hbad⟩ => hbad (h64 hon))))

/-- R516. -/
theorem mmask_misaligned : Does (.mmask g a off)
    (fun e _ => e.active ∧ off = false ∧ (e.wide a).toNat % 64 ≠ 0)
    (fun e _ => e.traps { code := 0x07, addr := e.wide a }) :=
  does_trap (fun _ => rfl) (fun e m rm lu hbad => by
    simp only [withRows_wide]
    exact if_pos ((block_bad_iff off _).mpr hbad))

end

/-- Settles O34: each command in turn, with what its checks refuse. -/
theorem matrixCommands : Obligations.MatrixCommands := by
  intro g a x y ha hb km1 lastA lastB off rnd epi merge clr notile keyed ch slot st
  exact ⟨mma_joins g a x y ha hb km1 lastA lastB ch slot st, mmas_joins g a x y ha hb km1 lastA lastB ch slot st,
    mmas_illegal g a x y ha hb km1 lastA lastB, mgrp_joins g a x y ha km1 lastA ch slot st,
    mgrp_illegal g a x y ha km1 lastA, mgrp_misaligned g a x y ha km1 lastA, mzero_joins g ch slot st,
    mdrain_joins g a x y ha rnd epi merge clr notile keyed ch slot st,
    mdrain_misaligned g a x y ha rnd epi merge clr notile keyed, mmask_joins g a off ch slot st, mmask_misaligned g a off⟩

end Sys2Proof.Machine
end

section
/-! SUPPORT. The instructions that wait for a stream's queue and for its tiles (R233 to R235, R366, R519, R520, R559 to
R562). -/
namespace Sys2Proof.Machine

/-- The state after an instruction of class L that has waited itself has written a named register. -/
def Env.writes (e : Env) (d : BitVec 6) (v : W32) (b : State) : State :=
  e.goesOn (updCrew b e.cid (fun cr => cr.writeReg d.toNat (e.lanes.map (fun l => (l, v)))))

/-- The state in which an entry of the reservation table of a stream's cluster is free again. -/
def vacateEntry (b : State) (key i : Nat) : State := setResv b key (fun m => m.del i)

theorem settle_fill (e : Env) (m : SMap Crew) (rm : SMap RegPlace) (lu : SMap Nat) (d : BitVec 6) (v : W32) (t : State) :
    (e.withRows m rm lu).settle e.s ((e.withRows m rm lu).fill t (.named d) v) = e.writes d v t := rfl

/-- R235, R366: the entry of a drained tile is freed, its largest Tw is acknowledged, and its task retires. -/
theorem waitDrain_ready {e : Env} {k h : Nat} {r : Resv} {ch : Cohort} (hr : (e.resv k).find (k % 8 * 4 + 3) = some r)
    (hh : r.handle = h) (hready : r.second = true) (hch : e.s.cohorts.find e.crew.cohort = some ch) (d : Dest) :
    e.waitDrain k h d = e.fill (retireTask (ackTw (vacateEntry e.s k (k % 8 * 4 + 3)) e.cid 2 r.tw) e.cid k ch) d
      (BitVec.ofNat 32 (0x100 + r.gen)) := by
  have hcohort : (ackTw (vacateEntry e.s k (k % 8 * 4 + 3)) e.cid 2 r.tw).cohorts.find e.crew.cohort = some ch := hch
  have hentry : (r.handle != h || !r.second) = false := by simp [hh, hready]
  rw [vacateEntry] at hcohort ⊢
  simp only [Env.waitDrain, hr, hentry, Bool.false_eq_true, if_false, hcohort]

/-- R234, R561: the entry of a consumed tile is freed for the stream's cohort. -/
theorem waitPost_consumed {e : Env} {k h i : Nat} {r : Resv} (hr : postEntry e.s k h = some (i, r))
    (hready : r.second = true) (d : Dest) :
    e.waitPost k h d = e.fill (wakeCohort (vacateEntry e.s k i) e.crew.cohort) d (BitVec.ofNat 32 r.gen) := by
  simp only [Env.waitPost, hr, hready, Bool.not_true, Bool.false_eq_true, if_false, vacateEntry]

theorem waitPost_unposted {e : Env} {k h : Nat} (hr : postEntry e.s k h = none) (d : Dest) :
    e.waitPost k h d = e.fill e.s d 0xFFFFFFFF := by
  simp only [Env.waitPost, hr]

/-- R233: the state after a tile has been posted in the entry `i` of its stream's cluster. -/
def postedTile (b : State) (key h gen i : Nat) (tile : Mem) : State :=
  updCluster (updStream b key (fun x => { x with gens := x.gens.put h gen })) (key / 8) (fun c => { c with
    resv := c.resv.put i { drain := false, second := false, gen := gen, handle := h }
    opTiles := (key % 8, h, gen, tile) :: c.opTiles.filter (fun t => !(t.1 == key % 8 && t.2.1 == h)) })

/-- R233: a post has the next generation of its handle's and the tile of its cohort. -/
theorem postTile_found {s : State} {key cohort : Nat} {st : Stream} {ch : Cohort} (hst : s.streams.find key = some st)
    (hch : s.cohorts.find cohort = some ch) (h i : Nat) :
    postTile s key cohort h i = postedTile s key h ((SMap.getD st.gens h 0 + 1) % 256) i ch.tile := by
  simp only [postTile, hst, hch, Option.map_some, Option.getD_some, postedTile]

section
variable (g : Guard) (d : BitVec 6) (h : BitVec 12) (ch : Cohort) (slot i : Nat) (st : Stream) (r : Resv)

/-- R519, R520: MWAIT of an empty queue. -/
theorem mwait_answers : Does (.mwait g (.named d))
    (fun e _ => (e.active ∧ e.onStream ch slot st) ∧ st.stop = none ∧ st.cmds = [])
    (fun e b => e.writes d st.doneSeq b) := by
  refine does_of_rows _ (fun _ => rfl) (fun e m rm lu ⟨⟨ha, hon⟩, hstop, hcmds⟩ => ?_)
  rw [guarded_active (e := e.withRows m rm lu) ha]
  simp only [withRows_stream, stream_of_onStream hon, hstop, hcmds, List.isEmpty_nil, if_true]
  exact settle_fill e m rm lu d _ _

/-- R233, R559: TILEPOST with an entry free. -/
theorem tilepost_posts : Does (.tilepost g h)
    (fun e _ => (e.active ∧ e.onStream ch slot st) ∧ postSlot e.s (ch.core / 4 * 8 + slot) h.toNat = some i)
    (fun e b => e.goesOn (postedTile b (ch.core / 4 * 8 + slot) h.toNat ((SMap.getD st.gens h.toNat 0 + 1) % 256) i
      ch.tile)) := by
  refine does_of_rows _ (fun _ => rfl) (fun e m rm lu ⟨⟨ha, hon⟩, hslot⟩ => ?_)
  have hslot' : postSlot (e.withRows m rm lu).s (ch.core / 4 * 8 + slot) h.toNat = some i := hslot
  obtain ⟨hch, -, hst⟩ := id hon
  have hpost : postTile (e.withRows m rm lu).s _ e.crew.cohort h.toNat i = _ :=
    postTile_found (s := (e.withRows m rm lu).s) hst hch h.toNat i
  simp only [withRows_stream, stream_of_onStream hon, lanes_nonempty (e := e.withRows m rm lu) ha, Bool.false_eq_true,
    if_false, hslot', withRows_cohort, hpost]
  rfl

/-- R559: a cohort without a stream has no tile to post. -/
theorem tilepost_streamless : Does (.tilepost g h) (fun e _ => e.stream = none) (fun e _ => e.traps { code := 0x03 }) := by
  refine does_of_rows _ (fun _ => rfl) (fun e m rm lu hs => ?_)
  simp only [withRows_stream, hs, settle_trap]

/-- R560: TILEWAIT in a cohort with a stream waits on the entry that it names. -/
theorem does_tilewait {drain : Bool} {cond : Env → Prop} {t : Env → State → State}
    (hon : ∀ e, cond e → e.active ∧ e.onStream ch slot st)
    (ht : ∀ e m rm lu, cond e → (e.withRows m rm lu).settle e.s
      (if drain then (e.withRows m rm lu).waitDrain (ch.core / 4 * 8 + slot) h.toNat (.named d)
        else (e.withRows m rm lu).waitPost (ch.core / 4 * 8 + slot) h.toNat (.named d)) = t e { e.s with crews := m }) :
    Does (.tilewait g (.named d) h drain) (fun e _ => cond e) t := by
  refine does_of_rows _ (fun _ => rfl) (fun e m rm lu hc => ?_)
  obtain ⟨ha, hst⟩ := hon e hc
  simp only [withRows_stream, stream_of_onStream hst, lanes_nonempty (e := e.withRows m rm lu) ha, Bool.false_eq_true,
    if_false]
  exact ht e m rm lu hc

/-- R561: TILEWAIT on a handle that is not posted. -/
theorem tilewait_unposted : Does (.tilewait g (.named d) h false)
    (fun e _ => (e.active ∧ e.onStream ch slot st) ∧ postEntry e.s (ch.core / 4 * 8 + slot) h.toNat = none)
    (fun e b => e.writes d 0xFFFFFFFF b) :=
  does_tilewait g d h ch slot st (fun _ => And.left) (fun e m rm lu ⟨_, hnone⟩ => by
    have hnone' : postEntry (e.withRows m rm lu).s (ch.core / 4 * 8 + slot) h.toNat = none := hnone
    rw [if_neg Bool.false_ne_true, waitPost_unposted hnone']
    exact settle_fill e m rm lu d _ _)

/-- R234, R561: TILEWAIT on a consumed tile. -/
theorem tilewait_consumed : Does (.tilewait g (.named d) h false)
    (fun e _ => (e.active ∧ e.onStream ch slot st)
      ∧ postEntry e.s (ch.core / 4 * 8 + slot) h.toNat = some (i, r) ∧ r.second = true)
    (fun e b => e.writes d (BitVec.ofNat 32 r.gen)
      (wakeCohort (vacateEntry b (ch.core / 4 * 8 + slot) i) e.crew.cohort)) :=
  does_tilewait g d h ch slot st (fun _ => And.left) (fun e m rm lu ⟨_, hentry, hready⟩ => by
    have hentry' : postEntry (e.withRows m rm lu).s (ch.core / 4 * 8 + slot) h.toNat = some (i, r) := hentry
    rw [if_neg Bool.false_ne_true, waitPost_consumed hentry' hready]
    exact settle_fill e m rm lu d _ _)

/-- R235, R366, R561: TILEWAIT on a drained tile. -/
theorem tilewait_drained : let key := ch.core / 4 * 8 + slot
    Does (.tilewait g (.named d) h true)
      (fun e _ => (e.active ∧ e.onStream ch slot st)
        ∧ (e.resv key).find (key % 8 * 4 + 3) = some r ∧ r.handle = h.toNat ∧ r.second = true)
      (fun e b => e.writes d (BitVec.ofNat 32 (0x100 + r.gen))
        (retireTask (ackTw (vacateEntry b key (key % 8 * 4 + 3)) e.cid 2 r.tw) e.cid key ch)) :=
  does_tilewait g d h ch slot st (fun _ => And.left) (fun e m rm lu ⟨⟨_, hch, _, _⟩, hentry, hhandle, hready⟩ => by
    rw [if_pos rfl, waitDrain_ready (e := e.withRows m rm lu) hentry hhandle hready hch]
    exact settle_fill e m rm lu d _ _)

end

/-- Settles O35: each form in turn. -/
theorem tileHandshake : Obligations.TileHandshake := by
  intro g d h ch slot i st r
  exact ⟨mwait_answers g d ch slot st, tilepost_posts g h ch slot i st, tilewait_unposted g d h ch slot st,
    tilewait_consumed g d h ch slot i st r, tilewait_drained g d h ch slot st r, tilepost_streamless g h⟩

end Sys2Proof.Machine
end

section
/-! SUPPORT. Passes of a cluster's streams (R229, R237, R244). -/
namespace Sys2Proof.Machine

/-- R237: whether a stream's pass is granted. -/
def isGranted (s : State) (key : Nat) : Bool := ((s.streams.find key).map (·.granted)).getD false

/-- The streams of a cluster. -/
def clusterKeys (cl : Nat) : List Nat := (List.range 8).map (cl * 8 + ·)

/-- R237, R238: the state of a pass boundary, in which requests are noted and the scouts have read. -/
def passBoundary (s : State) (cl : Nat) : State := (clusterKeys cl).foldl scout (noteRequests s (clusterKeys cl))

/-- R237: a stream whose pass is granted; `dt` is the time of the grant. -/
def Stream.grant (dt : Nat) (st : Stream) : Stream :=
  { st with granted := true, inPass := true, request := none, prioUp := 0
            marks := { st.marks with pfg := if st.marks.pfg.isSome then st.marks.pfg else some dt
                                     passes := st.marks.passes + 1 } }

theorem exec_passComplete (cl : Nat) (s : State) : exec (.passComplete cl) s =
    match (clusterKeys cl).find? (isGranted s) with
    | none => .next s
    | some k => .next (endIdleStream (runPass s k) k) := rfl

section
variable {s : State} {cl k t : Nat} {st : Stream}

/-- R237: the boundary's state is named, so that what its reads answer is not looked into. -/
theorem passGrant_grants {b : State} (hb : passBoundary s cl = b) (hfree : (clusterKeys cl).any (isGranted b) = false)
    (hbest : bestRequest b cl = some k) : exec (.passGrant cl) s = .next (updStream b k (Stream.grant b.dt)) := by
  show execPassGrant cl s = _
  rw [passBoundary, clusterKeys] at hb
  simp only [execPassGrant, hb, hbest]
  exact if_neg (Bool.eq_false_iff.mp hfree)

theorem passComplete_runs (hk : (clusterKeys cl).find? (isGranted s) = some k) :
    exec (.passComplete cl) s = .next (endIdleStream (runPass s k) k) := by
  simp only [exec_passComplete, hk]

theorem matrixPriorityAge_rises (hst : s.streams.find k = some st) (hreq : st.request = some t)
    (hold : t + 4096 * (st.prioUp + 1) ≤ clusterClk s (k / 8))
    (hlow : ((s.cohorts.find st.cohort).map (·.prio)).getD 0 + st.prioUp < 3) :
    exec (.matrixPriorityAge k) s = .next (updStream s k (fun st => { st with prioUp := st.prioUp + 1 })) := by
  show execMatrixPriorityAge k s = _
  simp only [execMatrixPriorityAge, hst, hreq, hold, hlow, decide_true, Bool.and_self, if_true]

/-- R244: the cohort of a stream whose page fault has stood for too long is to be killed. -/
theorem matrixFaultLimit_eq (hst : s.streams.find k = some st) : exec (.matrixFaultLimit k) s
    = .next (if st.run = .faulted ∧ st.doom = false ∧ 2 ^ 20 < ticksSince s st.faultDT then doomStream s k else s) := by
  show execMatrixFaultLimit k s = _
  simp only [execMatrixFaultLimit, hst, Bool.and_eq_true, beq_iff_eq, Bool.not_eq_true', decide_eq_true_eq, and_assoc]
  exact (apply_ite _ _ _ _).symm

end

end Sys2Proof.Machine
end

section
/-! SUPPORT. The other commands at the head of a stream's queue (R221, R222, R235, R507, R516, R521). -/
namespace Sys2Proof.Machine

section
variable {s : State} {k tw : Nat} {g : Eng} {st : Stream} {c : MQueued} {d : Drain}

theorem mzeroPerform_clears (hhead : headCommand s k = some (g, st, c)) (hcmd : c.cmd = .mzero) :
    exec (.mzeroPerform k) s = .next (endCommand (updStream s k (fun st => { st with tile := [] })) k) := by
  show execMzeroPerform k s = _
  simp only [execMzeroPerform, hhead, hcmd]

theorem mmaskPerform_off {a : Nat} (hhead : headCommand s k = some (g, st, c)) (hcmd : c.cmd = .mmask a true) :
    exec (.mmaskPerform k) s
      = .next (endCommand (updStream s k (fun st => { st with mask := { st.mask with mode := 0 } })) k) := by
  show execMmaskPerform k s = _
  simp only [execMmaskPerform, hhead, hcmd]

/-- R235: whether the drain entry of a stream of cluster `cl` is in use. -/
def drainTaken (s : State) (cl k : Nat) : Bool := ((SMap.getD s.clusters cl {}).resv.find (k % 8 * 4 + 3)).isSome

/-- R235, R366: the state in which a drain has its entry. -/
def drainBegun (s : State) (k : Nat) (st : Stream) (seq : W32) (hd : Nat) : State :=
  if st.inDrain then s else takeDrainEntry (noteProgress s k 0 0 seq) k hd

section
variable (hhead : headCommand s k = some (g, st, c)) (hdrain : drainOf c.cmd = some d) (hopen : st.drainTw = none)
  (hloads : loadsReturned s ((controlOf s g.cohort).getD 0) c.id = true)
include hhead hdrain hopen hloads

/-- R235: a drain that has not begun waits while its stream's drain entry is in use. -/
theorem mdrainPerform_waits (hnew : st.inDrain = false) (htaken : drainTaken s g.cl k = true) :
    exec (.mdrainPerform k) s = .next s := by
  show execMdrainPerform k s = _
  rw [drainTaken] at htaken
  simp only [execMdrainPerform, hhead, hdrain, hopen, hloads, hnew, htaken, Option.isSome_none, Bool.not_true, Bool.not_false,
    Bool.or_self, Bool.and_self, Bool.false_eq_true, if_false, if_true]

/-- R507: a drain without a tile needs no record of one. -/
theorem mdrainPerform_notile (hno : d.notile = true) (hfree : st.inDrain = true ∨ drainTaken s g.cl k = false) :
    exec (.mdrainPerform k) s = .next { drainFrom g d 0 129 (updStream (drainBegun s k st c.seq d.hd) k
        (fun st => { st with started := true })) with fresh := (drainBegun s k st c.seq d.hd).fresh + 65536 } := by
  show execMdrainPerform k s = _
  have hentry : (!st.inDrain && drainTaken s g.cl k) = false := by rcases hfree with h | h <;> simp [h]
  rw [drainTaken] at hentry
  simp only [execMdrainPerform, hhead, hdrain, hopen, hloads, hno, hentry, Option.isSome_none, Bool.not_true, Bool.or_self,
    Bool.false_eq_true, if_false, if_true]
  rfl

end

/-- R235: the drain entry of a stream is READY, and its task's copy-out is over. -/
def drainReady (s : State) (cl k tw : Nat) : State :=
  updStream (updCluster s cl (fun c =>
      { c with resv := c.resv.change (k % 8 * 4 + 3) (fun e => { e with second := true, tw := tw }) })) k (fun st =>
    { st with pend := changeAt st.pend (st.pend.length - 1) (fun m => { m with coc := some s.dt }) })

theorem drainComplete_readies (hhead : headCommand s k = some (g, st, c)) (htw : st.drainTw = some tw) :
    exec (.drainComplete k) s = .next (endIdleStream (endCommand (match controlOf s g.cohort with
      | some j => ackTw (drainReady s g.cl k tw) j 2 tw
      | none => drainReady s g.cl k tw) k) k) := by
  show execDrainComplete k s = _
  simp only [execDrainComplete, hhead, htw]
  rfl

/-- R221, R222: a stream whose command at the head of its queue is done, and whose other commands are `qs`. -/
def Stream.nextCommand (done : W32) (qs : List MQueued) (st : Stream) : Stream :=
  { st with cmds := qs, doneSeq := done, started := false, recA := 0, groups := [], granted := false, request := none
            prioUp := 0, prog := {}, inPass := false, inDrain := false, seen := []
            run := if qs = [] then .idle else .active, drainTw := none, drainMax := 0 }

/-- R221, R222: a command that is complete leaves its stream ready for the next, and wakes its cohort. -/
theorem endCommand_found {q : MQueued} {qs : List MQueued} (hst : s.streams.find k = some st) (hcmds : st.cmds = q :: qs) :
    endCommand s k = wakeCohort (updStream s k (Stream.nextCommand q.seq qs)) st.cohort := by
  simp only [endCommand, hst, hcmds, List.isEmpty_iff]
  rfl

theorem wakeCohort_crewless {j : Nat} (h : crewsOf s j = []) : wakeCohort s j = s := by
  simp only [wakeCohort, h, List.map_nil, List.foldl_nil]

end

/-- Settles O51: each event in turn. -/
theorem matrixEvents : Obligations.MatrixEvents := by
  intro s cl k tw t g st c
  refine ⟨passGrant_grants rfl, passComplete_runs, matrixPriorityAge_rises, fun hst hrun hdoom hlong => ?_, fun hst hnot => ?_,
    mzeroPerform_clears, fun a => mmaskPerform_off, fun d hhead hdrain hopen hloads =>
      ⟨mdrainPerform_waits hhead hdrain hopen hloads, mdrainPerform_notile hhead hdrain hopen hloads⟩,
    drainComplete_readies, fun ch q qs hst hcmds _ hnone => ?_⟩
  · rw [matrixFaultLimit_eq hst, if_pos ⟨hrun, hdoom, hlong⟩]
  · have hwaits : ¬ (st.run = .faulted ∧ st.doom = false ∧ 2 ^ 20 < ticksSince s st.faultDT) := by
      rintro ⟨hrun, hdoom, hlong⟩
      rcases hnot with h | h | h
      · exact h hrun
      · exact Bool.false_ne_true (hdoom.symm.trans h)
      · exact Nat.not_lt.mpr h hlong
    rw [matrixFaultLimit_eq hst, if_neg hwaits]
  · rw [endCommand_found hst hcmds]
    exact wakeCohort_crewless (s := updStream s k (Stream.nextCommand q.seq qs)) hnone

end Sys2Proof.Machine
end

section
/-! SUPPORT. The commands that crews send to sampling wells (R247, R248, R568 to R579): what a queued command leaves, and
what stops one at issue. -/
namespace Sys2Proof.Machine

/-- R247: the well that an operand names is one of the package's, and belongs to the crew's context. -/
def Env.ownsWell (e : Env) (a : Src) : Prop := e.num a ≤ 511 ∧ (wellOf e.s (e.num a)).owner = some e.crew.ctx

/-- R247, R248: a lane is active, and the well that an operand names is the crew's context's and has room in its queue. -/
def Env.wellRoom (e : Env) (a : Src) : Prop :=
  (e.active ∧ e.ownsWell a) ∧ (wellOf e.s (e.num a)).queue.length < 8

/-- R571, R573, R576: the operand of each active lane lies below a limit. -/
def Env.indexesBelow (e : Env) (a : Src) (lim : Nat) : Prop := ∀ l ∈ e.lanes, (e.int32 a l).toNat < lim

/-- R570: the trap of a well that the package does not have, or of an operand out of range. -/
def Env.trapsStray (e : Env) : State := e.traps { code := 0x03 }

/-- R247, R570: the trap of a well that belongs to another context. -/
def Env.trapsForeign (e : Env) (w : Nat) : State := e.traps { code := 0x09, addr := BitVec.ofNat 64 w }

/-- R248: the counter that a well command names. -/
def namedCounter (cnt : WellCount) : Option Nat := if cnt.ce then some cnt.kc.toNat else none

theorem filter_namedCounter (cnt : WellCount) :
    ((some cnt).filter (·.ce)).map (fun c => c.kc.toNat) = namedCounter cnt := by
  rw [namedCounter, Option.filter_some]
  split <;> rfl

/-- R248: a counter has one more command outstanding. -/
def Crew.countsOn (kc : Option Nat) (cr : Crew) : Crew :=
  match kc with
  | some k => { cr with pendCnt := changeAt cr.pendCnt k (· + 1) }
  | none => cr

/-- R248: a command of the executing split has joined the end of a well's queue. -/
def Env.inQueue (e : Env) (b : State) (w : Nat) (kc : Option Nat) (body : WellBody) : State :=
  updWell { b with nextId := b.nextId + 1 } w (fun x =>
    { x with queue := x.queue ++
      [{ id := b.nextId, crew := e.cid, lanes := e.split.mask, kc := kc, body := body, core := unitOf e.s e.crew
         who := crewIdent b e.cid
         node := ((b.cohorts.find e.crew.cohort).map (fun c => (c.queue, c.cseq))).getD (0, 0) }] })

/-- R248: a command has joined a well's queue, its counter has one more to count, and its split goes on. -/
def Env.joinsWell (e : Env) (b : State) (w : Nat) (kc : Option Nat) (body : WellBody) : State :=
  e.goesOn (updCrew (e.inQueue b w kc body) e.cid (Crew.countsOn kc))

theorem goesOn_updCrew_self (e : Env) (b : State) : e.goesOn (updCrew b e.cid (fun cr => cr)) = e.goesOn b := by
  simp only [Env.goesOn, Env.moves, updSplit_def, updCrew_updCrew]

section
variable (e : Env) (m : SMap Crew) (rm : SMap RegPlace) (lu : SMap Nat)

@[simp] theorem withRows_nums (a : Src) : (e.withRows m rm lu).nums a = e.nums a := by
  simp only [Env.nums, withRows_lanes, withRows_int32]

@[simp] theorem withRows_key (key : Src) (imm : Option W64) : (e.withRows m rm lu).key key imm = e.key key imm := by
  simp only [Env.key, withRows_wide]

@[simp] theorem withRows_wellSource (tile : Bool) (br : BitVec 4) (xs : BitVec 3) (off n al : Nat) :
    (e.withRows m rm lu).wellSource tile br xs off n al = e.wellSource tile br xs off n al := rfl

@[simp] theorem withRows_source (tile : Bool) (br : BitVec 4) (xs : BitVec 3) (off : Nat) :
    (e.withRows m rm lu).source tile br xs off = e.source tile br xs off := rfl

/-- R248: a command for a well whose queue has room joins it. -/
theorem settle_wellQueue {t : State} {w : Nat} (cnt : Option WellCount) (body : WellBody)
    (hcohorts : t.cohorts = e.s.cohorts) (hroom : (wellOf t w).queue.length < 8) :
    (e.withRows m rm lu).settle e.s ((e.withRows m rm lu).wellQueue t w cnt body)
      = e.joinsWell t w ((cnt.filter (·.ce)).map (fun c => c.kc.toNat)) body := by
  have hunit : unitOf t (e.withRows m rm lu).crew = unitOf e.s e.crew :=
    unitOf_of_cohorts hcohorts e.crew
  simp only [Env.wellQueue, Nat.not_le.mpr hroom, if_false, hunit]
  cases (cnt.filter (·.ce)).map (fun c => c.kc.toNat) with
  | some k => rfl
  | none => exact (goesOn_updCrew_self e _).symm

/-- R73: results known where an instruction issues are awaited over what else the instruction has changed. -/
theorem settle_due {t : State} (ht : crewDT t e.crew = crewDT e.s e.crew) (ha : e.active) (d : DestUse) (k : AccKind)
    (res : List (Nat × BitVec 128)) (fl : Flags) :
    (e.withRows m rm lu).settle e.s (({ e.withRows m rm lu with s := t } : Env).due d k true res fl none)
      = e.goesOn (e.awaits t d (e.known k res fl)) := by
  have hknown : ({ e with s := t } : Env).known k res fl = e.known k res fl := by simp only [Env.known, ht]
  have hdue : ({ e.withRows m rm lu with s := t } : Env).due d k true res fl none = .next (e.awaits t d _) :=
    due_awaits { e with s := t } t.crews rm lu d k res fl ha
  rw [hdue, hknown]
  rfl

end

theorem wells_active {e : Env} (ha : e.active) (w : Src) (k : Nat → Eff) : e.wells w k = k (e.num w) := by
  simp only [Env.wells, lanes_nonempty ha, Bool.false_eq_true, if_false]

theorem onWell_stray {e : Env} {w : Nat} (h : 511 < w) (bad : Bool) (k : Eff) : e.onWell w bad k = .trap { code := 0x03 } := by
  simp only [Env.onWell, h, decide_true, Bool.true_or, if_true]

theorem onWell_foreign {e : Env} {w : Nat} (h : w ≤ 511) (ho : (wellOf e.s w).owner ≠ some e.crew.ctx) (k : Eff) :
    e.onWell w false k = .trap { code := 0x09, addr := BitVec.ofNat 64 w } := by
  simp only [Env.onWell, Nat.not_lt.mpr h, decide_false, Bool.or_self, Bool.false_eq_true, if_false, ho, ne_eq,
    not_false_eq_true, if_true]

theorem onWell_owned {e : Env} {w : Nat} {bad : Bool} (h : w ≤ 511) (ho : (wellOf e.s w).owner = some e.crew.ctx)
    (hbad : bad = false) (k : Eff) : e.onWell w bad k = k := by
  simp only [Env.onWell, Nat.not_lt.mpr h, decide_false, hbad, Bool.or_self, Bool.false_eq_true, if_false, ho, ne_eq,
    not_true_eq_false]

section
variable {i : Instr} {a : Src} {cond : Env → Prop}

/-- R570: what an instruction on a well does, where its well is the crew's context's and its operands are in range. -/
theorem does_onWell {bad : Env → Bool} {k : Env → Nat → Eff} {t : Env → State → State}
    (hi : ∀ s, exec i s = issue s i (fun e => e.wells a (fun w => e.onWell w (bad e) (k e w))))
    (howns : ∀ e, cond e → e.active ∧ e.ownsWell a) (hbad : ∀ e m rm lu, cond e → bad (e.withRows m rm lu) = false)
    (hk : ∀ e m rm lu, cond e →
      (e.withRows m rm lu).settle e.s (k (e.withRows m rm lu) (e.num a)) = t e { e.s with crews := m }) :
    Does i (fun e _ => cond e) t := by
  refine does_of_rows _ hi (fun e m rm lu hc => ?_)
  obtain ⟨ha, hle, ho⟩ := howns e hc
  rw [wells_active (e := e.withRows m rm lu) ha, withRows_num,
    onWell_owned (e := e.withRows m rm lu) hle ho (hbad e m rm lu hc), hk e m rm lu hc]

/-- R248: a command whose well has room, and whose operands are in range, joins the well's queue. -/
theorem does_joinWell {bad : Env → Bool} {k : Env → Nat → Eff} {cnt : WellCount} {body : Env → WellBody}
    (hi : ∀ s, exec i s = issue s i (fun e => e.wells a (fun w => e.onWell w (bad e) (k e w))))
    (hroom : ∀ e, cond e → e.wellRoom a) (hbad : ∀ e m rm lu, cond e → bad (e.withRows m rm lu) = false)
    (hk : ∀ e m rm lu, cond e → k (e.withRows m rm lu) (e.num a)
      = (e.withRows m rm lu).wellQueue { e.s with crews := m } (e.num a) (some cnt) (body e)) :
    Does i (fun e _ => cond e) (fun e b => e.joinsWell b (e.num a) (namedCounter cnt) (body e)) :=
  does_onWell hi (fun e hc => (hroom e hc).1) hbad (fun e m rm lu hc => by
    rw [hk e m rm lu hc, ← filter_namedCounter]
    exact settle_wellQueue e m rm lu (some cnt) (body e) rfl (hroom e hc).2)

/-- R570: a well above 511. -/
theorem does_stray {bad : Env → Bool} {k : Env → Nat → Eff}
    (hi : ∀ s, exec i s = issue s i (fun e => e.wells a (fun w => e.onWell w (bad e) (k e w)))) :
    Does i (fun e _ => e.active ∧ 511 < e.num a) (fun e _ => e.trapsStray) := by
  refine does_of_rows _ hi (fun e m rm lu ⟨ha, hgt⟩ => ?_)
  rw [wells_active (e := e.withRows m rm lu) ha, withRows_num, onWell_stray hgt, settle_trap, Env.trapsStray]

/-- R247, R570: a well of another context, for an instruction whose other operands have no range to keep. -/
theorem does_foreign {k : Env → Nat → Eff}
    (hi : ∀ s, exec i s = issue s i (fun e => e.wells a (fun w => e.onWell w false (k e w)))) :
    Does i (fun e _ => e.active ∧ e.num a ≤ 511 ∧ (wellOf e.s (e.num a)).owner ≠ some e.crew.ctx)
      (fun e _ => e.trapsForeign (e.num a)) := by
  refine does_of_rows _ hi (fun e m rm lu ⟨ha, hle, hne⟩ => ?_)
  rw [wells_active (e := e.withRows m rm lu) ha, withRows_num, onWell_foreign (e := e.withRows m rm lu) hle hne,
    settle_trap, Env.trapsForeign]

end

/-- The operands of the active lanes that lie below a limit are in range. -/
theorem nums_inRange {e : Env} {a : Src} {lim : Nat} (h : e.indexesBelow a lim) :
    (e.nums a).any (fun i => decide (lim ≤ i)) = false := by
  simpa only [Env.indexesBelow, Env.nums, List.any_map, List.any_eq_false, Function.comp_apply, decide_eq_true_eq,
    Nat.not_le] using h

/-- R571: a command whose operands name a cell in each active lane joins the well's queue. -/
theorem does_joinCells {i : Instr} {a x : Src} {cnt : WellCount} {body : Env → WellBody}
    (hi : ∀ s, exec i s = issue s i (fun e => e.wells a (fun w => e.onWell w ((e.nums x).any (fun c => decide (4095 < c)))
      (e.wellQueue e.s w (some cnt) (body e)))))
    (hbody : ∀ e m rm lu, body (Env.withRows e m rm lu) = body e) :
    Does i (fun e _ => e.wellRoom a ∧ e.indexesBelow x 4096)
      (fun e b => e.joinsWell b (e.num a) (namedCounter cnt) (body e)) :=
  does_joinWell hi (fun _ => And.left) (fun e m rm lu ⟨_, hcells⟩ => by
      rw [withRows_nums]
      exact nums_inRange hcells)
    (fun e m rm lu _ => by rw [hbody, withRows_s])

theorem nubNat_of_nodup {xs : List Nat} (h : xs.Nodup) : nubNat xs = xs := by
  induction xs with
  | nil => rfl
  | cons x xs ih =>
    obtain ⟨hx, hxs⟩ := List.nodup_cons.mp h
    rw [nubNat, ih hxs, List.filter_eq_self.mpr]
    intro y hy
    exact bne_iff_ne.mpr (ne_of_mem_of_not_mem hy hx)

/-- R573: the values that a WLINK writes. -/
def Env.slotValues (e : Env) (slot value : Src) : List (Nat × W32) :=
  e.lanes.map (fun l => ((e.int32 slot l).toNat, e.int32 value l))

theorem slotValues_inRange {e : Env} {x y : Src} (hx : e.indexesBelow x 4096)
    (hy : ∀ l ∈ e.lanes, (e.int32 y l).extractLsb' 21 10 = 0) :
    (e.slotValues x y).any (fun p => decide (4095 < p.1) || slotBad p.2) = false := by
  refine List.any_eq_false.mpr (List.forall_mem_map.mpr fun l hl => ?_)
  have hslot : ¬ 4095 < (e.int32 x l).toNat := Nat.not_lt.mpr (Nat.le_of_lt_succ (hx l hl))
  simp only [hslot, decide_false, slotBad, hy l hl, bne_self_eq_false, Bool.or_self, Bool.false_eq_true,
    not_false_eq_true]

theorem slotValues_owned {e : Env} {y : Src} (x : Src) (h : ∀ l ∈ e.lanes, slotValid (e.int32 y l) = true →
      (wellOf e.s (slotWell (e.int32 y l))).owner = some e.crew.ctx) :
    (e.slotValues x y).find? (fun p => slotValid p.2 && (wellOf e.s (slotWell p.2)).owner != some e.crew.ctx) = none := by
  refine List.find?_eq_none.mpr (List.forall_mem_map.mpr fun l hl => ?_)
  rw [Bool.and_eq_true, bne_iff_ne]
  exact fun ⟨hvalid, hne⟩ => hne (h l hl hvalid)

section
variable (g : Guard) (d : Dest) (a x y : Src) (kind : WloadKind) (rk : WreadKind) (tile : Bool) (cnt : WellCount)
  (br : BitVec 4) (xs ncls : BitVec 3) (count : BitVec 18) (sx : SweepExt) (imm : Option W64) (stale : BitVec 4)

/-- R574. -/
theorem wload_joins : Does (.wload g a x y kind tile cnt br xs count)
    (fun e _ => e.wellRoom a ∧ count ≠ 0 ∧ e.num y + count.toNat ≤ loadLimit kind
      ∧ e.wellSource tile br xs (e.num x) (count.toNat * loadSize kind) (loadSize kind) = none)
    (fun e b => e.joinsWell b (e.num a) (namedCounter cnt)
      (.load kind (e.source tile br xs (e.num x)) (e.num y) count.toNat 0)) :=
  does_joinWell (fun _ => rfl) (fun _ => And.left)
    (fun e m rm lu ⟨_, _, hfit, _⟩ => by
      simp only [withRows_num]
      exact decide_eq_false (Nat.not_lt.mpr hfit))
    (fun e m rm lu ⟨_, _, _, hsrc⟩ => by
      simp only [withRows_num, withRows_wellSource, hsrc, withRows_source, withRows_s])

/-- R571: WBIAS, with the biases that it writes. -/
theorem wbias_joins : Does (.wbias g a x y cnt) (fun e _ => e.wellRoom a ∧ e.indexesBelow x 4096)
    (fun e b => e.joinsWell b (e.num a) (namedCounter cnt)
      (.bias (e.lanes.map (fun l => ((e.int32 x l).toNat, (e.int32 y l).setWidth 16))))) :=
  does_joinCells (fun _ => rfl) (fun e m rm lu => by simp only [withRows_lanes, withRows_int32])

/-- R571: WCLAMP, with the clamp flags and values that it writes. -/
theorem wclamp_joins : Does (.wclamp g a x y cnt) (fun e _ => e.wellRoom a ∧ e.indexesBelow x 4096)
    (fun e b => e.joinsWell b (e.num a) (namedCounter cnt)
      (.clamp (e.lanes.map (fun l => ((e.int32 x l).toNat, (e.int32 y l).getLsbD 1, (e.int32 y l).getLsbD 0))))) :=
  does_joinCells (fun _ => rfl) (fun e m rm lu => by simp only [withRows_lanes, withRows_int32])

/-- R578, R579: a WSWEEP names each class once. -/
theorem wsweep_joins : Does (.wsweep g a x y ncls cnt sx)
    (fun e _ => e.wellRoom a ∧ (classList (e.num y) (ncls.toNat + 1)).Nodup
      ∧ (sx.str = true → e.wellSource sx.ssp sx.br sx.xs (e.num x) (64 + 8 * sx.len.toNat) 8 = none))
    (fun e b => e.joinsWell b (e.num a) (namedCounter cnt)
      (.sweep sx.beta sx.sweeps.toNat (classList (e.num y) (ncls.toNat + 1)) sx.phys
        (if sx.str then some (e.source sx.ssp sx.br sx.xs (e.num x), sx.len.toNat) else none))) :=
  does_joinWell (fun _ => rfl) (fun _ => And.left)
    (fun e m rm lu ⟨_, honce, _⟩ => by
      simp only [withRows_num, nubNat_of_nodup honce, bne_self_eq_false])
    (fun e m rm lu ⟨_, _, hsrc⟩ => by
      have hnone : (if sx.str then e.wellSource sx.ssp sx.br sx.xs (e.num x) (64 + 8 * sx.len.toNat) 8 else none)
          = none := by
        split
        · exact hsrc ‹_›
        · rfl
      simp only [withRows_num, withRows_wellSource, hnone, withRows_source, withRows_s])

/-- R261, R572. -/
theorem wkey_joins : Does (.wkey g a x imm cnt) (fun e _ => e.wellRoom a)
    (fun e b => e.joinsWell b (e.num a) (namedCounter cnt) (.key (e.key x imm))) :=
  does_joinWell (fun _ => rfl) (fun _ => id) (fun _ _ _ _ _ => rfl) (fun e m rm lu _ => by rw [withRows_key, withRows_s])

/-- R261, R572. -/
theorem wkeyPhys_joins : Does (.wkeyPhys g a cnt) (fun e _ => e.wellRoom a)
    (fun e b => e.joinsWell b (e.num a) (namedCounter cnt) .phys) :=
  does_joinWell (fun _ => rfl) (fun _ => id) (fun _ _ _ _ _ => rfl) (fun _ _ _ _ _ => rfl)

/-- R266, R573: a WLINK writes slots whose source wells are the crew's context's. -/
theorem wlink_joins : Does (.wlink g a x y cnt stale)
    (fun e _ => e.wellRoom a ∧ e.indexesBelow x 4096 ∧ ∀ l ∈ e.lanes, (e.int32 y l).extractLsb' 21 10 = 0
      ∧ (slotValid (e.int32 y l) = true → (wellOf e.s (slotWell (e.int32 y l))).owner = some e.crew.ctx))
    (fun e b => e.joinsWell b (e.num a) (namedCounter cnt) (.link (e.slotValues x y) stale.toNat)) :=
  does_joinWell (fun _ => rfl) (fun _ => And.left)
    (fun e m rm lu ⟨_, hslots, hvals⟩ => by
      simp only [withRows_lanes, withRows_int32]
      exact slotValues_inRange hslots (fun l hl => (hvals l hl).1))
    (fun e m rm lu ⟨_, _, hvals⟩ => by
      have hnone : List.find? (fun p => slotValid p.2 && (wellOf (e.withRows m rm lu).s (slotWell p.2)).owner
          != some (e.withRows m rm lu).crew.ctx) (e.slotValues x y) = none :=
        slotValues_owned x (fun l hl => (hvals l hl).2)
      rw [Env.slotValues] at hnone ⊢
      simp only [withRows_lanes, withRows_int32, hnone]
      rfl)

/-- R576: the access of a WREAD, which the well's answer completes. -/
def Env.wreadAccess (e : Env) (w : Nat) : Access :=
  { e.access (.wread w) 0 0 (e.lanes.map (fun l => { lane := l, va := 0 })) 0 with lines := [], xlated := true }

/-- R248, R576: a WREAD joins the queue, and its destination awaits it. -/
theorem wread_joins : Does (.wread g d a x rk) (fun e _ => e.wellRoom a ∧ e.indexesBelow x (readLimit rk))
    (fun e b => e.joinsWell (e.awaits b (.l d (readWidth rk)) (e.wreadAccess (e.num a))) (e.num a) none
      (.read rk (e.lanes.map (fun l => (l, (e.int32 x l).toNat))) b.nextId)) := by
  refine does_onWell (fun _ => rfl) (fun _ hc => hc.1.1) (fun e m rm lu ⟨_, hcells⟩ => ?_) (fun e m rm lu ⟨hroom, _⟩ => ?_)
  · rw [withRows_nums]
    exact nums_inRange hcells
  · have hpost : (e.withRows m rm lu).post { e.s with crews := m } (.l d (readWidth rk)) (fun n =>
        { (e.withRows m rm lu).access (.wread (e.num a)) 0 0 (e.lanes.map (fun l => { lane := l, va := 0 })) n with
          lines := [], xlated := true })
        = (e.awaits { e.s with crews := m } (.l d (readWidth rk)) (e.wreadAccess (e.num a)), e.s.nextId) :=
      post_awaits e m rm lu (fun _ => DestUse.noConfusion) (fun _ => rfl) rfl
    simp only [withRows_lanes, withRows_int32, withRows_s, hpost]
    exact settle_wellQueue e m rm lu none _ rfl hroom.2

/-- R270, R577: WSTAT answers a well's status word, and clears its sticky bits. -/
theorem wstat_answers : Does (.wstat g d a) (fun e _ => e.active ∧ e.ownsWell a)
    (fun e b => e.goesOn (e.awaits (updWell b (e.num a) (fun w =>
        { w with pnan := false, isat := false, cerr := false, linkerr := false })) (.l d .w32)
      (e.known .value (e.lanes.map (fun l => (l, (wellStatus e.s (e.num a)).setWidth 128))) 0))) :=
  does_onWell (fun _ => rfl) (fun _ => id) (fun _ _ _ _ _ => rfl) (fun e m rm lu ⟨ha, _⟩ =>
    settle_due e m rm lu (by rfl) ha _ _ _ _)

/-- R260, R572: WKEY.DRAW sets the crew's draw key and starts its draw index. -/
theorem wkeyDraw_sets : Does (.wkeyDraw g x imm) (fun e _ => e.active)
    (fun e b => e.goesOn (updCrew b e.cid (fun cr => { cr with drawKey := e.key x imm, drawIdx := 0 }))) := by
  refine does_of_rows _ (fun _ => rfl) (fun e m rm lu ha => ?_)
  simp only [lanes_nonempty (e := e.withRows m rm lu) ha, Bool.false_eq_true, if_false, withRows_key]
  rfl

end

/-- Settles O36: each command in turn, then the wells that none of them may name. -/
theorem wellCommands : Obligations.WellCommands := by
  intro g d a x y kind rk tile cnt br xs ncls count sx imm stale
  exact ⟨wload_joins g a x y kind tile cnt br xs count, wbias_joins g a x y cnt, wclamp_joins g a x y cnt,
    wsweep_joins g a x y cnt ncls sx, wkey_joins g a x cnt imm, wkeyPhys_joins g a cnt, wlink_joins g a x y cnt stale,
    wread_joins g d a x rk, wstat_answers g d a, wkeyDraw_sets g x imm,
    does_stray (fun _ => rfl), does_stray (fun _ => rfl), does_stray (fun _ => rfl), does_stray (fun _ => rfl),
    does_stray (fun _ => rfl), does_stray (fun _ => rfl), does_stray (fun _ => rfl), does_stray (fun _ => rfl),
    does_stray (fun _ => rfl), does_foreign (fun _ => rfl), does_foreign (fun _ => rfl), does_foreign (fun _ => rfl)⟩

end Sys2Proof.Machine
end

section
/-! SUPPORT. The noise words of WNOISE (R259, R260, R575). -/
namespace Sys2Proof.Machine

/-- R260: a noise word depends neither on where its crew's registers lie nor on the table of crews. -/
theorem noiseWord_withRows (e : Env) (m : SMap Crew) (rm : SMap RegPlace) (lu : SMap Nat) (keyed : Bool) (n l : Nat) :
    noiseWord (e.withRows m rm lu).s (e.withRows m rm lu).crew keyed n l = noiseWord e.s e.crew keyed n l := rfl

/-- R260, R575: WNOISE draws a word for each active lane, and advances the draw index. -/
theorem wnoise_draws (g : Guard) (d : Dest) (keyed : Bool) :
    Does (.wnoise g d keyed) (fun e _ => e.active) (fun e b =>
      e.goesOn (e.awaits (updCrew { b with fresh := b.fresh + e.lanes.length } e.cid
          (fun cr => { cr with drawIdx := cr.drawIdx + 1 })) (.l d .w32)
        (e.known .noise (e.lanes.zipIdx.map (fun p => (p.1, (noiseWord e.s e.crew keyed p.2 p.1).setWidth 128))) 0))) := by
  refine does_of_rows _ (fun _ => rfl) (fun e m rm lu ha => ?_)
  simp only [lanes_nonempty (e := e.withRows m rm lu) ha, Bool.false_eq_true, if_false, drawNoise, noiseWord_withRows,
    List.map_map, Function.comp_def]
  exact settle_due e m rm lu (by rfl) ha _ _ _ _

/-- R259, R260: the word of a keyed draw. -/
theorem noiseWord_keyed (s : State) (cr : Crew) (n l : Nat) :
    noiseWord s cr true n l
      = BitVec.ofNat 32 (philox cr.drawKey (BitVec.ofNat 32 l) cr.drawIdx (drawCrew s cr) 1).c0 := by
  rw [noiseWord, Bool.true_or, if_pos rfl, keyedWord]

/-- Settles O37: the draw of a WNOISE, the word of a keyed draw, and the round, which is R259's as it stands. -/
theorem noiseWords : Obligations.NoiseWords := ⟨wnoise_draws, noiseWord_keyed, fun _ => rfl⟩

end Sys2Proof.Machine
end

section
/-! SUPPORT. Rings, ballots, stamps, trace records and GSIG as a crew issues them (R288, R297, R360, R370, R374, R417, R482,
R540, R541, R557, R563). -/
namespace Sys2Proof.Machine

@[simp] theorem withRows_int (e : Env) (m : SMap Crew) (rm : SMap RegPlace) (lu : SMap Nat) (w : Width) (a : Src) (l : Nat) :
    (e.withRows m rm lu).int w a l = e.int w a l :=
  readSrc_rows e.s e.crew e.split .int w a l m rm lu

/-- R14, R37: an instruction that waits before it has done anything leaves its crew as it stood. -/
theorem settle_waits {s : State} {i : Instr} {cid sid : Nat} {cr : Crew} {sp : Split} {off : Nat} {m : SMap Crew}
    {rm : SMap RegPlace} {lu : SMap Nat} {dest : List Nat} (w : SplitState) (hc : s.crews.find cid = some cr)
    (hm : RowsOnly s.crews cid cr m rm lu dest) :
    Env.settle (envOf s i cid sid cr sp off m rm lu) s (.hold w { s with crews := m })
      = (envAt s i cid sid cr sp off).waits w id := by
  obtain ⟨hf, -, -, hp⟩ := hm
  simp only [Env.settle, Env.waits, envAt, envOf, unprepare, hc, setState, updSplit, updCrew, SMap.change_change, id_eq]
  rw [SMap.change_eq_put _ hf, SMap.change_eq_put _ hc, hp]

section
variable (e : Env) (m : SMap Crew) (rm : SMap RegPlace) (lu : SMap Nat)

/-- R73: an instruction that posts an access over a state other than the one it found awaits it there. -/
theorem post_awaits_over (t : State) {d : DestUse} (hd : ∀ b, d ≠ .record b) {a : Nat → Access} {x : Access}
    (ha : ∀ k, a k = { x with id := k }) (hcrew : x.crew = e.cid) :
    (e.withRows m rm lu).post t d a = (e.awaits t d x, t.nextId) :=
  post_awaits { e with s := t } t.crews rm lu hd ha hcrew

theorem queueing_room {e : Env} (h : e.crew.storeQ.length < 32) (k : Eff) : e.queueing k = k :=
  if_neg (Nat.not_le.mpr h)

end


/-- R297: the lanes of a BALLOT, at the group's record of the crew's sibling. -/
def Env.ballotLanes (e : Env) : List LaneReq :=
  e.lanes.map (fun l => { lane := l, va := groupVA e.s e.crew.ctx (e.crew.sib.toNat / 64) })

section
variable (g : Guard)

/-- R297, R417: outside REPLAY, a BALLOT of a crew with a sibling sends its request. -/
theorem ballot_posts (d : Dest) (hash : Option Src) : Does (.ballot g d hash)
    (fun e _ => e.active ∧ e.crew.sib ≠ BitVec.allOnes 32 ∧ replaying e.s e.crew.ctx = false)
    (fun e b => e.goesOn (e.awaits b (.l d .w32)
      { e.access (.ballot (hash.map (fun x => e.int .w64 x e.lead))) 3 0 e.ballotLanes 0 with
        lines := syncLines e.ballotLanes })) := by
  refine does_of_rows _ (fun _ => rfl) (fun e m rm lu ⟨ha, hsib, hrep⟩ => ?_)
  have hsib' : ¬ (e.withRows m rm lu).crew.sib = BitVec.allOnes 32 := hsib
  have hrep' : replaying (e.withRows m rm lu).s (e.withRows m rm lu).crew.ctx = false := hrep
  simp only [lanes_nonempty (e := e.withRows m rm lu) ha, Bool.false_eq_true, if_false, hsib', hrep', Bool.not_false, if_true,
    withRows_int]
  exact settle_posted e m rm lu false (fun _ => DestUse.noConfusion) _
    { e.access (.ballot (hash.map (fun x => e.int .w64 x e.lead))) 3 0 e.ballotLanes 0 with
      lines := syncLines e.ballotLanes } (fun _ => rfl) rfl

/-- R417: a BALLOT of a crew without a sibling traps. -/
theorem ballot_traps (d : Dest) (hash : Option Src) : Does (.ballot g d hash)
    (fun e _ => e.active ∧ e.crew.sib = BitVec.allOnes 32) (fun e _ => e.traps { code := 0x03 }) := by
  refine does_of_rows _ (fun _ => rfl) (fun e m rm lu ⟨ha, hsib⟩ => ?_)
  have hsib' : (e.withRows m rm lu).crew.sib = BitVec.allOnes 32 := hsib
  simp only [lanes_nonempty (e := e.withRows m rm lu) ha, Bool.false_eq_true, if_false, hsib', if_true, settle_trap]

end

/-- R360: the control block of a crew's ring, whose PROD a RINGPUT is checked against: in a repeatable context alone. -/
def Env.ringBlock (e : Env) (rh : Nat) : Option Nat :=
  if repeatable e.s e.crew.ctx then
    ((e.s.ctxs.find e.crew.ctx).bind (fun c => c.rings.find rh)).map (·.ring.cb)
  else none

/-- R357: PROD of a crew's ring, as its physical and virtual addresses, where its page is present. -/
def Env.ringProd (e : Env) (rh : Nat) (b : State) : Option (Nat × Nat) :=
  (e.ringBlock rh).bind (fun va =>
    (peek b (some (unitOf b e.crew)) (Config.dieOfUnit (unitOf b e.crew)) e.crew.ctx va).map (fun pa => (pa, va)))

/-- R540: the entries of a RINGPUT: the sequence, the position and the token of each lane in 8 bytes. -/
def Env.ringLanes (e : Env) (sq pos token : Src) : List LaneReq :=
  e.lanes.map (fun l =>
    { lane := l, va := 0
      data := leBytes 8 ((e.int32 sq l).toNat % 2 ^ 24 * 2 ^ 40 + (e.int32 pos l).toNat % 2 ^ 16 * 2 ^ 24
        + (e.int32 token l).toNat % 2 ^ 24) })

/-- R357, R541: the append of a RINGPUT, which is owed its race check while PROD's page is absent. -/
def Env.ringAccess (e : Env) (b : State) (rh : Nat) (qs : List LaneReq) : Access :=
  { e.access (.ring rh) 3 0 qs 0 with
    lines := [], xlated := true, rep := (e.ringBlock rh).isSome && (e.ringProd rh b).isNone }

/-- R174: an access that a crew posts over a state enters its store queue. -/
def Env.enqueues (e : Env) (t : State) (x : Access) : State := enqueue (e.awaits t .none x) e.cid t.nextId

/-- R174, R541: a RINGPUT posts its append over a state, once the store queue has room. -/
def Env.appends (e : Env) (rh : Nat) (qs : List LaneReq) (t : State) : Eff :=
  let p := e.post t .none (fun id => { e.ringAccess e.s rh qs with id := id })
  e.queueing (.next (enqueue p.1 e.cid p.2))

/-- R357, R360, R541: what a RINGPUT of some lanes does: the write of PROD is checked where its page is present. -/
def Env.putsRing (e : Env) (rh : Nat) (qs : List LaneReq) : Eff :=
  match e.ringProd rh e.s with
  | none => e.appends rh qs e.s
  | some p =>
    match raceAccess e.s e.crew.ctx (crewIdent e.s e.cid) false true [p] with
    | .error va => .trap (reportVA 0x0A va)
    | .ok s => e.appends rh qs s

section
variable (g : Guard) (sq pos token : Src) (rh : BitVec 6)

theorem exec_ringput (s : State) : exec (.ringput g sq pos token rh) s = issue s (.ringput g sq pos token rh)
    (fun e => if e.lanes.isEmpty then .next e.s else e.putsRing rh.toNat (e.ringLanes sq pos token)) := rfl

section
variable (e : Env) (m : SMap Crew) (rm : SMap RegPlace) (lu : SMap Nat)

theorem withRows_ringProd (h : Nat) : (e.withRows m rm lu).ringProd h (e.withRows m rm lu).s
    = e.ringProd h { e.s with crews := m } := rfl

theorem withRows_ringLanes : (e.withRows m rm lu).ringLanes sq pos token = e.ringLanes sq pos token := by
  simp only [Env.ringLanes, withRows_int32, withRows_lanes]

/-- R174, R541: a RINGPUT whose crew's store queue has room has its append in flight and in the queue. -/
theorem settle_appends (h : Nat) (qs : List LaneReq) (t : State) (hroom : e.crew.storeQ.length < 32) :
    (e.withRows m rm lu).settle e.s ((e.withRows m rm lu).appends h qs t)
      = e.goesOn (e.enqueues t (e.ringAccess { e.s with crews := m } h qs)) := by
  have hpost := post_awaits_over e m rm lu t (d := .none) (fun _ => DestUse.noConfusion)
    (x := e.ringAccess { e.s with crews := m } h qs) (fun _ => rfl) rfl
  rw [Env.appends, queueing_room (e := e.withRows m rm lu) hroom]
  exact congrArg (fun p : State × Nat => e.goesOn (enqueue p.1 e.cid p.2)) hpost

end

/-- R357, R541: a RINGPUT without a conflict has its append in flight and in the store queue. -/
theorem ringput_appends (b' : State) : Does (.ringput g sq pos token rh)
    (fun e b => e.active ∧ e.crew.storeQ.length < 32
      ∧ match e.ringProd rh.toNat b with
      | none => b' = b
      | some p => raceAccess b e.crew.ctx (crewIdent b e.cid) false true [p] = .ok b')
    (fun e b => e.goesOn (e.enqueues b' (e.ringAccess b rh.toNat (e.ringLanes sq pos token)))) := by
  refine does_of_rows _ (exec_ringput g sq pos token rh) (fun e m rm lu ⟨ha, hroom, hrace⟩ => ?_)
  rw [if_neg (Bool.eq_false_iff.mp (lanes_nonempty (e := e.withRows m rm lu) ha)), withRows_ringLanes, Env.putsRing,
    withRows_ringProd]
  cases hprod : e.ringProd rh.toNat { e.s with crews := m } with
  | none =>
    rw [hprod] at hrace
    rw [show b' = _ from hrace]
    exact settle_appends e m rm lu _ _ _ hroom
  | some p =>
    rw [hprod] at hrace
    have hok : raceAccess (e.withRows m rm lu).s (e.withRows m rm lu).crew.ctx
      (crewIdent (e.withRows m rm lu).s (e.withRows m rm lu).cid) false true [p] = .ok b' := hrace
    simp only [hok]
    exact settle_appends e m rm lu _ _ _ hroom

/-- R360: a RINGPUT whose write of PROD conflicts traps. -/
theorem ringput_races (x : Nat) : Does (.ringput g sq pos token rh)
    (fun e b => e.active ∧ ∃ p va, e.ringProd rh.toNat b = some p
      ∧ raceAccess b e.crew.ctx (crewIdent b e.cid) false true [p] = .error va ∧ x = va)
    (fun e _ => e.traps (reportVA 0x0A x)) := by
  refine does_of_rows _ (exec_ringput g sq pos token rh) (fun e m rm lu ⟨ha, p, va, hprod, hrace, hx⟩ => ?_)
  have herr : raceAccess (e.withRows m rm lu).s (e.withRows m rm lu).crew.ctx
    (crewIdent (e.withRows m rm lu).s (e.withRows m rm lu).cid) false true [p] = .error va := hrace
  rw [if_neg (Bool.eq_false_iff.mp (lanes_nonempty (e := e.withRows m rm lu) ha)), Env.putsRing, withRows_ringProd, hprod]
  simp only [herr, settle_trap, hx]

end

/-- R370: the record of a STAMP of a cohort's crew. -/
def Env.stampRecord (e : Env) (a : Src) (ch : Cohort) : BitVec 512 :=
  record512 [(448, crewDT e.s e.crew), (416, (e.int32 a e.lead).toNat), (160, ch.cseq.toNat), (148, ch.queue % 4096),
    (136, ch.ctx), (132, 0), (120, unitOf e.s e.crew), (104, Nat.min (currentTask e.s ch) 65535),
    (72, ch.index % 4294967296), (0, 2)]

/-- R374: the record of a TRACE of a cohort's crew. -/
def Env.traceRecord (e : Env) (a : Src) (ch : Cohort) : BitVec 256 :=
  record256 [(192, crewDT e.s e.crew), (128, (e.int .w64 a e.lead).toNat), (116, ch.queue % 4096), (84, ch.cseq.toNat),
    (80, engineKind e.crew.engine), (68, engineId e.s e.crew), (0, 1)]

/-- R370: a stamp record of a crew is in flight to its queue's ring. -/
def Env.stamps (e : Env) (b : State) (q : Nat) (r : BitVec 512) : State :=
  { b with
    nextId := b.nextId + 1
    accs := b.accs.put b.nextId { id := b.nextId, crew := e.cid, lanesM := 0, kind := .stamp q r, path := 3
                                  lanes := [{ lane := 0, va := 0 }], dtIssue := b.dt
                                  ctx := ctxOf b e.cid, who := crewIdent b e.cid } }

/-- An active lane of a crew of the cohort `ch`. -/
def Env.inCohort (e : Env) (ch : Cohort) : Prop := e.active ∧ e.s.cohorts.find e.crew.cohort = some ch

section
variable (g : Guard) (a : Src) (ch : Cohort)

/-- R174, R370: a stamp of a queue with a ring enters its crew's store queue. -/
theorem enqueueStamp_ring {b : State} {q : Nat} (e : Env) (h : (b.queues.find q).bind (·.stamp) ≠ none) (r : BitVec 512) :
    enqueueStamp b (postStamp b e.cid q r) e.cid = enqueue (e.stamps b q r) e.cid b.nextId := by
  obtain ⟨x, hx⟩ := Option.ne_none_iff_exists'.mp h
  have hpost : postStamp b e.cid q r = e.stamps b q r := by
    simp only [postStamp, hx]
    rfl
  rw [hpost]
  exact if_pos (Nat.lt_succ_self b.nextId)

/-- R370: a stamp of a queue without a ring is discarded. -/
theorem enqueueStamp_discarded {b : State} {q : Nat} (h : (b.queues.find q).bind (·.stamp) = none) (cid : Nat)
    (r : BitVec 512) : enqueueStamp b (postStamp b cid q r) cid = b := by
  simp only [postStamp, h]
  exact if_neg (Nat.lt_irrefl b.nextId)

/-- What STAMP of a cohort's crew does over the rows given to it, once a lane is active. -/
theorem exec_stamp (s : State) : exec (.stamp g a) s = issue s (.stamp g a) (fun e =>
    if e.lanes.isEmpty then .next e.s
    else match e.s.cohorts.find e.crew.cohort with
      | none => .next e.s
      | some c => e.queueing (.next (enqueueStamp e.s (postStamp e.s e.cid c.queue (e.stampRecord a c)) e.cid))) := rfl

/-- R370, R557: what a STAMP does where its crew's store queue has room. -/
theorem does_stamp {cond : Env → Prop} {t : Env → State → State}
    (hroom : ∀ e, cond e → e.inCohort ch ∧ e.crew.storeQ.length < 32)
    (ht : ∀ e m, cond e → enqueueStamp { e.s with crews := m } (postStamp { e.s with crews := m } e.cid ch.queue
      (e.stampRecord a ch)) e.cid = t e { e.s with crews := m }) :
    Does (.stamp g a) (fun e _ => cond e) (fun e b => e.goesOn (t e b)) := by
  refine does_of_rows _ (exec_stamp g a) (fun e m rm lu hc => ?_)
  obtain ⟨⟨ha, hch⟩, hlen⟩ := hroom e hc
  have hch' : (e.withRows m rm lu).s.cohorts.find (e.withRows m rm lu).crew.cohort = some ch := hch
  have hrec : (e.withRows m rm lu).stampRecord a ch = e.stampRecord a ch := by
    simp only [Env.stampRecord, withRows_int32, withRows_lead]
    rfl
  simp only [lanes_nonempty (e := e.withRows m rm lu) ha, Bool.false_eq_true, if_false, hch',
    queueing_room (e := e.withRows m rm lu) hlen, hrec]
  exact congrArg e.goesOn (ht e m hc)

/-- R174, R370: a STAMP of a queue with a ring enters its crew's store queue. -/
theorem stamp_enqueues : Does (.stamp g a)
    (fun e _ => e.inCohort ch ∧ e.crew.storeQ.length < 32 ∧ (e.s.queues.find ch.queue).bind (·.stamp) ≠ none)
    (fun e b => e.goesOn (enqueue (e.stamps b ch.queue (e.stampRecord a ch)) e.cid b.nextId)) :=
  does_stamp g a ch (fun _ ⟨hin, hroom, _⟩ => ⟨hin, hroom⟩)
    (fun e m ⟨_, _, hring⟩ => enqueueStamp_ring (b := { e.s with crews := m }) e hring _)

/-- R370: a STAMP of a queue without a ring only goes on. -/
theorem stamp_discards : Does (.stamp g a)
    (fun e _ => e.inCohort ch ∧ e.crew.storeQ.length < 32 ∧ (e.s.queues.find ch.queue).bind (·.stamp) = none)
    (fun e b => e.goesOn b) :=
  does_stamp g a ch (t := fun _ b => b) (fun _ ⟨hin, hroom, _⟩ => ⟨hin, hroom⟩)
    (fun e m ⟨_, _, hnone⟩ => enqueueStamp_discarded (b := { e.s with crews := m }) hnone e.cid _)

/-- R174: a STAMP waits while its crew's store queue is full. -/
theorem stamp_waits : Does (.stamp g a) (fun e _ => e.inCohort ch ∧ 32 ≤ e.crew.storeQ.length)
    (fun e _ => e.waits (.waitOperand .storeRoom) id) := by
  refine does_of _ (exec_stamp g a) (fun s cid sid cr sp off m rm lu hm hc _ ⟨⟨ha, hch⟩, hlen⟩ => ?_)
  have hch' : (envOf s (.stamp g a) cid sid cr sp off m rm lu).s.cohorts.find
    (envOf s (.stamp g a) cid sid cr sp off m rm lu).crew.cohort = some ch := hch
  have hfull : storeQueueSize ≤ (envOf s (.stamp g a) cid sid cr sp off m rm lu).crew.storeQ.length := hlen
  simp only [lanes_nonempty (e := envOf s (.stamp g a) cid sid cr sp off m rm lu) ha, Bool.false_eq_true, if_false, hch',
    Env.queueing, hfull, if_true]
  exact settle_waits _ hc hm

/-- R374, R563: TRACE gives its record to the session of its cohort's queue. -/
theorem trace_records : Does (.trace g a) (fun e _ => e.inCohort ch)
    (fun e b => e.goesOn (sessionTake b ch.queue ch.cseq (e.traceRecord a ch))) := by
  refine does_of_rows _ (fun _ => rfl) (fun e m rm lu ⟨ha, hch⟩ => ?_)
  have hch' : (e.withRows m rm lu).s.cohorts.find (e.withRows m rm lu).crew.cohort = some ch := hch
  simp only [lanes_nonempty (e := e.withRows m rm lu) ha, Bool.false_eq_true, if_false, hch', withRows_int, withRows_lead]
  rfl

/-- R288, R482: the queue that a GSIG names. -/
def Env.signalled (e : Env) (a : Src) (ch : Cohort) : Nat :=
  if e.int32 a e.lead = 0xFFFFFFFF then ch.queue else (e.int32 a e.lead).toNat

/-- R482: whether a GSIG may signal the queue that its operand names. -/
def Env.maySignal (e : Env) (v : W32) : Prop :=
  v = 0xFFFFFFFF ∨ ∃ q, e.s.queues.find v.toNat = some q ∧ q.ctx = e.crew.ctx

/-- What GSIG of an operand does, once a lane is active. -/
def Env.signals (e : Env) (v : Nat) : Eff :=
  let own := (e.s.cohorts.find e.crew.cohort).map (·.queue)
  let q : Option Nat := if v = 0xFFFFFFFF then own else some v
  let owned := v = 0xFFFFFFFF || ((e.s.queues.find v).map (·.ctx)) == some e.crew.ctx
  if !owned then .trap { code := 0x09, addr := BitVec.ofNat 64 v }
  else e.fenced .sys allPaths 8 (fun e => .next (match q with
    | some q => wakeWait e.s q
    | none => e.s))

theorem exec_gsig (s : State) : exec (.gsig g a) s = issue s (.gsig g a) (fun e =>
    if e.lanes.isEmpty then .next e.s else e.signals (e.int32 a e.lead).toNat) := rfl

theorem toNat_eq_allOnes (v : W32) : v.toNat = 0xFFFFFFFF ↔ v = 0xFFFFFFFF :=
  ⟨fun h => BitVec.eq_of_toNat_eq h, fun h => congrArg BitVec.toNat h⟩

/-- R482: the crew may signal the queue that its operand names: its own, or one of its context. -/
theorem maySignal_iff {e : Env} {v : W32} : (decide (v.toNat = 0xFFFFFFFF)
    || ((e.s.queues.find v.toNat).map (·.ctx)) == some e.crew.ctx) = true ↔ e.maySignal v := by
  simp only [Bool.or_eq_true, decide_eq_true_eq, toNat_eq_allOnes, beq_iff_eq, Option.map_eq_some_iff, Env.maySignal]

/-- R288, R482: GSIG, its fence done, marks an evaluation due of the WAIT node of the queue it names. -/
theorem gsig_wakes : Does (.gsig g a)
    (fun e b => e.inCohort ch ∧ e.maySignal (e.int32 a e.lead) ∧ e.fenceDone b .sys 0xFF)
    (fun e b => e.goesOn (wakeWait b (e.signalled a ch))) := by
  refine does_of_rows _ (exec_gsig g a) (fun e m rm lu ⟨⟨ha, hch⟩, hmay, hfence⟩ => ?_)
  have hch' : (e.withRows m rm lu).s.cohorts.find (e.withRows m rm lu).crew.cohort = some ch := hch
  have hnamed : (if (e.int32 a e.lead).toNat = 0xFFFFFFFF then some ch.queue else some (e.int32 a e.lead).toNat)
      = some (e.signalled a ch) := by
    simp only [Env.signalled, toNat_eq_allOnes]
    split <;> rfl
  simp only [lanes_nonempty (e := e.withRows m rm lu) ha, Bool.false_eq_true, if_false, withRows_int32, withRows_lead,
    Env.signals, hch', Option.map_some, hnamed, maySignal_iff.mpr (show (e.withRows m rm lu).maySignal _ from hmay),
    Bool.not_true]
  rw [fenced_done (src := allPaths) hfence rfl]
  exact goesTracked_marked e false (wakeWait { e.s with crews := m } (e.signalled a ch)) (e.split.mark.getD e.s.nextId)

/-- R482: GSIG for a queue of another context traps. -/
theorem gsig_traps : Does (.gsig g a)
    (fun e _ => e.active ∧ e.int32 a e.lead ≠ 0xFFFFFFFF
      ∧ ∀ q, e.s.queues.find (e.int32 a e.lead).toNat = some q → q.ctx ≠ e.crew.ctx)
    (fun e _ => e.traps { code := 0x09, addr := BitVec.ofNat 64 (e.int32 a e.lead).toNat }) := by
  refine does_of_rows _ (exec_gsig g a) (fun e m rm lu ⟨ha, hv, hq⟩ => ?_)
  have hmay : ¬ (e.withRows m rm lu).maySignal (e.int32 a e.lead) := not_or.mpr ⟨hv, fun ⟨q, hf, hc⟩ => hq q hf hc⟩
  have hno := Bool.eq_false_iff.mpr (mt maySignal_iff.mp hmay)
  simp only [lanes_nonempty (e := e.withRows m rm lu) ha, Bool.false_eq_true, if_false, withRows_int32, withRows_lead,
    Env.signals, hno, Bool.not_false, if_true, settle_trap]

end

/-- Settles O38: each instruction in turn. -/
theorem ringsAndRecords : Obligations.RingsAndRecords := by
  intro g d hash sq pos token a rh ch b' x
  exact ⟨ballot_posts g d hash, ballot_traps g d hash, ringput_appends g sq pos token rh b', ringput_races g sq pos token rh x,
    stamp_enqueues g a ch, stamp_discards g a ch, stamp_waits g a ch, trace_records g a ch, gsig_wakes g a ch, gsig_traps g a⟩

end Sys2Proof.Machine
end

section
/-! SUPPORT. SIBCHK of a crew without a sibling, and of one whose sibling was cancelled (R302, R548 to R550). -/
namespace Sys2Proof.Machine

/-- R302: a decision is always seen from 64 ticks after it. -/
theorem ddtSeen_late {s : State} {d ddt : Nat} (h : ddt + 64 ≤ d) : ddtSeen s d ddt = (true, s) := by
  rw [ddtSeen, if_neg (by omega), if_pos h]

/-- R302, R549: the crew's sibling `x` is CANCELLING, was decided 64 ticks ago or more, and the crew does not ignore it. -/
def Env.cancelled (e : Env) (ctx : Context) (x : Sibling) : Prop :=
  e.crew.sib ≠ BitVec.allOnes 32 ∧ e.s.ctxs.find e.crew.ctx = some ctx ∧ ctx.sibs.find e.crew.sib.toNat = some x
    ∧ x.state = .cancelling ∧ e.crew.ignoreCancel = false ∧ x.ddt + 64 ≤ crewDT e.s e.crew

theorem siblingCancelling_of_cancelled {e : Env} {ctx : Context} {x : Sibling} (h : e.cancelled ctx x) :
    siblingCancelling e.s e.crew = true := by
  obtain ⟨hsib, hctx, hx, hst, -, -⟩ := h
  simp only [siblingCancelling, sibKey, hsib, if_false, hctx, Option.bind_some, hx, Option.map_some, Option.getD_some, hst,
    beq_self_eq_true]

/-- R549: what SIBCHK of a crew with a sibling does once it has looked for the decision at a DT. -/
def Env.checked (e : Env) (d : Dest) (trp : Bool) (r : Bool × State) : Eff :=
  if r.1 then (if trp then .trap { code := 0x15 } else .go (endCrew r.2 e.cid .released))
  else
    match sibValue { e with s := r.2 } (e.crew.sib.toNat / 64) (e.crew.sib.toNat % 64) with
    | .error w => w
    | .ok (v, s) => .next (writeQ s e.cid e.sid d .w32 e.all (e.lanes.map (fun l => (l, v))))

/-- R302, R549: whether SIBCHK of a crew with a sibling sees a decision that cancels it. -/
def Env.seesCancel (e : Env) : Bool × State :=
  if siblingCancelling e.s e.crew && !e.crew.ignoreCancel then
    ddtSeen e.s (crewDT e.s e.crew) (match (e.s.ctxs.find e.crew.ctx).bind (fun c => c.sibs.find e.crew.sib.toNat) with
      | some x => x.ddt
      | none => 0)
  else (false, e.s)

theorem seesCancel_of_cancelled {e : Env} {ctx : Context} {x : Sibling} (h : e.cancelled ctx x) :
    e.seesCancel = (true, e.s) := by
  have hc := siblingCancelling_of_cancelled h
  obtain ⟨-, hctx, hx, -, hig, hdt⟩ := h
  simp only [Env.seesCancel, hc, hig, Bool.not_false, Bool.and_self, if_true, hctx, Option.bind_some, hx, ddtSeen_late hdt]

section
variable (g : Guard) (d : Dest) (ctx : Context) (x : Sibling)

theorem exec_sibchk (trp : Bool) (s : State) : exec (.sibchk g d trp) s = issue s (.sibchk g d trp) (fun e =>
    if e.crew.sib = BitVec.allOnes 32 then .next (writeQ e.s e.cid e.sid d .w32 e.all (e.lanes.map (fun l => (l, 0))))
    else e.checked d trp e.seesCancel) := rfl

/-- R549: SIBCHK of a crew without a sibling answers 0. -/
theorem sibchk_alone (trp : Bool) : Does (.sibchk g d trp) (fun e _ => e.crew.sib = BitVec.allOnes 32)
    (fun e b => e.goesOn (writeQ b e.cid e.sid d .w32 e.all (e.lanes.map (fun l => (l, 0))))) := by
  refine does_of_rows _ (exec_sibchk g d trp) (fun e m rm lu hsib => ?_)
  rw [if_pos (show (e.withRows m rm lu).crew.sib = BitVec.allOnes 32 from hsib)]
  rfl

/-- R302, R549: SIBCHK of a crew whose sibling was cancelled 64 ticks ago or more. -/
theorem does_sibchk_cancelled {trp : Bool} {t : Env → State → State}
    (ht : ∀ (e : Env) (m : SMap Crew) (rm : SMap RegPlace) (lu : SMap Nat), (e.withRows m rm lu).settle e.s
      ((e.withRows m rm lu).checked d trp (true, { e.s with crews := m })) = t e { e.s with crews := m }) :
    Does (.sibchk g d trp) (fun e _ => e.cancelled ctx x) t := by
  refine does_of_rows _ (exec_sibchk g d trp) (fun e m rm lu hc => ?_)
  have hc' : (e.withRows m rm lu).cancelled ctx x := hc
  rw [if_neg hc'.1, seesCancel_of_cancelled hc']
  exact ht e m rm lu

end

/-- Settles O39: without a sibling, and the two forms once it is cancelled. -/
theorem siblingChecks : Obligations.SiblingChecks := by
  intro g d trp ctx x
  exact ⟨sibchk_alone g d trp, does_sibchk_cancelled g d ctx x (fun _ _ _ _ => rfl),
    does_sibchk_cancelled g d ctx x (fun _ _ _ _ => rfl)⟩

end Sys2Proof.Machine
end

section
/-! SUPPORT. The table of queues, which the memory path leaves: stores at their homes, translations, and the lines that an engine
takes (R169, R182, R193, R200, R310). -/
namespace Sys2Proof.Machine

/-- Stores that become visible leave the queues. -/
protected theorem Lands.queues {s t : State} (h : Lands s t) : t.queues = s.queues := by rw [h.state]

section
variable (s : State)

@[simp] theorem settle_queues (line : Nat) : (settle s line).queues = s.queues := (settle_lands s line).queues

@[simp] theorem arriveStore_queues (line src : Nat) (ws : List (Nat × Byte)) :
    (arriveStore s line src ws).1.queues = s.queues := by
  rw [arriveStore_eq, settle_queues, (withPend_lands _ _ _ _).queues]
  exact settle_queues s line

@[simp] theorem orderedPerform_queues (acc : Nat) (a : Access) (q : LaneReq) (op : AtomOp) (ty : AtomTy) (pa : Nat) :
    (orderedPerform s acc a q op ty pa).queues = s.queues := by
  simp only [orderedPerform, ackTw]
  split <;> exact arriveStore_queues s _ _ _

@[simp] theorem stalePerform_queues (acc : Nat) (a : Access) (q : LaneReq) (pa : Nat) :
    (stalePerform s acc a q pa).queues = s.queues := by
  simp only [stalePerform]
  split <;> rfl

@[simp] theorem releaseHeld_queues (n line : Nat) : (releaseHeld n s line).queues = s.queues := by
  induction n generalizing s with
  | zero => rfl
  | succ n ih =>
    unfold releaseHeld
    split
    · rw [ih, orderedPerform_queues]
    · split
      · rw [ih, stalePerform_queues]
      · rfl

@[simp] theorem storeLine_queues (line src : Nat) (ws : List (Nat × Byte)) :
    (storeLine s line src ws).1.queues = s.queues := by
  simp only [storeLine, examineHeld, releaseHeld_queues, arriveStore_queues, touchWindows]

@[simp] theorem arriveAll_queues (src : Nat) (ls : SMap (List (Nat × Byte))) :
    (arriveAll s src ls).1.queues = s.queues := by
  induction ls generalizing s with
  | nil => rfl
  | cons p ls ih =>
    simp only [arriveAll, ih, storeOrStall]
    split
    · rfl
    · exact storeLine_queues ..

@[simp] theorem setAD_queues (pa : Nat) (w : Bool) : (setAD s pa w).1.queues = s.queues := by
  simp only [setAD]
  split
  · rfl
  · exact arriveAll_queues s _ _

@[simp] theorem tlbFill_queues (u : Option Nat) (d : Nat) (t : TlbEntry) : (tlbFill s u d t).queues = s.queues := by
  cases u <;> rfl

@[simp] theorem l2Touch_queues (line : Nat) : (l2Touch s line).queues = s.queues := by
  simp only [l2Touch]
  split <;> rfl

theorem victimise_queues (k : Nat) (f : SyncFrame) : (victimise s k f).queues = s.queues := by
  cases f with
  | line l => exact l2Touch_queues _ l
  | slot k => rfl

end

section
variable {s t : State}

theorem makeFrame_queues {k : Nat} (h : makeFrame s k = some t) : t.queues = s.queues := by
  simp only [makeFrame] at h
  split at h
  · cases h; rfl
  · obtain ⟨f, -, rfl⟩ := Option.map_eq_some_iff.mp h
    exact victimise_queues s k f

theorem touchFrame_queues {k : Nat} {f : SyncFrame} (h : touchFrame s k f = some t) : t.queues = s.queues := by
  simp only [touchFrame] at h
  split at h
  · cases h; rfl
  · obtain ⟨u, hu, rfl⟩ := Option.map_eq_some_iff.mp h
    exact (makeFrame_queues hu :)

/-- R182, R193: an engine that takes a line leaves the queues. -/
theorem syncTake_queues {line : Nat} (h : syncTake s line = some t) : t.queues = s.queues := by
  simp only [syncTake] at h
  split at h
  · obtain ⟨u, hu, rfl⟩ := Option.map_eq_some_iff.mp h
    rw [l2Touch_queues, touchFrame_queues hu, settle_queues]
  · cases h

theorem sendGranules_lands {acc : Option (Nat × Nat)} {pas : List Nat} (h : sendGranules s acc pas = some t) :
    Lands s t := by
  induction pas generalizing s with
  | nil => cases h; exact .refl _
  | cons pa pas ih =>
    simp only [sendGranules] at h
    split at h
    · cases h
    · next hu => exact (sendGranule_lands hu).trans (ih h)

theorem askFill_queues (s : State) (line : Nat) : (askFill s line).queues = s.queues := by
  unfold askFill
  split
  · rfl
  · cases h : sendGranules s none [line * 128, line * 128 + 64] with
    | none => rfl
    | some t => exact (sendGranules_lands h).queues

/-- R310: a translation leaves the queues. -/
theorem translate_queues (s : State) (u : Option Nat) (d ctx va : Nat) (need : Need) (demand : Bool) :
    (translate s u d ctx va need demand).2.queues = s.queues := by
  unfold translate
  split
  · rfl
  · dsimp only
    split
    · split <;> rfl
    · split
      · rfl
      · rfl
      · split
        · rfl
        · exact askFill_queues _ _
      · split
        · rfl
        · rw [tlbFill_queues]
          split
          · exact setAD_queues _ _ _
          · rfl

/-- R279: a translation of the pump that answers an address leaves the queues. -/
theorem pumpXlate_ok_queues {ctx q va pa : Nat} {g : GraphRun} {w : Bool} (h : pumpXlate s ctx q va g w = .ok pa t) :
    t.queues = s.queues := by
  unfold pumpXlate at h
  split at h
  · next hx =>
    split at h
    · cases h
    · cases h
      exact (congrArg (fun r : Xlate × State => r.2.queues) hx).symm.trans (translate_queues ..)
  · split at h <;> cases h
  · cases h
  · cases h

end

end Sys2Proof.Machine
end

section
/-! SUPPORT. The pump's events: the entry that starts, the node that each event starts, the iterations of a LOOP, the
evaluations of a WAIT, and the completion of nodes and entries (R275, R277 to R280, R282, R284 to R291, R367, R387). -/
namespace Sys2Proof.Machine

/-- A graph after a change of it. -/
theorem graphOf_updGraph (s : State) (q : Nat) (f : GraphRun → GraphRun) :
    graphOf (updGraph s q f) q = (graphOf s q).map (fun p => ({ p.1 with graph := some (f p.2) }, f p.2)) := by
  simp only [graphOf, updGraph, updQueue, SMap.find_change_self]
  cases s.queues.find q with
  | none => rfl
  | some x => cases hg : x.graph <;> simp [hg]

/-- A change of a graph is what it makes of the graph that runs. -/
theorem updGraph_congr {s : State} {q : Nat} {x : Queue} {g : GraphRun} {f f' : GraphRun → GraphRun}
    (hg : graphOf s q = some (x, g)) (h : f g = f' g) : updGraph s q f = updGraph s q f' := by
  obtain ⟨y, hy, hx⟩ := Option.bind_eq_some_iff.mp hg
  obtain ⟨g', hg', hp⟩ := Option.map_eq_some_iff.mp hx
  cases hp
  simp only [updGraph, updQueue, SMap.change_eq_put _ hy, hg', Option.map_some, h]

/-- R275, R387: the graph of a queue's next entry starts; at an address that is not aligned the entry completes. -/
theorem queueEntryStart_starts {s : State} {q : Nat} {x : Queue} (hx : s.queues.find q = some x) (hg : x.graph = none)
    (hne : x.cons ≠ x.doorbell) (hst : x.state = .idle ∨ x.state = .running) (hrun : pumpRuns s x.ctx = true)
    (hres : x.resetting = false) (hmode : modeDue s x.ctx = false) :
    let addr : Nat := leNat (readPhys s (x.base + 64 * (x.cons.toNat % 2 ^ x.log2)) 9)
    let t : State := updQueue s q (fun y =>
      { y with state := .running, graph := some { entry := y.cons.toNat, node := addr } })
    exec (.queueEntryStart q) s = .next (if addr % 64 = 0 then t else completeEntry t q 3 addr) := by
  have hstate : (x.state == .idle || x.state == .running) = true := by
    rcases hst with h | h <;> rw [h] <;> rfl
  have hgo : (x.graph.isSome || decide (x.cons = x.doorbell) || !(x.state == .idle || x.state == .running)
      || !pumpRuns s x.ctx || x.resetting || modeDue s x.ctx) = false := by
    simp only [hg, hne, hstate, hrun, hres, hmode, Option.isSome_none, decide_false, Bool.not_true, Bool.or_self]
  exact (show exec (.queueEntryStart q) s = execQueueEntryStart q s from rfl).trans
    (by simp only [execQueueEntryStart, hx, hgo, Bool.false_eq_true, if_false])

-- the start of a node (R279)

/-- R279: a node that has been started was to begin, or had begun. -/
theorem startNode_run {s s1 : State} {q : Nat} {x : Queue} {g : GraphRun} (h : startNode s q = .begun s1 x g) :
    ∃ x0 g0, graphOf s q = some (x0, g0) ∧ (g0.run = .start ∨ g0.run = .begun) := by
  unfold startNode at h
  split at h
  · cases h
  · next x0 g0 hg =>
    split at h
    · cases h
    · split at h
      · next hr => exact ⟨x0, g0, hg, .inr hr⟩
      · next hr => exact ⟨x0, g0, hg, .inl hr⟩
      · cases h

/-- R275 to R277, R302: what the start of a node whose record has been read does; `ok` says whether it could be read. -/
def beginNode (q : Nat) (x : Queue) (g : GraphRun) (w : BitVec 512) (ok : Bool) (s : State) : Begun :=
  let s := updQueue s q (fun y => { y with
    cseq := y.cseq + 1
    graph := y.graph.map (fun g =>
      { g with word := w, cseq := x.cseq, tw := 0, passed := false, fault := none, run := .begun }) })
  let s := sessionNode s q x.cseq 2 g.node
  if !ok then .isOver (finishNode s q 10 0)
  else if !nodeOk w then .isOver (finishNode s q 3 0)
  else if nodeSkipped s x.ctx w then
    let s := if nodeKind w = 5 then (phaseArrive s x.ctx q w true).2 else s
    .isOver (finishNode s q 2 (nodeNext w))
  else
    match graphOf s q with
    | some (x, g) => .begun s x g
    | none => .isOver s

theorem beginNode_graph {s s1 : State} {q : Nat} {x x0 : Queue} {g g0 : GraphRun} {w : BitVec 512} {ok : Bool}
    (h : beginNode q x0 g0 w ok s = .begun s1 x g) : graphOf s1 q = some (x, g) := by
  simp only [beginNode] at h
  split at h
  · cases h
  · split at h
    · cases h
    · split at h
      · cases h
      · split at h
        · next hg =>
          cases h
          exact hg
        · cases h

/-- R279: a node that has been started is the one that its graph stands at. -/
theorem startNode_graph {s s1 : State} {q : Nat} {x : Queue} {g : GraphRun} (h : startNode s q = .begun s1 x g) :
    graphOf s1 q = some (x, g) := by
  unfold startNode at h
  split at h
  · cases h
  · next hg =>
    split at h
    · cases h
    · split at h
      · cases h
        exact hg
      · split at h
        · cases h
        · split at h
          · cases h
          · split at h
            exact beginNode_graph h
      · cases h

theorem nodeEvent_begun {s s1 : State} {q kind : Nat} {x : Queue} {g : GraphRun}
    {body : State → Queue → GraphRun → State} (h : startNode s q = .begun s1 x g) (hk : nodeKind g.word = kind) :
    nodeEvent s q kind body = .next (body s1 x g) := by
  simp only [nodeEvent, h, hk, if_true]

theorem nodeEvent_isOver {s s1 : State} {q kind : Nat} {body : State → Queue → GraphRun → State}
    (h : startNode s q = .isOver s1) : nodeEvent s q kind body = .next s1 := by
  simp only [nodeEvent, h]

/-- R286: what a LOOP node does where it starts. -/
def loopBegins (q : Nat) (s : State) (x : Queue) (g : GraphRun) : State :=
  if 8 ≤ g.loops.length then finishNode s q 13 0
  else loopDecide (updGraph s q (fun y =>
      { y with loops := { node := g.node, word := g.word, cseq := g.cseq } :: y.loops, run := .loopNext }))
    q x g { node := g.node, word := g.word, cseq := g.cseq }

section
variable {s s1 s2 s3 : State} {q pa : Nat} {x : Queue} {g : GraphRun} {bs : List Byte}

/-- R286: with a node to start, the event of a LOOP starts it. -/
theorem loopIteration_starts (h : startNode s q = .begun s1 x g) :
    exec (.loopIteration q) s = nodeEvent s q 4 (loopBegins q) := by
  obtain ⟨x0, g0, hg, hr⟩ := startNode_run h
  refine (show exec (.loopIteration q) s = execLoopIteration q s from rfl).trans ?_
  rcases hr with hr | hr <;> simp only [execLoopIteration, hg, hr] <;> rfl

/-- R286: with a node to start, the event of an END starts it. -/
theorem endNode_starts (h : startNode s q = .begun s1 x g) :
    exec (.endNode q) s = nodeEvent s q 9 (fun s _ _ => finishNode s q 1 0) := by
  obtain ⟨x0, g0, hg, hr⟩ := startNode_run h
  refine (show exec (.endNode q) s = execEndNode q s from rfl).trans ?_
  rcases hr with hr | hr <;> simp only [execEndNode, hg, hr]

/-- R287: with a node to start, the event of a WAIT starts it. -/
theorem waitEvaluate_starts (h : startNode s q = .begun s1 x g) :
    exec (.waitEvaluate q) s = nodeEvent s q 6 (fun s x g =>
      evaluateWait (updGraph s q (fun y => { y with run := .waiting s.dt true })) q x g s.dt) := by
  obtain ⟨x0, g0, hg, hr⟩ := startNode_run h
  refine (show exec (.waitEvaluate q) s = execWaitEvaluate q s from rfl).trans ?_
  rcases hr with hr | hr <;> simp only [execWaitEvaluate, hg, hr]

section
variable (h : startNode s q = .begun s1 x g)
include h

/-- R282: a KERNEL node completes with the status of the first check that fails. -/
theorem kernelNodeStart_fails (hk : nodeKind g.word = 1) {st : Nat}
    (hc : launchCheck s1 (launchOfNode s1 x q g []) (g.word.getLsbD 128) = some st) :
    exec (.kernelNodeStart q) s = .next (finishNode s1 q st 0) := by
  refine (nodeEvent_begun h hk).trans ?_
  simp only [kernelStart, hc]

/-- R282: a KERNEL node without arguments whose checks pass goes to dispatch. -/
theorem kernelNodeStart_dispatches (hk : nodeKind g.word = 1)
    (hc : launchCheck s1 (launchOfNode s1 x q g []) (g.word.getLsbD 128) = none) (ha : g.word.getLsbD 8 = false) :
    let b : State := nextInterval s1 x.ctx
    exec (.kernelNodeStart q) s = .next (updGraph { b with
        launches := b.launches.put b.nextId (launchOfNode b x q g []), nextId := b.nextId + 1 } q (fun y =>
      { y with run := .kernel b.nextId })) := by
  refine (nodeEvent_begun h hk).trans ?_
  simp only [kernelStart, hc, ha, Bool.false_eq_true, if_false]
  rfl

/-- R284: a COPY node's copy enters the pump's engine. -/
theorem copyNode_enters (hk : nodeKind g.word = 2) :
    ∃ t op, exec (.copyNode q) s = .next t ∧ t.copies.find s1.nextId = some op
      ∧ op.rb = nodeField g.word 367 328 ∧ op.rows = 1 ∧ op.moved = 0 ∧ op.queue = some q ∧ op.ctx = x.ctx
      ∧ op.src = .global (flatRecord (nodeField g.word 511 440)) 0 0
      ∧ op.dst = .global (flatRecord (nodeField g.word 439 368)) 0 0 ∧ t.mem = s1.mem ∧ t.nextId = s1.nextId + 1 :=
  ⟨_, _, nodeEvent_begun h hk, SMap.find_put_self .., rfl, rfl, rfl, rfl, rfl, rfl, rfl, rfl, rfl⟩

/-- R285: a COND node chooses its successor by the word it reads. -/
theorem condNode_chooses (hk : nodeKind g.word = 3) (hr : pumpRead s1 x.ctx q (nodeField g.word 511 440) 4 g = .ok bs s2) :
    exec (.condNode q) s = .next (finishNode s2 q 1 (if leNat bs = 0 then nodeField g.word 439 368
      else if leNat bs = 1 then nodeField g.word 367 296 else if leNat bs = 2 then nodeField g.word 295 224
      else nodeField g.word 127 56)) := by
  refine (nodeEvent_begun h hk).trans ?_
  simp only [hr]
  rcases leNat bs with _ | _ | _ | n
  · rfl
  · rfl
  · rfl
  · rfl

/-- R286: a LOOP within eight others fails. -/
theorem loopIteration_ninth (hk : nodeKind g.word = 4) (hl : 8 ≤ g.loops.length) :
    exec (.loopIteration q) s = .next (finishNode s1 q 13 0) := by
  rw [loopIteration_starts h, nodeEvent_begun h hk, loopBegins, if_pos hl]

/-- R289, R290: a PHASE node arrives. -/
theorem phaseArrive_counts (hk : nodeKind g.word = 5) (hp : phaseArrive s1 x.ctx q g.word false = (true, s2)) :
    exec (.phaseArrive q) s = .next s2 := by
  refine (nodeEvent_begun h hk).trans ?_
  simp only [hp]

/-- R290: a PHASE node out of its role fails. -/
theorem phaseArrive_fails (hk : nodeKind g.word = 5) (hp : phaseArrive s1 x.ctx q g.word false = (false, s2)) :
    exec (.phaseArrive q) s = .next (finishNode s2 q 11 0) := by
  refine (nodeEvent_begun h hk).trans ?_
  simp only [hp]

/-- R287: a WAIT node is evaluated where it starts. -/
theorem waitEvaluate_begins (hk : nodeKind g.word = 6) :
    exec (.waitEvaluate q) s = .next (evaluateWait (updGraph s1 q (fun y => { y with run := .waiting s1.dt true })) q x g
      s1.dt) := by
  rw [waitEvaluate_starts h, nodeEvent_begun h hk]

/-- R288: a SIGNAL node sets or adds, as one write. -/
theorem signalNode_writes (hk : nodeKind g.word = 7)
    (hx : pumpXlate s1 x.ctx q (nodeField g.word 511 440) g true = .ok pa s2) (ht : syncTake s2 (lineOf pa) = some s3) :
    let old : Nat := leNat (readNewest s3 pa 8)
    let v : Nat := if g.word.getLsbD 375 then (old + nodeField g.word 439 376) % 2 ^ 64 else nodeField g.word 439 376
    let r := storeLine s3 (lineOf pa) 0 (numbered (pa % 128) (leBytes 8 v))
    exec (.signalNode q) s = .next (wakeWaits (finishNode (updGraph r.1 q (fun y =>
      { y with tw := Nat.max y.tw r.2, irq := if g.word.getLsbD 374 then some (nodeField g.word 373 363) else none }))
        q 1 (nodeNext g.word)) x.ctx) := by
  have hg : graphOf (storeLine s3 (lineOf pa) 0 (numbered (pa % 128) (leBytes 8 (if g.word.getLsbD 375 then
      (leNat (readNewest s3 pa 8) + nodeField g.word 439 376) % 2 ^ 64 else nodeField g.word 439 376)))).1 q = some (x, g) := by
    rw [← startNode_graph h, graphOf, graphOf, storeLine_queues, syncTake_queues ht, pumpXlate_ok_queues hx]
  refine (nodeEvent_begun h hk).trans ?_
  simp only [hx, ht]
  exact congrArg (fun t => Host.Outcome.next (wakeWaits (finishNode t q 1 (nodeNext g.word)) x.ctx)) (updGraph_congr hg rfl)

/-- R291: a RING node clears PROD, and binds its handle. -/
theorem ringNode_binds (hk : nodeKind g.word = 8)
    (hw : pumpWrite s1 x.ctx q (nodeField g.word 439 368) (leBytes 4 0) g = .ok () s2) :
    let f : Nat → Nat → Nat := nodeField g.word
    exec (.ringNode q) s = .next (finishNode (updCtx (ringInterrupt s2 x.ctx (f 319 314)) x.ctx (fun c =>
      { c with rings := c.rings.put (f 319 314) {
          ring := { base := f 511 440, cb := f 439 368, log2 := f 324 320, vec := some (f 335 325) }
          n := f 367 352, t := f 351 336, queue := q } })) q 1 (nodeNext g.word)) := by
  refine (nodeEvent_begun h hk).trans ?_
  simp only [hw]

/-- R286: an END node completes. -/
theorem endNode_completes (hk : nodeKind g.word = 9) : exec (.endNode q) s = .next (finishNode s1 q 1 0) := by
  rw [endNode_starts h, nodeEvent_begun h hk]

end

-- the iterations of a loop (R286)

section
variable {fr : LoopFrame} {frs : List LoopFrame} (hg : graphOf s q = some (x, g))
include hg

/-- R286: the end of a loop's body ends an iteration. -/
theorem endNode_iterates (hl : g.loops = fr :: frs) (hd : nodeDue s x g = true) (hr : g.run = .ended) :
    exec (.endNode q) s = .next (updGraph s q (fun y =>
      { y with loops := { fr with i := fr.i + 1 } :: frs, run := .loopNext })) :=
  (show exec (.endNode q) s = execEndNode q s from rfl).trans
    (by simp only [execEndNode, hg, hr, hd, hl, Bool.not_true, Bool.false_eq_true, if_false])

/-- R286, R387: the end of the graph completes its entry. -/
theorem endNode_ends (hl : g.loops = []) (hd : nodeDue s x g = true) (hr : g.run = .ended) :
    exec (.endNode q) s = .next (completeEntry s q 1 0) :=
  (show exec (.endNode q) s = execEndNode q s from rfl).trans
    (by simp only [execEndNode, hg, hr, hd, hl, Bool.not_true, Bool.false_eq_true, if_false])

/-- R286: the innermost loop decides its next iteration. -/
theorem loopIteration_decides (hl : g.loops = fr :: frs) (hd : nodeDue s x g = true) (hr : g.run = .loopNext) :
    exec (.loopIteration q) s = .next (loopDecide s q x g fr) :=
  (show exec (.loopIteration q) s = execLoopIteration q s from rfl).trans
    (by simp only [execLoopIteration, hg, hr, hl, hd, if_true])

end

section
variable {fr : LoopFrame} (hr : pumpRead s x.ctx q (nodeField fr.word 439 368) 4 g = .ok bs s2)
include hr

/-- R286: a loop whose word is 0 completes. -/
theorem loopDecide_zero (h0 : leNat bs = 0) : loopDecide s q x g fr = loopExit s2 q 1 fr := by
  simp only [loopDecide, hr, h0, if_true]

/-- R286: a loop at its limit completes. -/
theorem loopDecide_limit (h0 : leNat bs ≠ 0) (hi : fr.i = nodeField fr.word 295 264) :
    loopDecide s q x g fr = loopExit s2 q (if nodeField fr.word 295 264 = 0 then 1 else 14) fr := by
  simp only [loopDecide, hr, h0, hi, if_false, if_true]

/-- R286, R356: a loop that goes on counts an interval, and its graph stands at the first node of its body. -/
theorem loopDecide_goes (h0 : leNat bs ≠ 0) (hi : fr.i ≠ nodeField fr.word 295 264) (hw : nodeField fr.word 367 296 = 0) :
    loopDecide s q x g fr = goTo (updGraph (nextInterval s2 x.ctx) q (fun y =>
      { y with loops := { fr with i := fr.i } :: y.loops.drop 1 })) q (nodeField fr.word 511 440) := by
  simp only [loopDecide, hr, h0, hi, hw, if_false, if_true]

end

/-- R276: a graph that goes to an address stands there. -/
theorem graphOf_goTo {addr : Nat} (hg : graphOf s q = some (x, g)) (ha : addr ≠ 0) :
    ∃ x', graphOf (goTo s q addr) q = some (x', { g with node := addr, run := .start }) := by
  have hup := graphOf_updGraph s q (fun y => if addr = 0 then { y with run := .ended } else { y with node := addr, run := .start })
  rw [hg, Option.map_some, if_neg ha] at hup
  exact ⟨_, hup⟩

/-- R286: a loop that goes on leaves memory, and its graph at the first node of its body. -/
theorem loopIteration_goes {fr : LoopFrame} {frs : List LoopFrame} (hg : graphOf s q = some (x, g)) (hl : g.loops = fr :: frs)
    (hd : nodeDue s x g = true) (hrun : g.run = .loopNext)
    (hr : pumpRead s x.ctx q (nodeField fr.word 439 368) 4 g = .ok bs s2) (h0 : leNat bs ≠ 0)
    (hi : fr.i ≠ nodeField fr.word 295 264) (hw : nodeField fr.word 367 296 = 0) (ha : nodeField fr.word 511 440 ≠ 0) :
    ∃ t x' g', exec (.loopIteration q) s = .next t ∧ t.mem = s2.mem
      ∧ ((graphOf s2 q).isSome = true → graphOf t q = some (x', g') ∧ g'.run = .start ∧ g'.node = nodeField fr.word 511 440) := by
  have hexec := (loopIteration_decides hg hl hd hrun).trans (congrArg _ (loopDecide_goes hr h0 hi hw))
  cases hg2 : graphOf s2 q with
  | none => exact ⟨_, x, g, hexec, rfl, nofun⟩
  | some p =>
    have hup : graphOf (updGraph (nextInterval s2 x.ctx) q (fun y =>
        { y with loops := { fr with i := fr.i } :: y.loops.drop 1 })) q = _ :=
      (graphOf_updGraph ..).trans (congrArg _ (show graphOf (nextInterval s2 x.ctx) q = some p from hg2))
    obtain ⟨x', hx'⟩ := graphOf_goTo hup ha
    exact ⟨_, x', _, hexec, rfl, fun _ => ⟨hx', rfl, rfl⟩⟩

-- waits (R287)

/-- R287: an evaluation that is due completes the WAIT node, or the node waits on. -/
theorem waitEvaluate_due {since : Nat} (hg : graphOf s q = some (x, g)) (hw : g.run = .waiting since true)
    (hf : g.fault = none) (hp : pumpRuns s x.ctx = true)
    (hr : pumpRead s x.ctx q (nodeField g.word 511 440) 8 g = .ok bs s2) :
    exec (.waitEvaluate q) s = .next (if nodeField g.word 439 376 ≤ leNat bs then finishNode s2 q 1 (nodeNext g.word)
      else updGraph s2 q (fun y => { y with run := .waiting since false })) :=
  (show exec (.waitEvaluate q) s = execWaitEvaluate q s from rfl).trans
    (by simp only [execWaitEvaluate, hg, hw, hf, hp, Option.isSome_none, Bool.not_true, Bool.or_self, Bool.false_eq_true,
      if_false, evaluateWait, hr])

theorem waitTick_marks (h : s.dt % 4096 = 0) : exec .waitTick s = .next (s.queues.keys.foldl wakeWait s) := if_pos h

/-- R287: a WAIT node whose limit has passed fails. -/
theorem waitTimeout_fails {since : Nat} {due : Bool} (hg : graphOf s q = some (x, g)) (hw : g.run = .waiting since due)
    (h0 : nodeField g.word 375 344 ≠ 0) (ht : since + 1000 * nodeField g.word 375 344 ≤ s.dt)
    (hp : pumpRuns s x.ctx = true) : exec (.waitTimeout q) s = .next (finishNode s q 12 0) := by
  have hover : waitExpired s g = true := by
    simp only [waitExpired, hw, bne_iff_ne.mpr h0, decide_eq_true ht, Bool.and_self]
  exact (show exec (.waitTimeout q) s = execWaitTimeout q s from rfl).trans
    (by simp only [execWaitTimeout, hg, hover, hp, Bool.and_self, if_true])

-- completion (R277, R278, R280, R367)

theorem goesOn_eq_false (status : Nat) : goesOn status = false ↔ status ≠ 1 ∧ status ≠ 2 ∧ status ≠ 14 := by
  simp only [goesOn, Bool.or_eq_false_iff, beq_eq_false_iff_ne, and_assoc]

/-- R277, R278, R280, R367: a node that is done has its STATUS written, and the graph ends, stops or goes on. -/
theorem nodeDone_writes {status next : Nat} (ht : g.tw = 0 ∨ g.tw + 2 ≤ s.dt)
    (hw : pumpWrite (updGraph (raiseIrq s g.irq) q (fun y => { y with irq := none })) x.ctx q (g.node + 2) (leBytes 2 status)
      { g with irq := none } = .ok () s2) :
    let t : State := sessionNode s2 q g.cseq 3 g.node
    nodeDone s q x g status next =
      if status ≠ 1 ∧ status ≠ 2 ∧ status ≠ 14 then completeEntry t q status g.node
      else if (g.cseq, true) ∈ x.breaks then stopHit (updGraph t q (fun y => { y with run := .stopAfter next })) q g.cseq true
      else goTo t q next := by
  have hvis : (g.tw == 0 || decide (g.tw + 2 ≤ s.dt)) = true := by
    simpa only [Bool.or_eq_true, beq_iff_eq, decide_eq_true_eq] using ht
  simp only [nodeDone, hvis, hw, ← goesOn_eq_false, List.contains_iff_mem, Bool.not_eq_true', Bool.not_true,
    Bool.false_eq_true, if_false]

section
variable (hg : graphOf s q = some (x, g)) (hf : g.fault = none) (hp : pumpRuns s x.ctx = true) (hx : x.resetting = false)
include hg hf hp hx

theorem nodeComplete_finishes {status next : Nat} (hr : g.run = .finishing status next) :
    exec (.nodeComplete q) s = .next (nodeDone s q x g status next) := by
  refine (show exec (.nodeComplete q) s = execNodeComplete q s from rfl).trans ?_
  simp only [execNodeComplete, hg, hf, hp, hx, hr, Option.isSome_none, Bool.not_true, Bool.or_self, Bool.false_eq_true,
    if_false]

/-- R278: a KERNEL node completes once its launch has ended and its stores are visible. -/
theorem nodeComplete_kernel {id : Nat} {l : Launch} (hr : g.run = .kernel id) (hl : s.launches.find id = some l) :
    exec (.nodeComplete q) s = .next (if launchEnded s id l = true ∧ launchTw s id l + 2 ≤ s.dt then
      finishNode (dropLaunch s id) q 1 (nodeNext g.word) else s) := by
  refine (show exec (.nodeComplete q) s = execNodeComplete q s from rfl).trans ?_
  simp only [execNodeComplete, hg, hf, hp, hx, hr, Option.isSome_none, Bool.not_true, Bool.or_self, Bool.false_eq_true,
    if_false, kernelDone, hl]
  cases launchEnded s id l with
  | false => rfl
  | true =>
    by_cases ht : launchTw s id l + 2 ≤ s.dt
    · simp only [Bool.not_true, Bool.false_eq_true, if_false, Nat.not_lt.mpr ht, ht, and_self, if_true]
    · simp only [Bool.not_true, Bool.false_eq_true, if_false, Nat.lt_of_not_le ht, ht, and_false, if_true]

end

end

/-- Settles O53: each event in turn. -/
theorem pumpEvents : Obligations.PumpEvents :=
  ⟨fun _ _ _ => queueEntryStart_starts,
    fun _ _ _ _ _ _ _ _ _ h => ⟨fun _ hk hc => kernelNodeStart_fails h hk hc, kernelNodeStart_dispatches h, copyNode_enters h,
      condNode_chooses h, loopIteration_ninth h, phaseArrive_counts h, phaseArrive_fails h, waitEvaluate_begins h,
      signalNode_writes h, ringNode_binds h, endNode_completes h⟩,
    fun _ _ _ h => ⟨nodeEvent_isOver h, nodeEvent_isOver h, nodeEvent_isOver h⟩,
    fun _ _ _ _ _ _ _ _ hg hl hd => ⟨endNode_iterates hg hl hd, fun hrun hr =>
      have hdec := loopIteration_decides hg hl hd hrun
      ⟨fun h0 => hdec.trans (congrArg _ (loopDecide_zero hr h0)),
        fun h0 hi => hdec.trans (congrArg _ (loopDecide_limit hr h0 hi)), loopIteration_goes hg hl hd hrun hr⟩⟩,
    fun _ _ _ _ hg hr hl hd => endNode_ends hg hl hd hr,
    fun _ _ _ _ _ _ _ => waitEvaluate_due, fun _ => waitTick_marks, fun _ _ _ _ _ _ => waitTimeout_fails,
    fun _ _ _ _ _ _ _ hg hf hp hx hr ht hw =>
      (nodeComplete_finishes hg hf hp hx hr).trans (congrArg _ (nodeDone_writes ht hw)),
    fun _ _ _ _ _ _ hg hf hp hx hr hl => nodeComplete_kernel hg hf hp hx hr hl⟩

end Sys2Proof.Machine
end

section
/-! SUPPORT. The appends of RINGPUT, and the coalescing time of a ring (R292, R293, R305, R357, R360, R541, R542). -/
namespace Sys2Proof.Machine

/-- R541: the access `a` of a RINGPUT to the ring `rh` of its crew `cr` may make the next step of the append of a lane, whose
entry `q` is not done: those before it are, none of the ring's other appends is under way, and nothing holds it. -/
structure AppendDue (s : State) (id lane rh : Nat) (a : Access) (cr : Crew) (q : LaneReq) : Prop where
  access : s.accs.find id = some a
  kind   : a.kind = .ring rh
  crew   : s.crews.find a.crew = some cr
  entry  : a.lanes.find? (fun x => x.lane == lane) = some q
  undone : q.done = false
  first  : a.lanes.any (fun x => decide (x.lane < lane) && !x.done) = false
  issued : inStoreQ s id a = false
  uncut  : cutMade s a.ctx = false
  alone  : appendBehind s id a cr.ctx rh = false
  clear  : ∀ l ∈ a.lines, ∀ t, l.st ≠ .faulted t

/-- R292: the next step of a lane's append to a bound ring: its record, and later its PROD write. -/
def laneStep (s : State) (id lane rh : Nat) (a : Access) (cr : Crew) (q : LaneReq) (b : Binding) : Appended :=
  if q.aux2 = 0 then appendRecord s id lane a cr cr.ctx b q
  else if s.dt < q.aux + 2 then .wait s
  else appendProd s id lane a cr cr.ctx rh b

/-- R541: an access whose every lane is appended ends. -/
def endWhole (t : State) (id : Nat) : State :=
  if ((t.accs.find id).map (fun a => a.lanes.all (·.done))).getD false then endAccess t id else t

/-- R542: the state after a step of an append. -/
def Appended.ends (id : Nat) : Appended → State
  | .wait s => s
  | .bad s => appendFail s id
  | .ok _ s => endWhole s id

section
variable {s s1 s2 s3 : State} {id lane rh pa pc tw : Nat} {a : Access} {cr : Crew} {q : LaneReq} {b : Binding}

/-- R541, R542: what a step of an append that is due does, by its ring's binding. -/
theorem ringAppend_steps (h : AppendDue s id lane rh a cr q) : exec (.ringAppend id lane) s = .next (
    match (s.ctxs.find cr.ctx).bind (fun c => c.rings.find rh) with
    | none => deferReport (endAccess s id) a.crew a.lanesM { code := 0x03, addr := BitVec.ofNat 64 rh }
    | some b => (laneStep s id lane rh a cr q b).ends id) := by
  refine (show exec (.ringAppend id lane) s = execRingAppend id lane s from rfl).trans ?_
  simp only [execRingAppend, h.access, h.uncut, Bool.false_eq_true, if_false, h.kind, h.crew, ringStep, h.entry, h.undone,
    h.first, h.issued, h.alone, Bool.or_self, Bool.false_or]
  refine congrArg Host.Outcome.next ((if_neg ?_).trans ?_)
  · simp only [List.any_eq_true, not_exists, not_and]
    intro l hl
    split
    · next t ht => exact absurd ht (h.clear l hl t)
    · exact Bool.false_ne_true
  · rfl

/-- R542: an append to a handle without a binding ends. -/
theorem ringAppend_unbound (h : AppendDue s id lane rh a cr q)
    (hb : (s.ctxs.find cr.ctx).bind (fun c => c.rings.find rh) = none) : exec (.ringAppend id lane) s
      = .next (deferReport (endAccess s id) a.crew a.lanesM { code := 0x03, addr := BitVec.ofNat 64 rh }) := by
  rw [ringAppend_steps h, hb]

theorem ringAppend_bound (h : AppendDue s id lane rh a cr q)
    (hb : (s.ctxs.find cr.ctx).bind (fun c => c.rings.find rh) = some b) :
    exec (.ringAppend id lane) s = .next ((laneStep s id lane rh a cr q b).ends id) := by
  rw [ringAppend_steps h, hb]

section
variable (hx : appendXlate s id cr cr.ctx b.queue b.ring.cb b.ring.cb { w := true, s := true } = .ok pc s1)
include hx

/-- R360: a record whose PROD write is owed its check, and conflicts, is not appended. -/
theorem laneStep_races (h0 : q.aux2 = 0) (hrep : a.rep = true) {va : Nat}
    (hrace : raceAccess s1 cr.ctx a.who false true [(pc, b.ring.cb)] = .error va) :
    laneStep s id lane rh a cr q b = .wait (deferReport (endAccess s1 id) a.crew a.lanesM (reportVA 0x0A va)) := by
  simp only [laneStep, h0, if_true, appendRecord, hx, appendRace, hrep, Bool.not_true, Bool.false_eq_true, if_false, hrace]

/-- R292: the ring has no room. -/
def ringIsFull (s1 : State) (pc : Nat) (b : Binding) : Prop :=
  (leNat (readNewest s1 pc 4) + 2 ^ 32 - leNat (readHome s1 (pc + 64) 4)) % 2 ^ 32 = 2 ^ b.ring.log2

/-- R292: a record for a ring without room waits. -/
theorem laneStep_full (h0 : q.aux2 = 0) (hrep : a.rep = false) (hfull : ringIsFull s1 pc b) :
    laneStep s id lane rh a cr q b = .wait s1 := by
  simp only [laneStep, h0, if_true, appendRecord, hx, appendRace, hrep, Bool.not_false]
  exact if_pos hfull

/-- R292: a record is written at PROD, and takes its Tw. -/
theorem laneStep_records (h0 : q.aux2 = 0) (hrep : a.rep = false) (hroom : ¬ ringIsFull s1 pc b) {va : Nat}
    (hva : b.ring.base + 8 * (leNat (readNewest s1 pc 4) % 2 ^ b.ring.log2) = va)
    (hpa : appendXlate s1 id cr cr.ctx b.queue va b.ring.cb { w := true, s := true } = .ok pa s2)
    (hw : appendWrite s2 id a va pa q.data none = some (s3, tw)) :
    laneStep s id lane rh a cr q b = .ok pa (updLane s3 id lane (fun x => { x with aux2 := 1, aux := tw })) := by
  subst hva
  simp only [laneStep, h0, if_true, appendRecord, hx, appendRace, hrep, Bool.not_false, hpa, hw]
  exact if_neg hroom

/-- R292: once the record is visible, PROD rises by 1. -/
theorem laneStep_raises (h0 : q.aux2 ≠ 0) (hvis : q.aux + 2 ≤ s.dt)
    (hw : appendWrite s1 id a b.ring.cb pc (leBytes 4 ((leNat (readNewest s1 pc 4) + 1) % 4294967296)) none = some (s3, tw)) :
    laneStep s id lane rh a cr q b = .ok pc (updLane (tokCount (ringCount (ackTw s3 a.crew 3 tw) cr.ctx rh) cr.ctx cr a) id
      lane (fun x => { x with done := true })) := by
  rw [laneStep, if_neg h0, if_neg (Nat.not_lt.mpr hvis)]
  simp only [appendProd, hx, hw]

end

/-- R292: PROD is not raised before the record is visible. -/
theorem laneStep_waits (h0 : q.aux2 ≠ 0) (hvis : s.dt < q.aux + 2) : laneStep s id lane rh a cr q b = .wait s := by
  rw [laneStep, if_neg h0, if_pos hvis]

end

section
variable {s : State} {ctx rh : Nat} {c : Context} {b : Binding}

theorem coalesceDue_iff : coalesceDue s b = true ↔ b.t ≠ 0 ∧ b.c ≠ 0 ∧ 1000 * b.t ≤ ticksSince s b.first := by
  simp only [coalesceDue, Bool.and_eq_true, bne_iff_ne, decide_eq_true_eq, and_assoc]

/-- R293: what the passing of a ring's coalescing time does. -/
theorem ringCoalesceTimeout_eq (hc : s.ctxs.find ctx = some c) (hb : c.rings.find rh = some b) (hq : quiesced s ctx = false) :
    exec (.ringCoalesceTimeout ctx rh) s = .next (if coalesceDue s b then ringInterrupt s ctx rh else s) :=
  (show exec (.ringCoalesceTimeout ctx rh) s = execRingCoalesceTimeout ctx rh s from rfl).trans
    (by simp only [execRingCoalesceTimeout, hc, Option.bind_some, hq, Bool.false_eq_true, if_false, hb])

/-- R293: a ring's interrupt covers the records since the last. -/
theorem ringInterrupt_raises (hc : s.ctxs.find ctx = some c) (hb : c.rings.find rh = some b) (h0 : b.c ≠ 0) :
    (ringInterrupt s ctx rh).irqs = s.irqs ++ b.ring.vec.toList
      ∧ (ringInterrupt s ctx rh).ctxs.find ctx = some { c with rings := c.rings.put rh { b with c := 0, first := 0 } } := by
  simp only [ringInterrupt, hc, Option.bind_some, hb, h0, if_false, raiseIrq]
  cases b.ring.vec with
  | none => exact ⟨(List.append_nil _).symm, by simp [updCtx, hc]⟩
  | some v => exact ⟨rfl, by simp [updCtx, hc]⟩

end

end Sys2Proof.Machine
end

section
/-! SUPPORT. A BALLOT at its group's record (R298 to R300, R361, R363, R418, R420). -/
namespace Sys2Proof.Machine

/-- R420: the status of a BALLOT is known, and its access is over at its line. -/
def ballotAnswers (id pa0 : Nat) (s : State) (v : Nat) : State :=
  logDone (updAcc s id (fun a =>
    { a with ready := true, lines := a.lines.map (fun l => { l with st := .done pa0 })
             lanes := a.lanes.map (fun q => { q with done := true })
             result := a.lanes.map (fun q => (q.lane, BitVec.ofNat 128 v)) })) id

/-- R363: in REPLAY the head of a group's recorded posts is matched. -/
def postMatched (u : State) (ctx g : Nat) : State :=
  match postHead u ctx g with
  | some (i, _) => traceMatch u ctx i
  | none => u

theorem postMatched_none {u : State} {ctx g : Nat} (h : postHead u ctx g = none) : postMatched u ctx g = u := by
  rw [postMatched, h]

theorem postMatched_some {u : State} {ctx g : Nat} {p} (h : postHead u ctx g = some p) :
    postMatched u ctx g = traceMatch u ctx p.1 := by
  rw [postMatched, h]

/-- R361, R363: the POST event of a sibling of a group, which in REPLAY is matched. -/
def postTraced (s : State) (cr : Crew) (g k : Nat) : State :=
  let u : State := traceEvent s cr.ctx [(88, nodeInterval s cr % 2 ^ 32),
    (56, ((s.cohorts.find cr.cohort).map (·.index)).getD 0 % 2 ^ 32), (24, g), (18, k), (0, 0x63)]
  if replaying u cr.ctx then postMatched u cr.ctx g else u

/-- The virtual address of the group's record that a BALLOT names. -/
def ballotVA (a : Access) : Nat := (a.lanes.head?.map (·.va)).getD 0

theorem ballotVA_eq (a : Access) : ballotVA a = (a.lanes.head?.map (·.va)).getD 0 := rfl

/-- R300, R361, R363, R418, R420: a post is performed, recorded and answered; a void one is only recorded and reported. -/
def ballotPosted (id pa0 : Nat) (a : Access) (cr : Crew) (hash : Option W64) (b : State) : State :=
  let pa : Nat := pa0 + ballotVA a % 128
  let g : Nat := cr.sib.toNat / 64
  let k : Nat := cr.sib.toNat % 64
  let void : Bool := ballotVoid b pa k
  let r := if void then (0, b) else ballotPerform b a.crew cr.ctx pa g k hash
  let t : State := wakeBallots (ballotAnswers id pa0 (postTraced r.2 cr g k) r.1) cr.ctx
  if void then deferReport t a.crew a.lanesM (reportVA 0x03 (ballotVA a)) else t

/-- R182, R418: the access `a` of a BALLOT of the crew `cr` may be performed: its line `l` is translated to `pa0` and has its
bytes, and neither the crew's loads nor its earlier accesses hold it. -/
structure BallotDue (s : State) (id pa0 : Nat) (a : Access) (cr : Crew) (l : LineReq) (ls : List LineReq)
    (hash : Option W64) : Prop where
  access  : s.accs.find id = some a
  kind    : a.kind = .ballot hash
  lines   : a.lines = l :: ls
  crew    : s.crews.find a.crew = some cr
  line    : l.st = .ready pa0
  waits   : a.ready = false
  loads   : loadsReturned s a.crew id = true
  unheld  : syncBlocked s id a l pa0 = false
  filled  : syncFill s id 0 pa0 l = .filled

section
variable {s s1 s2 b : State} {id pa0 : Nat} {a : Access} {cr : Crew} {l : LineReq} {ls : List LineReq} {hash : Option W64}

/-- R300, R335, R418: a BALLOT that takes its group's lines is performed, or finds its record lost. -/
theorem ballotPost_takes (h : BallotDue s id pa0 a cr l ls hash) (h1 : syncTake s (lineOf (pa0 + ballotVA a % 128)) = some s1)
    (h2 : syncTake s1 (lineOf (sibEntry (pa0 + ballotVA a % 128) (cr.sib.toNat % 64))) = some s2)
    (hb : countCore (touchWindows s2 (pa0 + ballotVA a % 128)) cr (ballotVA a) a.kind.acc = b) :
    exec (.ballotPost id) s = .next (if (l.got.getD []).contains ((pa0 + ballotVA a % 128) / 64) then
      ballotAnswers id pa0 b 0 else ballotPosted id pa0 a cr hash b) := by
  have hgo : (a.ready || !loadsReturned s a.crew id || syncBlocked s id a l pa0) = false := by
    simp only [h.waits, h.loads, h.unheld, Bool.not_true, Bool.or_self]
  have htake : (syncTake s (lineOf (pa0 + ballotVA a % 128))).bind (fun s =>
      syncTake s (lineOf (sibEntry (pa0 + ballotVA a % 128) (cr.sib.toNat % 64)))) = some s2 := by
    rw [h1, Option.bind_some, h2]
  refine (show exec (.ballotPost id) s = execBallotPost id s from rfl).trans ?_
  rw [h.kind] at hb
  simp only [execBallotPost, h.access, h.kind, h.lines, h.crew, h.line, hgo, Bool.false_eq_true, if_false, h.filled,
    ← ballotVA_eq, htake, hb]
  split
  · rfl
  · simp only [ballotPosted]
    generalize (if ballotVoid _ _ _ = true then _ else _ : Nat × State) = r
    simp only [postTraced, postMatched]
    generalize traceEvent r.2 _ _ = w
    cases postHead w cr.ctx (cr.sib.toNat / 64) <;> rfl

end

section
variable {s : State} {cid ctx pa g k : Nat} {hash : Option W64}

/-- R300: a group that is not OPEN is CLOSED to a BALLOT. -/
theorem ballotPerform_closed (h : groupState s pa ≠ 0) : ballotPerform s cid ctx pa g k hash = (2, s) := if_pos h

/-- R300: a second post of a sibling is a DUPLICATE. -/
theorem ballotPerform_duplicate (h : groupState s pa = 0) (hp : sibPosted s pa k = true) :
    ballotPerform s cid ctx pa g k hash = (3, s) := (if_neg (not_not.mpr h)).trans (if_pos hp)

end

end Sys2Proof.Machine
end

section
/-! SUPPORT. The walk of a cancelled sibling's page list (R304, R305). -/
namespace Sys2Proof.Machine

/-- R304, R377: the home engine may make the next step of the walk of a CANCELLING sibling `x`: no crew of it remains, and
its context is not quiesced. -/
structure WalkDue (s : State) (ctx k : Nat) (c : Context) (x : Sibling) : Prop where
  context    : s.ctxs.find ctx = some c
  sibling    : c.sibs.find k = some x
  cancelling : x.state = .cancelling
  clear      : x.fault = none
  moves      : quiesced s ctx = false
  over_      : siblingLives s ctx k = false

section
variable {s s1 s2 s3 : State} {ctx k gpa p q : Nat} {c : Context} {x : Sibling}

/-- R304: the walk's next step, once the group's record is translated. -/
theorem siblingPageRelease_steps {group sib : Nat} (h : WalkDue s ctx (group * 64 + sib) c x) (hr : x.refused = false)
    (hw : walkXlate s ctx (group * 64 + sib) (groupVA s ctx group) ((peek s none 0 ctx (groupVA s ctx group)).getD 0)
      { r := true, w := true, s := true } = .ok gpa s1) :
    exec (.siblingPageRelease ctx group sib) s = .next (releaseStep s1 ctx (group * 64 + sib) gpa x) := by
  have hgo : (x.state != .cancelling || x.fault.isSome || quiesced s ctx || siblingLives s ctx (group * 64 + sib)) = false := by
    simp only [h.cancelling, h.clear, h.moves, h.over_, Option.isSome_none, bne_self_eq_false, Bool.or_self]
  refine (show exec (.siblingPageRelease ctx group sib) s = execSiblingPageRelease ctx group sib s from rfl).trans ?_
  simp only [execSiblingPageRelease, h.context, Option.bind_some, h.sibling, hgo, Bool.false_eq_true, if_false, hr,
    Bool.false_and, hw]

/-- R304: the number of entries of a sibling's page list. -/
def listLength (s : State) (gpa k : Nat) : Nat := groupField s (sibEntry gpa (k % 64)) 8 4 / 2 ^ 8 % 2 ^ 16

/-- R304: the address of a sibling's page list; 0 is none. -/
def listBase (s : State) (gpa k : Nat) : Nat := groupField s (sibEntry gpa (k % 64)) 24 8 % 2 ^ 59 * 8192

/-- R304, R305: at the end of its list the walk writes TOK and CYC, once it has their line. -/
theorem releaseStep_counts (h : x.isOver = false) (hend : listBase s gpa k = 0 ∨ listLength s gpa k ≤ x.walk.getD 0) :
    releaseStep s ctx k gpa x = (walkWrites s ctx k
      [(sibEntry gpa (k % 64) + 12, leBytes 4 (x.tok + tokPending s ctx k x.ddt)),
        (sibEntry gpa (k % 64) + 16, leBytes 8 x.cyc)]).elim s (fun t => updSib t ctx k (fun x =>
          { x with isOver := true, walk := none, refused := false })) := by
  have hdone : (listBase s gpa k = 0 || listLength s gpa k ≤ x.walk.getD 0) = true := by
    simpa only [Bool.or_eq_true, decide_eq_true_eq] using hend
  rw [listBase, listLength] at hdone
  simp only [releaseStep, h, Bool.false_eq_true, if_false, hdone, if_true, releaseEnd]
  cases walkWrites s ctx k _ <;> rfl

/-- R304: once its writes are acknowledged, the walk sets CANC, and the sibling is CANCELLED. -/
theorem releaseStep_cancels (h : x.isOver = true) : releaseStep s ctx k gpa x = if s.dt < x.walkTw + 2 then s
    else (walkWrites s ctx k [(sibEntry gpa (k % 64) + 8, leBytes 4 (groupField s (sibEntry gpa (k % 64)) 8 4 ||| 2 ^ 29))]).elim s
      (fun t => updSib t ctx k (fun x => { x with state := .cancelled })) := by
  simp only [releaseStep, h, if_true, releaseDone]
  cases walkWrites s ctx k _ <;> rfl

/-- R304: an entry of the list is released, and the walk goes to the next. -/
theorem releaseStep_releases (h : x.isOver = false) (hr : x.refused = false) (hlist : listBase s gpa k ≠ 0)
    (hi : x.walk.getD 0 < listLength s gpa k)
    (hp : walkXlate s ctx k (listBase s gpa k + 8 * x.walk.getD 0) gpa { r := true, s := true } = .ok p s2)
    (hf : needsFill s2 (lineOf p) = false) (hl : lostGranule s2 p = false)
    (he : releaseEntry s2 ctx k gpa (leNat (readHome s2 p 8)) false = .ok q s3) :
    releaseStep s ctx k gpa x = updSib (touchWindows (touchWindows s3 p) gpa) ctx k (fun y =>
      { y with walk := some (x.walk.getD 0 + 1), refused := false }) := by
  have hmore : (listBase s gpa k = 0 || listLength s gpa k ≤ x.walk.getD 0) = false := by
    simp only [hlist, Nat.not_le.mpr hi, decide_false, Bool.or_self]
  rw [listBase] at hmore hp
  rw [listLength] at hmore
  simp only [releaseStep, h, Bool.false_eq_true, if_false, hmore, hr, Bool.false_and, hp, hf, hl, he]

end

end Sys2Proof.Machine
end

section
/-! SUPPORT. Replays, notifications, monitors, tails of trace sessions, and copies (R152, R154, R323, R364, R372, R373,
R375). -/
namespace Sys2Proof.Machine

section
variable {s : State} {ctx : Nat}

/-- R364: the replay of a context that runs is examined for divergence. -/
theorem replayTimeout_diverges (h : replaying s ctx = true) (hp : pumpRuns s ctx = true) :
    exec (.replayTimeout ctx) s = .next (divergePlace (divergeBallots (divergeLocks s ctx) ctx) ctx) :=
  if_neg (by simp [h, hp])

theorem replayTimeout_idle (h : replaying s ctx = false) : exec (.replayTimeout ctx) s = .next s := if_pos (by simp [h])

/-- R375: a session without a buffer, or with nothing to flush, is left. -/
theorem flushSession_nothing {q : Nat} {x : Queue} (hx : s.queues.find q = some x)
    (h : x.sess.ring = none ∨ (x.sess.tail = [] ∧ x.sess.lost = 0)) : flushSession s q = s := by
  simp only [flushSession, hx]
  rcases h with h | ⟨ht, hl⟩
  · rw [h]
  · cases x.sess.ring with
    | none => rfl
    | some r => simp only [ht, hl, List.isEmpty_nil, beq_self_eq_true, Bool.and_self, if_true]

end

section
variable {s : State}

theorem countingRetry_between (h : s.dt % 2 ^ 16 ≠ 0) : exec .countingRetry s = .next s :=
  (show exec .countingRetry s = execCountingRetry s from rfl).trans (by rw [execCountingRetry, if_pos h])

/-- R323: the notifications that wait are retried. -/
theorem countingRetry_due (h : s.dt % 2 ^ 16 = 0) : exec .countingRetry s
    = .next ((s.dies.zipIdx.flatMap (fun p => (p.1.hot.filter (fun h => h.2.state == .pending)).map (fun h =>
        (p.2, h.1, h.2)))).foldl (fun s h => hotNotify s h.1 h.2.1 h.2.2) s) :=
  (show exec .countingRetry s = execCountingRetry s from rfl).trans (by rw [execCountingRetry, if_neg (not_not.mpr h)])

theorem traceFlush_between (h : s.dt % 2 ^ 16 ≠ 0) : exec .traceFlush s = .next s :=
  (show exec .traceFlush s = execTraceFlush s from rfl).trans (by rw [execTraceFlush, if_pos h])

/-- R375: the tails of the sessions are flushed. -/
theorem traceFlush_due (h : s.dt % 2 ^ 16 = 0) : exec .traceFlush s
    = .next ((s.queues.keys.filter (fun q => (s.queues.find q).any (fun x => !quiesced s x.ctx))).foldl flushSession s) :=
  (show exec .traceFlush s = execTraceFlush s from rfl).trans (by rw [execTraceFlush, if_neg (not_not.mpr h)])

theorem monitorSample_between (h : s.dt % 2 ^ 8 ≠ 0) : exec .monitorSample s = .next s :=
  (show exec .monitorSample s = execMonitorSample s from rfl).trans (by rw [execMonitorSample, if_pos h])

/-- R373: the monitors are sampled. -/
theorem monitorSample_due (h : s.dt % 2 ^ 8 = 0) : exec .monitorSample s
    = .next ((List.range 32).foldl (sampleMonitor s.fresh) { s with fresh := s.fresh + 40 }) :=
  (show exec .monitorSample s = execMonitorSample s from rfl).trans (by rw [execMonitorSample, if_neg (not_not.mpr h)])

end

section
variable {s : State} {free k : Nat}

/-- R372: the second operand of a monitor. -/
def monitorSecond (s : State) (free : Nat) (m : Monitor) : Nat :=
  if m.w0.getLsbD 24 then quantity s free m.w2 else m.w2.toNat

/-- R372: whether the relation of a monitor holds. -/
def monitorHolds (s : State) (free : Nat) (m : Monitor) : Bool :=
  relationHolds (fieldOf m.w0 25 3) (quantity s free m.w1) (monitorSecond s free m)

/-- A monitor that has counted some failing samples in a row. -/
def monitorRun (s : State) (k n : Nat) : State :=
  { s with monitors := s.monitors.put k { monitorOf s k with run := n } }

theorem sampleMonitor_disabled (h : (monitorOf s k).w0.getLsbD 31 = false) : sampleMonitor free s k = s := by
  simp only [sampleMonitor, h, Bool.not_false, if_true]

section
variable (h : (monitorOf s k).w0.getLsbD 31 = true)
include h

/-- R373: what a sample of an enabled monitor does. -/
theorem sampleMonitor_enabled : sampleMonitor free s k = if monitorHolds s free (monitorOf s k) then monitorRun s k 0
    else if fieldOf (monitorOf s k).w0 16 8 ≤ (monitorOf s k).run + 1 then fireMonitor s k (monitorOf s k)
    else monitorRun s k ((monitorOf s k).run + 1) := by
  simp only [sampleMonitor, h, Bool.not_true, Bool.false_eq_true, if_false]
  rfl

/-- R373: a sample that holds ends the run. -/
theorem sampleMonitor_holds (hr : monitorHolds s free (monitorOf s k) = true) : sampleMonitor free s k = monitorRun s k 0 := by
  rw [sampleMonitor_enabled h, if_pos hr]

/-- R373: a sample that fails lengthens the run. -/
theorem sampleMonitor_counts (hr : monitorHolds s free (monitorOf s k) = false)
    (hn : (monitorOf s k).run + 1 < fieldOf (monitorOf s k).w0 16 8) :
    sampleMonitor free s k = monitorRun s k ((monitorOf s k).run + 1) := by
  rw [sampleMonitor_enabled h, if_neg (Bool.eq_false_iff.mp hr), if_neg (Nat.not_le.mpr hn)]

/-- R373: a monitor fires with the last sample of its run. -/
theorem sampleMonitor_fires (hr : monitorHolds s free (monitorOf s k) = false)
    (hn : fieldOf (monitorOf s k).w0 16 8 ≤ (monitorOf s k).run + 1) :
    sampleMonitor free s k = fireMonitor s k (monitorOf s k) := by
  rw [sampleMonitor_enabled h, if_neg (Bool.eq_false_iff.mp hr), if_pos hn]

end

end

section
variable {s : State} {id n : Nat} {c : CopyOp} (hc : (copyMove n s id n).copies.find id = some c)
include hc

/-- R152: the next bytes of a copy move; with the last of them it completes. -/
theorem copyComplete_moves : exec (.copyComplete id n) s = .next (
    if c.moved = c.total then endCopy (copyMarks (copyMove n s id n) c) c .complete else copyMove n s id n) :=
  (show exec (.copyComplete id n) s = execCopyComplete id n s from rfl).trans (by simp only [execCopyComplete, hc])

end

/-- R154: a copy that has met a violation ends with ACCESS. -/
theorem copyViolation_ends {s : State} {id : Nat} {c : CopyOp} (hc : s.copies.find id = some c) (hf : c.failed = true) :
    exec (.copyViolation id) s = .next (endCopy s c (.access c.pos)) :=
  (show exec (.copyViolation id) s = execCopyViolation id s from rfl).trans (by simp only [execCopyViolation, hc, hf, if_true])

end Sys2Proof.Machine
end

section
/-! Rings, ballots, siblings, replays and observation; copies (O59). -/
namespace Sys2Proof.Machine

/-- Settles O59: each clause is the model's step lemma for one of the events, with the access, sibling or copy that is due. -/
theorem recordEvents : Obligations.RecordEvents := by
  unfold Obligations.RecordEvents
  refine ⟨?appends, ?coalesces, ?ballots, fun s cid ctx pa g k hash => ⟨ballotPerform_closed, ballotPerform_duplicate⟩, ?walks,
    fun s ctx => ⟨replayTimeout_diverges, replayTimeout_idle⟩, ?ticks, fun s q x => flushSession_nothing, ?monitors, ?copies⟩
  case appends =>
    intro s s1 s2 s3 id lane rh pa pc tw a cr q b ha hk hcr hq hd hf hi hcut hal hcl
    have h : AppendDue s id lane rh a cr q := ⟨ha, hk, hcr, hq, hd, hf, hi, hcut, hal, hcl⟩
    have hstep {r : Appended} (hb : (s.ctxs.find cr.ctx).bind (fun c => c.rings.find rh) = some b)
        (hr : laneStep s id lane rh a cr q b = r) : exec (.ringAppend id lane) s = .next (r.ends id) :=
      hr ▸ ringAppend_bound h hb
    refine ⟨ringAppend_unbound h, fun hb h0 hx => ⟨?_, ?_, ?_⟩, ?_, ?_⟩
    · exact fun va hrep hrace => hstep hb (laneStep_races hx h0 hrep hrace)
    · exact fun hrep hfull => hstep hb (laneStep_full hx h0 hrep hfull)
    · exact fun hrep hroom hpa hw => hstep hb (laneStep_records hx h0 hrep hroom rfl hpa hw)
    · exact fun hb h0 hvis => hstep hb (laneStep_waits h0 hvis)
    · exact fun hb h0 hvis hx hw => hstep hb (laneStep_raises hx h0 hvis hw)
  case coalesces =>
    intro s ctx rh c b hc hb hq
    rw [ringCoalesceTimeout_eq hc hb hq]
    refine ⟨fun ⟨ht, hn, hlate⟩ => ⟨ringInterrupt s ctx rh, ?_, ringInterrupt_raises hc hb hn⟩, fun hnot => ?_⟩
    · rw [if_pos (coalesceDue_iff.mpr ⟨ht, hn, hlate⟩)]
    · rw [if_neg (fun h => ?_)]
      obtain ⟨ht, hn, hlate⟩ := coalesceDue_iff.mp h
      omega
  case ballots =>
    intro s s1 s2 id pa0 a cr l ls hash ha hk hl hcr hst hr hld hb hfl va pa g k h1 h2 b done void
    have hpost : exec (.ballotPost id) s = .next (if (l.got.getD []).contains (pa / 64) then ballotAnswers id pa0 b 0
      else ballotPosted id pa0 a cr hash b) := ballotPost_takes ⟨ha, hk, hl, hcr, hst, hr, hld, hb, hfl⟩ h1 h2 rfl
    refine ⟨fun hlost => ?_, ?_⟩
    · rw [hpost, if_pos (List.contains_iff_mem.mpr hlost)]
      rfl
    · intro r ci u w t hkept
      have hw : w = postTraced r.2 cr g k := by
        change w = if replaying u cr.ctx then postMatched u cr.ctx g else u
        clear_value u
        cases hp : postHead u cr.ctx g with
        | none => simp only [w, postMatched_none hp, hp]
        | some p => simp only [w, postMatched_some hp, hp]
      rw [hpost, if_neg (fun h => hkept (List.contains_iff_mem.mp h))]
      simp only [t, hw]
      rfl
  case walks =>
    intro s s1 ctx group sib gpa c x hc hx hst hf hq ho hr hw
    have hstep := siblingPageRelease_steps ⟨hc, hx, hst, hf, hq, ho⟩ hr hw
    exact ⟨fun hov hend => hstep.trans (congrArg _ (releaseStep_counts hov hend)),
      fun hov => hstep.trans (congrArg _ (releaseStep_cancels hov)),
      fun s2 s3 p q hov hlist hi hp hfill hlost he =>
        hstep.trans (congrArg _ (releaseStep_releases hov hr hlist hi hp hfill hlost he))⟩
  case ticks =>
    exact fun s => ⟨fun h => ⟨countingRetry_between h, traceFlush_between h⟩, monitorSample_between, monitorSample_due,
      traceFlush_due, countingRetry_due⟩
  case monitors =>
    exact fun s free k => ⟨sampleMonitor_disabled, sampleMonitor_holds, sampleMonitor_counts, sampleMonitor_fires⟩
  case copies =>
    intro s id n c
    exact ⟨fun hc hall => (copyComplete_moves hc).trans (congrArg _ (if_pos hall)),
      fun hc hmore => (copyComplete_moves hc).trans (congrArg _ (if_neg hmore)), copyViolation_ends⟩

end Sys2Proof.Machine
end

section
/-! SUPPORT. The delivery of a trap, and a trap that no handler takes (R24, R302, R325, R327, R328, R335). -/
namespace Sys2Proof.Machine

/-- R327: what a split outside a handler becomes when a trap is delivered to it. -/
def Split.trapped (off : Nat) (resume : Place) (r : Report) (sp : Split) : Split :=
  { sp with
    place := .header off .trapDelivery, state := .ready, mark := none
    trap := { inHandler := true, code := BitVec.ofNat 32 (r.code + (if r.defer then 256 else 0))
              pc := BitVec.ofInt 32 resume.offset, addr := r.addr, addrh := r.addrh.setWidth 32, written := false
              savedQueue := sp.queue, resume := resume, block := sp.block
              cancelled := decide (r.code = 0x15) && !r.defer } }

/-- R302: a crew once a report is delivered to it; after CANCELLED it no longer heeds its cancellation. -/
def Crew.reported (r : Report) (cr : Crew) : Crew :=
  { cr with ignoreCancel := cr.ignoreCancel || decide (r.code = 0x15) }

theorem Crew.reported_cancelled (cr : Crew) {r : Report} (h : r.code = 0x15) :
    cr.reported r = { cr with ignoreCancel := true } := by
  simp only [Crew.reported, h, decide_true, Bool.or_true]

theorem Crew.reported_other (cr : Crew) {r : Report} (h : r.code ≠ 0x15) : cr.reported r = cr := by
  simp only [Crew.reported, h, decide_false, Bool.or_false]

section
variable {s : State} {cid sid : Nat} {cr : Crew} {sp : Split} {resume : Place} {r : Report}

/-- R327: the delivery of a trap changes one crew, and one split of it. -/
theorem takeTrap_delivers {off : Nat} (hc : s.crews.find cid = some cr) (hs : cr.split sid = some sp)
    (ho : (launchOf s cr).bind (·.trapoff) = some off) (hn : sp.trap.inHandler = false) :
    takeTrap s cid sid resume r
      = updCrew s cid (fun c => (c.reported r).updSplit sid (Split.trapped off resume r)) := by
  simp only [takeTrap, hc, hs, ho, hn, Bool.false_eq_true, if_false]
  by_cases h : r.code = 0x15
  · simp only [if_pos h, updSplit_def, updCrew_updCrew, Crew.reported_cancelled _ h]
    rfl
  · simp only [if_neg h, updSplit_def, Crew.reported_other _ h]
    rfl

theorem trapUnhandled_found {code : Nat} (hc : s.crews.find cid = some cr) :
    trapUnhandled s cid code = if code = 0x0F ∧ cr.engine ≠ .service then killCohort s cr.cohort
      else raiseCtxError s cr.ctx code (some cid) := by
  simp only [trapUnhandled, hc]

/-- R327: without a handler no trap is delivered. -/
theorem takeTrap_noHandler (hc : s.crews.find cid = some cr) (ho : (launchOf s cr).bind (·.trapoff) = none) :
    takeTrap s cid sid resume r = trapUnhandled s cid r.code := by
  cases hs : cr.split sid <;> simp only [takeTrap, hc, ho, hs]

/-- R328: no trap is delivered to a split inside its handler. -/
theorem takeTrap_nested (hc : s.crews.find cid = some cr) (hs : cr.split sid = some sp)
    (hn : sp.trap.inHandler = true) : takeTrap s cid sid resume r = trapUnhandled s cid r.code := by
  cases ho : (launchOf s cr).bind (·.trapoff) with
  | none => exact takeTrap_noHandler hc ho
  | some off => simp only [takeTrap, hc, hs, ho, hn, if_true]

end

/-- Settles O9: a delivery is one change of one split of one crew. -/
theorem trapDelivered : Obligations.TrapDelivered := by
  intro s cid sid cr sp ln off resume r hc hs hl ho hn
  rw [takeTrap_delivers hc hs (by rw [hl, Option.bind_some, ho]) hn]
  have hid (x : Split) : (x.trapped off resume r).id = x.id := rfl
  refine ⟨(cr.reported r).updSplit sid (Split.trapped off resume r), sp.trapped off resume r, rfl, ?found,
    fun k hk => SMap.find_change_ne _ _ hk, rfl, ?split, fun k hk => Crew.split_updSplit_ne (cr.reported r) _ hid hk, rfl⟩
  case found => rw [updCrew, SMap.find_change_self, hc, Option.map_some]
  case split =>
    rw [Crew.split_updSplit_self _ _ _ hid, show (cr.reported r).split sid = some sp from hs, Option.map_some]

/-- Settles O10: without a handler, and inside one, the trap is unhandled. -/
theorem takeTrap_unhandled : Obligations.TrapUnhandled := by
  rintro s cid sid cr sp resume r hc hs (ho | hn)
  · rw [takeTrap_noHandler hc ho, trapUnhandled_found hc]
  · rw [takeTrap_nested hc hs hn, trapUnhandled_found hc]

end Sys2Proof.Machine
end

section
/-! SUPPORT. The walk of an access's lines and the check of a tracked one (R310, R316 to R319, R359, R360). -/
namespace Sys2Proof.Machine

theorem any_pa_isNone_eq_false {ls : List LineReq} (h : ∀ x ∈ ls, x.pa.isSome = true) :
    ls.any (fun l => l.pa.isNone) = false :=
  List.any_eq_false.mpr fun x hx hn => Option.not_isSome_iff_eq_none.mpr (Option.isNone_iff_eq_none.mp hn) (h x hx)

section
variable {s : State} {id : Nat} {a : Access} {cr : Crew}

section
variable (ha : s.accs.find id = some a)
include ha

theorem raceWalk_untracked (h : a.rep = false) : raceWalk s id = s := by
  simp only [raceWalk, ha, h, Bool.not_false, Bool.true_or, if_true]

section
variable (hrep : a.rep = true) (hpa : ∀ x ∈ a.lines, x.pa.isSome = true)
include hrep hpa

/-- R360: at a conflict the access is withdrawn. -/
theorem raceWalk_withdraws {r : Report} (h : raceCheck s a = .error r) : raceWalk s id = withdraw s id a r := by
  simp only [raceWalk, ha, hrep, any_pa_isNone_eq_false hpa, Bool.not_true, Bool.or_self, Bool.false_eq_true, if_false, h]

/-- R359: without a conflict the access may be performed. -/
theorem raceWalk_passes {t : State} (h : raceCheck s a = .ok t) :
    raceWalk s id = updAcc t id (fun x => { x with rep := false, xlated := true }) := by
  simp only [raceWalk, ha, hrep, any_pa_isNone_eq_false hpa, Bool.not_true, Bool.or_self, Bool.false_eq_true, if_false, h]

end

end

section
variable (ha : s.accs.find id = some a) (hc : s.crews.find a.crew = some cr) (hx : a.xlated = false)
  (hlog : inLog s id a = false) (hk : ∀ t, a.kind ≠ .pref t)
include ha hc hx hlog hk

/-- R317: an access whose every line translates goes on with all of them. -/
theorem pageWalk_translates (hw : walkLines s cr a a.lines = .done)
    (hpa : ∀ x ∈ (xlateLines s cr a a.lines).1, x.pa.isSome = true) :
    exec (.pageWalk id) s = .next (raceWalk (pinPerform (dropStored (updAcc (xlateLines s cr a a.lines).2 id
      (fun x => { x with lines := (xlateLines s cr a a.lines).1, xlated := !x.rep })) cr a
        (xlateLines s cr a a.lines).1) id) id) := by
  refine (show exec (.pageWalk id) s = execPageWalk id s from rfl).trans ?_
  simp only [execPageWalk, ha, hc, hx, hlog, Bool.or_self, Bool.false_eq_true, if_false, hw,
    any_pa_isNone_eq_false hpa]

/-- R319: an access that meets a violation ends with its report. -/
theorem pageWalk_violates {r : Report} (hw : walkLines s cr a a.lines = .report r) :
    exec (.pageWalk id) s = .next (violate s id r) := by
  refine (show exec (.pageWalk id) s = execPageWalk id s from rfl).trans ?_
  simp only [execPageWalk, ha, hc, hx, hlog, Bool.or_self, Bool.false_eq_true, if_false, hw]

end

end

section
variable {s : State} {id k : Nat} {cr : Crew} {rest : List Nat} (hc : s.crews.find k = some cr)
  (hq : cr.oplog = id :: rest)
include hc hq

/-- R318: the entry of an access that has ended leaves the operand log. -/
theorem operandLogReplay_forgets (ha : s.accs.find id = none) : exec (.operandLogReplay k) s
    = .next (updCrew s k (fun c => { c with oplog := c.oplog.filter (· != id) })) :=
  (show exec (.operandLogReplay k) s = execOperandLogReplay k s from rfl).trans
    (by simp only [execOperandLogReplay, hc, hq, ha])

/-- R317: the first entry of the operand log is walked again once its faults are answered. -/
theorem operandLogReplay_walks {a : Access} (ha : s.accs.find id = some a)
    (hrun : cr.state = .running ∨ cr.state = .ended) (hwait : ∀ x ∈ a.lines, ∀ tag, x.st ≠ .faulted tag)
    (hnew : ∃ x ∈ a.lines, x.st = .new) (hw : walkLines s cr a a.lines = .done) :
    exec (.operandLogReplay k) s = .next (wakeCrew (raceWalk (pinPerform (updAcc
      (dropStored (xlateLines s cr a a.lines).2 cr a (xlateLines s cr a a.lines).1) id
        (fun x => { x with lines := (xlateLines s cr a a.lines).1 })) id) id) k) := by
  refine (show exec (.operandLogReplay k) s = execOperandLogReplay k s from rfl).trans ?_
  simp only [execOperandLogReplay, hc, hq, ha, hw]
  refine if_neg fun hstays => ?_
  simp only [Bool.or_eq_true, Bool.and_eq_true, bne_iff_ne] at hstays
  rcases hstays with (⟨hr, he⟩ | hf) | hdone
  · exact hrun.elim hr he
  · obtain ⟨x, hx, hst⟩ := List.any_eq_true.mp hf
    split at hst
    · exact hwait x hx _ ‹_›
    · cases hst
  · obtain ⟨x, hx, hst⟩ := hnew
    rw [Bool.not_eq_true'] at hdone
    exact List.any_eq_false.mp hdone x hx (by simp only [hst])

end

/-- R316: the oldest record of a context's list of pending faults is posted once its ring has room. -/
theorem pendingFaultPost_posts {s : State} {id k : Nat} {c : Context} {rest : List Nat} {f : FaultRec}
    (hc : s.ctxs.find k = some c) (hq : c.pendFlt = id :: rest) (hroom : ringBusy s c.fltRing = false)
    (hf : c.faults.find id = some f) : exec (.pendingFaultPost k) s
      = .next (updCtx (ringPost s c.fltRing f.record) k (fun c =>
        { c with pendFlt := rest, sumpUsed := c.sumpUsed - 32
                 faults := c.faults.change id (fun f => { f with posted := true }) })) :=
  (show exec (.pendingFaultPost k) s = execPendingFaultPost k s from rfl).trans
    (by simp only [execPendingFaultPost, hc, hq, hroom, Bool.false_eq_true, if_false, hf])

end Sys2Proof.Machine
end

section
/-! SUPPORT. Lines at their homes, the store queue, gathers and results (R73, R155, R165, R166, R169, R174, R345). -/
namespace Sys2Proof.Machine

/-- R318, R344, R345: a line request of an access of a crew may be performed at its home now. -/
structure LineFree (s : State) (id i pa : Nat) (a : Access) (cr : Crew) (l : LineReq) : Prop where
  access : s.accs.find id = some a
  crew   : s.crews.find a.crew = some cr
  line   : a.lines[i]? = some l
  walked : logBlocks s id a l = false
  phase  : stalePhase s l pa = false
  opened : isClosed s pa = false

/-- R165, R172: a line request of a load may be served: none of its access is on its way, and on the LANE path no
earlier access of its crew that it must follow is left. -/
structure LoadDue (s : State) (id i pa : Nat) (a : Access) (cr : Crew) (l : LineReq) : Prop
    extends LineFree s id i pa a cr l where
  ready   : l.st = .ready pa
  xlated  : a.xlated = true
  reads   : a.kind.readsLines = true
  demand  : ∀ t, a.kind ≠ .pref t
  unsent  : ∀ x ∈ a.lines, x.st ≠ .sent pa
  follows : a.path = 0 → lineBehind s id a l AccKind.isLoad = false ∧ lineBehind s id a l AccKind.isStore = false
    ∧ ownPending s a.crew (lineOf pa) = false
  near  : remoteOf pa = none

section
variable {s : State} {id i pa : Nat} {a : Access} {cr : Crew} {l : LineReq}

theorem LoadDue.none_sent (h : LoadDue s id i pa a cr l) : a.lines.any (fun x => x.st == .sent pa) = false :=
  List.any_eq_false.mpr fun x hx => by simpa only [beq_iff_eq] using h.unsent x hx

theorem LoadDue.not_behind (h : LoadDue s id i pa a cr l) (b : Bool) : (a.path == 0 && b
    && (lineBehind s id a l AccKind.isLoad || lineBehind s id a l AccKind.isStore
      || ownPending s a.crew (lineOf pa))) = false := by
  by_cases hp : a.path = 0
  · obtain ⟨hload, hstore, hown⟩ := h.follows hp
    simp only [hload, hstore, hown, Bool.or_self, Bool.and_false]
  · simp only [beq_eq_false_iff_ne.mpr hp, Bool.false_and]

/-- R166: a copy in the L1 serves all passes for its line. -/
theorem lineRequestHome_hits {e : CLine} (h : LoadDue s id i pa a cr l) (he : l1Hit s a cr pa = some e) :
    exec (.lineRequestHome id i) s = .next (a.lines.zipIdx.foldl (fun s p =>
      if p.1.st == .ready pa then serve s id p.2 pa a cr p.1 e.bytes else s) (l1Fill s (l1Unit s cr pa) e)) := by
  refine (show exec (.lineRequestHome id i) s = execLineRequestHome id i s from rfl).trans ?_
  simp only [execLineRequestHome, h.access, h.crew, h.line, h.ready, h.xlated, h.reads, h.walked, h.phase, h.opened,
    h.none_sent, h.not_behind, Bool.not_true, Bool.or_self, Bool.false_eq_true, if_false, h.near, he]

/-- R165: the home serves all passes for a line that its slice holds. -/
theorem lineRequestHome_serves (h : LoadDue s id i pa a cr l) (he : l1Hit s a cr pa = none)
    (hin : (inSync s (lineOf pa) || inL2 s (lineOf pa)) = true) :
    exec (.lineRequestHome id i) s = .next (servePasses s id pa a cr) := by
  refine (show exec (.lineRequestHome id i) s = execLineRequestHome id i s from rfl).trans ?_
  simp only [execLineRequestHome, h.access, h.crew, h.line, h.ready, h.xlated, h.reads, h.walked, h.phase, h.opened,
    h.none_sent, h.not_behind, Bool.not_true, Bool.or_self, Bool.false_eq_true, if_false, h.near, he, hin, if_true]
  refine if_neg fun hpref => ?_
  split at hpref
  · exact h.demand _ ‹_›
  · cases hpref

/-- R174: the lines of a store that leaves the store queue are sent. -/
def Access.sent (x : Access) : Access :=
  if x.kind.isStore then { x with
    lines := x.lines.map (fun l => match l.st with
      | .ready pa => { l with st := .sent pa }
      | _ => l) } else x

/-- R174: the first sendable store leaves its crew's store queue. -/
theorem storeQueueSend_sends {k : Nat} (hc : s.crews.find k = some cr) (hst : cr.state ≠ .saved)
    (hs : sendable s cr = some id) : exec (.storeQueueSend k) s = .next (wakeCrew (updCrew (updAcc s id Access.sent) k
      (fun c => { c with storeQ := c.storeQ.filter (· != id) })) k) := by
  refine (show exec (.storeQueueSend k) s = execStoreQueueSend k s from rfl).trans ?_
  simp only [execStoreQueueSend, hc, beq_eq_false_iff_ne.mpr hst, Bool.false_eq_true, if_false, hs]
  rfl

/-- R138, R169: a store lands on a line, for all its passes there. -/
def storeLanded (s : State) (id pa : Nat) (a : Access) (cr : Crew) : State :=
  let r := storeLine s (lineOf pa) (storeSrc a.crew a.path) (a.storeBytesOn pa)
  a.lines.zipIdx.foldl (fun s p =>
    if sentPA cr id p.1 == some pa then
      updLine (countCore s cr (p.1.vline * 128) 1) id p.2 (fun l => { l with st := .done pa })
    else s) (ackTw r.1 a.crew a.path r.2)

/-- R169: a store arrives at the home of a line, and ends with the last of them. -/
theorem storeArrive_lands (h : LineFree s id i pa a cr l) (hsent : sentPA cr id l = some pa) (hk : a.kind.isStore = true)
    (hb : lineBehind s id a l AccKind.isStore = false) (hl : remoteOf pa = none) : exec (.storeArrive id i) s
      = .next (if (((storeLanded s id pa a cr).accs.find id).map (fun a => a.lines.all LineReq.isOver)).getD false then
          endAccess (storeLanded s id pa a cr) id else storeLanded s id pa a cr) := by
  refine (show exec (.storeArrive id i) s = execStoreArrive id i s from rfl).trans ?_
  simp only [execStoreArrive, h.access, h.crew, h.line, hsent, hk, h.walked, h.phase, h.opened, hb, Bool.not_true,
    Bool.or_self, Bool.false_eq_true, if_false, hl]
  rfl

/-- R73: a result returns to its registers. -/
theorem resultArrive_returns {t : State} (ha : s.accs.find id = some a) (hc : s.crews.find a.crew = some cr)
    (hr : a.returns = true) (hw : waitCancels s a cr = (false, t)) :
    exec (.resultArrive id) s = .next (returnValues t id a.values) :=
  (show exec (.resultArrive id) s = execResultArrive id s from rfl).trans
    (by simp only [execResultArrive, ha, hc, hr, hw, Bool.not_true, Bool.false_eq_true, if_false])

/-- R155, R156: the granules of a line of a gather are requested of its stack. -/
def gatherLine (id stack : Nat) (a : Access) (sz : Size) (s : State) (p : LineReq × Nat) : State :=
  match p.1.st with
  | .sent pa =>
    if s.dramStacks.any (fun x => x.2.reqs.any (fun r => r.acc == some (id, p.2))) || (locate s pa).1 != stack
      || isClosed s pa then s
    else (sendGranules s (some (id, p.2)) (gatherGranules a p.1 pa sz.bytes)).getD s
  | _ => s

theorem gatherExpand_requests {stack : Nat} {sz : Size} (ha : s.accs.find id = some a) (hk : a.kind = .gather sz) :
    exec (.gatherExpand id stack) s = .next (a.lines.zipIdx.foldl (gatherLine id stack a sz) s) := by
  refine (show exec (.gatherExpand id stack) s = execGatherExpand id stack s from rfl).trans ?_
  simp only [execGatherExpand, ha, hk]
  rfl

/-- R345: a request of an old phase is renewed. -/
theorem staleRequest_renews (ha : s.accs.find id = some a) (hl : a.lines[i]? = some l) (hpa : l.pa = some pa)
    (hover : l.isOver = false) (hstale : stalePhase s l pa = true) : exec (.staleRequest id i) s
      = .next (updLine s id i (fun x => { x with epoch := s.mig.epoch, phase := s.mig.phase, under := s.mig.setOf pa })) :=
  (show exec (.staleRequest id i) s = execStaleRequest id i s from rfl).trans
    (by simp only [execStaleRequest, ha, Option.bind_some, hl, hpa, hstale, hover, Bool.not_false, Bool.and_self, if_true])

end

end Sys2Proof.Machine
end

section
/-! SUPPORT. Registers evicted and filled (R69, R70, R72, R332, R335). -/
namespace Sys2Proof.Machine

section
variable {s : State} {k reg : Nat} {cr : Crew}

theorem spillEvict_evicts {id v r : Nat} {rs : List Nat} (hq : rowRequest s k = some (id, rs))
    (hv : spillVictim s k id = some (v, r)) : exec (.spillEvict k) s = .next (wakeRows (spillTo s v r) k) :=
  (show exec (.spillEvict k) s = execSpillEvict k s from rfl).trans (by simp only [execSpillEvict, hq, hv])

section
variable (hc : s.crews.find k = some cr) (hrun : cr.state = .running) (hspilled : cr.isSpilled reg = true)
include hc hrun hspilled

/-- R332: the lines of a slot that must be read first are asked of their stacks. -/
theorem registerFill_asks (h : slotFills s cr reg ≠ []) :
    exec (.registerFill k reg) s = .next ((slotFills s cr reg).foldl askFill s) := by
  have hmore : (slotFills s cr reg).isEmpty = false := List.isEmpty_eq_false_iff.mpr h
  refine (show exec (.registerFill k reg) s = execRegisterFill k reg s from rfl).trans ?_
  simp only [execRegisterFill, hc, hrun, bne_self_eq_false, Bool.false_eq_true, if_false, hspilled, Bool.not_true, hmore,
    Bool.not_false, if_true]

section
variable (hread : slotFills s cr reg = [])
include hread

/-- R335: a register whose slot is uncorrectable kills its cohort. -/
theorem registerFill_kills (h : slotFailed s cr reg = true) : exec (.registerFill k reg) s = .next (killCrew s cr) := by
  refine (show exec (.registerFill k reg) s = execRegisterFill k reg s from rfl).trans ?_
  simp only [execRegisterFill, hc, hrun, bne_self_eq_false, Bool.false_eq_true, if_false, hspilled, Bool.not_true, hread,
    List.isEmpty_nil, h, if_true]

/-- R72: a register whose slot has been read is filled into free rows. -/
theorem registerFill_fills {row : Nat} (h : slotFailed s cr reg = false)
    (hrow : findRows (usedRows s (unitOf s cr)) (rowsOf cr.w0) = some row) :
    exec (.registerFill k reg) s = .next (wakeFills (updCrew s k (fun c => c.fillReg reg row)) k) := by
  refine (show exec (.registerFill k reg) s = execRegisterFill k reg s from rfl).trans ?_
  simp only [execRegisterFill, hc, hrun, bne_self_eq_false, Bool.false_eq_true, if_false, hspilled, Bool.not_true, hread,
    List.isEmpty_nil, h, hrow]

end

end

end

/-- Settles O45: each clause is the step lemma of one event, with the access, fault or register that is due. -/
theorem accessEvents : Obligations.AccessEvents := by
  intro s s1 id i pa k reg a cr l c row busy held at_ allOver ls here walk
  have hfree : at_ → LineFree s id i pa a cr l := by
    rintro ⟨⟨ha, hc⟩, hl, hb⟩
    simp only [busy, Bool.or_eq_false_iff] at hb
    obtain ⟨⟨hlog, hphase⟩, hopen⟩ := hb
    exact ⟨ha, hc, hl, hlog, hphase, hopen⟩
  refine ⟨?translates, ?violates, ?checks, ?serves, storeQueueSend_sends, ?lands, ?returns,
    fun _ => gatherExpand_requests, staleRequest_renews, fun _ _ => pendingFaultPost_posts,
    fun _ => operandLogReplay_forgets, fun _ hc hq ha => operandLogReplay_walks hc hq ha,
    fun _ _ _ => spillEvict_evicts, fun hc hrun hsp => ⟨registerFill_asks hc hrun hsp,
      registerFill_kills hc hrun hsp, fun hread => registerFill_fills hc hrun hsp hread⟩⟩
  case translates => exact fun ⟨⟨ha, hc⟩, hx, hlog, hk⟩ => pageWalk_translates ha hc hx hlog hk
  case violates => exact fun r ⟨⟨ha, hc⟩, hx, hlog, hk⟩ => pageWalk_violates ha hc hx hlog hk
  case checks =>
    exact fun ha => ⟨raceWalk_untracked ha, fun hrep hpa =>
      ⟨fun r => raceWalk_withdraws ha hrep hpa, fun t => raceWalk_passes ha hrep hpa⟩⟩
  case serves =>
    intro hat hready hx hreads hdemand hunsent hfollows hnear
    have hdue : LoadDue s id i pa a cr l :=
      { hfree hat with
        ready := hready, xlated := hx, reads := hreads, demand := hdemand, unsent := hunsent, follows := hfollows
        near := hnear }
    exact ⟨fun e => lineRequestHome_hits hdue, lineRequestHome_serves hdue⟩
  case lands => exact fun hat => storeArrive_lands (hfree hat)
  case returns => exact fun ⟨ha, hc⟩ => resultArrive_returns ha hc

end Sys2Proof.Machine
end

section
/-! SUPPORT. The module after reset (R390, R400). -/
namespace Sys2Proof.Machine

/-- Settles O6: every value of the reset state as the model writes it down. -/
theorem resetState : Obligations.ResetState :=
  ⟨rfl, rfl, rfl, rfl, rfl, rfl, rfl, rfl, rfl, rfl, rfl, rfl, rfl, rfl, rfl, rfl, rfl⟩

end Sys2Proof.Machine
end

section
/-! SUPPORT. The command ring: what a command event does by the record that is due, and what its completion leaves (R389,
R391). -/
namespace Sys2Proof.Machine

/-- R389, R391: a record has the OPC of a command, and every byte of ARGS outside the command's fields is 0. -/
def Carries (bs : List Byte) (opc : Nat) (used : List (Nat × Nat)) : Prop :=
  argOf bs 0 2 = opc ∧ argsClean bs used = true

/-- R391: the performance of a command completes the record at an address with its status, or is to go on. -/
def CmdAns.ends (a : Nat) : CmdAns → Host.Outcome State Fault Refusal
  | .done s st => .next (finishCommand s a st)
  | .wait s => .next s

section
variable {s : State} {opc a : Nat} {bs : List Byte} {used : List (Nat × Nat)} {body : List Byte → State → CmdAns}

/-- R391: no command is due while the link is closed or the ring is empty. -/
theorem commandDue_none (h : s.devState ≠ .ready ∨ s.cmd.prod = s.cmd.cons) : commandDue s = none := by
  have hclosed : (!hostOpen s || decide (s.cmd.prod = s.cmd.cons)) = true := by
    rcases h with hdev | hempty
    · simp [hostOpen, hdev]
    · simp [hempty]
  simp only [commandDue, hclosed, if_true]

/-- R391: bytes of ARGS outside a command's fields, one of which is not 0. -/
theorem argsClean_false {i : Nat} (hi : i < 56) (hb : bs.getD (i + 8) 0 ≠ 0)
    (hout : ∀ u ∈ used, i + 8 < u.1 ∨ u.1 + u.2 ≤ i + 8) : argsClean bs used = false := by
  have hnone : used.any (fun u => decide (u.1 ≤ i + 8) && decide (i + 8 < u.1 + u.2)) = false := by
    refine List.any_eq_false.mpr (fun u hu => ?_)
    have := hout u hu
    simp only [Bool.and_eq_true, decide_eq_true_eq]
    omega
  refine List.all_eq_false.mpr ⟨i, List.mem_range.mpr hi, ?_⟩
  rw [hnone, Bool.false_or, beq_iff_eq]
  exact hb

variable (h : commandDue s = some (a, bs))
include h

/-- R391: a record with a reserved OPC completes with BAD_ARG. -/
theorem command_reserved (hop : argOf bs 0 2 = 0 ∨ 0x17 < argOf bs 0 2) :
    command s opc used body = .next (finishCommand s a 2) := by
  simp only [command, h, Bool.or_eq_true, decide_eq_true_eq, if_pos hop, stBadArg]

/-- R391: a record with a byte of ARGS outside the command's fields that is not 0 completes with BAD_ARG. -/
theorem command_unclean (hopc : 0 < opc ∧ opc ≤ 0x17) (hop : argOf bs 0 2 = opc) (hc : argsClean bs used = false) :
    command s opc used body = .next (finishCommand s a 2) := by
  have hdef : ¬(opc = 0 ∨ 0x17 < opc) := by omega
  simp only [command, h, hop, hc, Bool.or_eq_true, decide_eq_true_eq, if_neg hdef, ne_eq, not_true_eq_false, if_false,
    Bool.not_false, if_true, stBadArg]

/-- R389, R391: a command with the due record's OPC and clean arguments ends as its performance answers. -/
theorem command_performs (hc : Carries bs opc used) (hopc : 0 < opc ∧ opc ≤ 0x17) :
    command s opc used body = (body bs s).ends a := by
  obtain ⟨hop, hclean⟩ := hc
  have hdef : ¬(opc = 0 ∨ 0x17 < opc) := by omega
  simp only [command, h, hop, hclean, Bool.or_eq_true, decide_eq_true_eq, if_neg hdef, ne_eq, not_true_eq_false, if_false,
    Bool.not_true, Bool.false_eq_true]
  cases body bs s <;> rfl

end

/-- R389, R392: an instruction is the command event of an OPC, whose ARGS hold some fields. -/
structure IsCommand (i : Instr) (opc : Nat) (used : List (Nat × Nat)) : Prop where
  defined  : 0 < opc ∧ opc ≤ 0x17
  performs : ∃ body, ∀ s, exec i s = command s opc used body

theorem isCommand {i : Instr} {opc : Nat} {used : List (Nat × Nat)} {body : List Byte → State → CmdAns}
    (h : ∀ s, exec i s = command s opc used body) (hopc : 0 < opc ∧ opc ≤ 0x17 := by decide) : IsCommand i opc used :=
  ⟨hopc, body, h⟩

-- the completion of a command

section
variable (s : State) (a st : Nat)

/-- R385, R390: the PBA after an interrupt: a masked vector that was not pending is. -/
theorem raiseIrq_some (v : Nat) : raiseIrq s (some v) = { s with
    irqs := s.irqs ++ [v], pba := if !vecMasked s v || s.pba.contains v then s.pba else v :: s.pba } := by
  have hbit (m c : Bool) (p q : List Nat) : (if m && !c then p else q) = if !m || c then q else p := by
    cases m <;> cases c <;> rfl
  simp only [raiseIrq, hbit]

/-- R391: a command that completes writes STATUS, raises its vector and advances CMDCONS. -/
theorem finishCommand_eq : finishCommand s a st = { s with
    cmd := { s.cmd with cons := s.cmd.cons + 1 }
    hostMem := Memory.setN s.hostMem (a + 2) (leBytes 2 st)
    pba := if s.cmd.novec || !vecMasked s s.cmd.vec || s.pba.contains s.cmd.vec then s.pba else s.cmd.vec :: s.pba
    irqs := if s.cmd.novec then s.irqs else s.irqs ++ [s.cmd.vec] } := by
  cases hn : s.cmd.novec with
  | true => simp only [finishCommand, hn, if_true, Bool.true_or]
  | false =>
    simp only [finishCommand, hn, raiseIrq_some, Bool.false_eq_true, if_false, Bool.false_or]
    rfl

/-- R391: the STATUS of a command that has completed reads back. -/
theorem finishCommand_status (hst : st < 65536) : leNat (Memory.getN (finishCommand s a st).hostMem (a + 2) 2) = st := by
  have hread := Memory.getN_setN s.hostMem (a + 2) (leBytes 2 st)
  rw [leBytes_length] at hread
  rw [finishCommand_eq, hread, leNat_leBytes]
  exact Nat.mod_eq_of_lt hst

/-- R391: a completion leaves every other byte of host memory. -/
theorem finishCommand_hostMem_other {k : Nat} (h2 : k ≠ a + 2) (h3 : k ≠ a + 3) :
    Memory.get (finishCommand s a st).hostMem k = Memory.get s.hostMem k := by
  rw [finishCommand_eq]
  exact Memory.get_setN_outside _ _ _ (by rw [leBytes_length]; omega)

end

/-- Settles O56: the table of the commands with their fields, what a bad record does, and the completion. -/
theorem commandRing : Obligations.CommandRing := by
  refine ⟨fun s a bs h p hp => ?records, fun _ => commandDue_none, fun s a st hst _ => ?completes⟩
  case records =>
    have hcommand : IsCommand p.1 p.2.1 p.2.2 := by
      revert p
      simp only [List.forall_mem_cons, List.not_mem_nil, false_imp_iff, implies_true, and_true]
      and_intros <;> exact isCommand (fun s => by dsimp only [exec]; rfl)
    obtain ⟨hopc, body, hexec⟩ := hcommand
    rw [hexec]
    exact ⟨command_reserved h, fun hop ⟨i, hi, hb, hout⟩ => command_unclean h hopc hop (argsClean_false hi hb hout)⟩
  case completes =>
    refine ⟨?_, by rw [finishCommand_eq], finishCommand_status s a st hst, fun _ => finishCommand_hostMem_other s a st⟩
    rw [finishCommand_eq]

end Sys2Proof.Machine
end

section
/-! SUPPORT. The host's accesses: doorbells, the counts that a read clears, and device memory (R159, R184, R385 to R388,
R390). -/
namespace Sys2Proof.Machine

/-- A change of a table's entry depends on what the change makes of that entry alone. -/
theorem SMap.change_congr {α : Type} {m : SMap α} {k : Nat} {v : α} {f g : α → α} (h : m.find k = some v)
    (hfg : f v = g v) : m.change k f = m.change k g := by
  rw [SMap.change_eq_put f h, SMap.change_eq_put g h, hfg]

/-- A change of a queue depends on what it makes of the queue as it stands. -/
theorem updQueue_congr {s : State} {q : Nat} {x : Queue} {f g : Queue → Queue} (h : s.queues.find q = some x)
    (hfg : f x = g x) : updQueue s q f = updQueue s q g := by
  simp only [updQueue, SMap.change_congr h hfg]

@[simp] theorem lo32_setWidth (v : W32) : lo32 (v.setWidth 64) = v := by
  simp [lo32]

/-- A count of 32 bits that stays at its largest value. -/
theorem saturated_toNat (n : W32) :
    (if n = BitVec.allOnes 32 then n else n + 1).toNat = Nat.min (n.toNat + 1) (2 ^ 32 - 1) := by
  show _ = min _ _
  split
  · next h => subst h; rfl
  · next h =>
    have hlt : n.toNat ≠ 2 ^ 32 - 1 := fun he => h (BitVec.eq_of_toNat_eq (he.trans BitVec.toNat_allOnes.symm))
    rw [BitVec.toNat_add]
    have := n.isLt
    simp only [BitVec.reduceToNat]
    omega

/-- R159: the pages of a range as a demand access touches them. -/
def touchRange (s : State) (addr len : Nat) : State :=
  (List.range ((addr + len - 1) / 8192 + 1 - addr / 8192)).foldl (fun s i => touchWindows s ((addr / 8192 + i) * 8192)) s

theorem foldl_touchWindows (f : Nat → Nat) (is : List Nat) (s : State) :
    is.foldl (fun s i => touchWindows s (f i)) s
      = { s with ctxs := (is.foldl (fun s i => touchWindows s (f i)) s).ctxs } := by
  induction is generalizing s with
  | nil => rfl
  | cons i is ih =>
    rw [List.foldl_cons, ih]
    rfl

/-- R159: the windows of contexts are all that demand accesses change. -/
theorem touchRange_eq (s : State) (addr len : Nat) :
    touchRange s addr len = { s with ctxs := (touchRange s addr len).ctxs } := foldl_touchWindows _ _ s

/-- R184, R335, R385: the host's read of a range is answered, with its poison indication. -/
def State.answerBytes (s : State) (addr len : Nat) : State :=
  { s with reply := some (.bytes (readPhys s addr len) (hostPoison s addr len)) }

-- the link

section
variable {s : State} (h : s.devState = .ready)
include h

/-- R19, R400: the link of a device that is READY takes accesses. -/
theorem hostOpen_of_ready : hostOpen s = true := by simp [hostOpen, h]

/-- R386: an access of the host, or one over a peer link that is up, reaches a device that is READY. -/
theorem linkUp_of_ready {link : Option Nat} (hup : ∀ l, link = some l → l < 24 ∧ l ∉ s.peersDown) :
    linkUp s link = true := by
  cases link with
  | none => simp [linkUp, hostOpen_of_ready h]
  | some l =>
    obtain ⟨hlt, hnot⟩ := hup l rfl
    simp [linkUp, hostOpen_of_ready h, hlt, hnot]

-- registers and windows

theorem registerWrite_writes (off : Nat) (v : W64) :
    exec (.registerWrite (.bar0 off) v) s = .next (writeBar0 s off v) :=
  if_pos (hostOpen_of_ready h)

/-- R388: what a doorbell leaves in its queue. -/
theorem doorbell_rings (q : Nat) (d : W32) : exec (.doorbell q d) s = .next (updQueue s q (fun x =>
    if doorbellOk x d then { x with doorbell := d, state := if x.state = .idle then .running else x.state }
    else { x with state := .badDoorbell })) := by
  refine (show exec (.doorbell q d) s = execDoorbell q d s from rfl).trans ?_
  simp only [execDoorbell, hostOpen_of_ready h, Bool.not_true, Bool.false_eq_true, if_false]

/-- R388: an access elsewhere in a user window reads 0 and is counted. -/
theorem windowViolation_counts {q off : Nat} (hq : q < 4096) (hoff : off < 65536) (h0 : off ≠ 0) (h8 : off ≠ 8)
    (h16 : off ≠ 16) : exec (.windowViolation q off) s = .next { s with
      reply := some (.word 0)
      viols := s.viols.put q (if SMap.getD s.viols q 0 = BitVec.allOnes 32 then SMap.getD s.viols q 0
        else SMap.getD s.viols q 0 + 1) } := by
  have hreg : windowRegs.contains off = false := by simp [windowRegs, h0, h8, h16]
  refine (show exec (.windowViolation q off) s = execWindowViolation q off s from rfl).trans ?_
  simp only [execWindowViolation, hostOpen_of_ready h, hreg, Nat.not_le.mpr hq, Nat.not_le.mpr hoff, Bool.not_true,
    decide_false, Bool.or_self, Bool.false_eq_true, if_false]

theorem violRead_clears {q : Nat} (hq : q < 4096) : exec (.violRead q) s = .next { s with
    reply := some (.word ((SMap.getD s.viols q 0).setWidth 64)), viols := s.viols.del q } := by
  refine (show exec (.violRead q) s = execViolRead q s from rfl).trans ?_
  simp only [execViolRead, hostOpen_of_ready h, Nat.not_le.mpr hq, Bool.not_true, decide_false, Bool.or_self,
    Bool.false_eq_true, if_false]

theorem evtdropRead_clears (dbg : Bool) : exec (.evtdropRead dbg) s = .next (
    if dbg then { s with reply := some (.word (s.dbg.drop.setWidth 64)), dbg := { s.dbg with drop := 0 } }
    else { s with reply := some (.word (s.evt.drop.setWidth 64)), evt := { s.evt with drop := 0 } }) := by
  refine (show exec (.evtdropRead dbg) s = execEvtdropRead dbg s from rfl).trans ?_
  simp only [execEvtdropRead, hostOpen_of_ready h, Bool.not_true, Bool.false_eq_true, if_false]
  cases dbg <;> rfl

theorem evtconsWrite_writes (dbg : Bool) (d : W32) : exec (.evtconsWrite dbg d) s
    = .next (writeBar0 s (if dbg then 0x318 else 0x218) (d.setWidth 64)) :=
  if_pos (hostOpen_of_ready h)

-- device memory

variable {link : Option Nat} (hup : ∀ l, link = some l → l < 24 ∧ l ∉ s.peersDown)
include hup

section
variable {addr len : Nat} (hlen : 0 < len)
include hlen

/-- R184, R385: what a read that reaches the module meets. -/
theorem hostMemRead_reads : exec (.hostMemRead link addr len) s =
    (if hostBad s addr len then .next { s with reply := some .unsupported }
    else if hostStalled s addr len then .next s
    else if !(rangeFills s addr len).isEmpty then .next ((rangeFills s addr len).foldl askFill s)
    else .next ((touchRange s addr len).answerBytes addr len)) := by
  have hreach : (!linkUp s link || decide (len = 0)) = false := by
    rw [linkUp_of_ready h hup, decide_eq_false (Nat.ne_of_gt hlen)]
    rfl
  refine (show exec (.hostMemRead link addr len) s = execHostMemRead link addr len s from rfl).trans ?_
  simp only [execHostMemRead, hreach, Bool.false_eq_true, if_false]
  rfl

end

variable {addr : Nat} {bytes : List Byte} (hbytes : bytes ≠ [])
include hbytes

/-- R169, R184, R385: what a write that reaches the module meets. -/
theorem hostMemWrite_writes : exec (.hostMemWrite link addr bytes) s =
    (if hostBad s addr bytes.length then .next { s with reply := some .unsupported }
    else if hostStalled s addr bytes.length then .next s
    else .next (devWrite s addr bytes).1) := by
  have hreach : (!linkUp s link || bytes.isEmpty) = false := by
    rw [linkUp_of_ready h hup, List.isEmpty_eq_false_iff.mpr hbytes]
    rfl
  refine (show exec (.hostMemWrite link addr bytes) s = execHostMemWrite link addr bytes s from rfl).trans ?_
  simp only [execHostMemWrite, hreach, Bool.false_eq_true, if_false]

end

/-- R388: whether a doorbell is accepted, as numbers of entries. -/
theorem doorbellOk_iff (x : Queue) (d : W32) : doorbellOk x d = true ↔ 0 < (d - x.doorbell).toNat
    ∧ (d - x.doorbell).toNat ≤ 2 ^ x.log2 - (x.doorbell - x.cons).toNat := by
  simp only [doorbellOk, Bool.and_eq_true, decide_eq_true_eq]

/-- Settles O54: each clause is the step lemma of one of the host's accesses, on the branch that it names. -/
theorem hostAccesses : Obligations.HostAccesses := by
  intro s q off v link addr len bytes h up
  refine ⟨registerWrite_writes h off v, fun x d hx hpass hroom => ?rings, fun x d hx hbad => ?stops, ?violates,
    violRead_clears h, evtdropRead_clears h false, evtdropRead_clears h true, fun d => ?consDbg, fun d => ?consEvt,
    fun hup hlen hbad => ?unsupported, fun hup hlen hbad hst hfill => ?reads, fun hup hlen hbad hst hfill => ?fills,
    fun hup hne hbad hst => ?writes, fun hup hne hbad => ?refused⟩
  case rings =>
    rw [doorbell_rings h]
    exact congrArg _ (updQueue_congr hx (if_pos ((doorbellOk_iff x d).mpr ⟨hpass, hroom⟩)))
  case stops =>
    rw [doorbell_rings h]
    refine congrArg _ (updQueue_congr hx (if_neg (fun hok => ?_)))
    obtain ⟨hpass, hroom⟩ := (doorbellOk_iff x d).mp hok
    omega
  case violates =>
    exact fun hq hoff h0 h8 h16 => ⟨_, windowViolation_counts h hq hoff h0 h8 h16, saturated_toNat _⟩
  case consDbg =>
    rw [evtconsWrite_writes h]
    simp only [if_true, writeBar0, lo32_setWidth]
  case consEvt =>
    rw [evtconsWrite_writes h]
    simp only [Bool.false_eq_true, if_false, writeBar0, lo32_setWidth]
  case unsupported => rw [hostMemRead_reads h hup hlen, if_pos hbad]
  case reads =>
    refine ⟨(touchRange s addr len).answerBytes addr len, ?_, ?_⟩
    · rw [hostMemRead_reads h hup hlen]
      simp only [hbad, hst, hfill, Bool.false_eq_true, if_false, List.isEmpty_nil, Bool.not_true]
    · exact congrArg (·.answerBytes addr len) (touchRange_eq s addr len)
  case fills =>
    rw [hostMemRead_reads h hup hlen]
    simp only [hbad, hst, List.isEmpty_eq_false_iff.mpr hfill, Bool.false_eq_true, if_false, Bool.not_false, if_true]
  case writes =>
    rw [hostMemWrite_writes h hup hne]
    simp only [hbad, hst, Bool.false_eq_true, if_false]
  case refused => rw [hostMemWrite_writes h hup hne, if_pos hbad]

end Sys2Proof.Machine
end

section
/-! SUPPORT. What the driver's commands do once their arguments are good (R389, R391 to R393). -/
namespace Sys2Proof.Machine

-- contexts that are created

section
variable (s : State) (w : Nat)

theorem wellOf_updWell (f : Well → Well) (v : Nat) :
    wellOf (updWell s w f) v = if v = w then f (wellOf s w) else wellOf s v := by
  split
  · next h => subst h; exact SMap.getD_put_self _ _ _ _
  · next h => exact SMap.getD_put_ne _ _ _ h

/-- R322: the wells' counts of a context start at 0, and nothing else of a well changes. -/
theorem wellOf_resetSamples (ctx : Nat) :
    wellOf (resetSamples s ctx) w = { wellOf s w with sampleCnt := (wellOf s w).sampleCnt.del ctx } := by
  simp only [wellOf, SMap.getD, resetSamples, SMap.find_mapAll]
  cases s.wells.find w <;> rfl

/-- R393: the wells of a context are assigned to it. -/
def assignWells (s : State) (ctx : Nat) (ws : List Nat) : State :=
  ws.foldl (fun s w => updWell s w (fun x => { x with owner := some ctx })) s

theorem assignWells_eq (ctx : Nat) (ws : List Nat) :
    assignWells s ctx ws = { s with wells := (assignWells s ctx ws).wells } := by
  unfold assignWells
  induction ws generalizing s with
  | nil => rfl
  | cons v ws ih => exact (ih _).trans rfl

theorem wellOf_assignWells (ctx : Nat) (ws : List Nat) : wellOf (assignWells s ctx ws) w
    = if w ∈ ws then { wellOf s w with owner := some ctx } else wellOf s w := by
  unfold assignWells
  induction ws generalizing s with
  | nil => rfl
  | cons v ws ih =>
    rw [List.foldl_cons, ih, wellOf_updWell]
    by_cases hw : w = v
    · subst hw; simp
    · simp [hw]

end

/-- R393: the module once a context of a descriptor has been created. -/
def withContext (s : State) (ctx : Nat) (priv : Bool) (d : List Byte) : State :=
  assignWells (resetSamples { s with ctxs := s.ctxs.put ctx { descContext d priv with
    preempted := s.scopes.any (fun p => p.2.device), stoppedAt := s.dt } } ctx) ctx (descWells d)

section
variable (s : State) (ctx : Nat) (priv : Bool) (d : List Byte)

theorem withContext_ctxs : (withContext s ctx priv d).ctxs = s.ctxs.put ctx { descContext d priv with
    preempted := s.scopes.any (fun p => p.2.device), stoppedAt := s.dt } := by
  rw [withContext, assignWells_eq]
  rfl

theorem withContext_mem : (withContext s ctx priv d).mem = s.mem := by
  rw [withContext, assignWells_eq]
  rfl

/-- R247, R393: a well's owner and count are all that the creation of a context changes in it. -/
theorem wellOf_withContext (w : Nat) : wellOf (withContext s ctx priv d) w = { wellOf s w with
    owner := if w ∈ descWells d then some ctx else (wellOf s w).owner
    sampleCnt := (wellOf s w).sampleCnt.del ctx } := by
  rw [withContext, wellOf_assignWells, wellOf_resetSamples]
  split <;> rfl

variable {s d}

/-- R393: a descriptor that is well formed, whose wells have no owner and whose areas meet no other context's. -/
theorem createContext_creates (hd : descOk (capBytes s) d = true) (hw : ∀ w ∈ descWells d, (wellOf s w).owner = none)
    (ha : ∀ p ∈ s.ctxs, ∀ x ∈ p.2.areas, ∀ y ∈ (descContext d false).areas, areasMeet x y = false) :
    createContext s ctx priv d = .done (withContext s ctx priv d) 1 := by
  have hwells : (descWells d).any (fun w => (wellOf s w).owner.isSome) = false :=
    List.any_eq_false.mpr (fun w hmem => by simp [hw w hmem])
  have hareas : s.ctxs.any (fun p => p.2.areas.any (fun a => (descContext d priv).areas.any (areasMeet a))) = false :=
    List.any_eq_false.mpr (fun p hp => by
      simp only [Bool.not_eq_true]
      exact List.any_eq_false.mpr (fun x hx => by
        simp only [Bool.not_eq_true]
        exact List.any_eq_false.mpr (fun y hy => by simp [ha p hp x hx y hy])))
  simp only [createContext, hd, hwells, hareas, Bool.not_true, Bool.or_self, Bool.false_eq_true, if_false]
  rfl

end

/-- R389: a command for a context, or a queue, that exists goes on. -/
theorem refuse_of_isNone {α : Type} {o : Option α} {s : State} {r : CmdAns} (ho : o.isSome = true) :
    (if o.isNone then CmdAns.refuse s stBadArg else r) = r :=
  if_neg (by rw [Option.isNone_eq_false_iff.mpr ho]; decide)

section
variable {s : State} {a : Nat} {bs : List Byte} (h : commandDue s = some (a, bs))
include h

/-- A command's event, where its performance is known. -/
theorem command_ends {opc : Nat} {used : List (Nat × Nat)} {body : List Byte → State → CmdAns} {r : CmdAns}
    (hc : Carries bs opc used) (hopc : 0 < opc ∧ opc ≤ 0x17) (hr : body bs s = r) :
    command s opc used body = r.ends a :=
  (command_performs h hc hopc).trans (congrArg _ hr)

-- contexts

/-- R393: CTX_CREATE with a good descriptor. -/
theorem ctxCreate_creates (hc : Carries bs 0x01 [(8, 2), (10, 1), (16, 8)]) (hctx : argOf bs 8 2 < 4096)
    (hnew : s.ctxs.find (argOf bs 8 2) = none) (hpriv : argOf bs 10 1 ≤ 1) (halign : argOf bs 16 8 % 64 = 0)
    (hcap : argOf bs 16 8 + 512 ≤ capBytes s) {t : State}
    (ht : createContext s (argOf bs 8 2) (argOf bs 10 1 == 1) (readPhys s (argOf bs 16 8) 512) = .done t 1) :
    exec .ctxCreate s = .next (finishCommand t a 1) := by
  refine (show exec .ctxCreate s = execCtxCreate s from rfl).trans (command_ends h hc (by decide) (r := .done t 1) ?_)
  refine (if_neg ?_).trans ht
  simp only [hnew, halign, Option.isSome_none, Bool.or_eq_true, decide_eq_true_eq, ne_eq, not_true_eq_false,
    Bool.false_eq_true, or_false]
  omega

section
variable (hheld : (s.ctxs.find (argOf bs 8 2)).isSome = true)
include hheld

/-- R389: CTX_DESTROY, which waits for what is in flight. -/
theorem ctxDestroy_performs (hc : Carries bs 0x02 [(8, 2)]) :
    let u := endContextWork s (argOf bs 8 2)
    exec .ctxDestroy s = if u.accs.any (fun p => accIn (argOf bs 8 2) p.2)
        || u.copies.any (fun p => p.2.ctx == argOf bs 8 2)
        || u.cohorts.any (fun p => p.2.ctx == argOf bs 8 2 && p.2.state != .ended) then .next u
      else .next (finishCommand (freeContext u (argOf bs 8 2)) a 1) := by
  refine (show exec .ctxDestroy s = execCtxDestroy s from rfl).trans ?_
  exact (command_ends h hc (by decide) (refuse_of_isNone hheld)).trans (apply_ite (CmdAns.ends a) _ _ _)

/-- R389: nothing of a context is in flight, and its cohorts have ended. -/
theorem ctxDestroy_frees (hc : Carries bs 0x02 [(8, 2)]) {u : State} (hu : u = endContextWork s (argOf bs 8 2))
    (haccs : ∀ p ∈ u.accs, accIn (argOf bs 8 2) p.2 = false) (hcopies : ∀ p ∈ u.copies, p.2.ctx ≠ argOf bs 8 2)
    (hcohorts : ∀ p ∈ u.cohorts, p.2.ctx = argOf bs 8 2 → p.2.state = .ended) :
    exec .ctxDestroy s = .next (finishCommand (freeContext u (argOf bs 8 2)) a 1) := by
  subst hu
  refine (ctxDestroy_performs h hheld hc).trans (if_neg ?_)
  simp only [Bool.or_eq_true, List.any_eq_true, Bool.and_eq_true, beq_iff_eq, bne_iff_ne, not_or, not_exists, not_and]
  exact ⟨⟨fun p hp => by simp [haccs p hp], hcopies⟩, fun p hp hctx => not_not_intro (hcohorts p hp hctx)⟩

theorem ctxDestroy_waits (hc : Carries bs 0x02 [(8, 2)]) {u : State} (hu : u = endContextWork s (argOf bs 8 2))
    (hbusy : (∃ p ∈ u.copies, p.2.ctx = argOf bs 8 2) ∨ ∃ p ∈ u.cohorts, p.2.ctx = argOf bs 8 2 ∧ p.2.state ≠ .ended) :
    exec .ctxDestroy s = .next u := by
  subst hu
  refine (ctxDestroy_performs h hheld hc).trans (if_pos ?_)
  simp only [Bool.or_eq_true, List.any_eq_true, Bool.and_eq_true, beq_iff_eq, bne_iff_ne, or_assoc]
  exact .inr hbusy

theorem preempt_performs (hc : Carries bs 0x05 [(8, 2)]) :
    let u := stopContext (updCtx s (argOf bs 8 2) (fun c => { c with hostPre := true })) (argOf bs 8 2)
      (!quiesced s (argOf bs 8 2))
    exec .preempt s = if contextQuiet u (argOf bs 8 2) = true ∧ copiesDone u (argOf bs 8 2) = true then
      .next (finishCommand (saveAll u (argOf bs 8 2)) a 1) else .next u := by
  intro u
  refine (show exec .preempt s = execPreempt s from rfl).trans ?_
  refine (command_ends h hc (by decide) (refuse_of_isNone hheld)).trans ((apply_ite (CmdAns.ends a) _ _ _).trans ?_)
  simp only [Bool.and_eq_true]
  rfl

theorem resume_resumes (hc : Carries bs 0x06 [(8, 2)]) : exec .resume s = .next (finishCommand
    (resumeContext (updCtx s (argOf bs 8 2) (fun c => { c with hostPre := false })) (argOf bs 8 2)) a 1) :=
  (show exec .resume s = execResume s from rfl).trans
    (command_ends h hc (by decide) (r := .done _ 1) (refuse_of_isNone hheld))

/-- R313, R392: INVALIDATE of whole pages. -/
theorem invalidate_performs (hc : Carries bs 0x07 [(8, 2), (16, 9), (32, 8)]) (hbase : argOf bs 16 9 % 8192 = 0)
    (hlen : argOf bs 32 8 % 8192 = 0) :
    let u := forgetRange s (argOf bs 8 2) (argOf bs 16 9) (argOf bs 32 8)
    exec .invalidate s = if rangeInFlight u (argOf bs 8 2) (argOf bs 16 9) (argOf bs 32 8) = true then .next u
      else .next (finishCommand (wakeAll (dropRange u (argOf bs 8 2) (argOf bs 16 9) (argOf bs 32 8))) a 1) := by
  intro u
  refine (show exec .invalidate s = execInvalidate s from rfl).trans ?_
  refine (command_ends h hc (by decide) (if_neg ?_)).trans (apply_ite (CmdAns.ends a) _ _ _)
  simp only [hbase, hlen, Option.isNone_eq_false_iff.mpr hheld]
  decide

theorem hotAck_forgets (hc : Carries bs 0x16 [(8, 2), (16, 9)]) : exec .hotAck s = .next (finishCommand (dropHot s
    (fun x => x.ctx == argOf bs 8 2 && x.page == argOf bs 16 9 / 8192 && x.state == .queued)) a 1) :=
  (show exec .hotAck s = execHotAck s from rfl).trans
    (command_ends h hc (by decide) (r := .done _ 1) (refuse_of_isNone hheld))

end

/-- R315: FAULT_ANSWER of a fault that is outstanding. -/
theorem faultAnswer_answers (hc : Carries bs 0x08 [(8, 2), (10, 2), (12, 1)]) {ans : Answer} {t : State}
    (hans : answerOf (argOf bs 12 1) = some ans) (ht : answerFault s (argOf bs 8 2) (argOf bs 10 2) ans = some t) :
    exec .faultAnswer s = .next (finishCommand t a 1) := by
  refine (show exec .faultAnswer s = execFaultAnswer s from rfl).trans
    (command_ends h hc (by decide) (r := .done t 1) ?_)
  simp only [hans, Option.bind_some, ht]
  rfl

-- stacks

/-- R342: RETIRE_STACK of a stack of the interleave. -/
theorem retireStack_performs (hc : Carries bs 0x09 [(8, 1), (9, 1)])
    (hstack : argOf bs 8 1 ∈ s.mig.act ∨ s.mig.mig = true ∧ argOf bs 8 1 ∈ s.mig.old) (hconfirm : argOf bs 9 1 ≤ 1) :
    exec .retireStack s = match retireStackCmd s (argOf bs 8 1) (argOf bs 9 1 == 1) with
      | .accepted t => .next (finishCommand t a 1)
      | .refused => .next (finishCommand s a 3)
      | .needFree => .next (finishCommand s a 4) := by
  refine (show exec .retireStack s = execRetireStack s from rfl).trans ?_
  refine (command_ends h hc (by decide) (if_neg ?_)).trans ?_
  · simp only [Bool.or_eq_true, Bool.not_eq_true', Bool.or_eq_false_iff, Bool.and_eq_false_iff, List.contains_eq_mem,
      decide_eq_false_iff_not, decide_eq_true_eq]
    grind
  · cases retireStackCmd s (argOf bs 8 1) (argOf bs 9 1 == 1) <;> rfl

section
variable (hc : Carries bs 0x0A [(8, 1), (16, 7)]) (hpage : argOf bs 16 7 % 8192 = 0) {b : BadPage}
  (hb : s.badPages.find (argOf bs 16 7 / 8192) = some b)
include hc hpage hb

theorem retireAck_acknowledges (hkind : argOf bs 8 1 = 0x51) (hrel : b.release = false) (hack : b.acked = false) :
    exec .retireAck s = .next (finishCommand (failBad { s with
      badPages := s.badPages.put (argOf bs 16 7 / 8192) { b with acked := true } }) a 1) := by
  refine (show exec .retireAck s = execRetireAck s from rfl).trans (command_ends h hc (by decide) (r := .done _ 1) ?_)
  simp only [hpage, ne_eq, not_true_eq_false, if_false, hkind, hb, hrel, hack, Bool.or_self, Bool.false_eq_true]
  rfl

theorem retireAck_releases (hkind : argOf bs 8 1 = 0x54) (hrel : b.release = true) : exec .retireAck s
    = .next (finishCommand { s with badPages := s.badPages.del (argOf bs 16 7 / 8192) } a 1) := by
  refine (show exec .retireAck s = execRetireAck s from rfl).trans (command_ends h hc (by decide) (r := .done _ 1) ?_)
  simp only [hpage, ne_eq, not_true_eq_false, if_false, hkind, hb, hrel, if_true]
  rfl

end

-- queues

/-- R387: QUEUE_BIND of a queue that is free. -/
theorem queueBind_binds (hc : Carries bs 0x03 [(8, 2), (10, 2), (16, 8), (24, 1)]) (hq : argOf bs 8 2 < 4096)
    (hctx : (s.ctxs.find (argOf bs 10 2)).isSome = true) (hlo : 4 ≤ argOf bs 24 1) (hhi : argOf bs 24 1 ≤ 16)
    (hcap : argOf bs 16 8 + 64 * 2 ^ argOf bs 24 1 ≤ capBytes s)
    (hfree : ∀ x, s.queues.find (argOf bs 8 2) = some x → x.graph = none ∧ x.cons = x.doorbell ∧ x.resetting = false) :
    exec .queueBind s = .next (finishCommand { s with
      queues := s.queues.put (argOf bs 8 2) { ctx := argOf bs 10 2, base := argOf bs 16 8, log2 := argOf bs 24 1 } }
      a 1) := by
  have hf : (match s.queues.find (argOf bs 8 2) with
      | none => true
      | some x => x.graph.isNone && x.cons == x.doorbell && !x.resetting) = true := by
    split
    · rfl
    · next x hx =>
      obtain ⟨hgraph, hcons, hreset⟩ := hfree x hx
      simp [hgraph, hcons, hreset]
  refine (show exec .queueBind s = execQueueBind s from rfl).trans (command_ends h hc (by decide) (r := .done _ 1) ?_)
  refine if_neg (fun hbad => ?_)
  simp only [Bool.or_eq_true, decide_eq_true_eq, Option.isNone_eq_false_iff.mpr hctx, Bool.false_eq_true, or_false,
    Bool.not_eq_true'] at hbad
  rcases hbad with hbad | hbad
  · omega
  · exact Bool.noConfusion (hf.symm.trans hbad)

section
variable (hbound : (s.queues.find (argOf bs 8 2)).isSome = true)
include hbound

/-- R376, R389: QUEUE_RESET, which waits for the queue's copies, its session and its cohorts. -/
theorem queueReset_performs (hc : Carries bs 0x04 [(8, 2)]) :
    let u := closeSession (if ((s.queues.find (argOf bs 8 2)).map (·.resetting)).getD false then s
      else beginReset s (argOf bs 8 2)) (argOf bs 8 2)
    exec .queueReset s = if (u.copies.any (fun p => p.2.queue == some (argOf bs 8 2) && p.2.fault.isNone)
        || markWaits u (argOf bs 8 2) || u.cohorts.any (fun p => p.2.queue == argOf bs 8 2 && p.2.state != .ended)) = true
      then .next u else .next (finishCommand (endReset u (argOf bs 8 2)) a 1) := by
  obtain ⟨x, hx⟩ := Option.isSome_iff_exists.mp hbound
  intro u
  refine (show exec .queueReset s = execQueueReset s from rfl).trans ((command_performs h hc (by decide)).trans ?_)
  simp only [u, hx, Option.map_some, Option.getD_some]
  exact apply_ite (CmdAns.ends a) _ _ _

theorem breakCmd_sets (hc : Carries bs 0x0B [(8, 2), (12, 4), (16, 1)]) (hfl : argOf bs 16 1 < 4) :
    let b : W32 × Bool := (BitVec.ofNat 32 (argOf bs 12 4), argOf bs 16 1 % 2 == 1)
    exec .breakCmd s = .next (finishCommand (updQueue s (argOf bs 8 2) (fun x => { x with
      breaks := x.breaks.filter (· != b) ++ (if 2 ≤ argOf bs 16 1 then [] else [b]) })) a 1) := by
  intro b
  have hbreaks (l : List (W32 × Bool)) :
      (if 2 ≤ argOf bs 16 1 then l else l ++ [b]) = l ++ (if 2 ≤ argOf bs 16 1 then [] else [b]) := by
    split
    · rw [List.append_nil]
    · rfl
  refine (show exec .breakCmd s = execBreakCmd s from rfl).trans (command_ends h hc (by decide) (r := .done _ 1) ?_)
  refine (if_neg ?_).trans ?_
  · simp only [Option.isNone_eq_false_iff.mpr hbound, Bool.false_or, decide_eq_true_eq]
    omega
  · simp only [hbreaks, b]
    rfl

theorem continueCmd_continues (hc : Carries bs 0x0C [(8, 2)]) :
    exec .continueCmd s = .next (finishCommand (continueQueue s (argOf bs 8 2)) a 1) :=
  (show exec .continueCmd s = execContinueCmd s from rfl).trans
    (command_ends h hc (by decide) (r := .done _ 1) (refuse_of_isNone hbound))

theorem stampBind_binds (hc : Carries bs 0x0D [(8, 2), (16, 9), (32, 9), (48, 1)])
    (hlg : argOf bs 48 1 = 0 ∨ 3 ≤ argOf bs 48 1 ∧ argOf bs 48 1 ≤ 20) :
    exec .stampBind s = .next (finishCommand (updQueue s (argOf bs 8 2) (fun x => { x with
      stamp := if argOf bs 48 1 = 0 then none
        else some { base := argOf bs 16 9, cb := argOf bs 32 9, log2 := argOf bs 48 1, vec := none } })) a 1) := by
  refine (show exec .stampBind s = execStampBind s from rfl).trans (command_ends h hc (by decide) (r := .done _ 1) ?_)
  refine if_neg ?_
  simp only [Option.isNone_eq_false_iff.mpr hbound, Bool.false_or, Bool.and_eq_true, Bool.or_eq_true, decide_eq_true_eq]
  omega

theorem traceClose_performs (hc : Carries bs 0x0F [(8, 2)]) :
    let u := closeSession (updQueue s (argOf bs 8 2) (fun x => { x with sess := { x.sess with state := .closed } }))
      (argOf bs 8 2)
    exec .traceClose s = if (u.queues.find (argOf bs 8 2)).any (·.sess.ring.isSome) = true then .next u
      else .next (finishCommand u a 1) :=
  (show exec .traceClose s = execTraceClose s from rfl).trans
    ((command_ends h hc (by decide) (refuse_of_isNone hbound)).trans (apply_ite (CmdAns.ends a) _ _ _))

end

/-- R375: TRACE_OPEN of a session that is closed. -/
theorem traceOpen_opens (hc : Carries bs 0x0E [(8, 2), (10, 1), (11, 1), (16, 9), (32, 9)]) {x : Queue}
    (hx : s.queues.find (argOf bs 8 2) = some x) (hclosed : x.sess.state = .closed) (hlo : 6 ≤ argOf bs 11 1)
    (hhi : argOf bs 11 1 ≤ 24) (hmode : argOf bs 10 1 ≤ 1) :
    exec .traceOpen s = .next (finishCommand (updQueue s (argOf bs 8 2) (fun x => { x with sess :=
      { state := if argOf bs 10 1 = 1 then .capturing else .armed
        ring := some { base := argOf bs 16 9, cb := argOf bs 32 9, log2 := argOf bs 11 1, vec := none } } })) a 1) := by
  refine (show exec .traceOpen s = execTraceOpen s from rfl).trans (command_ends h hc (by decide) (r := .done _ 1) ?_)
  simp only [hx, hclosed]
  refine if_neg ?_
  simp only [bne_self_eq_false, Bool.or_false, Bool.or_eq_true, decide_eq_true_eq]
  omega

-- scopes and images

section
variable {dev : Bool} {cs : List Nat} (hscope : scopeArg s bs = some (dev, cs))
include hscope

section
variable (hc : Carries bs 0x10 [(8, 1), (16, 8)])
include hc

theorem quiesce_performs :
    let x : QScope := { device := dev, ctxs := cs, since := s.dt }
    exec .quiesce s = if s.scopes.any (fun p => scopeMeets dev cs p.2) then .next (finishCommand s a 3)
      else .next (finishCommand (stopScope { s with
        scopes := s.scopes.put s.nextId x, nextId := s.nextId + 1
        mig := if dev then { s.mig with paused := s.mig.mig } else s.mig } x) a 1) := by
  intro x
  refine (show exec .quiesce s = execQuiesce s from rfl).trans ((command_performs h hc (by decide)).trans ?_)
  simp only [hscope]
  exact apply_ite (CmdAns.ends a) _ _ _

/-- R378: a scope that overlaps one that is quiesced is refused. -/
theorem quiesce_refuses (hmeets : ∃ p ∈ s.scopes, scopeMeets dev cs p.2 = true) :
    exec .quiesce s = .next (finishCommand s a 3) :=
  (quiesce_performs h hscope hc).trans (if_pos (List.any_eq_true.mpr hmeets))

end

section
variable (hc : Carries bs 0x11 [(8, 1), (16, 8)])
include hc

theorem release_releases {k : Nat} {x : QScope} (hx : s.scopes.find? (fun p => p.2.device == dev
      && (dev || p.2.ctxs == cs) && p.2.state == .quiesced) = some (k, x)) :
    exec .release s = .next (finishCommand (releaseScope s k x) a 1) := by
  refine (show exec .release s = execRelease s from rfl).trans (command_ends h hc (by decide) (r := .done _ 1) ?_)
  simp only [hscope, hx]
  rfl

theorem release_refuses (hnone : ∀ p ∈ s.scopes, p.2.state ≠ .quiesced) :
    exec .release s = .next (finishCommand s a 3) := by
  have hfind : s.scopes.find? (fun p => p.2.device == dev && (dev || p.2.ctxs == cs) && p.2.state == .quiesced) = none :=
    List.find?_eq_none.mpr (fun p hp => by simp [hnone p hp])
  refine (show exec .release s = execRelease s from rfl).trans (command_ends h hc (by decide) (r := .done _ 3) ?_)
  simp only [hscope, hfind]
  rfl

end

end

/-- R378, R380, R392: IMAGE with room for the image begins its writing. -/
theorem image_begins (hc : Carries bs 0x12 [(8, 1), (16, 8), (24, 8), (32, 8)]) {k : Nat} {x : QScope}
    (hidle : ∀ p ∈ s.scopes, p.2.state ≠ .imaging) (hsign : argOf bs 8 1 ≤ 1) (halign : argOf bs 32 8 % 1048576 = 0)
    (hcap : argOf bs 32 8 ≤ capBytes s) (hx : imageScope s = some (k, x))
    (hroom : (imageBytes s x (argOf bs 8 1 == 1) (usedOf s x (argOf bs 32 8))).length ≤ argOf bs 24 8) :
    let job : ImageJob := { addr := argOf bs 16 8, len := argOf bs 24 8, sign := argOf bs 8 1 == 1
                            used := usedOf s x (argOf bs 32 8) }
    exec .image s = .next { s with scopes := s.scopes.put k { x with state := .imaging, job := some job } } := by
  have hnone : s.scopes.any (fun p => p.2.state == .imaging) = false :=
    List.any_eq_false.mpr (fun p hp => by simp [hidle p hp])
  have hgood : (decide (1 < argOf bs 8 1) || decide (argOf bs 32 8 % 1048576 ≠ 0) || decide (capBytes s < argOf bs 32 8))
      = false := by
    simp only [Bool.or_eq_false_iff, decide_eq_false_iff_not]
    omega
  refine (show exec .image s = execImage s from rfl).trans (command_ends h hc (by decide) (r := .wait _) ?_)
  simp only [hnone, hgood, hx, Nat.not_lt.mpr hroom, Bool.false_eq_true, if_false]

section
variable (hc : Carries bs 0x13 [(8, 1), (16, 8), (24, 8), (32, 8)]) (hverify : argOf bs 8 1 ≤ 1)
include hc hverify

/-- R383: RESTORE of an image that fails a check. -/
theorem restore_fails {st : Nat}
    (hcheck : checkImage s (Memory.getN s.hostMem (argOf bs 16 8) (argOf bs 24 8)) (argOf bs 8 1 == 1) = .error st) :
    exec .restore s = .next (finishCommand s a st) := by
  refine (show exec .restore s = execRestore s from rfl).trans (command_ends h hc (by decide) (r := .done _ st) ?_)
  simp only [Nat.not_lt.mpr hverify, if_false, hcheck]
  rfl

/-- R383, R384: RESTORE of an image that passes them, with the roots that it is to have. -/
theorem restore_performs {p : Parsed} {rs : List (Nat × Nat)}
    (hcheck : checkImage s (Memory.getN s.hostMem (argOf bs 16 8) (argOf bs 24 8)) (argOf bs 8 1 == 1) = .ok p)
    (hdevice : p.device = true → argOf bs 32 8 = 0 ∧ rs = [])
    (hctxs : p.device = false → restoreRoots s (argOf bs 32 8) (imageContent s p.secs).ctxs.keys = some rs) :
    exec .restore s = if canTake s (imageContent s p.secs) = true then
      .next (finishCommand (restoreState s p (imageContent s p.secs) rs) a 1) else .next (finishCommand s a 10) := by
  have hroots : (if p.device then (if argOf bs 32 8 = 0 then some [] else none)
      else restoreRoots s (argOf bs 32 8) (imageContent s p.secs).ctxs.keys) = some rs := by
    cases hp : p.device with
    | true =>
      obtain ⟨htable, rfl⟩ := hdevice hp
      rw [if_pos rfl, if_pos htable]
    | false => exact (if_neg Bool.false_ne_true).trans (hctxs hp)
  refine (show exec .restore s = execRestore s from rfl).trans ((command_performs h hc (by decide)).trans ?_)
  simp only [Nat.not_lt.mpr hverify, if_false, hcheck, hroots]
  cases canTake s (imageContent s p.secs) <;> rfl

end

-- power, margins and attestation

/-- R398: POWER with the cap and the brake level alone. -/
theorem power_setsCap (hc : Carries bs 0x14 [(8, 4), (12, 1), (13, 1), (14, 2), (16, 8), (24, 1)])
    (hbrake : argOf bs 13 1 < 8) (hfl : argOf bs 24 1 = 8) (hlv : argOf bs 8 4 = 0) (hcap : argOf bs 14 2 ≤ 3000) :
    exec .power s = .next (finishCommand (setCap s (argOf bs 14 2) (argOf bs 13 1)) a 1) := by
  have hcap' : ¬ratingW < argOf bs 14 2 := Nat.not_lt.mpr hcap
  refine (show exec .power s = execPower s from rfl).trans (command_ends h hc (by decide) (r := .done _ 1) ?_)
  refine (if_neg ?_).trans ?_
  · simp [hfl, hlv, hcap', hbrake]
  · simp [hfl]
    rfl

theorem applyMargin_applies (hc : Carries bs 0x15 []) : exec .applyMargin s = .next (finishCommand { s with
    dies := s.dies.zipIdx.map (fun p => { p.1 with halt := p.1.halt + clkStop s p.2 })
    power := { s.power with margins := s.power.margins + 1 }, fresh := s.fresh + 4 } a 1) :=
  (show exec .applyMargin s = execApplyMargin s from rfl).trans (command_performs h hc (by decide))

theorem attest_reports (hc : Carries bs 0x17 [(16, 8), (24, 32)]) :
    let r := reportContent s ((bs.drop 24).take 32)
    exec .attest s = .next (finishCommand { s with
      hostMem := Memory.setN s.hostMem (argOf bs 16 8) (r ++ Config.sign r) } a 1) :=
  (show exec .attest s = execAttest s from rfl).trans (command_performs h hc (by decide))

end

/-- Settles O57: each clause is the step lemma of one command; a descriptor's context is in the table of `withContext`. -/
theorem commands : Obligations.Commands := by
  intro s a bs h arg done is ctx held bound d ring
  refine ⟨?creates, ?destroys, fun hc hq hctx hlo hhi hcap => queueBind_binds h hc hq hctx hlo hhi hcap,
    fun hc hb => queueReset_performs h hb hc, fun hc hheld => preempt_performs h hheld hc,
    fun hc hheld => resume_resumes h hheld hc, fun hc hheld => invalidate_performs h hheld hc, ?answers,
    fun hc => retireStack_performs h hc, fun b hc hpage hb => ⟨retireAck_acknowledges h hc hpage hb,
      retireAck_releases h hc hpage hb⟩,
    fun hc hb => breakCmd_sets h hb hc, fun hc hb => continueCmd_continues h hb hc,
    fun hc hb => stampBind_binds h hb hc, fun x hc hx => traceOpen_opens h hc hx,
    fun hc hb => traceClose_performs h hb hc, ?quiesces,
    fun dev cs k x hc hscope => ⟨release_releases h hscope hc, release_refuses h hscope hc⟩,
    fun k x hc => image_begins h hc, fun st hc hverify => restore_fails h hc hverify,
    fun p rs hc hverify hcheck => restore_performs h hc hverify hcheck,
    fun hc hbrake hfl hlv => power_setsCap h hc hbrake hfl hlv, applyMargin_applies h,
    fun hc hheld => hotAck_forgets h hheld hc, attest_reports h⟩
  case creates =>
    intro hc hctx hnew hpriv halign hcap hd hw ha
    refine ⟨withContext s ctx (arg 10 1 == 1) d,
      ctxCreate_creates h hc hctx hnew hpriv halign hcap (createContext_creates ctx _ hd hw ha), ?_, fun k hk => ?_,
      withContext_mem .., fun w hmem => ?_, fun w hnot => ?_⟩
    · rw [withContext_ctxs, SMap.find_put_self]
    · rw [withContext_ctxs, SMap.find_put_ne _ _ hk]
    · rw [wellOf_withContext, if_pos hmem]
    · rw [wellOf_withContext, if_neg hnot]
  case destroys =>
    exact fun hc hheld => ⟨fun haccs hcopies hcohorts =>
      ⟨ctxDestroy_frees h hheld hc rfl haccs hcopies hcohorts, SMap.find_del_self _ _⟩, ctxDestroy_waits h hheld hc rfl⟩
  case answers =>
    intro ans t hc hans
    refine faultAnswer_answers h hc ?_
    rcases hans with ⟨he, rfl⟩ | ⟨he, rfl⟩ | ⟨he, rfl⟩ <;> exact congrArg answerOf he
  case quiesces =>
    exact fun dev cs hc hscope => ⟨quiesce_refuses h hscope hc, fun hnone =>
      (quiesce_performs h hscope hc).trans (if_neg (by simpa using hnone))⟩

end Sys2Proof.Machine
end

section
/-! SUPPORT. The state of the device, which a context's end leaves (R390, R395): stores at their homes, translations, the
ends of crews and cohorts, sessions and graphs. -/
namespace Sys2Proof.Machine

theorem foldl_devState {α : Type} {f : State → α → State} (hf : ∀ s x, (f s x).devState = s.devState) (xs : List α)
    (s : State) : (xs.foldl f s).devState = s.devState := by
  induction xs generalizing s with
  | nil => rfl
  | cons x xs ih => rw [List.foldl_cons, ih, hf]

/-- Stores that become visible leave the device where it stood. -/
protected theorem Lands.devState {s t : State} (h : Lands s t) : t.devState = s.devState := by rw [h.state]

section
variable (s : State)

-- stores and translations

@[simp] theorem settle_devState (line : Nat) : (settle s line).devState = s.devState := (settle_lands s line).devState

@[simp] theorem arriveStoreFrom_devState (line src : Nat) (ws : List (Nat × Byte)) (from_ : Nat) (vec : Option Notice) :
    (arriveStoreFrom s line src ws from_ vec).1.devState = s.devState := by simp [arriveStoreFrom]

@[simp] theorem orderedPerform_devState (acc : Nat) (a : Access) (q : LaneReq) (op : AtomOp) (ty : AtomTy) (pa : Nat) :
    (orderedPerform s acc a q op ty pa).devState = s.devState := by
  simp only [orderedPerform, ackTw, returnSump, arriveStore]
  split <;> simp

@[simp] theorem stalePerform_devState (acc : Nat) (a : Access) (q : LaneReq) (pa : Nat) :
    (stalePerform s acc a q pa).devState = s.devState := by
  simp only [stalePerform]
  split <;> rfl

@[simp] theorem releaseHeld_devState (n line : Nat) : (releaseHeld n s line).devState = s.devState := by
  induction n generalizing s with
  | zero => rfl
  | succ n ih =>
    unfold releaseHeld
    split
    · rw [ih, orderedPerform_devState]
    · split
      · rw [ih, stalePerform_devState]
      · rfl

@[simp] theorem storeOrStall_devState (line src : Nat) (ws : List (Nat × Byte)) :
    (storeOrStall s line src ws).1.devState = s.devState := by
  simp only [storeOrStall]
  split
  · rfl
  · simp [storeLine, examineHeld, arriveStore, touchWindows]

@[simp] theorem arriveAll_devState (src : Nat) (ls : SMap (List (Nat × Byte))) :
    (arriveAll s src ls).1.devState = s.devState := by
  induction ls generalizing s with
  | nil => rfl
  | cons p ls ih => simp only [arriveAll, ih, storeOrStall_devState]

@[simp] theorem devWrite_devState (pa : Nat) (bs : List Byte) : (devWrite s pa bs).1.devState = s.devState :=
  arriveAll_devState s _ _

@[simp] theorem devWriteAfter_devState (pa : Nat) (bs : List Byte) (from_ : Nat) (vec : Option Notice) :
    (devWriteAfter s pa bs from_ vec).1.devState = s.devState := by simp [devWriteAfter, examineHeld, touchWindows]

@[simp] theorem askFill_devState (line : Nat) : (askFill s line).devState = s.devState := by
  unfold askFill
  split
  · rfl
  · cases h : sendGranules s none [line * 128, line * 128 + 64] with
    | none => rfl
    | some t => exact (sendGranules_lands h).devState

@[simp] theorem setAD_devState (pa : Nat) (w : Bool) : (setAD s pa w).1.devState = s.devState := by
  simp only [setAD]
  split
  · rfl
  · exact devWrite_devState s _ _

@[simp] theorem tlbFill_devState (u : Option Nat) (d : Nat) (t : TlbEntry) : (tlbFill s u d t).devState = s.devState := by
  cases u <;> rfl

@[simp] theorem translate_devState (u : Option Nat) (d ctx va : Nat) (need : Need) (demand : Bool) :
    (translate s u d ctx va need demand).2.devState = s.devState := by
  unfold translate
  split
  · rfl
  · dsimp only
    split
    · split <;> rfl
    · split
      · rfl
      · rfl
      · split
        · rfl
        · exact askFill_devState _ _
      · split
        · rfl
        · rw [tlbFill_devState]
          split
          · exact setAD_devState _ _ _
          · rfl

-- faults

@[simp] theorem ringPost_devState (r : RingRef) (x : BitVec 256) : (ringPost s r x).devState = s.devState := by
  simp [ringPost]

@[simp] theorem postFault_devState (ctx tag : Nat) : (postFault s ctx tag).devState = s.devState := by
  unfold postFault
  repeat' split
  all_goals simp

@[simp] theorem joinFault_devState (ctx va lvl : Nat) (q : Requester) :
    (joinFault s ctx va lvl q).2.devState = s.devState := by
  unfold joinFault
  dsimp only
  repeat' split
  all_goals simp

-- crews

@[simp] theorem wakeSplits_devState (cid : Nat) (f : Split → Bool) : (wakeSplits s cid f).devState = s.devState := by
  unfold wakeSplits
  split <;> simp

@[simp] theorem wakeAll_devState : (wakeAll s).devState = s.devState :=
  foldl_devState (fun s cid => by unfold wakeCrew; split <;> simp) _ s

@[simp] theorem wakeRows_devState (u : Nat) : (wakeRows s u).devState = s.devState :=
  foldl_devState (fun s p => by split <;> simp) _ s

@[simp] theorem freeEntry_devState (inSump : Option Nat) : (freeEntry s inSump).devState = s.devState := by
  cases inSump <;> rfl

@[simp] theorem traceEvent_devState (ctx : Nat) (fields : List (Nat × Nat)) :
    (traceEvent s ctx fields).devState = s.devState := by
  unfold traceEvent
  dsimp only
  repeat' split
  all_goals simp

@[simp] theorem lockAnswer_devState (w : Waiter) (status : Nat) : (lockAnswer s w status).devState = s.devState := by
  simp [lockAnswer]

@[simp] theorem l2Touch_devState (line : Nat) : (l2Touch s line).devState = s.devState := by
  simp only [l2Touch]
  split <;> rfl

@[simp] theorem holdLock_devState (line : Nat) (w : Waiter) (status : Nat) :
    (holdLock s line w status).devState = s.devState := by
  unfold holdLock
  dsimp only
  repeat' split
  all_goals simp [clearTrack, l1Fill, grantLease]

@[simp] theorem grantLock_devState (line : Nat) (w : Waiter) (status : Nat) :
    (grantLock s line w status).devState = s.devState := by
  unfold grantLock
  split
  · simp [dropIdleLocks]
  · exact holdLock_devState s line w status

@[simp] theorem replayLock_devState (n : Nat) (free : Bool) (line : Nat) :
    (replayLock n free s line).devState = s.devState := by
  induction n generalizing s free with
  | zero => rfl
  | succ n ih =>
    unfold replayLock
    dsimp only
    repeat' split
    all_goals simp [ih, traceMatch, lockStatus]

@[simp] theorem serveLock_devState (line status : Nat) (rotate : Bool) :
    (serveLock s line status rotate).devState = s.devState := by
  unfold serveLock
  repeat' split
  all_goals simp [dropIdleLocks]

@[simp] theorem serveBroken_devState (line : Nat) (rotate : Bool) : (serveBroken s line rotate).devState = s.devState := by
  unfold serveBroken
  repeat' split
  all_goals simp

@[simp] theorem leaveLock_devState (cid status line : Nat) : (leaveLock s cid status line).devState = s.devState := by
  unfold leaveLock
  dsimp only
  repeat' split
  all_goals simp

@[simp] theorem chargeSibling_devState (cr : Crew) : (chargeSibling s cr).devState = s.devState := by
  unfold chargeSibling
  split <;> rfl

@[simp] theorem unfocusCrew_devState (cid : Nat) : (unfocusCrew s cid).devState = s.devState := by
  unfold unfocusCrew
  repeat' split
  all_goals rfl

@[simp] theorem endCrewOnly_devState (cid : Nat) (how : Ending) : (endCrewOnly s cid how).devState = s.devState := by
  unfold endCrewOnly
  split
  · rfl
  · next cr _ =>
    split
    · rfl
    · have hleft (status : Nat) : (cr.locks.foldl (fun s (h : HeldLock) => leaveLock s cid status h.pline)
          (dropAccesses (dropWaiters s cid) cid)).devState = s.devState :=
        foldl_devState (fun s (h : HeldLock) => leaveLock_devState s cid status h.pline) _ _
      dsimp only
      split <;> simp [hleft]

-- cohorts

@[simp] theorem postStamp_devState (cid q : Nat) (r : BitVec 512) : (postStamp s cid q r).devState = s.devState := by
  unfold postStamp
  split <;> rfl

@[simp] theorem endStream_devState (c : Cohort) : (endStream s c).devState = s.devState := by
  unfold endStream
  split <;> rfl

@[simp] theorem endCohort_devState (k cid : Nat) (killed : Bool) : (endCohort s k cid killed).devState = s.devState := by
  have hstream (c : Cohort) (st : Stream) : (retireStream s cid c st).devState = s.devState :=
    foldl_devState (fun s p => postStamp_devState s _ _ _) _ s
  unfold endCohort
  dsimp only
  repeat' split
  all_goals simp [keepTile, hstream, retireCohort]

@[simp] theorem endCohortCrews_devState (k : Nat) (killed : Bool) : (endCohortCrews s k killed).devState = s.devState := by
  have hcrews := foldl_devState (f := fun s (p : Nat × Crew) => endCrewOnly s p.1 .broken)
    (fun s p => endCrewOnly_devState s p.1 .broken) (crewsOf s k) s
  unfold endCohortCrews
  dsimp only
  repeat' split
  all_goals simp [killCohort, hcrews]

@[simp] theorem endService_devState (ctx : Nat) : (endService s ctx).devState = s.devState :=
  foldl_devState (fun s k => endCrewOnly_devState s k .broken) _ s

end

-- accesses at virtual addresses

/-- Every state that an answer holds has the device in one state. -/
def KeepsDev (d : DevState) (o : Option State) : Prop := ∀ t, o = some t → t.devState = d

section
variable {s : State} {d : DevState}

theorem keepsDev_some (h : s.devState = d) : KeepsDev d (some s) := fun _ ht => Option.some.inj ht ▸ h

theorem keepsDev_none : KeepsDev d none := fun _ ht => nomatch ht

theorem andThen_keepsDev {α β : Type} {r : Virt α} {f : α → State → Virt β} (hr : KeepsDev d r.state)
    (hf : ∀ x t, t.devState = d → KeepsDev d (f x t).state) : KeepsDev d (r.andThen f).state := by
  cases r with
  | ok x t => exact hf x t (hr t rfl)
  | absent va lvl t => exact hr
  | wait t => exact hr
  | bad => exact hr

theorem translate_snd_devState {u : Option Nat} {die ctx va : Nat} {need : Need} {demand : Bool} {r : Xlate} {t : State}
    (h : translate s u die ctx va need demand = (r, t)) : t.devState = s.devState := by
  rw [← translate_devState s u die ctx va need demand, h]

theorem virtBytes_keepsDev {ctx : Nat} {need : Need} {ps : List (Nat × Byte)} (h : s.devState = d) :
    KeepsDev d (virtBytes s ctx need ps).state := by
  induction ps generalizing s with
  | nil => exact keepsDev_some h
  | cons p ps ih =>
    unfold virtBytes
    split
    · next hx =>
      have ht := (translate_snd_devState hx).trans h
      split
      · exact keepsDev_some ht
      · exact andThen_keepsDev (ih ht) (fun _ _ h => keepsDev_some h)
    · next hx => exact keepsDev_some ((translate_snd_devState hx).trans h)
    · next hx => exact keepsDev_some ((translate_snd_devState hx).trans h)
    · exact keepsDev_none

theorem virtWrite_keepsDev {ctx va : Nat} {bs : List Byte} (h : s.devState = d) :
    KeepsDev d (virtWrite s ctx va bs).state :=
  andThen_keepsDev (virtBytes_keepsDev h) (fun _ t h => keepsDev_some ((arriveAll_devState t _ _).trans h))

theorem virtRead_keepsDev {ctx va n : Nat} (h : s.devState = d) : KeepsDev d (virtRead s ctx va n).state := by
  refine andThen_keepsDev (virtBytes_keepsDev h) (fun _ t h => ?_)
  split
  · exact keepsDev_some ((askFill_devState t _).trans h)
  · split
    · exact keepsDev_none
    · exact keepsDev_some h

theorem sessionPut_keepsDev {ctx prod : Nat} {r : RingRef} {x : BitVec 256} (h : s.devState = d) :
    KeepsDev d (sessionPut s ctx r x prod).state :=
  andThen_keepsDev (virtWrite_keepsDev h) (fun _ _ h => andThen_keepsDev (virtBytes_keepsDev h)
    (fun _ t h => keepsDev_some ((devWriteAfter_devState t _ _ _ _).trans h)))

theorem sessionWrite_keepsDev {ctx q : Nat} {cseq : W32} {r : RingRef} {x : BitVec 256} (h : s.devState = d) :
    KeepsDev d (sessionWrite s ctx q cseq r x).state := by
  unfold sessionWrite
  extract_lets pages put
  have hput : KeepsDev d put.state :=
    andThen_keepsDev (andThen_keepsDev (virtRead_keepsDev h)
      (fun _ _ h => andThen_keepsDev (virtRead_keepsDev h) (fun _ _ h => keepsDev_some h))) (fun _ _ h => by
        split
        · exact keepsDev_some h
        · exact andThen_keepsDev (sessionPut_keepsDev h) (fun _ _ h => keepsDev_some h))
  clear_value put
  split
  · exact hput
  · exact keepsDev_none
  · exact keepsDev_some ((joinFault_devState _ _ _ _ _).trans (hput _ rfl))
  · exact hput
  · exact keepsDev_none

/-- What a record offered to a session meets leaves the device where it stood. -/
theorem sessionWrite_devState {ctx q : Nat} {cseq : W32} {r : RingRef} {x : BitVec 256} {o : Offered} {t : State}
    (h : sessionWrite s ctx q cseq r x = o) (ht : o.state = some t) : t.devState = s.devState :=
  sessionWrite_keepsDev rfl t (h ▸ ht)

end

-- sessions, graphs and queues

section
variable (s : State)

@[simp] theorem flushTail_devState (ctx q : Nat) (r : RingRef) (xs : List (BitVec 256)) :
    (flushTail ctx q r xs s).devState = s.devState := by
  induction xs generalizing s with
  | nil => rfl
  | cons x xs ih =>
    unfold flushTail
    dsimp only
    split
    · next hw => rw [ih, updQueue_devState, sessionWrite_devState hw rfl]
    · rw [ih, updQueue_devState]
    · next hw => rw [updQueue_devState, sessionWrite_devState hw rfl]
    · next hw => rw [updQueue_devState, sessionWrite_devState hw rfl]
    · rfl

@[simp] theorem flushLost_devState (q : Nat) (x : Queue) (r : RingRef) : (flushLost s q x r).devState = s.devState := by
  unfold flushLost
  split
  · rfl
  · split
    · next hw => rw [updQueue_devState, sessionWrite_devState hw rfl]
    · rfl

@[simp] theorem flushSession_devState (q : Nat) : (flushSession s q).devState = s.devState := by
  unfold flushSession
  repeat' split
  all_goals simp

@[simp] theorem sessionNode_devState (q : Nat) (cseq : W32) (ty node : Nat) :
    (sessionNode s q cseq ty node).devState = s.devState := by
  unfold sessionNode sessionTake sessionAppend
  dsimp only
  repeat' split
  all_goals simp

@[simp] theorem ringInterrupt_devState (ctx rh : Nat) : (ringInterrupt s ctx rh).devState = s.devState := by
  unfold ringInterrupt raiseIrq
  repeat' split
  all_goals rfl

@[simp] theorem endGraph_devState (q : Nat) : (endGraph s q).devState = s.devState := by
  unfold endGraph
  split
  · rfl
  · split
    · rfl
    · simp only [phaseWithdraw, updQueue_devState, updCtx_devState]
      exact foldl_devState (fun s rh => ringInterrupt_devState s _ rh) _ s

@[simp] theorem completeEntry_devState (q status node : Nat) : (completeEntry s q status node).devState = s.devState := by
  unfold completeEntry
  split <;> simp

@[simp] theorem stopQueue_devState (q : Nat) (x : Queue) : (stopQueue s q x).devState = s.devState := by
  unfold stopQueue
  dsimp only
  split
  · rfl
  · rw [updQueue_devState, completeEntry_devState, sessionNode_devState]
    split
    · split
      · next hx => rw [devWrite_devState, translate_snd_devState hx]
      · next hx => exact translate_snd_devState hx
    · rfl

/-- R395: a context's end leaves the device as it stood. -/
theorem failContext_devState (ctx : Nat) : (failContext s ctx).devState = s.devState := by
  have hqueues := foldl_devState (f := fun s (p : Nat × Queue) => stopQueue s p.1 p.2)
    (fun s p => stopQueue_devState s p.1 p.2)
  have hcohorts := foldl_devState (f := fun s k => endCohortCrews s k false)
    (fun s k => endCohortCrews_devState s k false)
  unfold failContext
  rw [updCtx_devState, hqueues]
  exact (hcohorts _ _).trans (endService_devState s ctx)

end

end Sys2Proof.Machine
end

section
/-! SUPPORT. Reset, power, the brake, failures, context errors, kills, scopes and images, as the module's own events perform
them (R17, R19, R245, R325, R347, R377, R378, R386, R395, R396, R398 to R400). -/
namespace Sys2Proof.Machine

section
variable (s : State)

-- reset and power

/-- R19, R400: the module after DEVICE_RESET, whose boot ROM finds the firmware verified or not. -/
def State.restarted (verified : Bool) : State :=
  let r : State :=
    { State.reset with
      agenda := s.agenda, fresh := s.fresh + 1, nextId := s.nextId, hostMem := s.hostMem, images := s.images
      laneRepairs := s.laneRepairs, mig := s.mig.afterReset
      devReason := if verified then 0 else 1 + (Config.freeWord s.fresh).toNat % 3 }
  if s.failedBoundary.isSome || s.devState = .deviceError then
    { r with dramStacks := s.dramStacks.mapAll (fun _ x => x.unpowered) }
  else { r with mem := s.mem, mig := { r.mig with todo := s.mig.todo }, touched := s.touched, badPages := s.badPages
                dramStacks := s.dramStacks.mapAll (fun _ x => x.lasting) }

theorem deviceReset_restarts (verified : Bool) : exec (.deviceReset verified) s = .next (s.restarted verified) := rfl

/-- log entry 48: device memory, the pages it has lost and the stacks are all that depends on whether the reset carries
state forward. -/
theorem restarted_eq (verified : Bool) : s.restarted verified =
    let t := s.restarted verified
    { State.reset with
      agenda := s.agenda, fresh := s.fresh + 1, nextId := s.nextId, hostMem := s.hostMem, images := s.images
      laneRepairs := s.laneRepairs, mig := { s.mig.afterReset with todo := t.mig.todo }
      devReason := if verified then 0 else 1 + (Config.freeWord s.fresh).toNat % 3
      mem := t.mem, touched := t.touched, badPages := t.badPages, dramStacks := t.dramStacks } := by
  unfold State.restarted
  dsimp only
  split <;> rfl

/-- R347, R400: a reset of a module without a failure carries device memory forward. -/
theorem restarted_keeps (verified : Bool) (hb : s.failedBoundary = none) (hd : s.devState ≠ .deviceError) :
    (s.restarted verified).mem = s.mem ∧ (s.restarted verified).badPages = s.badPages := by
  have hc : ¬(s.failedBoundary.isSome || decide (s.devState = .deviceError)) = true := by simp [hb, hd]
  rw [State.restarted, if_neg hc]
  exact ⟨rfl, rfl⟩

/-- R19: after a device error no state is carried forward. -/
theorem restarted_loses (verified : Bool) (hf : s.failedBoundary ≠ none ∨ s.devState = .deviceError) :
    (s.restarted verified).mem = [] ∧ (s.restarted verified).badPages = [] := by
  have hc : (s.failedBoundary.isSome || decide (s.devState = .deviceError)) = true := by
    simpa [Option.isSome_iff_ne_none] using hf
  rw [State.restarted, if_pos hc]
  exact ⟨rfl, rfl⟩

/-- R341: MIGPHASE is 0 after a reset. -/
theorem migphase_afterReset (m : Migration) (todo : List (Nat × Nat × Nat)) :
    (migphase { m.afterReset with todo := todo }).toNat = 0 := by simp [migphase, Migration.afterReset]

theorem powerRemove_loses : exec .powerRemove s = .next { State.reset with
    powered := false, agenda := s.agenda, fresh := s.fresh, nextId := s.nextId, hostMem := s.hostMem, images := s.images
    mig := s.mig.afterReset, dramStacks := s.dramStacks.mapAll (fun _ x => x.unpowered) } := rfl

-- the brake

variable {s} {n : Nat}

theorem brakeOn_brakes (hnone : s.power.brake = none) (hover : 1000 * s.power.capW < n) :
    exec (.brakeOn n) s = .next (barPost .evt { s with
      power := { s.power with brake := some { level := s.power.level, since := s.dt } } } (brakeOnRecord s (n / 1000))) := by
  refine (show exec (.brakeOn n) s = execBrakeOn n s from rfl).trans (if_neg ?_)
  simp only [hnone, Option.isSome_none, Bool.false_or, decide_eq_true_eq]
  omega

theorem brakeOn_idle (h : s.power.brake.isSome = true ∨ n ≤ 1000 * s.power.capW) : exec (.brakeOn n) s = .next s :=
  (show exec (.brakeOn n) s = execBrakeOn n s from rfl).trans (if_pos (by simpa using h))

/-- R398: the brake ends where power has stood below the cap for 1 ms. -/
theorem brakeOff_ends {b : Brake} (hb : s.power.brake = some b) : exec (.brakeOff n) s = .next (
    if n < 1000 * s.power.capW ∧ b.since + 1000000 ≤ s.dt then
      barPost .evt { s with power := { s.power with brake := none } } (brakeOffRecord s b)
    else s) := by
  refine (show exec (.brakeOff n) s = execBrakeOff n s from rfl).trans ?_
  have hstays : (decide (1000 * s.power.capW ≤ n) || decide (s.dt < b.since + brakeRelease)) = true
      ↔ ¬(n < 1000 * s.power.capW ∧ b.since + 1000000 ≤ s.dt) := by
    have hrelease : brakeRelease = 1000000 := rfl
    simp only [Bool.or_eq_true, decide_eq_true_eq]
    omega
  simp only [execBrakeOff, hb]
  by_cases hend : n < 1000 * s.power.capW ∧ b.since + 1000000 ≤ s.dt
  · rw [if_pos hend, if_neg (fun h => hstays.mp h hend)]
  · rw [if_neg hend, if_pos (hstays.mpr hend)]

-- boundaries and links

theorem changeAt_getElem? {α : Type} (xs : List α) (n k : Nat) (f : α → α) :
    (changeAt xs n f)[k]? = if k = n then (xs[k]?).map f else xs[k]? := by
  induction xs generalizing n k with
  | nil => cases n <;> simp [changeAt]
  | cons x xs ih =>
    cases n <;> cases k <;> simp [changeAt, ih]

theorem boundaryDies_isSome (b : Nat) : (boundaryDies b).isSome = decide (b < 4) := by
  match b with
  | 0 | 1 | 2 | 3 => rfl
  | b + 4 => simp [boundaryDies]

theorem realFailure_of_lt {w : DeviceFailure} (hw : ∀ b, w = .boundary b → b < 4) : realFailure w = true := by
  cases w with
  | boundary b => simpa [realFailure, boundaryDies_isSome] using hw b rfl
  | hostLink => rfl

/-- R19, R395: a module whose every context has ended, for a failure that it may keep the boundary of. -/
def State.failed (s : State) (w : DeviceFailure) : State :=
  match w with
  | .boundary b => { s.ctxs.keys.foldl failContext s with failedBoundary := some b }
  | .hostLink => s.ctxs.keys.foldl failContext s

/-- R395: the end of every context leaves the device as it stood. -/
theorem failed_devState (w : DeviceFailure) : (s.failed w).devState = s.devState := by
  cases w <;> exact foldl_devState failContext_devState _ s

theorem deviceError_ends {w : DeviceFailure} (hw : ∀ b, w = .boundary b → b < 4) (hroom : evtTakes s = true) :
    exec (.deviceError w) s = .next { barPost .evt (s.failed w) (deviceErrorRecord (s.failed w) w) with
      devState := if s.devState = .bootFail then .bootFail else .deviceError } := by
  have hgood : (!realFailure w || !evtTakes s) = false := by rw [realFailure_of_lt hw, hroom]; rfl
  rw [← failed_devState w]
  refine (show exec (.deviceError w) s = execDeviceError w s from rfl).trans ?_
  simp only [execDeviceError, hgood, Bool.false_eq_true, if_false]
  cases w <;> rfl

theorem deviceError_waits (w : DeviceFailure) (hfull : evtTakes s = false) : exec (.deviceError w) s = .next s :=
  (show exec (.deviceError w) s = execDeviceError w s from rfl).trans (if_pos (by simp [hfull]))

theorem deviceError_noBoundary (hn : 4 ≤ n) : exec (.deviceError (.boundary n)) s = .next s :=
  (show exec (.deviceError (.boundary n)) s = execDeviceError (.boundary n) s from rfl).trans
    (if_pos (by simp [realFailure, boundaryDies_isSome, hn]))

theorem peerLinkFail_fails (hn : n < 24) (hup : n ∉ s.peersDown) :
    exec (.peerLinkFail n) s = .next { s with peersDown := n :: s.peersDown } :=
  (show exec (.peerLinkFail n) s = execPeerLinkFail n s from rfl).trans (if_neg (by simp [hn, hup]))

-- context errors, kills and reports

theorem contextError_ends {c : Context} {e : CtxErr} (hc : s.ctxs.find n = some c) (he : c.err = some e)
    (hw : statusStalls s n = none) :
    exec (.contextError n) s = .next (barPost .evt (failContext s n) (ctxErrorRecord s n e)) := by
  refine (show exec (.contextError n) s = execContextError n s from rfl).trans ?_
  simp only [execContextError, hc, Option.bind_some, he, hw]

theorem contextError_waits {c : Context} {e : CtxErr} (hc : s.ctxs.find n = some c) (he : c.err = some e) {t : State}
    (hw : statusStalls s n = some t) : exec (.contextError n) s = .next t := by
  refine (show exec (.contextError n) s = execContextError n s from rfl).trans ?_
  simp only [execContextError, hc, Option.bind_some, he, hw]

/-- R245: a cohort that is to be killed and has not ended. -/
theorem cohortKill_due {c : Cohort} (hkill : c.kill = true) (hlive : c.state ≠ .ended) :
    ¬(!c.kill || decide (c.state = .ended)) = true := by simp [hkill, hlive]

section
variable {c : Cohort} (hc : s.cohorts.find n = some c) (hkill : c.kill = true) (hlive : c.state ≠ .ended)
include hc hkill hlive

/-- R223: a cohort whose stream still has a pass or a drain to complete. -/
theorem cohortKill_waits {u : State} (hu : u = barriersCheck (endCohortCrews s n true) n)
    (hbusy : (u.cohorts.find n).any (·.state != .ended) = true) : exec (.cohortKill n) s = .next u := by
  refine (show exec (.cohortKill n) s = execCohortKill n s from rfl).trans ?_
  simp only [execCohortKill, hc, if_neg (cohortKill_due hkill hlive), ← hu, if_pos hbusy]

/-- R60, R245, R389: a cohort that the kill has ended: it is placed again, or its context takes a context error, unless its
launch is given up. -/
theorem cohortKill_ends {u : State} (hu : u = barriersCheck (endCohortCrews s n true) n)
    (hover : ¬(u.cohorts.find n).any (·.state != .ended) = true) {l : Launch}
    (hl : u.launches.find c.launch = some l) : exec (.cohortKill n) s = .next (
      if l.error then u
      else if l.restart then
        { u with launches := u.launches.change c.launch (fun l => { l with again := l.again ++ [c.index] }) }
      else cohortError u c 0x22) := by
  refine (show exec (.cohortKill n) s = execCohortKill n s from rfl).trans ?_
  simp only [execCohortKill, hc, if_neg (cohortKill_due hkill hlive), ← hu, if_neg hover, hl]

end

/-- Whether a cohort, where it is still there, has ended. -/
theorem any_notEnded_iff {o : Option Cohort} :
    o.any (·.state != .ended) = true ↔ ¬∀ x, o = some x → x.state = .ended := by
  cases o <;> simp

theorem trapDelivery_performs {cr : Crew} (hcr : s.crews.find n = some cr) :
    exec (.trapDelivery n) s = .next (if crewRuns s cr && deferredDue cr then deliverDeferred s n else s) := by
  refine (show exec (.trapDelivery n) s = execTrapDelivery n s from rfl).trans ?_
  simp only [execTrapDelivery, hcr]

-- scopes and images

theorem scopeCut_iff (x : QScope) : scopeCut s x = true ↔ storesLanded s = true ∧ (∀ c ∈ x.contexts s, contextCut s c = true)
    ∧ (x.device = true → s.mig.closed = none) := by
  cases hd : x.device <;> simp [scopeCut, hd, and_assoc]

/-- R189, R377: QUIESCE_COMPLETE of a scope that stops. -/
theorem quiesceComplete_performs {x : QScope} (hx : s.scopes.find n = some x) (hst : x.state = .stopping) :
    exec (.quiesceComplete n) s = .next (
      let u := stopScope s x
      if scopeCut u x then
        if x.flushed then quiescedRecords { u with
          scopes := u.scopes.put n { x with state := .quiesced, dtcut := u.dt } } x
        else flushScope u n x
      else u) := by
  refine (show exec (.quiesceComplete n) s = execQuiesceComplete n s from rfl).trans ?_
  simp only [execQuiesceComplete, hx, hst, bne_self_eq_false, Bool.false_eq_true, if_false]
  cases scopeCut (stopScope s x) x <;> cases x.flushed <;> rfl

/-- R378: IMAGE_COMPLETE writes an image, or, after a link error, a first part of it of free length, and completes the
command that is due. -/
theorem imageComplete_writes {x : QScope} {j : ImageJob} (ok : Bool) (hx : s.scopes.find n = some x)
    (hst : x.state = .imaging) (hj : x.job = some j) :
    let bs := imageBytes s x j.sign j.used
    ∃ k t, (ok = true → k = bs.length) ∧ k ≤ bs.length
      ∧ t = { s with
          hostMem := Memory.setN s.hostMem j.addr (bs.take k), fresh := s.fresh + 1, images := t.images
          scopes := s.scopes.put n { x with state := .quiesced, job := none } }
      ∧ exec (.imageComplete n ok) s = .next (match commandDue t with
        | some (a, _) => finishCommand t a (if ok then 1 else 11)
        | none => t) := by
  intro bs
  let k := if ok then bs.length else (Config.freeWord s.fresh).toNat % (bs.length + 1)
  let t : State := { s with
    hostMem := Memory.setN s.hostMem j.addr (bs.take k), fresh := s.fresh + 1
    images := if ok then (imageSections s x j.used, imageOf s x) :: s.images else s.images
    scopes := s.scopes.put n { x with state := .quiesced, job := none } }
  refine ⟨k, t, fun hok => if_pos hok, ?_, rfl, ?_⟩
  · unfold k
    split
    · exact Nat.le_refl _
    · exact Nat.lt_succ_iff.mp (Nat.mod_lt _ (Nat.succ_pos _))
  · refine (show exec (.imageComplete n ok) s = execImageComplete n ok s from rfl).trans ?_
    simp only [execImageComplete, hx, hst, hj]
    rfl

end

/-- Settles O58: each clause is the step lemma of one event, on the branch that it names. -/
theorem moduleEvents : Obligations.ModuleEvents := by
  intro s n empty
  refine ⟨fun ok => ?resets, fun hboot => if_pos hboot, ⟨_, powerRemove_loses s, ?removes⟩, brakeOn_brakes, brakeOn_idle,
    fun b => brakeOff_ends, fun hn => ?repairs, fun w hw => ⟨?fails, deviceError_waits w⟩, deviceError_noBoundary,
    peerLinkFail_fails, fun c e hc he => ⟨contextError_ends hc he, fun t => contextError_waits hc he⟩,
    fun c hc hkill hlive => ?kills, fun cr hcr hruns hdue => ?delivers, fun cr hcr hnone => ?undelivered,
    fun x hx hst => ?quiesces, fun x j ok hx hst hj => imageComplete_writes ok hx hst hj⟩
  case resets =>
    refine ⟨s.restarted ok, deviceReset_restarts s ok, ?_⟩
    have hcarried := restarted_keeps s ok
    have hlost := restarted_loses s ok
    rw [restarted_eq] at hcarried hlost ⊢
    refine ⟨⟨rfl, rfl, rfl, rfl, rfl, rfl, rfl, rfl, rfl, rfl, rfl⟩, rfl, rfl, fun hok => if_pos hok, fun hbad => ?_, rfl,
      rfl, migphase_afterReset _ _, rfl, rfl, hcarried, hlost⟩
    have := Nat.mod_lt (Config.freeWord s.fresh).toNat (show 0 < 3 by decide)
    simp only [hbad, Bool.false_eq_true, if_false]
    omega
  case removes => exact ⟨⟨rfl, rfl, rfl, rfl, rfl, rfl, rfl, rfl, rfl, rfl, rfl⟩, rfl, rfl, rfl, rfl, rfl⟩
  case repairs =>
    refine ⟨_, rfl, rfl, ?_, fun k hk => ?_⟩
    · exact (changeAt_getElem? ..).trans (if_pos rfl)
    · exact (changeAt_getElem? ..).trans (if_neg hk)
  case fails => exact deviceError_ends hw
  case kills =>
    intro u over_
    exact ⟨fun hbusy => cohortKill_waits hc hkill hlive rfl (any_notEnded_iff.mpr hbusy),
      fun l hover hl => cohortKill_ends hc hkill hlive rfl (fun h => any_notEnded_iff.mp h hover) hl⟩
  case delivers =>
    rw [trapDelivery_performs hcr, hruns, hdue]
    rfl
  case undelivered =>
    rw [trapDelivery_performs hcr, hnone, Bool.and_false]
    rfl
  case quiesces =>
    rw [quiesceComplete_performs hx hst]
    intro u cs cut qs v
    have hcut : cut ↔ scopeCut u x = true := (scopeCut_iff x).symm
    refine ⟨fun h hf => ?_, fun h hf => ?_, fun h => ?_⟩
    · exact congrArg _ ((if_pos (hcut.mp h)).trans (if_neg (by rw [hf]; decide)))
    · exact congrArg _ ((if_pos (hcut.mp h)).trans (if_pos hf))
    · exact congrArg _ (if_neg (fun hc => h (hcut.mpr hc)))

end Sys2Proof.Machine
end

section
/-! SUPPORT. The integer, logic and comparison instructions as results of class Q: the value of a lane does not depend on
where registers lie (R405, R411, R424, R425, R431, R478, R484 to R487, R492, R517, R518, R529, R545). -/
namespace Sys2Proof.Machine

/-- An integer instruction of two sources gives the value of its function on them. -/
theorem intBin_computes {i : Instr} {d : Dest} {ty : IntTy} {sat : Bool} {a b : Src} (f : Int → Int → Int)
    (h : ∀ s, exec i s = issue s i (fun e => e.intBin d ty sat a b f)) :
    Computes i d ty.operand (fun e l =>
      finishInt ty sat (f (readInt ty (e.int ty.operand a l)) (readInt ty (e.int ty.operand b l)))) :=
  computes_of h (fun _ _ _ _ _ _ _ _ _ _ => by simp only [envOf_int])

/-- An integer instruction of one source gives the value of its function on it. -/
theorem intUn_computes {i : Instr} {d : Dest} {ty : IntTy} {sat : Bool} {a : Src} (f : Int → Int)
    (h : ∀ s, exec i s = issue s i (fun e => e.intUn d ty sat a f)) :
    Computes i d ty.operand (fun e l => finishInt ty sat (f (readInt ty (e.int ty.operand a l)))) :=
  computes_of h (fun _ _ _ _ _ _ _ _ _ _ => by simp only [envOf_int])

/-- R484: IMIN's choice is the lesser. -/
theorem ite_lt_eq_min (x y : Int) : (if y < x then y else x) = min x y := by omega

/-- R484: IMAX's choice is the greater. -/
theorem ite_lt_eq_max (x y : Int) : (if x < y then y else x) = max x y := by omega

/-- R484: IABS's choice is the magnitude. -/
theorem ite_neg_eq_natAbs (x : Int) : (if x < 0 then -x else x) = x.natAbs := by omega

theorem imin_computes (g : Guard) (d : Dest) (ty : IntTy) (a b : Src) :
    Computes (.imin g d ty a b) d ty.operand (fun e l =>
      finishInt ty false (min (readInt ty (e.int ty.operand a l)) (readInt ty (e.int ty.operand b l)))) := by
  simpa only [ite_lt_eq_min] using intBin_computes (i := .imin g d ty a b) (fun x y => if y < x then y else x) (fun _ => rfl)

theorem imax_computes (g : Guard) (d : Dest) (ty : IntTy) (a b : Src) :
    Computes (.imax g d ty a b) d ty.operand (fun e l =>
      finishInt ty false (max (readInt ty (e.int ty.operand a l)) (readInt ty (e.int ty.operand b l)))) := by
  simpa only [ite_lt_eq_max] using intBin_computes (i := .imax g d ty a b) (fun x y => if x < y then y else x) (fun _ => rfl)

theorem iabs_computes (g : Guard) (d : Dest) (ty : IntTy) (sat : Bool) (a : Src) :
    Computes (.iabs g d ty sat a) d ty.operand (fun e l =>
      finishInt ty sat (readInt ty (e.int ty.operand a l)).natAbs) := by
  simpa only [ite_neg_eq_natAbs] using intUn_computes (i := .iabs g d ty sat a) (fun x => if x < 0 then -x else x) (fun _ => rfl)

theorem imad_computes (g : Guard) (d : Dest) (ty : IntTy) (sat : Bool) (a b c : Src) :
    Computes (.imad g d ty sat a b c) d ty.operand (fun e l =>
      finishInt ty sat (readInt ty (e.int ty.operand a l) * readInt ty (e.int ty.operand b l)
        + readInt ty (e.int ty.operand c l))) :=
  computes_of (fun _ => rfl) (fun _ _ _ _ _ _ _ _ _ _ => by simp only [envOf_int])

/-- Settles O12: each instruction applies its exact function to operands that do not depend on where registers lie. -/
theorem integerArithmetic : Obligations.IntegerArithmetic := by
  intro g d ty sat a b c
  exact ⟨intBin_computes (fun x y => x + y) (fun _ => rfl), intBin_computes (fun x y => x - y) (fun _ => rfl),
    intBin_computes (fun x y => x * y) (fun _ => rfl), imad_computes g d ty sat a b c,
    intBin_computes (mulHigh ty) (fun _ => rfl), imin_computes g d ty a b, imax_computes g d ty a b,
    iabs_computes g d ty sat a, intUn_computes (fun x => -x) (fun _ => rfl)⟩

theorem icmp_decides (g : Guard) (d : Dest) (ty : IntTy) (cond : ICond) (pw : Option (BitVec 3)) (a b : Src) :
    let bit (e : Env) (l : Nat) : Bool :=
      let x := e.int ty.operand a l
      let y := e.int ty.operand b l
      intCond cond (readInt ty x) (readInt ty y) (intBits ty x) (intBits ty y)
    Decides (.icmp g d ty cond pw a b) d pw (fun e l => if bit e l then 1 else 0) bit (fun _ => 0) :=
  decides_of_bitResult (fun _ => rfl) (fun _ _ _ _ _ _ _ _ _ _ => by simp only [envOf_int]) (fun _ _ _ _ _ _ _ _ _ => rfl)

theorem fcmp_decides (g : Guard) (d : Dest) (ty : FTy) (cond : FCond) (ftz : Bool) (pw : Option (BitVec 3)) (a b : Src) :
    let v (e : Env) (x : Src) (l : Nat) : FVal := (fmtOf ty).read (e.flush ty ftz) (e.flt ty x l)
    let bit (e : Env) (l : Nat) : Bool := fltCond cond (v e a l) (v e b l)
    Decides (.fcmp g d ty cond ftz pw a b) d pw (fun e l => if bit e l then 1 else 0) bit
      (fun e => if e.lanes.any (fun l => (v e a l).snan || (v e b l).snan) then Flags.nv else 0) :=
  decides_of_bitResult (fun _ => rfl)
    (fun _ _ _ _ _ _ _ _ _ _ => by simp only [envOf_flt, envOf_flush])
    (fun _ _ _ _ _ _ _ _ _ => congrArg (Flags.when · Flags.nv) (by
      simp only [envOf_lanes, envAt_lanes, envOf_flt, envOf_flush]))

/-- Settles O14: ICMP and FCMP are effects of one bit per lane. -/
theorem comparisons : Obligations.Comparisons := ⟨icmp_decides, fcmp_decides⟩

theorem idp4_computes (g : Guard) (d : Dest) (aty bty : NumTy) (sat : Bool) (a b c : Src) :
    Computes (.idp4 g d aty bty sat a b c) d .w32 (fun e l => finishInt .s32 sat (readInt .s32 (e.int .w32 c l)
      + dotProduct aty bty (e.int .w32 a l).toNat (e.int .w32 b l).toNat (if idp4Bits aty = 8 then 4 else 8))) :=
  computes_of (fun _ => rfl) (fun _ _ _ _ _ _ _ _ _ _ => by simp only [envOf_int])

theorem sel_computes (g : Guard) (d : Dest) (w64 neg : Bool) (p : BitVec 3) (a b : Src) :
    Computes (.sel g d w64 neg p a b) d (widthOf w64) (fun e l =>
      { bits := if e.split.pred p.toNat l != neg then e.int (widthOf w64) a l else e.int (widthOf w64) b l }) := by
  refine computes_of (fun s => congrArg (issue s _) (funext fun e => congrArg (e.lanewise d _) (funext fun l => ?_)))
    (fun _ _ _ _ _ _ _ _ _ _ => by simp only [envOf_int]; rfl)
  cases e.split.pred p.toNat l != neg <;> rfl

theorem mov_computes (g : Guard) (d : Dest) (w64 : Bool) (a : Src) :
    Computes (.mov g d w64 a) d (widthOf w64) (fun e l => { bits := e.int (widthOf w64) a l }) :=
  computes_of (fun _ => rfl) (fun _ _ _ _ _ _ _ _ _ _ => by simp only [envOf_int])

theorem movi_hi_computes (g : Guard) (d : Dest) (a : Src) (imm : W32) :
    Computes (.movi g d .hi a imm) d .w64 (fun e l => { bits := imm ++ e.int32 a l }) :=
  computes_of (fun _ => rfl) (fun _ _ _ _ _ _ _ _ _ _ => by simp only [envOf_int32])

/-- Settles O15: each instruction and form in turn. -/
theorem moves : Obligations.Moves := by
  intro g d sat w64 neg p a b c imm aty bty
  exact ⟨idp4_computes g d aty bty sat a b c, sel_computes g d w64 neg p a b, mov_computes g d w64 a,
    computes_of (fun _ => rfl) (fun _ _ _ _ _ _ _ _ _ _ => rfl), computes_of (fun _ => rfl) (fun _ _ _ _ _ _ _ _ _ _ => rfl),
    movi_hi_computes g d a imm⟩

/-- A logic instruction gives each lane the value of its function, which does not depend on where registers lie. -/
theorem logic_computes {i : Instr} {d : Dest} {w : Width} (f : Env → Nat → W64)
    (h : ∀ s, exec i s = issue s i (fun e => e.logic d w (f e)))
    (hf : ∀ s cid sid cr sp off m rm lu l, f (envOf s i cid sid cr sp off m rm lu) l = f (envAt s i cid sid cr sp off) l) :
    Computes i d w (fun e l => { bits := f e l }) :=
  computes_of h (fun s cid sid cr sp off m rm lu l => by rw [hf])

theorem andL_computes (g : Guard) (d : Dest) (ty : BTy) (a b : Src) :
    Computes (.andL g d ty a b) d ty.operand (fun e l => { bits := e.int ty.operand a l &&& e.int ty.operand b l }) :=
  logic_computes _ (fun _ => rfl) (fun _ _ _ _ _ _ _ _ _ _ => by simp only [envOf_int])

theorem orL_computes (g : Guard) (d : Dest) (ty : BTy) (a b : Src) :
    Computes (.orL g d ty a b) d ty.operand (fun e l => { bits := e.int ty.operand a l ||| e.int ty.operand b l }) :=
  logic_computes _ (fun _ => rfl) (fun _ _ _ _ _ _ _ _ _ _ => by simp only [envOf_int])

theorem xorL_computes (g : Guard) (d : Dest) (ty : BTy) (a b : Src) :
    Computes (.xorL g d ty a b) d ty.operand (fun e l => { bits := e.int ty.operand a l ^^^ e.int ty.operand b l }) :=
  logic_computes _ (fun _ => rfl) (fun _ _ _ _ _ _ _ _ _ _ => by simp only [envOf_int])

theorem notL_computes (g : Guard) (d : Dest) (ty : BTy) (a : Src) :
    Computes (.notL g d ty a) d ty.operand (fun e l => { bits := ~~~(e.int ty.operand a l) }) :=
  logic_computes _ (fun _ => rfl) (fun _ _ _ _ _ _ _ _ _ _ => by simp only [envOf_int])

theorem bool3_computes (g : Guard) (d : Dest) (ty : BTy) (lut : BitVec 8) (a b c : Src) :
    Computes (.bool3 g d ty lut a b c) d ty.operand (fun e l =>
      { bits := lutBits lut (e.int ty.operand a l) (e.int ty.operand b l) (e.int ty.operand c l) }) :=
  logic_computes _ (fun _ => rfl) (fun _ _ _ _ _ _ _ _ _ _ => by simp only [envOf_int])

/-- R425: a bit of BOOL3's result is the bit of the table that the three sources' bits name. -/
theorem getLsbD_lutBits (lut : BitVec 8) (x y z : W64) {k : Nat} (hk : k < 64) :
    (lutBits lut x y z).getLsbD k
      = lut.getLsbD ((if x.getLsbD k then 4 else 0) + (if y.getLsbD k then 2 else 0) + (if z.getLsbD k then 1 else 0)) := by
  have hterm (n : Nat) (v : W64) : (if lut.getLsbD n then v else 0).getLsbD k = (lut.getLsbD n && v.getLsbD k) := by
    cases lut.getLsbD n <;> simp
  have hnot (v : W64) : (~~~v).getLsbD k = !v.getLsbD k := by simp [hk]
  simp only [lutBits, List.range, List.range.loop, List.foldl, BitVec.getLsbD_or, hterm]
  simp only [BitVec.getLsbD_and, Nat.reduceLeDiff, Nat.reduceDiv, Nat.reduceMod, zero_ne_one, if_true,
    if_false, hnot]
  cases x.getLsbD k <;> cases y.getLsbD k <;> cases z.getLsbD k <;> simp

/-- Settles O16: each instruction in turn, and BOOL3's table a bit at a time. -/
theorem bitwise : Obligations.Bitwise := by
  intro g d ty lut a b c
  exact ⟨andL_computes g d ty a b, orL_computes g d ty a b, xorL_computes g d ty a b, notL_computes g d ty a,
    bool3_computes g d ty lut a b c, fun x y z k => getLsbD_lutBits lut x y z⟩

end Sys2Proof.Machine
end

section
/-! SUPPORT. Integers as the instructions read and write them: what a word reads as, and the reduction of an exact value to
its type (R13, R104, R105, R485). -/
namespace Sys2Proof.Machine

/-- R13: sext(x, n) is the residue of x modulo 2^n about 0. -/
theorem sextNat_eq_bmod (x n : Nat) : sextNat x n = (x : Int).bmod (2 ^ n) := by
  rw [← BitVec.toInt_ofNat']
  simp [sextNat, BitVec.toInt]

theorem sextNat_dvd (x n : Nat) : ((2 ^ n : Nat) : Int) ∣ sextNat x n - x := by
  rw [sextNat_eq_bmod]
  exact Int.dvd_bmod_sub_self

/-- R104: a value lies in the range of an integer type. -/
def InType (ty : IntTy) (v : Int) : Prop := intMin ty ≤ v ∧ v ≤ intMax ty

section
variable {ty : IntTy} {u v : Int}

theorem two_pow_intWidth (ty : IntTy) : 2 ^ intWidth ty = 2 * 2 ^ (intWidth ty - 1) := by cases ty <;> rfl

theorem intWidth_dvd (ty : IntTy) : ((2 ^ intWidth ty : Nat) : Int) ∣ ((2 ^ 64 : Nat) : Int) := by
  cases ty <;> decide

theorem intWidth_dvd_of_lt (h : intWidth ty ≠ 64) : ((2 ^ intWidth ty : Nat) : Int) ∣ ((2 ^ 32 : Nat) : Int) := by
  revert h
  cases ty <;> decide

theorem inType_signed (h : intSigned ty = true) :
    InType ty v ↔ -((2 ^ (intWidth ty - 1) : Nat) : Int) ≤ v ∧ v < ((2 ^ (intWidth ty - 1) : Nat) : Int) := by
  simp only [InType, intMin, intMax, h, if_true]
  omega

theorem inType_unsigned (h : intSigned ty = false) : InType ty v ↔ 0 ≤ v ∧ v < ((2 ^ intWidth ty : Nat) : Int) := by
  simp only [InType, intMin, intMax, h, Bool.false_eq_true, if_false]
  omega

/-- Two values of a type that agree modulo 2^W are one. -/
theorem inType_unique (hu : InType ty u) (hv : InType ty v) (h : ((2 ^ intWidth ty : Nat) : Int) ∣ u - v) : u = v := by
  refine Int.sub_eq_zero.mp (Int.eq_zero_of_abs_lt_dvd h ?_)
  have hw := two_pow_intWidth ty
  cases hs : intSigned ty with
  | true =>
    rw [inType_signed hs] at hu hv
    rw [abs_lt]
    omega
  | false =>
    rw [inType_unsigned hs] at hu hv
    rw [abs_lt]
    omega

theorem inType_sextNat (h : intSigned ty = true) (x : Nat) : InType ty (sextNat x (intWidth ty)) := by
  rw [inType_signed h, sextNat_eq_bmod, ← BitVec.toInt_ofNat']
  exact ⟨by simpa using BitVec.le_toInt (BitVec.ofNat (intWidth ty) x), by
    simpa using BitVec.toInt_lt (x := BitVec.ofNat (intWidth ty) x)⟩

theorem inType_emod (h : intSigned ty = false) (x : Int) : InType ty (x % ((2 ^ intWidth ty : Nat) : Int)) := by
  have hpos : (0 : Int) < ((2 ^ intWidth ty : Nat) : Int) := Int.natCast_pos.mpr (Nat.two_pow_pos _)
  exact (inType_unsigned h).mpr ⟨Int.emod_nonneg _ hpos.ne', Int.emod_lt_of_pos _ hpos⟩

theorem readInt_inType (ty : IntTy) (x : W64) : InType ty (readInt ty x) := by
  unfold readInt
  cases h : intSigned ty with
  | true => exact inType_sextNat h _
  | false => exact inType_emod h (x.toNat : Int)

/-- R485: an operand is read modulo 2^W. -/
theorem readInt_dvd (ty : IntTy) (x : W64) : ((2 ^ intWidth ty : Nat) : Int) ∣ readInt ty x - x.toNat := by
  unfold readInt
  cases intSigned ty with
  | true => exact sextNat_dvd _ _
  | false => exact (dvd_sub_comm).mp Int.dvd_self_sub_emod

/-- A word reads as the value of its type that it agrees with modulo 2^W. -/
theorem readInt_eq {x : W64} (hv : InType ty v) (h : ((2 ^ intWidth ty : Nat) : Int) ∣ x.toNat - v) : readInt ty x = v :=
  inType_unique (readInt_inType ty x) hv (by simpa only [sub_add_sub_cancel] using (readInt_dvd ty x).add h)

theorem toNat_ofInt_dvd (n : Nat) (v : Int) : ((2 ^ n : Nat) : Int) ∣ ((BitVec.ofInt n v).toNat : Int) - v := by
  have hpos : ((2 ^ n : Nat) : Int) ≠ 0 := Int.natCast_ne_zero.mpr (Nat.two_pow_pos n).ne'
  rw [BitVec.toNat_ofInt, Int.toNat_of_nonneg (Int.emod_nonneg _ hpos)]
  exact dvd_sub_comm.mp Int.dvd_self_sub_emod

/-- R105: the word of a value: extended to 32 bits where its type is narrower than 64. -/
def writeInt (ty : IntTy) (v : Int) : W64 :=
  if intWidth ty = 64 then BitVec.ofInt 64 v else (BitVec.ofInt 32 v).setWidth 64

theorem readInt_writeInt (hv : InType ty v) : readInt ty (writeInt ty v) = v := by
  refine readInt_eq hv ?_
  unfold writeInt
  split
  next => exact (intWidth_dvd ty).trans (toNat_ofInt_dvd 64 v)
  next h =>
    rw [BitVec.toNat_setWidth_of_le (by decide)]
    exact (intWidth_dvd_of_lt h).trans (toNat_ofInt_dvd 32 v)

/-- R105: a value clamped to the range of its type. -/
def clampInt (ty : IntTy) (x : Int) : Int := max (intMin ty) (min (intMax ty) x)

/-- R485: a value modulo 2^W, by the type's signedness. -/
def wrapInt (ty : IntTy) (x : Int) : Int :=
  if intSigned ty then sextNat (x % (2 ^ intWidth ty : Nat)).toNat (intWidth ty) else x % (2 ^ intWidth ty : Nat)

theorem intMin_le_intMax (ty : IntTy) : intMin ty ≤ intMax ty := by cases ty <;> decide

theorem clampInt_inType (ty : IntTy) (x : Int) : InType ty (clampInt ty x) := by
  have := intMin_le_intMax ty
  simp only [InType, clampInt]
  omega

theorem wrapInt_inType (ty : IntTy) (x : Int) : InType ty (wrapInt ty x) := by
  unfold wrapInt
  cases h : intSigned ty with
  | true => exact inType_sextNat h _
  | false => exact inType_emod h _

theorem toNat_emod_two_pow (x : Int) (n : Nat) : ((x % ((2 ^ n : Nat) : Int)).toNat : Int) = x % ((2 ^ n : Nat) : Int) :=
  Int.toNat_of_nonneg (Int.emod_nonneg _ (Int.natCast_ne_zero.mpr (Nat.two_pow_pos n).ne'))

theorem wrapInt_dvd (ty : IntTy) (x : Int) : ((2 ^ intWidth ty : Nat) : Int) ∣ wrapInt ty x - x := by
  unfold wrapInt
  cases intSigned ty with
  | true =>
    have h := sextNat_dvd (x % ((2 ^ intWidth ty : Nat) : Int)).toNat (intWidth ty)
    rw [toNat_emod_two_pow] at h
    simpa only [if_true, sub_add_sub_cancel] using h.add (dvd_sub_comm.mp (Int.dvd_self_sub_emod (x := x)))
  | false => exact dvd_sub_comm.mp Int.dvd_self_sub_emod

theorem clamp_eq_clampInt (ty : IntTy) (x : Int) :
    (if x < intMin ty then intMin ty else if intMax ty < x then intMax ty else x) = clampInt ty x := by
  have := intMin_le_intMax ty
  unfold clampInt
  omega

/-- R105, R485: what a result holds: its value clamped or wrapped. -/
theorem finishInt_bits (ty : IntTy) (sat : Bool) (x : Int) :
    (finishInt ty sat x).bits = writeInt ty (if sat then clampInt ty x else wrapInt ty x) := by
  have hv : (if intSigned ty then (if sat then clampInt ty x else sextNat (x % (2 ^ intWidth ty : Nat)).toNat (intWidth ty))
      else (if sat then clampInt ty x else sextNat (x % (2 ^ intWidth ty : Nat)).toNat (intWidth ty))
        % ((2 ^ intWidth ty : Nat) : Int)) = if sat then clampInt ty x else wrapInt ty x := by
    cases hs : intSigned ty with
    | true => simp only [wrapInt, hs, if_true]
    | false =>
      cases sat with
      | true =>
        obtain ⟨h0, h1⟩ := (inType_unsigned hs).mp (clampInt_inType ty x)
        exact Int.emod_eq_of_lt h0 h1
      | false =>
        simp only [wrapInt, hs, Bool.false_eq_true, if_false, sextNat_eq_bmod, Int.bmod_emod, toNat_emod_two_pow, Int.emod_emod]
  simp only [finishInt, clamp_eq_clampInt]
  rw [hv]
  rfl

theorem finishInt_flags (ty : IntTy) (sat : Bool) (x : Int) :
    (finishInt ty sat x).flags = if sat = true ∧ clampInt ty x ≠ x then Flags.sat else 0 := by
  simp only [finishInt, clamp_eq_clampInt, Flags.when, Bool.and_eq_true, decide_eq_true_eq]

theorem clampInt_eq_self_iff : clampInt ty v = v ↔ intMin ty ≤ v ∧ v ≤ intMax ty := by
  have := intMin_le_intMax ty
  unfold clampInt
  omega

theorem readInt_finishInt (ty : IntTy) (sat : Bool) (x : Int) :
    readInt ty (finishInt ty sat x).bits = if sat then clampInt ty x else wrapInt ty x := by
  rw [finishInt_bits, readInt_writeInt]
  cases sat
  · exact wrapInt_inType ty x
  · exact clampInt_inType ty x

/-- R105: a result of a type narrower than 64 bits is its value extended to 32 bits. -/
theorem finishInt_extends (ty : IntTy) (sat : Bool) (x : Int) (h : intWidth ty < 64) :
    (finishInt ty sat x).bits = (BitVec.ofInt 32 (readInt ty (finishInt ty sat x).bits)).setWidth 64 := by
  rw [readInt_finishInt, finishInt_bits, writeInt, if_neg h.ne]

end

/-- Settles O13: a result reads back as its value clamped or wrapped. -/
theorem integerResult : Obligations.IntegerResult := by
  intro ty x
  refine ⟨readInt_finishInt ty true x, ?_, readInt_inType ty _, ?_, finishInt_flags ty false x,
    fun sat => finishInt_extends ty sat x⟩
  · rw [finishInt_flags]
    simp only [true_and, ne_eq, clampInt_eq_self_iff, ite_not]
  · rw [readInt_finishInt]
    exact wrapInt_dvd ty x

end Sys2Proof.Machine
end

section
/-! SUPPORT. IDIV: its quotient and remainder by the divisor, and the instruction's two outcomes (R490, R491). -/
namespace Sys2Proof.Machine

section
variable {ty : IntTy} {a b : Int}

/-- R491: a value written modulo 2^W reads back where it lies in its type. -/
theorem readInt_ofInt_emod {v u : Int} (hu : InType ty u) (h : ((2 ^ intWidth ty : Nat) : Int) ∣ v - u) :
    readInt ty (BitVec.ofInt 64 (v % (2 ^ intWidth ty : Nat))) = u := by
  refine readInt_eq hu ?_
  have hw := (intWidth_dvd ty).trans (toNat_ofInt_dvd 64 (v % (2 ^ intWidth ty : Nat)))
  have hm : ((2 ^ intWidth ty : Nat) : Int) ∣ v % (2 ^ intWidth ty : Nat) - v := dvd_sub_comm.mp Int.dvd_self_sub_emod
  simpa only [sub_add_sub_cancel] using (hw.add hm).add h

/-- R491: the one quotient that its type does not hold: 2^(W-1) of a signed type. -/
def overQuotient (ty : IntTy) (a b : Int) : Bool :=
  intSigned ty && decide (a.tdiv b = (2 ^ (intWidth ty - 1) : Nat))

/-- R491: a quotient or remainder by a divisor that is not 0. -/
theorem divide_nonzero (sat rem : Bool) (hb : b ≠ 0) :
    divide ty sat rem a b =
      { bits := BitVec.ofInt 64 ((if rem then a - a.tdiv b * b
          else if overQuotient ty a b && sat then a.tdiv b - 1 else a.tdiv b) % (2 ^ intWidth ty : Nat))
        flags := Flags.when (overQuotient ty a b && sat && !rem) Flags.sat } := by
  simp only [divide, hb, if_false, overQuotient, ne_eq, not_false_eq_true, decide_true, Bool.and_true, decide_false]
  exact congrArg _ (BitVec.zero_or)

/-- R490, R491: the quotient and the remainder by 0. -/
theorem divide_zero (sat rem : Bool) :
    divide ty sat rem a 0 =
      { bits := BitVec.ofInt 64 ((if rem then a else (2 ^ intWidth ty : Nat) - 1) % (2 ^ intWidth ty : Nat))
        flags := Flags.dz } := by
  simp only [divide, if_true, ne_eq, not_true_eq_false, decide_false, Bool.and_false, Bool.false_and, Bool.false_eq_true,
    if_false, decide_true]
  exact congrArg _ (BitVec.or_zero)

/-- R491: the quotient by 0 has all W bits set. -/
theorem toNat_allOnes (ty : IntTy) :
    (BitVec.ofInt 64 (((2 ^ intWidth ty : Nat) - 1) % (2 ^ intWidth ty : Nat))).toNat % 2 ^ intWidth ty
      = 2 ^ intWidth ty - 1 := by
  cases ty <;> decide

theorem natAbs_tdiv_le (a b : Int) : (a.tdiv b).natAbs ≤ a.natAbs := by
  rw [Int.natAbs_tdiv]
  exact Nat.div_le_self _ _

/-- The quotient is in its type, or is one more than its greatest value. -/
theorem tdiv_inType_or_over (ha : InType ty a) (hb : InType ty b) :
    (InType ty (a.tdiv b) ∧ overQuotient ty a b = false)
      ∨ (intSigned ty = true ∧ a.tdiv b = (2 ^ (intWidth ty - 1) : Nat) ∧ overQuotient ty a b = true) := by
  have hle := natAbs_tdiv_le a b
  cases hs : intSigned ty with
  | true =>
    rw [inType_signed hs] at ha ⊢
    by_cases hq : a.tdiv b = (2 ^ (intWidth ty - 1) : Nat)
    · exact .inr ⟨rfl, hq, by simp [overQuotient, hs, hq]⟩
    · refine .inl ⟨?_, by simp only [overQuotient, hq, decide_false, Bool.and_false]⟩
      omega
  | false =>
    rw [inType_unsigned hs] at ha hb ⊢
    have h0 : 0 ≤ a.tdiv b := Int.tdiv_nonneg ha.1 hb.1
    refine .inl ⟨?_, by simp [overQuotient, hs]⟩
    omega

/-- The remainder lies between 0 and the dividend, and so in its type. -/
theorem tmod_inType (ha : InType ty a) : InType ty (a.tmod b) := by
  have hle : (a.tmod b).natAbs ≤ a.natAbs := by
    rw [Int.natAbs_tmod]
    exact Nat.mod_le _ _
  have hpos (h : 0 ≤ a) : 0 ≤ a.tmod b := Int.tmod_nonneg b h
  have hneg (h : a ≤ 0) : a.tmod b ≤ 0 := by
    have := Int.tmod_nonneg b (Int.neg_nonneg.mpr h)
    rw [Int.neg_tmod] at this
    omega
  obtain ⟨h0, h1⟩ := ha
  have hmin : intMin ty ≤ 0 := by cases ty <;> decide
  have hmax : 0 ≤ intMax ty := by cases ty <;> decide
  simp only [InType]
  omega

theorem sub_tdiv_mul (a b : Int) : a - a.tdiv b * b = a.tmod b := by rw [Int.tmod_def, mul_comm]

/-- R491: a remainder by a divisor that is not 0, with no flag. -/
theorem divide_remainder (sat : Bool) (ha : InType ty a) (hb : b ≠ 0) :
    readInt ty (divide ty sat true a b).bits = a - a.tdiv b * b ∧ (divide ty sat true a b).flags = 0 := by
  rw [divide_nonzero sat true hb]
  refine ⟨readInt_ofInt_emod ?_ ?_, ?_⟩
  · rw [sub_tdiv_mul]
    exact tmod_inType ha
  · simp
  · simp [Flags.when]

/-- R491: a quotient that its type holds, with no flag. -/
theorem divide_quotient (sat : Bool) (hb : b ≠ 0) (hq : InType ty (a.tdiv b)) (ho : overQuotient ty a b = false) :
    readInt ty (divide ty sat false a b).bits = a.tdiv b ∧ (divide ty sat false a b).flags = 0 := by
  rw [divide_nonzero sat false hb, ho]
  exact ⟨readInt_ofInt_emod hq (by simp), by simp [Flags.when]⟩

/-- R490, R491: the quotient by 0 is all ones, the remainder is the dividend, and DZ is set. -/
theorem divide_by_zero (sat : Bool) (ha : InType ty a) :
    (divide ty sat false a 0).bits.toNat % 2 ^ intWidth ty = 2 ^ intWidth ty - 1 ∧ readInt ty (divide ty sat true a 0).bits = a
      ∧ (divide ty sat false a 0).flags = Flags.dz ∧ (divide ty sat true a 0).flags = Flags.dz := by
  simp only [divide_zero, if_true, Bool.false_eq_true, if_false, and_true]
  exact ⟨toNat_allOnes ty, readInt_ofInt_emod ha (by simp)⟩

/-- R491: the quotient 2^(W-1) of a signed type wraps, or with SAT is clamped. -/
theorem divide_overflow (sat : Bool) (hb : b ≠ 0) (hs : intSigned ty = true)
    (hq : a.tdiv b = (2 ^ (intWidth ty - 1) : Nat)) (ho : overQuotient ty a b = true) :
    readInt ty (divide ty sat false a b).bits = (if sat then intMax ty else intMin ty)
      ∧ (divide ty sat false a b).flags = if sat then Flags.sat else 0 := by
  rw [divide_nonzero sat false hb, ho, hq]
  have hmm := intMin_le_intMax ty
  have hw := two_pow_intWidth ty
  have hmin : intMin ty = -((2 ^ (intWidth ty - 1) : Nat) : Int) := by simp only [intMin, hs, if_true]
  have hmax : intMax ty = ((2 ^ (intWidth ty - 1) : Nat) : Int) - 1 := by simp only [intMax, hs, if_true]
  cases sat with
  | true => exact ⟨readInt_ofInt_emod ⟨hmm, le_refl _⟩ (by simp [hmax]), rfl⟩
  | false =>
    refine ⟨readInt_ofInt_emod ⟨le_refl _, hmm⟩ ⟨1, ?_⟩, rfl⟩
    simp only [Bool.false_eq_true, if_false, Bool.and_false, hmin]
    omega

/-- R491: the remainder of the quotient 2^(W-1) is 0: its divisor is -1. -/
theorem remainder_over (ha : InType ty a) (hs : intSigned ty = true) (hq : a.tdiv b = (2 ^ (intWidth ty - 1) : Nat)) :
    a - a.tdiv b * b = 0 := by
  have hP : 0 < 2 ^ (intWidth ty - 1) := Nat.two_pow_pos _
  rw [inType_signed hs] at ha
  have hdiv : a.natAbs / b.natAbs = 2 ^ (intWidth ty - 1) := by
    have := congrArg Int.natAbs hq
    rwa [Int.natAbs_tdiv] at this
  have hone : b.natAbs = 1 := by
    have hmul : 2 ^ (intWidth ty - 1) * b.natAbs ≤ 2 ^ (intWidth ty - 1) * 1 := by
      rw [← hdiv]
      refine (Nat.div_mul_le_self _ _).trans ?_
      omega
    have hle := Nat.le_of_mul_le_mul_left hmul hP
    have hne : b.natAbs ≠ 0 := fun h => by
      rw [h, Nat.div_zero] at hdiv
      omega
    omega
  rw [sub_tdiv_mul, ← Int.natAbs_eq_zero, Int.natAbs_tmod, hone, Nat.mod_one]

end

theorem idiv_due (g : Guard) (d : Dest) (ty : IntTy) (sat z rem : Bool) (a b : Src) :
    let num (e : Env) (x : Src) (l : Nat) : Int := readInt ty (e.int ty.operand x l)
    let r (e : Env) (l : Nat) : Res := divide ty sat rem (num e a l) (num e b l)
    Does (.idiv g d ty sat z rem a b) (fun e _ => e.active ∧ (z = true ∨ ∀ l ∈ e.lanes, num e b l ≠ 0))
      (fun e s => e.goesOn (e.awaits s (.l d ty.operand) (e.known .value
        (e.lanes.map (fun l => (l, (r e l).bits.setWidth 128))) (e.lanes.foldl (fun f l => f ||| (r e l).flags) 0)))) := by
  refine does_of_rows _ (fun _ => rfl) (fun e m rm lu ⟨ha, hz⟩ => ?_)
  have hno : (!z && e.lanes.any (fun l => readInt ty (e.int ty.operand b l) == 0)) = false := by
    rcases hz with rfl | hz
    · rfl
    · rw [Bool.and_eq_false_iff, List.any_eq_false]
      exact .inr (fun l hl => by simpa using hz l hl)
  simp only [withRows_int, withRows_lanes, hno, Bool.false_eq_true, if_false, List.map_map, Function.comp_def,
    List.foldl_map, due_awaits e m rm lu _ _ _ _ ha]
  rfl

theorem idiv_traps (g : Guard) (d : Dest) (ty : IntTy) (sat z rem : Bool) (a b : Src) :
    Does (.idiv g d ty sat z rem a b)
      (fun e _ => z = false ∧ ∃ l ∈ e.lanes, readInt ty (e.int ty.operand b l) = 0) (fun e _ => e.traps { code := 0x03 }) := by
  refine does_of_rows _ (fun _ => rfl) (fun e m rm lu ⟨hz, l, hl, h0⟩ => ?_)
  have hyes : (!z && e.lanes.any (fun l => readInt ty (e.int ty.operand b l) == 0)) = true := by
    rw [hz, Bool.not_false, Bool.true_and, List.any_eq_true]
    exact ⟨l, hl, beq_iff_eq.mpr h0⟩
  simp only [withRows_int, withRows_lanes, hyes, if_true, settle_trap]

/-- Settles O31: the two outcomes of IDIV, then its values by the divisor and the quotient. -/
theorem division : Obligations.Division := by
  refine ⟨fun g d ty sat z rem a b => ⟨idiv_due g d ty sat z rem a b, idiv_traps g d ty sat z rem a b⟩, ?_⟩
  intro ty sat a b hamin hamax hbmin hbmax q m
  have hcase := tdiv_inType_or_over (a := a) (b := b) ⟨hamin, hamax⟩ ⟨hbmin, hbmax⟩
  refine ⟨fun hb hfit => ?fits, fun hb hover => ?exceeds, fun hb => ?zero⟩
  case fits =>
    obtain ⟨hm, hmf⟩ := divide_remainder (ty := ty) sat ⟨hamin, hamax⟩ hb
    rcases hcase with ⟨hq, ho⟩ | ⟨hs, hq, -⟩
    · obtain ⟨hqv, hqf⟩ := divide_quotient sat hb hq ho
      exact ⟨hqv, hm, hqf, hmf⟩
    · rw [hq] at hfit
      simp only [intMax, hs, if_true] at hfit
      omega
  case exceeds =>
    obtain ⟨hm, hmf⟩ := divide_remainder (ty := ty) sat ⟨hamin, hamax⟩ hb
    rcases hcase with ⟨⟨-, hle⟩, -⟩ | ⟨hs, hq, ho⟩
    · omega
    · obtain ⟨hqv, hqf⟩ := divide_overflow sat hb hs hq ho
      exact ⟨hqv, hm.trans (remainder_over ⟨hamin, hamax⟩ hs hq), hqf, hmf⟩
  case zero =>
    subst hb
    exact divide_by_zero sat ⟨hamin, hamax⟩

end Sys2Proof.Machine
end

section
/-! SUPPORT. The new values of the elements of atomic accesses (R412, R413). -/
namespace Sys2Proof.Machine

section
variable {ty : AtomTy} {old b : Nat}

theorem atomNew_min (c : Nat) : atomRead ty (atomNew .min ty old b c) = min (atomRead ty old) (atomRead ty b) := by
  simp only [atomNew, apply_ite (atomRead ty)]
  omega

theorem atomNew_max (c : Nat) : atomRead ty (atomNew .max ty old b c) = max (atomRead ty old) (atomRead ty b) := by
  simp only [atomNew, apply_ite (atomRead ty)]
  omega

/-- R412, R413: the new value of an integer operation fits its element. -/
theorem atomNew_lt (op : AtomOp) (c : Nat) (ho : old < 2 ^ (8 * atomBytes ty)) (hb : b < 2 ^ (8 * atomBytes ty)) :
    atomNew op ty old b c < 2 ^ (8 * atomBytes ty) ∨ op = .fadd ∨ op = .fmin ∨ op = .fmax := by
  have hite (p : Prop) [Decidable p] : (if p then b else old) < 2 ^ (8 * atomBytes ty) := by split <;> assumption
  cases op with
  | add => exact .inl (Nat.mod_lt _ (Nat.two_pow_pos _))
  | min | max | cas => exact .inl (hite _)
  | and => exact .inl (Nat.and_lt_two_pow old hb)
  | or => exact .inl (Nat.or_lt_two_pow ho hb)
  | xor => exact .inl (Nat.xor_lt_two_pow ho hb)
  | exch => exact .inl hb
  | fadd => exact .inr (.inl rfl)
  | fmin => exact .inr (.inr (.inl rfl))
  | fmax => exact .inr (.inr (.inr rfl))

end

/-- R413: a compare-and-swap that does not match, and nothing else, writes nothing. -/
theorem atomWrites_eq_false (op : AtomOp) (old c : Nat) : atomWrites op old c = false ↔ op = .cas ∧ old ≠ c := by
  simp [atomWrites]

/-- Settles O47: each operation in turn. -/
theorem atomicValues : Obligations.AtomicValues := by
  intro ty old b c k _ ho hb v
  exact ⟨rfl, atomNew_min c, atomNew_max c, Nat.testBit_and .., Nat.testBit_or .., Nat.testBit_xor .., rfl, rfl,
    fun op => atomNew_lt op c ho hb, fun op => atomWrites_eq_false op old c⟩

end Sys2Proof.Machine
end

section
/-! SUPPORT. Shifts, rotations and bit fields: each completes as a logic instruction, and what its value is a bit at a time
(R424, R431, R477, R478, R529). -/
namespace Sys2Proof.Machine

-- shifts (R477, R478)

section
variable {w x y k : Nat} (n : Nat)

theorem testBit_shiftLeft (hk : k < w) : (shiftLeft w x n).testBit k = (decide (n ≤ k) && x.testBit (k - n)) := by
  have hmin : Nat.min n w ≤ k ↔ n ≤ k := by
    change min n w ≤ k ↔ n ≤ k
    omega
  rw [shiftLeft, Nat.testBit_mod_two_pow, Nat.testBit_mul_two_pow]
  simp only [hk, decide_true, Bool.true_and, hmin]
  by_cases hn : n ≤ k
  · rw [show Nat.min n w = n from Nat.min_eq_left (by omega)]
  · simp only [hn, decide_false, Bool.false_and]

theorem testBit_shiftRight (hx : x < 2 ^ w) : (shiftRight w x n).testBit k = x.testBit (k + n) := by
  rw [shiftRight, Nat.testBit_div_two_pow]
  by_cases hn : n ≤ w
  · rw [show Nat.min n w = n from Nat.min_eq_left hn]
  · have hout {j : Nat} (hj : w ≤ j) : x.testBit j = false :=
      Nat.testBit_lt_two_pow (hx.trans_le (Nat.pow_le_pow_right (by decide) hj))
    rw [show Nat.min n w = w from Nat.min_eq_right (by omega), hout (by omega), hout (by omega)]

/-- R478: SAR is the arithmetic shift of bit vectors. -/
theorem shiftArith_eq (w x n : Nat) : shiftArith w x n = ((BitVec.ofNat w x).sshiftRight (Nat.min n w)).toNat := by
  have h := BitVec.toNat_ofInt (n := w) ((BitVec.ofNat w x).sshiftRight (Nat.min n w)).toInt
  rw [BitVec.ofInt_toInt] at h
  rw [h, BitVec.toInt_sshiftRight, Int.shiftRight_eq_div_pow, BitVec.toInt_ofNat', ← sextNat_eq_bmod]
  rfl

theorem testBit_shiftArith (hk : k < w) :
    (shiftArith w x n).testBit k = x.testBit (if k + n < w then k + n else w - 1) := by
  have hmin : Nat.min n w + k < w ↔ k + n < w := by
    change min n w + k < w ↔ k + n < w
    omega
  rw [shiftArith_eq, BitVec.testBit_toNat, BitVec.getLsbD_sshiftRight]
  simp only [Nat.not_le.mpr hk, decide_false, Bool.not_false, Bool.true_and, hmin]
  split
  next h =>
    rw [show Nat.min n w + k = k + n by rw [show Nat.min n w = n from Nat.min_eq_left (by omega)]; omega,
      BitVec.getLsbD_ofNat, decide_eq_true h, Bool.true_and]
  next => rw [BitVec.msb_eq_getLsbD_last, BitVec.getLsbD_ofNat, decide_eq_true (by omega : w - 1 < w), Bool.true_and]

/-- R478: a rotation to the left by fewer places than the width. -/
theorem testBit_rotateLeft {m : Nat} (hx : x < 2 ^ w) (hk : k < w) (hm : m < w) :
    (x * 2 ^ m % 2 ^ w + x / 2 ^ (w - m)).testBit k = x.testBit ((k + (w - m)) % w) := by
  have hpow : 2 ^ w = 2 ^ (w - m) * 2 ^ m := by rw [← Nat.pow_add, Nat.sub_add_cancel hm.le]
  have hhigh : x * 2 ^ m % 2 ^ w = 2 ^ m * (x % 2 ^ (w - m)) := by rw [hpow, Nat.mul_mod_mul_right, Nat.mul_comm]
  have hlow : x / 2 ^ (w - m) < 2 ^ m := Nat.div_lt_of_lt_mul (hpow ▸ hx)
  rw [hhigh, Nat.testBit_two_pow_mul_add _ hlow, Nat.testBit_div_two_pow, Nat.testBit_mod_two_pow]
  split
  next h => rw [Nat.mod_eq_of_lt (by omega)]
  next h =>
    rw [decide_eq_true (by omega : k - m < w - m), Bool.true_and, show k + (w - m) = k - m + w by omega, Nat.add_mod_right,
      Nat.mod_eq_of_lt (by omega)]

theorem testBit_rotate_left (hx : x < 2 ^ w) (hk : k < w) :
    (rotate w x n false).testBit k = x.testBit ((k + (w - n % w)) % w) :=
  testBit_rotateLeft hx hk (Nat.mod_lt n (by omega))

/-- R478: a rotation to the right is one to the left by the rest of the width. -/
theorem testBit_rotate_right (hx : x < 2 ^ w) (hk : k < w) :
    (rotate w x n true).testBit k = x.testBit ((k + n) % w) := by
  have hn : n % w < w := Nat.mod_lt n (by omega)
  refine (testBit_rotateLeft hx hk (Nat.mod_lt (w - n % w) (by omega))).trans (congrArg x.testBit ?_)
  rw [← Nat.add_mod_mod k n w]
  by_cases h0 : n % w = 0
  · rw [h0, Nat.sub_zero, Nat.mod_self, Nat.sub_zero, Nat.add_mod_right, Nat.add_zero]
  · rw [Nat.mod_eq_of_lt (by omega : w - n % w < w), Nat.sub_sub_self hn.le]

theorem testBit_funnel_left (hy : y < 2 ^ w) (hk : k < w) :
    (funnel w x y n false).testBit k = if n ≤ k then x.testBit (k - n) else y.testBit (k + w - Nat.min n w) := by
  have hm : Nat.min n w ≤ w := Nat.min_le_right n w
  simp only [funnel, Bool.false_eq_true, if_false]
  rw [Nat.testBit_mod_two_pow, Nat.testBit_div_two_pow, Nat.testBit_mul_two_pow, Nat.mul_comm x, decide_eq_true hk,
    decide_eq_true (by omega : Nat.min n w ≤ k + w), Bool.true_and, Bool.true_and, Nat.testBit_two_pow_mul_add _ hy]
  by_cases hn : n ≤ k
  · rw [show Nat.min n w = n from Nat.min_eq_left (by omega), if_neg (by omega), if_pos hn]
    congr 1
    omega
  · have hlt : k < Nat.min n w := Nat.lt_min.mpr ⟨by omega, hk⟩
    rw [if_pos (by omega), if_neg hn]

theorem testBit_funnel_right (hy : y < 2 ^ w) (hk : k < w) :
    (funnel w x y n true).testBit k = if k + n < w then y.testBit (k + n) else x.testBit (k + Nat.min n w - w) := by
  simp only [funnel, if_true]
  rw [Nat.testBit_mod_two_pow, Nat.testBit_div_two_pow, Nat.mul_comm x, decide_eq_true hk, Bool.true_and,
    Nat.testBit_two_pow_mul_add _ hy]
  by_cases hn : k + n < w
  · rw [show Nat.min n w = n from Nat.min_eq_left (by omega), if_pos hn]
  · have hle : w ≤ k + Nat.min n w := by
      change w ≤ k + min n w
      omega
    rw [if_neg (by omega), if_neg hn]

end

/-- A shift by a count gives each lane the value of its function. -/
theorem shift_computes {i : Instr} {d : Dest} {ty : BTy} {a b : Src} (f : Nat → Nat → Nat)
    (h : ∀ s, exec i s = issue s i (fun e => e.shift d ty a b f)) :
    Computes i d ty.operand (fun e l =>
      { bits := BitVec.ofNat 64 (f (e.int ty.operand a l).toNat (e.int32 b l).toNat), flags := 0 }) :=
  logic_computes _ h (fun _ _ _ _ _ _ _ _ _ _ => by simp only [envOf_int, envOf_int32])

theorem fsh_computes (g : Guard) (d : Dest) (ty : BTy) (right : Bool) (a b c : Src) :
    Computes (.fsh g d ty right a b c) d ty.operand (fun e l =>
      { bits := BitVec.ofNat 64 (funnel (bitsOf ty) (e.int ty.operand a l).toNat (e.int ty.operand b l).toNat
          (e.int32 c l).toNat right), flags := 0 }) :=
  logic_computes _ (fun _ => rfl) (fun _ _ _ _ _ _ _ _ _ _ => by simp only [envOf_int, envOf_int32])

/-- Settles O17: each instruction in turn, then each value a bit at a time. -/
theorem shifts : Obligations.Shifts := by
  refine ⟨fun g d ty right a b c => ⟨shift_computes _ (fun _ => rfl), shift_computes _ (fun _ => rfl),
    shift_computes _ (fun _ => rfl), shift_computes (fun x n => rotate (bitsOf ty) x n right) (fun _ => rfl),
    fsh_computes g d ty right a b c⟩, fun w x y n k _ hx hy hk => ?_⟩
  exact ⟨testBit_shiftLeft n hk, testBit_shiftRight n hx, testBit_shiftArith n hk, testBit_rotate_left n hx hk,
    testBit_rotate_right n hx hk, testBit_funnel_left n hy hk, testBit_funnel_right n hy hk⟩

-- bit fields (R424, R431, R529)

/-- R424: the mask of a field of `len` bits at `pos`. -/
theorem testBit_fieldMask (len pos k : Nat) : ((2 ^ len - 1) * 2 ^ pos).testBit k = decide (pos ≤ k ∧ k < pos + len) := by
  rw [Nat.testBit_mul_two_pow, Nat.testBit_two_pow_sub_one, ← Bool.decide_and]
  exact decide_eq_decide.mpr (by omega)

theorem fieldMask_lt {w len pos : Nat} (h : pos + len ≤ w) : (2 ^ len - 1) * 2 ^ pos < 2 ^ w := by
  have hlt : (2 ^ len - 1) * 2 ^ pos < 2 ^ len * 2 ^ pos :=
    Nat.mul_lt_mul_of_pos_right (Nat.sub_lt (Nat.two_pow_pos _) Nat.one_pos) (Nat.two_pow_pos _)
  rw [← Nat.pow_add, Nat.add_comm] at hlt
  exact hlt.trans_le (Nat.pow_le_pow_right (by decide) h)

/-- R424: BFI takes the field's bits from b, from its bit 0 on, and the others from a. -/
theorem testBit_insertField {w a b c k : Nat} (hk : k < w) :
    let pos := Nat.min (c % 256) w
    let len := Nat.min (c / 256 % 256) (w - pos)
    (insertField w a b c).testBit k = if pos ≤ k ∧ k < pos + len then b.testBit (k - pos) else a.testBit k := by
  intro pos len
  have hpos : pos ≤ w := Nat.min_le_right _ _
  have hlen : len ≤ w - pos := Nat.min_le_right _ _
  have hrest : 2 ^ w - 1 - (2 ^ len - 1) * 2 ^ pos = 2 ^ w - ((2 ^ len - 1) * 2 ^ pos + 1) := by omega
  show ((a &&& (2 ^ w - 1 - (2 ^ len - 1) * 2 ^ pos)) ||| (b * 2 ^ pos &&& (2 ^ len - 1) * 2 ^ pos)).testBit k = _
  rw [hrest, Nat.testBit_or, Nat.testBit_and, Nat.testBit_and, Nat.testBit_two_pow_sub_succ (fieldMask_lt (by omega)),
    testBit_fieldMask, Nat.testBit_mul_two_pow, decide_eq_true hk]
  by_cases h : pos ≤ k ∧ k < pos + len
  · simp [h]
  · simp [h]

/-- R431: the low n bits reversed stand at the top of w bits. -/
theorem reverseBits_eq (w x : Nat) {n : Nat} (h : n ≤ w) :
    ∃ c, reverseBits w x n = 2 ^ (w - n) * c ∧ ∀ j, c.testBit j = (decide (j < n) && x.testBit (n - 1 - j)) := by
  induction n with
  | zero => exact ⟨0, rfl, fun j => by simp⟩
  | succ n ih =>
    obtain ⟨c, hc, hbits⟩ := ih (by omega)
    refine ⟨2 * c + x / 2 ^ n % 2, ?_, fun j => ?_⟩
    · rw [reverseBits, hc, show w - n = w - (n + 1) + 1 by omega, Nat.pow_succ, show w - 1 - n = w - (n + 1) by omega]
      ring
    · cases j with
      | zero => simp [Nat.testBit_eq_decide_div_mod_eq]
      | succ j =>
        rw [Nat.testBit_succ, show (2 * c + x / 2 ^ n % 2) / 2 = c by omega, hbits]
        simp only [Nat.add_lt_add_iff_right, show n + 1 - 1 - (j + 1) = n - 1 - j by omega]

theorem testBit_reverseBits {w a k : Nat} (hk : k < w) : (reverseBits w a w).testBit k = a.testBit (w - 1 - k) := by
  obtain ⟨c, hc, hbits⟩ := reverseBits_eq w a (le_refl w)
  rw [hc, Nat.sub_self, Nat.pow_zero, Nat.one_mul, hbits, decide_eq_true hk, Bool.true_and]

/-- R431: POPC counts the set bits. -/
theorem popCount_eq_length (a w : Nat) : popCount a w = ((List.range w).filter (fun j => a.testBit j)).length := by
  induction w with
  | zero => rfl
  | succ w ih =>
    rw [popCount, ih, List.range_succ, List.filter_append, List.length_append]
    congr 1
    cases h : a.testBit w with
    | true => simpa [h] using Nat.testBit_eq_decide_div_mod_eq.symm.trans h
    | false => simpa [h, Nat.mod_two_ne_one] using Nat.testBit_eq_decide_div_mod_eq.symm.trans h

section
variable {w a : Nat}

theorem leadingZeros_le (w a : Nat) : leadingZeros w a ≤ w := by
  unfold leadingZeros
  split <;> omega

/-- R431: the highest set bit stands below the leading zeros. -/
theorem sub_leadingZeros (ha : a < 2 ^ w) (h0 : a ≠ 0) : w - leadingZeros w a = a.log2 + 1 := by
  have hlog : a.log2 < w := (Nat.log2_lt h0).mpr ha
  rw [leadingZeros, if_neg h0]
  omega

theorem testBit_leadingZero {k : Nat} (ha : a < 2 ^ w) (hk : w - leadingZeros w a ≤ k) : a.testBit k = false := by
  by_cases h0 : a = 0
  · rw [h0, Nat.zero_testBit]
  · rw [sub_leadingZeros ha h0] at hk
    exact Nat.testBit_lt_two_pow (Nat.lt_log2_self.trans_le (Nat.pow_le_pow_right (by decide) hk))

theorem testBit_leadingOne (ha : a < 2 ^ w) (h0 : a ≠ 0) : a.testBit (w - 1 - leadingZeros w a) = true := by
  rw [show w - 1 - leadingZeros w a = a.log2 by have := sub_leadingZeros ha h0; omega]
  exact Nat.testBit_log2 h0

end

section
variable (g : Guard) (d : Dest) (ty : BTy)

theorem bfx_computes (ity : IntTy) (a b c : Src) :
    Computes (.bfx g d ity a b c) d ity.operand (fun e l =>
      { bits := BitVec.ofInt 64 (extractField ity (e.int ity.operand a l).toNat (e.int32 b l).toNat (e.int32 c l).toNat) }) :=
  logic_computes _ (fun _ => rfl) (fun _ _ _ _ _ _ _ _ _ _ => by simp only [envOf_int, envOf_int32])

theorem bfi_computes (a b c : Src) :
    Computes (.bfi g d ty a b c) d ty.operand (fun e l =>
      { bits := BitVec.ofNat 64 (insertField (bitsOf ty) (e.int ty.operand a l).toNat (e.int ty.operand b l).toNat
          (e.int32 c l).toNat) }) :=
  logic_computes _ (fun _ => rfl) (fun _ _ _ _ _ _ _ _ _ _ => by simp only [envOf_int, envOf_int32])

/-- A logic instruction of one source gives each lane the value of its function. -/
theorem logicUn_computes {i : Instr} {w : Width} {a : Src} (f : Nat → Nat)
    (h : ∀ s, exec i s = issue s i (fun e => e.logic d w (fun l => BitVec.ofNat 64 (f (e.int ty.operand a l).toNat)))) :
    Computes i d w (fun e l => { bits := BitVec.ofNat 64 (f (e.int ty.operand a l).toNat) }) :=
  logic_computes _ h (fun _ _ _ _ _ _ _ _ _ _ => by simp only [envOf_int])

theorem prmt_computes (mode : PrmtMode) (a b c : Src) :
    Computes (.prmt g d mode a b c) d .w32 (fun e l =>
      { bits := BitVec.ofNat 64 (permute mode (e.int32 a l).toNat (e.int32 b l).toNat (e.int32 c l).toNat) }) :=
  logic_computes _ (fun _ => rfl) (fun _ _ _ _ _ _ _ _ _ _ => by simp only [envOf_int32])

end

/-- Settles O18: each instruction in turn, then each value a bit at a time. -/
theorem bitFields : Obligations.BitFields := by
  refine ⟨fun g d ty ity mode a b c => ⟨bfx_computes g d ity a b c, bfi_computes g d ty a b c,
    logicUn_computes d ty (fun x => popCount x (bitsOf ty)) (fun _ => rfl), logicUn_computes d ty _ (fun _ => rfl),
    logicUn_computes d ty (fun x => reverseBits (bitsOf ty) x (bitsOf ty)) (fun _ => rfl), prmt_computes g d mode a b c⟩,
    fun w a b c k ha _ hk => ?_⟩
  exact ⟨testBit_insertField hk, testBit_reverseBits hk, popCount_eq_length a w, leadingZeros_le w a,
    testBit_leadingZero ha, testBit_leadingOne ha⟩

end Sys2Proof.Machine
end

section
/-! SUPPORT. The floating instructions: functions, extremes and classes as results of class Q, and sums, products and
conversions with their draws (R106, R118, R450 to R453, R461 to R476, R483). -/
namespace Sys2Proof.Machine

section
variable (s : State) (i : Instr) (cid sid : Nat) (cr : Crew) (sp : Split) (off : Nat) (m : SMap Crew)
  (rm : SMap RegPlace) (lu : SMap Nat) (k : Nat)

/-- R118: the environment after its draws, which differs from that at issue in rows and in the number of free values used. -/
def drawnEnv : Env := { envOf s i cid sid cr sp off m rm lu with s := { s with crews := m, fresh := k } }

/-- A source does not depend on the number of free values used. -/
theorem readSrc_fresh (cv : Conv) (w : Width) (a : Src) (l : Nat) :
    readSrc { s with crews := m, fresh := k } { cr with rmap := rm, lastUse := lu } sp cv w a l
      = readSrc s cr sp cv w a l := by
  cases a with
  | special x => cases x <;> rfl
  | _ => rfl

theorem drawnEnv_int (w : Width) (a : Src) (l : Nat) :
    (drawnEnv s i cid sid cr sp off m rm lu k).int w a l = (envAt s i cid sid cr sp off).int w a l :=
  readSrc_fresh s cr sp m rm lu k .int w a l

theorem drawnEnv_flt (ty : FTy) (a : Src) (l : Nat) :
    (drawnEnv s i cid sid cr sp off m rm lu k).flt ty a l = (envAt s i cid sid cr sp off).flt ty a l :=
  congrArg (fun x : W64 => x.toNat % 2 ^ (fmtOf ty).width) (readSrc_fresh s cr sp m rm lu k (.flt ty) .w32 a l)

theorem drawnEnv_half (ty : FTy) (a : Src) (l j : Nat) :
    (drawnEnv s i cid sid cr sp off m rm lu k).half ty a l j = (envAt s i cid sid cr sp off).half ty a l j :=
  congrArg (fun x : W64 => x.toNat / 65536 ^ j % 65536) (readSrc_fresh s cr sp m rm lu k (.packed ty) .w32 a l)

theorem drawnEnv_flush (ty : FTy) (ftz : Bool) :
    (drawnEnv s i cid sid cr sp off m rm lu k).flush ty ftz = (envAt s i cid sid cr sp off).flush ty ftz := rfl

theorem drawnEnv_rounding (ty : FTy) (fm : FMod) (noise nbits : Nat) :
    (drawnEnv s i cid sid cr sp off m rm lu k).rounding ty fm noise nbits
      = (envAt s i cid sid cr sp off).rounding ty fm noise nbits := rfl

theorem drawnEnv_convert (dty sty : NumTy) (fm : FMod) (a : Src) (noise l : Nat) :
    (drawnEnv s i cid sid cr sp off m rm lu k).convert dty sty fm a noise l
      = (envAt s i cid sid cr sp off).convert dty sty fm a noise l := by
  unfold Env.convert
  simp only [drawnEnv_int, drawnEnv_flt, drawnEnv_flush, drawnEnv_rounding]

end

/-- R463: a scalar instruction that rounds gives each lane its function of the sources as values. -/
def Env.roundedLane (e : Env) (ty : FTy) (m : FMod) (f : Rounding → (Src → FVal) → Nat × Flags) (n l : Nat) : Res :=
  fltRes (f (e.rounding ty m n 32) (fun a => (fmtOf ty).read (e.flush ty m.ftz) (e.flt ty a l)))

theorem rounded_rounds {i : Instr} {d : Dest} {ty : FTy} {m : FMod} (f : Rounding → (Src → FVal) → Nat × Flags)
    (h : ∀ s, exec i s = issue s i (fun e => e.rounded d ty m f)) :
    Rounds i d .w32 m.rnd (fun e n l => e.roundedLane ty m f n l) :=
  rounds_of h (fun s cid sid cr sp off mm rm lu n k l => by
    change (drawnEnv s i cid sid cr sp off mm rm lu k).roundedLane ty m f n l = _
    simp only [Env.roundedLane, drawnEnv_flt, drawnEnv_flush, drawnEnv_rounding])

/-- R106, R118: a packed instruction that rounds: element k by its half of the noise word. -/
def Env.packedLane (e : Env) (ty : FTy) (m : FMod) (f : Rounding → (Src → FVal) → Nat × Flags) (n l : Nat) : Res :=
  let elem (k : Nat) : Nat × Flags :=
    f (e.rounding ty m (n / 65536 ^ k % 65536) 16) (fun a => (fmtOf ty).read (e.flush ty m.ftz) (e.half ty a l k))
  { bits := BitVec.ofNat 64 ((elem 0).1 + (elem 1).1 * 65536), flags := (elem 0).2 ||| (elem 1).2 }

theorem packed_rounds {i : Instr} {d : Dest} {ty : FTy} {m : FMod} (f : Rounding → (Src → FVal) → Nat × Flags)
    (h : ∀ s, exec i s = issue s i (fun e => e.packed d ty m f)) :
    Rounds i d .w32 m.rnd (fun e n l => e.packedLane ty m f n l) :=
  rounds_of h (fun s cid sid cr sp off mm rm lu n k l => by
    change (drawnEnv s i cid sid cr sp off mm rm lu k).packedLane ty m f n l = _
    simp only [Env.packedLane, drawnEnv_half, drawnEnv_flush, drawnEnv_rounding])

/-- Settles O19: each instruction by its function of the sources as values. -/
theorem floatArithmetic : Obligations.FloatArithmetic := by
  intro g d ty m a b c
  exact ⟨rounded_rounds (fun r v => (fmtOf ty).addV r (v a) (v b)) (fun _ => rfl),
    rounded_rounds (fun r v => (fmtOf ty).addV r (v a) (v b).negate) (fun _ => rfl),
    rounded_rounds (fun r v => (fmtOf ty).mulV r (v a) (v b)) (fun _ => rfl),
    rounded_rounds (fun r v => (fmtOf ty).fmaV r (v a) (v b) (v c)) (fun _ => rfl),
    packed_rounds (fun r v => (fmtOf ty).addV r (v a) (v b)) (fun _ => rfl),
    packed_rounds (fun r v => (fmtOf ty).mulV r (v a) (v b)) (fun _ => rfl),
    packed_rounds (fun r v => (fmtOf ty).fmaV r (v a) (v b) (v c)) (fun _ => rfl)⟩

/-- R475: a function of one source rounds to nearest and draws nothing. -/
theorem function_computes {i : Instr} {d : Dest} {ty : FTy} {ftz : Bool} {a : Src} (fn : Fn)
    (h : ∀ s, exec i s = issue s i (fun e => e.function d ty ftz fn a)) :
    Computes i d .w32 (fun e l => fltRes ((fmtOf ty).apply fn
      (e.rounding ty { rnd := .rne, ftz := ftz, sat := false } 0 32)
      ((fmtOf ty).read (e.flush ty ftz) (e.flt ty a l)))) :=
  computes_of h (fun _ _ _ _ _ _ _ _ _ _ => by simp only [envOf_rounding, envOf_flush, envOf_flt])

/-- R476: FMIN and FMAX. -/
theorem extreme_computes {i : Instr} {d : Dest} {ty : FTy} {nanp ftz : Bool} {a b : Src} (wantMax : Bool)
    (h : ∀ s, exec i s = issue s i (fun e => e.extreme d ty wantMax nanp ftz a b)) :
    Computes i d .w32 (fun e l =>
      fltRes ((fmtOf ty).minMax wantMax (e.nanp nanp) (e.flush ty ftz) (e.flt ty a l) (e.flt ty b l))) :=
  computes_of h (fun _ _ _ _ _ _ _ _ _ _ => by simp only [envOf_nanp, envOf_flush, envOf_flt])

theorem fclass_computes (g : Guard) (d : Dest) (ty : FTy) (a : Src) :
    Computes (.fclass g d ty a) d .w32 (fun e l =>
      { bits := BitVec.ofNat 64 (2 ^ (fmtOf ty).classify (e.flt ty a l)) }) :=
  computes_of (fun _ => rfl) (fun _ _ _ _ _ _ _ _ _ _ => by simp only [envOf_flt])

theorem cvt_rounds (g : Guard) (d : Dest) (dty sty : NumTy) (m : FMod) (a : Src) :
    Rounds (.cvt g d dty sty m a) d (cvtDestWidth dty sty) m.rnd (fun e n l => e.convert dty sty m a n l) :=
  rounds_of (fun _ => rfl) (fun s cid sid cr sp off mm rm lu n k l =>
    drawnEnv_convert s (.cvt g d dty sty m a) cid sid cr sp off mm rm lu k dty sty m a n l)

/-- Settles O20: the functions, the extremes, the class and the conversions in turn. -/
theorem floatFunctions : Obligations.FloatFunctions := by
  intro g d ty ftz nanp a b dty sty m
  exact ⟨function_computes .rcp (fun _ => rfl), function_computes .rsq (fun _ => rfl), function_computes .sqrt (fun _ => rfl),
    function_computes .log2 (fun _ => rfl), function_computes .exp2 (fun _ => rfl), function_computes .tanh (fun _ => rfl),
    function_computes .sig (fun _ => rfl), extreme_computes false (fun _ => rfl), extreme_computes true (fun _ => rfl),
    fclass_computes g d ty a, cvt_rounds g d dty sty m a⟩

end Sys2Proof.Machine
end

section
/-! SUPPORT. Branches, calls and returns: where each sends its split, and what a branch that some lanes take parts it into
(R43, R426, R428, R429, R437, R438, R619). -/
namespace Sys2Proof.Machine

section
variable (e : Env) (m : SMap Crew) (rm : SMap RegPlace) (lu : SMap Nat)

/-- R619: a split whose instruction names a header inside the segment goes there. -/
theorem settle_branchTo_inside {h : Int} (how : Entering) (f : Split → Split) (hi : e.inside h) :
    (e.withRows m rm lu).settle e.s ((e.withRows m rm lu).branchTo h how f) = e.moves { e.s with crews := m } (.header h how) f := by
  simp only [Env.branchTo, withRows_outside, outside_of_inside hi, Bool.false_eq_true, if_false, settle_goto]

/-- R619: one that names a header beyond the segment traps. -/
theorem settle_branchTo_beyond {h : Int} (how : Entering) (f : Split → Split) (hb : e.beyond h) :
    (e.withRows m rm lu).settle e.s ((e.withRows m rm lu).branchTo h how f)
      = e.traps { code := 0x06, addr := BitVec.ofInt 64 h } := by
  simp only [Env.branchTo, withRows_outside, outside_of_beyond hb, if_true]
  rfl

@[simp] theorem withRows_all : (e.withRows m rm lu).all = e.all := rfl
@[simp] theorem withRows_recon : (e.withRows m rm lu).recon = e.recon := rfl

end

theorem nextHeader_block {e : Env} {b : Block} (h : e.split.block = some b) : e.nextHeader = b.off + 8 * (b.len + 1) := by
  simp only [Env.nextHeader, h, Block.next]

section
variable (off : BitVec 32)

theorem bra_goes : Does (.bra off) (fun e _ => e.inside (e.target off))
    (fun e b => e.moves b (.header (e.target off) .branch) id) :=
  does_of_rows _ (fun _ => rfl) (fun e m rm lu hi => settle_branchTo_inside e m rm lu .branch id hi)

theorem bra_beyond : Does (.bra off) (fun e _ => e.beyond (e.target off))
    (fun e _ => e.traps { code := 0x06, addr := BitVec.ofInt 64 (e.target off) }) :=
  does_of_rows _ (fun _ => rfl) (fun e m rm lu hb => settle_branchTo_beyond e m rm lu .branch id hb)

variable (g : Guard)

theorem brc_goes : Does (.brc g off) (fun e _ => e.lanes = e.all ∧ e.inside (e.target off))
    (fun e b => e.moves b (.header (e.target off) .branch) id) := by
  refine does_of_rows _ (fun _ => rfl) (fun e m rm lu ⟨hall, hi⟩ => ?_)
  simp only [withRows_lanes, withRows_all, hall, if_true, withRows_target]
  exact settle_branchTo_inside e m rm lu .branch id hi

theorem brc_beyond : Does (.brc g off) (fun e _ => e.lanes = e.all ∧ e.beyond (e.target off))
    (fun e _ => e.traps { code := 0x06, addr := BitVec.ofInt 64 (e.target off) }) := by
  refine does_of_rows _ (fun _ => rfl) (fun e m rm lu ⟨hall, hb⟩ => ?_)
  simp only [withRows_lanes, withRows_all, hall, if_true, withRows_target]
  exact settle_branchTo_beyond e m rm lu .branch id hb

theorem brc_falls (blk : Block) :
    Does (.brc g off) (fun e _ => e.lanes = [] ∧ e.all ≠ [] ∧ e.split.block = some blk)
      (fun e b => e.moves b (.header (blk.off + 8 * (blk.len + 1) : Nat) .fall) id) := by
  refine does_of_rows _ (fun _ => rfl) (fun e m rm lu ⟨hnone, hall, hblk⟩ => ?_)
  have hlen : ¬ 0 = e.all.length := fun h => hall (List.length_eq_zero_iff.mp h.symm)
  simp only [withRows_lanes, withRows_all, hnone, List.length_nil, hlen, if_false, List.isEmpty_nil, if_true,
    withRows_nextHeader, settle_goto, nextHeader_block hblk]

/-- R43, R429: what the splits of a divergent branch have in common: no mark, and the block's reconvergence header
pushed where RCV names one. -/
def Env.branched (e : Env) (blk : Block) : Split :=
  { e.split with
    mark := none
    recon := if blk.rcv = 0 then e.split.recon
      else { target := (blk.off + 8 * blk.rcv.toInt).toNat, setter := e.crew.nextSplit } :: e.split.recon }

/-- R42, R429: the taken split and the other one. -/
def Env.parted (e : Env) (blk : Block) (h : Int) : List Split :=
  [{ e.branched blk with
     id := e.crew.nextSplit, age := e.crew.nextSplit, mask := maskOf e.lanes, place := .header h .branch },
   { e.branched blk with
     id := e.crew.nextSplit + 1, age := e.crew.nextSplit + 1, mask := e.split.mask &&& ~~~(maskOf e.lanes)
     place := .header (blk.off + 8 * (blk.len + 1) : Nat) .fall }]

theorem recon_block {e : Env} {blk : Block} (hblk : e.split.block = some blk) (h0 : 0 ≤ (blk.off : Int) + 8 * blk.rcv.toInt) :
    e.recon = (e.branched blk).recon := by
  simp only [Env.recon, hblk, Int.not_lt.mpr h0, if_false, Env.branched]

theorem diverge_parted {e : Env} {blk : Block} (hblk : e.split.block = some blk)
    (h0 : 0 ≤ (blk.off : Int) + 8 * blk.rcv.toInt) (h : Int) :
    e.diverge (maskOf e.lanes) h = updSplits e.s e.cid (fun cr =>
      { cr with splits := cr.splits.filter (fun x => x.id != e.sid) ++ e.parted blk h, nextSplit := e.crew.nextSplit + 2 }) := by
  simp only [Env.diverge, nextHeader_block hblk, recon_block hblk h0]
  rfl

theorem brc_parts (blk : Block) :
    Does (.brc g off)
      (fun e _ => e.active ∧ e.lanes.length ≠ e.all.length ∧ e.inside (e.target off) ∧ e.crew.splits.length < 16
        ∧ e.split.block = some blk ∧ 0 ≤ (blk.off : Int) + 8 * blk.rcv.toInt)
      (fun e b => updSplits b e.cid (fun cr =>
        { cr with splits := cr.splits.filter (fun x => x.id != e.sid) ++ e.parted blk (e.target off)
                  nextSplit := e.crew.nextSplit + 2 })) := by
  refine does_of_rows _ (fun _ => rfl) (fun e m rm lu ⟨ha, hlen, hi, hroom, hblk, h0⟩ => ?_)
  have hne : e.lanes.isEmpty = false := lanes_nonempty ha
  have hfits : (e.withRows m rm lu).splitFits = true := by
    have hlt : e.crew.splits.length < 256 := by omega
    simp only [Env.splitFits, withRows_splits, hroom, hlt, decide_true, Bool.true_or, Bool.and_self]
  simp only [withRows_lanes, withRows_all, hlen, if_false, hne, Bool.false_eq_true, hfits, Bool.not_true, withRows_target,
    withRows_outside, outside_of_inside hi, settle_go]
  exact diverge_parted (e := e.withRows m rm lu) hblk h0 _

theorem call_goes (blk : Block) :
    Does (.call off) (fun e _ => e.split.rstack.length < 16 ∧ e.inside (e.target off) ∧ e.split.block = some blk)
      (fun e b => e.moves b (.header (e.target off) .call)
        (fun x => { x with rstack := (blk.off + 8 * (blk.len + 1)) :: x.rstack })) := by
  refine does_of_rows _ (fun _ => rfl) (fun e m rm lu ⟨hroom, hi, hblk⟩ => ?_)
  simp only [withRows_split, Nat.not_le.mpr hroom, if_false, withRows_nextHeader, nextHeader_block hblk, withRows_target]
  exact settle_branchTo_inside e m rm lu .call _ hi

theorem call_overflows : Does (.call off) (fun e _ => 16 ≤ e.split.rstack.length) (fun e _ => e.traps { code := 0x03 }) := by
  refine does_of_rows _ (fun _ => rfl) (fun e m rm lu hfull => ?_)
  simp only [withRows_split, hfull, if_true, settle_trap]

end

theorem ret_goes (h : Nat) (hs : List Nat) :
    Does .ret (fun e _ => e.split.rstack = h :: hs ∧ e.inside h)
      (fun e b => e.moves b (.header h .ret) (fun x => { x with rstack := hs })) := by
  refine does_of_rows _ (fun _ => rfl) (fun e m rm lu ⟨hstack, hi⟩ => ?_)
  simp only [withRows_split, hstack]
  exact settle_branchTo_inside e m rm lu .ret _ hi

theorem ret_underflows : Does .ret (fun e _ => e.split.rstack = []) (fun e _ => e.traps { code := 0x03 }) := by
  refine does_of_rows _ (fun _ => rfl) (fun e m rm lu hempty => ?_)
  simp only [withRows_split, hempty, settle_trap]

/-- Settles O22: each instruction in turn, by where its header lies. -/
theorem branches : Obligations.Branches := by
  intro g off blk ret rest
  exact ⟨bra_goes off, bra_beyond off, brc_goes off g, brc_beyond off g, brc_falls off g blk, brc_parts off g blk,
    call_goes off blk, call_overflows off, ret_goes ret rest, ret_underflows⟩

end Sys2Proof.Machine
end

section
/-! SUPPORT. CSRR and CSRW (R446 to R449). -/
namespace Sys2Proof.Machine

/-- R350: TRNDATA does not depend on the table of crews. -/
theorem readTrndata_crews (s : State) (m : SMap Crew) : (readTrndata { s with crews := m }).1 = (readTrndata s).1 := by
  simp only [readTrndata, apply_ite Prod.fst]
  rfl

/-- R447: a CSR's value does not depend on where registers lie. -/
theorem readCsr_rows_value (s : State) (cr : Crew) (sp : Split) (n : Nat) (m : SMap Crew) (rm : SMap RegPlace)
    (lu : SMap Nat) :
    (readCsr { s with crews := m } { cr with rmap := rm, lastUse := lu } sp n).1 = (readCsr s cr sp n).1 := by
  unfold readCsr
  split
  case h_18 => exact congrArg (BitVec.setWidth 64) (readTrndata_crews s m)
  all_goals rfl

/-- R447: what a read leaves depends on the state read alone. -/
theorem readCsr_rows_state (s : State) (cr : Crew) (sp : Split) (n : Nat) (rm : SMap RegPlace) (lu : SMap Nat) :
    (readCsr s { cr with rmap := rm, lastUse := lu } sp n).2 = (readCsr s cr sp n).2 := by
  unfold readCsr
  split <;> rfl

/-- R350, R447: no read but TRNDATA's changes the state. -/
theorem readCsr_state (s : State) (cr : Crew) (sp : Split) {n : Nat} (h : n ≠ 0x405) : (readCsr s cr sp n).2 = s := by
  unfold readCsr
  split
  case h_18 => exact absurd rfl h
  all_goals rfl

theorem csrr_completes (g : Guard) (d : Dest) (n : BitVec 12) (w64 : Bool) :
    Does (.csrr g d n w64) (fun e _ => e.active) (fun e b =>
      e.goesOn (addFlags (writeQ (readCsr b e.crew e.split n.toNat).2 e.cid e.sid d (if w64 then .w64 else .w32) e.all
        (e.lanes.map (fun l => (l, (readCsr e.s e.crew e.split n.toNat).1)))) e.cid 0)) := by
  refine does_of_rows _ (fun _ => rfl) (fun e m rm lu ha => ?_)
  have hne : e.lanes.isEmpty = false := lanes_nonempty ha
  have hval : (readCsr (e.withRows m rm lu).s (e.withRows m rm lu).crew (e.withRows m rm lu).split n.toNat).1
      = (readCsr e.s e.crew e.split n.toNat).1 := readCsr_rows_value e.s e.crew e.split n.toNat m rm lu
  have hstate : (readCsr (e.withRows m rm lu).s (e.withRows m rm lu).crew (e.withRows m rm lu).split n.toNat).2
      = (readCsr { e.s with crews := m } e.crew e.split n.toNat).2 := readCsr_rows_state _ e.crew e.split n.toNat rm lu
  simp only [withRows_lanes, hne, Bool.false_eq_true, if_false, hval, hstate]
  rfl

theorem csrw_writes (g : Guard) (n : BitVec 12) (w64 : Bool) (a : Src) :
    Does (.csrw g n w64 a) (fun e _ => e.active) (fun e b =>
      e.goesOn (writeCsr b e.cid e.sid n.toNat (lo32 (e.int (if w64 then .w64 else .w32) a e.lead)))) := by
  refine does_of_rows _ (fun _ => rfl) (fun e m rm lu ha => ?_)
  have hne : e.lanes.isEmpty = false := lanes_nonempty ha
  simp only [withRows_lanes, hne, Bool.false_eq_true, if_false, withRows_int, withRows_lead]
  rfl

/-- R447: writes of the read-only CSRs are ignored. -/
theorem writeCsr_readOnly (s : State) (cid sid : Nat) (v : W32) :
    ∀ n ∈ [0x000, 0x001, 0x004, 0x010, 0x011, 0x012, 0x030, 0x032, 0x033], writeCsr s cid sid n v = s := by
  intro n hn
  simp only [List.mem_cons, List.not_mem_nil, or_false] at hn
  rcases hn with rfl | rfl | rfl | rfl | rfl | rfl | rfl | rfl | rfl <;> rfl

/-- Settles O40: the two instructions, and the writes and reads of single registers. -/
theorem controlRegisters : Obligations.ControlRegisters :=
  ⟨fun g d n w64 a => ⟨csrr_completes g d n w64, csrw_writes g n w64 a⟩,
    fun s cid sid v => ⟨rfl, rfl, writeCsr_readOnly s cid sid v, fun cr sp _ h => readCsr_state s cr sp h⟩⟩

end Sys2Proof.Machine
end

section
/-! SUPPORT. COPY, SPGROW and SPFREE: the copy that enters the engine, the request that joins its core's, and the allocation
that is left (R143, R145, R150, R151, R441 to R443, R551 to R553). -/
namespace Sys2Proof.Machine

-- COPY

/-- R356: who makes a crew's accesses does not depend on where its registers lie. -/
theorem crewIdent_rows {s : State} {cid : Nat} {cr : Crew} {m : SMap Crew} {rm : SMap RegPlace} {lu : SMap Nat}
    {dest : List Nat} (hc : s.crews.find cid = some cr) (hm : RowsOnly s.crews cid cr m rm lu dest) :
    crewIdent { s with crews := m } cid = crewIdent s cid := by
  obtain ⟨hf, -⟩ := hm
  simp only [crewIdent, hf, hc]
  rfl

/-- R442: the rectangle of a side, from its pair of offset and row stride and from the shape. -/
def Env.copyRect (e : Env) (a shape : Src) : CopyRect :=
  { off := (lo32 (e.int .w64 a e.lead)).toNat, stride := (hi32 (e.int .w64 a e.lead)).toNat
    rows := (e.int32 shape e.lead).toNat / 65536, rb := (e.int32 shape e.lead).toNat % 65536 }

/-- R442: a side of a COPY: in the tile store, or through a record. -/
def Env.copySide (e : Env) (tile : Bool) (br : BitVec 4) (xs : BitVec 3) (c : CopyRect) : CopySide :=
  if tile then .tile c.off c.stride xs.toNat else .global (e.recBits br) c.off c.stride

/-- R151: the checks of a side. -/
def Env.copyCheck (e : Env) (tile : Bool) (br : BitVec 4) (nd : Need) (xs : BitVec 3) (c : CopyRect) : Option Report :=
  if tile then e.copyTile xs c else e.copyGlobal br nd c

/-- R442: a state in which a copy of the crew has entered its core's engine. -/
def Env.begun (e : Env) (b : State) (src dst : CopySide) (rows rb kc : Nat) : State :=
  updCrew (noteCopy { b with
    nextId := b.nextId + 1
    copies := b.copies.put b.nextId
      { id := b.nextId, crew := some e.cid, cohort := e.crew.cohort, ctx := e.crew.ctx, core := unitOf e.s e.crew
        lanes := e.split.mask, kc := kc, src := src, dst := dst, rows := rows, rb := rb
        who := crewIdent e.s e.cid
        task := (((e.s.cohorts.find e.crew.cohort).bind streamKey).bind e.s.streams.find).elim 0 Stream.taskNow } }
      e.crew.cohort src dst) e.cid
    (fun cr => { cr with pendCnt := changeAt cr.pendCnt kc (· + 1) })

/-- R619: whether the header of a yielding COPY lies outside the code segment. -/
def Env.copyOutside (e : Env) (cont : Option (BitVec 32)) : Bool :=
  match cont.map e.target, launchOf e.s e.crew with
  | some h, some ln => decide (h < 0) || decide ((ln.seglen : Int) < h + 8)
  | _, _ => false

/-- R443: what the counter of a COPY reaches once every outstanding command has counted, this one too. -/
def Env.copyTarget (e : Env) (kc : Nat) : W32 :=
  e.crew.counters.getD kc 0 + BitVec.ofNat 32 (e.crew.pendCnt.getD kc 0 + 1)

/-- R443: how a COPY that has begun goes on: it yields until its counter has counted, or it is complete. -/
def Env.copyGoes (e : Env) (x : CopyExt) (b : State) : Eff :=
  match x.cont.map e.target with
  | some h => e.yieldOn b x.kc.toNat (e.crew.outstanding x.kc.toNat + 1) h
  | none => .next b

/-- R442, R443: what a COPY of an active lane does. -/
def Env.copyStarts (e : Env) (dir : CopyDir) (src dst shape : Src) (x : CopyExt) : Eff :=
  let sr := e.copyRect src shape
  let dr := e.copyRect dst shape
  if sr.rows = 0 || sr.rb = 0 then .trap { code := 0x03 }
  else
    match e.copyCheck (dir = .s2g) x.brs { r := true } x.xs sr, e.copyCheck (dir = .g2s) x.brd { w := true } x.xs dr with
    | some t, _ => .trap t
    | none, some t => .trap t
    | none, none =>
      if copyEntries ≤ copiesOn e.s (unitOf e.s e.crew) then .hold (.waitOperand .copyRoom) e.s
      else e.copyGoes x (e.startCopy (e.copySide (dir = .s2g) x.brs x.xs sr) (e.copySide (dir = .g2s) x.brd x.xs dr)
        sr.rows sr.rb x.kc.toNat)

/-- R441 to R443: what a COPY does. -/
def Env.copyBody (e : Env) (dir : CopyDir) (src dst shape : Src) (x : CopyExt) : Eff :=
  if e.copyOutside x.cont then .trap { code := 0x06, addr := BitVec.ofInt 64 ((x.cont.map e.target).getD 0) }
  else if e.lanes.isEmpty then
    match x.cont.map e.target with
    | some h => e.yieldOn e.s x.kc.toNat (e.crew.outstanding x.kc.toNat) h
    | none => .next e.s
  else e.copyStarts dir src dst shape x

theorem exec_copy (g : Guard) (dir : CopyDir) (src dst shape : Src) (x : CopyExt) (s : State) :
    exec (.copy g dir src dst shape x) s
      = issue s (.copy g dir src dst shape x) (fun e => e.copyBody dir src dst shape x) := by
  cases dir <;> rfl

section
variable (e : Env) (m : SMap Crew) (rm : SMap RegPlace) (lu : SMap Nat)

@[simp] theorem withRows_copyRect (a shape : Src) : (e.withRows m rm lu).copyRect a shape = e.copyRect a shape := by
  simp only [Env.copyRect, withRows_int, withRows_int32, withRows_lead]

@[simp] theorem withRows_copySide (tile : Bool) (br : BitVec 4) (xs : BitVec 3) (c : CopyRect) :
    (e.withRows m rm lu).copySide tile br xs c = e.copySide tile br xs c := rfl

@[simp] theorem withRows_copyCheck (tile : Bool) (br : BitVec 4) (nd : Need) (xs : BitVec 3) (c : CopyRect) :
    (e.withRows m rm lu).copyCheck tile br nd xs c = e.copyCheck tile br nd xs c := rfl

theorem startCopy_begun (hid : crewIdent { e.s with crews := m } e.cid = crewIdent e.s e.cid) (src dst : CopySide)
    (rows rb kc : Nat) :
    (e.withRows m rm lu).startCopy src dst rows rb kc = e.begun { e.s with crews := m } src dst rows rb kc := by
  have hid' : crewIdent (e.withRows m rm lu).s (e.withRows m rm lu).cid = crewIdent e.s e.cid := hid
  simp only [Env.startCopy, hid']
  rfl

end

theorem noteCopy_accs (s : State) (k : Nat) (src dst : CopySide) : (noteCopy s k src dst).accs = s.accs := by
  unfold noteCopy
  split
  · split <;> rfl
  · rfl
  · rfl

/-- A choice of two reports is none where the one chosen is. -/
theorem ite_eq_none_iff (p : Prop) [Decidable p] (a b : Option Report) :
    (if p then a else b) = none ↔ if p then a = none else b = none := by
  split <;> rfl

/-- R442, R443: the two sides of a COPY pass their checks, and its core's engine has a free entry. -/
structure Env.copyOk (e : Env) (dir : CopyDir) (src dst shape : Src) (x : CopyExt) : Prop where
  active : e.active
  rows   : (e.copyRect src shape).rows ≠ 0
  bytes  : (e.copyRect src shape).rb ≠ 0
  source : e.copyCheck (dir = .s2g) x.brs { r := true } x.xs (e.copyRect src shape) = none
  dest   : e.copyCheck (dir = .g2s) x.brd { w := true } x.xs (e.copyRect dst shape) = none
  room   : copiesOn e.s (unitOf e.s e.crew) < 64

/-- R442: the state in which a COPY has entered the engine. -/
def Env.copied (e : Env) (dir : CopyDir) (src dst shape : Src) (x : CopyExt) (b : State) : State :=
  e.begun b (e.copySide (dir = .s2g) x.brs x.xs (e.copyRect src shape))
    (e.copySide (dir = .g2s) x.brd x.xs (e.copyRect dst shape)) (e.copyRect src shape).rows (e.copyRect src shape).rb
    x.kc.toNat

section
variable {e : Env} {m : SMap Crew} {rm : SMap RegPlace} {lu : SMap Nat} {dir : CopyDir} {src dst shape : Src} {x : CopyExt}

theorem copyStarts_ok (hok : e.copyOk dir src dst shape x)
    (hid : crewIdent { e.s with crews := m } e.cid = crewIdent e.s e.cid) :
    (e.withRows m rm lu).copyStarts dir src dst shape x
      = (e.withRows m rm lu).copyGoes x (e.copied dir src dst shape x { e.s with crews := m }) := by
  have hfree : ¬ copyEntries ≤ copiesOn (e.withRows m rm lu).s (unitOf (e.withRows m rm lu).s (e.withRows m rm lu).crew) :=
    Nat.not_le.mpr hok.room
  simp only [Env.copyStarts, withRows_copyRect, withRows_copyCheck, withRows_copySide, hok.rows, hok.bytes, hok.source,
    hok.dest, decide_false, Bool.or_self, Bool.false_eq_true, if_false, hfree, startCopy_begun e m rm lu hid]
  rfl

theorem copyOutside_none (hx : x.cont = none) : e.copyOutside x.cont = false := by
  rw [hx]
  rfl

theorem copyOutside_inside {off : BitVec 32} (hx : x.cont = some off) (hi : e.inside (e.target off)) :
    e.copyOutside x.cont = false := by
  obtain ⟨ln, hl, h0, h8⟩ := hi
  simp only [Env.copyOutside, hx, Option.map_some, hl, Bool.or_eq_false_iff, decide_eq_false_iff_not]
  omega

theorem copyBody_starts (ha : e.active) (hin : e.copyOutside x.cont = false) :
    e.copyBody dir src dst shape x = e.copyStarts dir src dst shape x := by
  simp only [Env.copyBody, hin, lanes_nonempty ha, Bool.false_eq_true, if_false]

theorem copyGoes_plain (hx : x.cont = none) (b : State) : e.copyGoes x b = .next b := by
  simp only [Env.copyGoes, hx, Option.map_none]

theorem copyGoes_yields {off : BitVec 32} (hx : x.cont = some off) (b : State) :
    e.copyGoes x b = .park (.waitYield x.kc.toNat (e.copyTarget x.kc.toNat) (e.target off)) b := by
  simp only [Env.copyGoes, hx, Option.map_some, Env.yieldOn, Nat.add_one_ne_zero, if_false]
  rfl

end

/-- An instruction whose body, over the rows given to its crew, answers `t` where `cond` holds; who makes the crew's
accesses is as before. -/
theorem does_of_rows_ident {i : Instr} {cond : Env → State → Prop} {t : Env → State → State} (body : Env → Eff)
    (h : ∀ s, exec i s = issue s i body)
    (hb : ∀ (e : Env) (m : SMap Crew) (rm : SMap RegPlace) (lu : SMap Nat),
      crewIdent { e.s with crews := m } e.cid = crewIdent e.s e.cid → cond e { e.s with crews := m } →
      (e.withRows m rm lu).settle e.s (body (e.withRows m rm lu)) = t e { e.s with crews := m }) : Does i cond t :=
  does_of body h (fun s cid sid cr sp off m rm lu hm hf _ hc =>
    hb (envAt s i cid sid cr sp off) m rm lu (crewIdent_rows hf hm) hc)

section
variable (g : Guard) (dir : CopyDir) (src dst shape : Src) (x : CopyExt)

/-- R442: the plain form goes on once its copy is in the engine. -/
theorem copy_goesOn :
    Does (.copy g dir src dst shape x) (fun e _ => e.copyOk dir src dst shape x ∧ x.cont = none)
      (fun e b => e.goesOn (e.copied dir src dst shape x b)) := by
  refine does_of_rows_ident _ (exec_copy g dir src dst shape x) (fun e m rm lu hid ⟨hok, hx⟩ => ?_)
  rw [copyBody_starts (e := e.withRows m rm lu) hok.active (copyOutside_none hx), copyStarts_ok hok hid, copyGoes_plain hx]
  rfl

/-- R443: the yielding form waits until its counter has counted every outstanding command. -/
theorem copy_yields (off : BitVec 32) :
    Does (.copy g dir src dst shape x)
      (fun e _ => e.copyOk dir src dst shape x ∧ x.cont = some off ∧ e.inside (e.target off))
      (fun e b => e.moves (e.copied dir src dst shape x b) e.after (fun sp =>
        { sp with state := .waitYield x.kc.toNat (e.copyTarget x.kc.toNat) (e.target off) })) := by
  refine does_of_rows_ident _ (exec_copy g dir src dst shape x) (fun e m rm lu hid ⟨hok, hx, hi⟩ => ?_)
  have haccs : (e.copied dir src dst shape x { e.s with crews := m }).accs = e.s.accs :=
    noteCopy_accs _ e.crew.cohort _ _
  rw [copyBody_starts (e := e.withRows m rm lu) hok.active (copyOutside_inside (e := e.withRows m rm lu) hx hi),
    copyStarts_ok hok hid, copyGoes_yields hx, Env.settle, keepUndo_of_accs _ haccs]
  rfl

/-- R442: a COPY without rows or row bytes traps. -/
theorem copy_traps_empty :
    Does (.copy g dir src dst shape x)
      (fun e _ => e.active ∧ x.cont = none ∧ ((e.copyRect src shape).rows = 0 ∨ (e.copyRect src shape).rb = 0))
      (fun e _ => e.traps { code := 0x03 }) := by
  refine does_of_rows _ (exec_copy g dir src dst shape x) (fun e m rm lu ⟨ha, hx, hzero⟩ => ?_)
  have hz : (decide ((e.copyRect src shape).rows = 0) || decide ((e.copyRect src shape).rb = 0)) = true := by
    simpa only [Bool.or_eq_true, decide_eq_true_eq] using hzero
  rw [copyBody_starts (e := e.withRows m rm lu) ha (copyOutside_none hx)]
  simp only [Env.copyStarts, withRows_copyRect, hz, if_true, settle_trap]

end

-- SPGROW and SPFREE

/-- R143, R551: a SPGROW of a legal size joins its core's requests, and its destination is empty. -/
theorem spgrow_requests (g : Guard) (d : Dest) (n : Src) :
    let k (e : Env) : Nat := (e.int32 n e.lead).toNat
    Does (.spgrow g d n) (fun e _ => e.active ∧ 128 ≤ k e ∧ k e ≤ 262144 ∧ k e % 128 = 0)
      (fun e b =>
        let b' := e.awaits b (.l d .w32) { e.access .spgrow 0 0 (e.lanes.map (fun l => { lane := l, va := 0 })) 0 with
          lines := [], xlated := true }
        e.goesOn { b' with spgrow := b.spgrow ++
          [{ acc := b.nextId, cohort := e.crew.cohort, core := unitOf e.s e.crew, n := k e }] }) := by
  refine does_of_rows _ (fun _ => rfl) (fun e m rm lu ⟨ha, hmin, hmax, hk⟩ => ?_)
  have hsize : (decide ((e.int32 n e.lead).toNat % 128 ≠ 0) || decide ((e.int32 n e.lead).toNat < 128)
      || decide (262144 < (e.int32 n e.lead).toNat)) = false := by
    dsimp only at hk hmin hmax
    simp only [Bool.or_eq_false_iff, decide_eq_false_iff_not]
    omega
  simp only [lanes_nonempty (e := e.withRows m rm lu) ha, Bool.false_eq_true, if_false, withRows_int32, withRows_lead, hsize]
  rw [withRows_s, post_awaits e m rm lu (fun _ => DestUse.noConfusion) (withRows_access e m rm lu .spgrow 0 0 _) rfl]
  simp only [updAcc, Env.awaits, SMap.change_eq_put _ (SMap.find_put_self _ _ _), SMap.put_put]
  rfl

section
variable (g : Guard) (n : Src) (c : Cohort)

/-- R145, R552: SPFREE lowers the allocation by its size, and the bytes above are dropped. -/
theorem spfree_frees :
    let k (e : Env) : Nat := (e.int32 n e.lead).toNat
    Does (.spfree g n)
      (fun e b => e.active ∧ e.s.cohorts.find e.crew.cohort = some c ∧ 0 < k e ∧ k e % 128 = 0
        ∧ c.staticReq + k e ≤ c.alloc ∧ rangeBusy b e.crew.cohort (c.alloc - k e) c.alloc = false)
      (fun e b => e.goesOn (updCohort b e.crew.cohort (fun c =>
        { c with alloc := c.alloc - k e, tile := c.tile.filter (fun p => decide (p.1 < c.alloc - k e)) }))) := by
  refine does_of_rows _ (fun _ => rfl) (fun e m rm lu ⟨ha, hc, hpos, hk, hroom, hfree⟩ => ?_)
  have hc' : (e.withRows m rm lu).cohort = some c := hc
  have hsize : (decide ((e.int32 n e.lead).toNat % 128 ≠ 0) || decide (c.alloc < c.staticReq + (e.int32 n e.lead).toNat)) = false := by
    dsimp only at hk hroom
    simp only [Bool.or_eq_false_iff, decide_eq_false_iff_not]
    omega
  simp only [lanes_nonempty (e := e.withRows m rm lu) ha, Bool.false_eq_true, if_false, hc', withRows_int32, withRows_lead,
    hpos.ne', hsize, withRows_s, withRows_cohort, hfree]
  rfl

/-- R145, R553: a size that is no multiple of 128, or more than the cohort may free, takes BOUNDS. -/
theorem spfree_traps :
    let k (e : Env) : Nat := (e.int32 n e.lead).toNat
    Does (.spfree g n)
      (fun e _ => e.active ∧ e.s.cohorts.find e.crew.cohort = some c ∧ 0 < k e ∧ (k e % 128 ≠ 0 ∨ c.alloc < c.staticReq + k e))
      (fun e _ => e.traps { code := 0x06, addr := BitVec.ofNat 64 (k e) }) := by
  refine does_of_rows _ (fun _ => rfl) (fun e m rm lu ⟨ha, hc, hpos, hbad⟩ => ?_)
  have hc' : (e.withRows m rm lu).cohort = some c := hc
  have hsize : (decide ((e.int32 n e.lead).toNat % 128 ≠ 0) || decide (c.alloc < c.staticReq + (e.int32 n e.lead).toNat)) = true := by
    simpa only [Bool.or_eq_true, decide_eq_true_eq] using hbad
  simp only [lanes_nonempty (e := e.withRows m rm lu) ha, Bool.false_eq_true, if_false, hc', withRows_int32, withRows_lead,
    hpos.ne', hsize, if_true, settle_trap]

end

/-- Settles O29: COPY by its two forms and its trap, then the two instructions of the allocation. -/
theorem copiesAndTiles : Obligations.CopiesAndTiles := by
  intro g d dir src dst shape n x c w rows rb rect side sideOk s1 d1 ok begun k
  have hok {e : Env} (h : ok e) : e.copyOk dir src dst shape x := by
    obtain ⟨ha, hrows, hrb, hs, hd, hroom⟩ := h
    exact ⟨ha, hrows, hrb, (ite_eq_none_iff ..).mpr hs, (ite_eq_none_iff ..).mpr hd, hroom⟩
  refine ⟨fun s cid sid cr sp off hr ⟨h, hx⟩ => ?plain, fun off => ?yielding, copy_traps_empty g dir src dst shape x,
    spgrow_requests g d n, spfree_frees g n c, spfree_traps g n c⟩
  case plain => exact copy_goesOn g dir src dst shape x s cid sid cr sp off hr ⟨hok h, hx⟩
  case yielding =>
    exact fun s cid sid cr sp off' hr ⟨h, hx, hi⟩ => copy_yields g dir src dst shape x off s cid sid cr sp off' hr ⟨hok h, hx, hi⟩

end Sys2Proof.Machine
end

section
/-! SUPPORT. Buffer records made, fences of the FENCE instruction, code lines dropped, and windows (R160, R178, R180, R185,
R435, R436, R468 to R470, R488, R489, R523, R565). -/
namespace Sys2Proof.Machine

-- BRMK

section
variable (g : Guard) (bd : BitVec 4) (base extent : Src) (baseHi : BitVec 8) (stride : BitVec 16) (rights : BitVec 5)
  (sw : BitVec 3)

/-- R131, R435: the record that a BRMK assembles. -/
def Env.madeRecord (e : Env) (base extent : Src) (baseHi : BitVec 8) (stride : BitVec 16) (rights : BitVec 5)
    (sw : BitVec 3) : BitVec 128 :=
  rights ++ sw ++ e.int32 extent e.lead ++ stride ++ baseHi ++ e.int .w64 base e.lead

theorem brmk_writes :
    Does (.brmk g bd base extent baseHi stride rights sw)
      (fun e _ => e.active ∧ recMalformed (e.madeRecord base extent baseHi stride rights sw) = false)
      (fun e b => e.goesOn (updCrew b e.cid (fun cr =>
        { cr with recs := setAt cr.recs bd.toNat { bits := e.madeRecord base extent baseHi stride rights sw } }))) := by
  refine does_of_rows _ (fun _ => rfl) (fun e m rm lu ⟨ha, hok⟩ => ?_)
  rw [Env.madeRecord] at hok
  simp only [lanes_nonempty (e := e.withRows m rm lu) ha, Bool.false_eq_true, if_false, withRows_int, withRows_int32,
    withRows_lead, hok]
  rfl

theorem brmk_traps :
    Does (.brmk g bd base extent baseHi stride rights sw)
      (fun e _ => e.active ∧ recMalformed (e.madeRecord base extent baseHi stride rights sw) = true)
      (fun e _ => e.traps { code := 0x03 }) := by
  refine does_of_rows _ (fun _ => rfl) (fun e m rm lu ⟨ha, hbad⟩ => ?_)
  rw [Env.madeRecord] at hbad
  simp only [lanes_nonempty (e := e.withRows m rm lu) ha, Bool.false_eq_true, if_false, withRows_int, withRows_int32,
    withRows_lead, hbad, if_true, settle_trap]

end

-- FENCE

/-- R180, R185: a fence that is done drops the layouts of its scope where its destinations name them. -/
theorem fence_drops {e : Env} {t : State} {sc : Scope} {src : BitVec 8} (dst : BitVec 8) (h : e.fence sc src 0 = .done t) :
    e.fence sc src dst = .done (if dst.getLsbD 5 then dropLayouts t (layoutScope t e.crew sc) else t) := by
  simp only [Env.fence] at h ⊢
  split at h
  · cases h
  next hinc =>
    split at h
    · cases h
    next hdt =>
      split at h
      · cases h
      next hack =>
        have hnone : (0 : BitVec 8).getLsbD 5 = false := rfl
        cases h
        simp only [hinc, hdt, hack, hnone, if_false, Bool.false_eq_true]

/-- R470, R185: what the destinations of a FENCE drop. -/
def Env.fenceDrops (e : Env) (sc : Scope) (dst : BitVec 8) (spadw : Bool) (b : State) : State :=
  let b := if dst.getLsbD 5 then dropLayouts b (layoutScope b e.crew sc) else b
  if spadw then dropTileEntries b (unitOf b e.crew) else b

theorem fenceDrops_updSplit (e : Env) (sc : Scope) (dst : BitVec 8) (spadw : Bool) (b : State) (c i : Nat)
    (f : Split → Split) :
    e.fenceDrops sc dst spadw (updSplit b c i f) = updSplit (e.fenceDrops sc dst spadw b) c i f := by
  unfold Env.fenceDrops
  cases dst.getLsbD 5 <;> cases spadw <;> rfl

section
variable (g : Guard) (sm dm : BitVec 8) (scope : Scope) (spadw : Bool)

/-- R468, R470: FENCE needs a lane, and a core for its tile-store entries. -/
theorem fence_admitted {e : Env} (ha : e.active) (hcore : spadw = true → e.crew.engine = .core) (k l : Eff) (r : Report) :
    (if spadw && e.crew.engine != .core then .trap r else if e.lanes.isEmpty then l else k) = k := by
  have hok : (spadw && e.crew.engine != .core) = false := by
    cases spadw with
    | false => rfl
    | true => simp [hcore rfl]
  simp only [hok, lanes_nonempty ha, Bool.false_eq_true, if_false]

/-- R468 to R470: a FENCE whose sources have completed drops what its destinations name, and goes on. -/
theorem fence_goesOn :
    Does (.fence g sm dm scope spadw)
      (fun e b => e.active ∧ (spadw = true → e.crew.engine = .core) ∧ e.fenceDone b scope sm)
      (fun e b => e.goesOn (e.fenceDrops scope dm spadw b)) := by
  refine does_of_rows _ (fun _ => rfl) (fun e m rm lu ⟨ha, hcore, hdone⟩ => ?_)
  rw [fence_admitted (e := e.withRows m rm lu) spadw ha hcore, Env.fenced, fence_drops dm (fence_done hdone rfl rm lu)]
  refine Eq.trans ?_ (goesTracked_marked e false (e.fenceDrops scope dm spadw { e.s with crews := m })
    (e.split.mark.getD e.s.nextId))
  rw [← fenceDrops_updSplit]
  rfl

/-- R178: a FENCE with an earlier access incomplete waits, and keeps its mark. -/
theorem fence_waits :
    Does (.fence g sm dm scope spadw)
      (fun e b => e.active ∧ (spadw = true → e.crew.engine = .core)
        ∧ incomplete b e.crew (e.split.mark.getD b.nextId) sm = true)
      (fun e b => e.waits (.waitOperand (.fence (e.split.mark.getD b.nextId) sm))
        (fun x => { x with mark := some (e.split.mark.getD b.nextId) })) := by
  refine does_of _ (fun _ => rfl) (fun s cid sid cr sp off m rm lu hm hc _ ⟨ha, hcore, hinc⟩ => ?_)
  rw [fence_admitted (e := envOf s (.fence g sm dm scope spadw) cid sid cr sp off m rm lu) spadw ha hcore]
  have hwait : (envOf s (.fence g sm dm scope spadw) cid sid cr sp off m rm lu).fence scope sm dm
      = .wait (.waitOperand (.fence (sp.mark.getD s.nextId) sm))
          (updSplit { s with crews := m } cid sid (Split.marked (sp.mark.getD s.nextId))) := if_pos hinc
  simp only [Env.fenced, hwait]
  exact settle_hold _ (Split.marked (sp.mark.getD s.nextId)) (Split.marked_id _) hc hm

end

-- ICSYNC

/-- R488, R489: an ICSYNC within its record removes its context's code lines of the range. -/
theorem icsync_drops (g : Guard) (br : BitVec 4) (a n : Src) :
    let o (e : Env) : Nat := (e.int32 a e.lead).toNat
    let k (e : Env) : Nat := (e.int32 n e.lead).toNat
    Does (.icsync g br a n)
      (fun e _ => e.active ∧ 0 < k e ∧ recMalformed (e.recBits br) = false
        ∧ (recX (e.recBits br) || recW (e.recBits br)) = true ∧ o e + k e ≤ recSpan (e.recBits br))
      (fun e b => e.goesOn (dropCode b e.crew.ctx (recBase (e.recBits br) + o e) (recBase (e.recBits br) + o e + k e - 1))) := by
  refine does_of_rows _ (fun _ => rfl) (fun e m rm lu ⟨ha, hpos, hm, hx, hspan⟩ => ?_)
  simp only [lanes_nonempty (e := e.withRows m rm lu) ha, withRows_int32, withRows_lead, hpos.ne', decide_false, Bool.or_self,
    Bool.false_eq_true, if_false, withRows_recBits, hm, hx, Bool.not_true, Nat.not_lt.mpr hspan]
  rfl

-- windows

/-- R523, R524: the pages of a PIN's range, as its access names them. -/
def pinPages (base len : Nat) : List LineReq := (List.range (len / 8192)).map (fun i => { vline := base / 128 + 64 * i })

/-- R523, R524: a PIN within its record puts the translation of its pages in flight. -/
theorem pin_translates (g : Guard) (d : Dest) (br : BitVec 4) (fade : BitVec 8) (a n : Src) :
    let o (e : Env) : Nat := (e.int .w64 a e.lead).toNat
    let k (e : Env) : Nat := (e.int32 n e.lead).toNat
    let len (e : Env) : Nat := k e * 2 ^ 21
    let base (e : Env) : Nat := recBase (e.recBits br) + o e
    Does (.pin g d br fade a n)
      (fun e _ => e.active ∧ fade ≠ 0 ∧ k e ≠ 0 ∧ recMalformed (e.recBits br) = false ∧ recR (e.recBits br) = true
        ∧ o e + len e ≤ recSpan (e.recBits br) ∧ base e % 2 ^ 21 = 0)
      (fun e b => e.goesOn (e.awaits b (.l d .w32)
        { e.access (.pin (base e) (len e) fade.toNat) 0 (e.recBits br) (e.lanes.map (fun l => { lane := l, va := base e })) 0
          with lines := pinPages (base e) (len e) })) := by
  refine does_of_rows _ (fun _ => rfl) (fun e m rm lu ⟨ha, hfade, hk, hm, hr, hspan, halign⟩ => ?_)
  have hlen : ¬ (e.int32 n e.lead).toNat * 2 ^ 21 = 0 := Nat.mul_ne_zero hk (by decide)
  have halign' : ¬ (recBase (e.recBits br) + (e.int .w64 a e.lead).toNat) % 2 ^ 21 ≠ 0 := not_not.mpr halign
  simp only [lanes_nonempty (e := e.withRows m rm lu) ha, withRows_int, withRows_int32, withRows_lead, hfade, hlen,
    decide_false, Bool.or_self, Bool.false_eq_true, if_false, withRows_recBits, hm, hr, Bool.not_true,
    Nat.not_lt.mpr hspan, halign']
  exact settle_posted e m rm lu false (fun _ => DestUse.noConfusion) _
    { e.access (.pin _ _ fade.toNat) 0 (e.recBits br) (e.lanes.map (fun l => { lane := l, va := _ })) 0 with
      lines := pinPages _ _ } (fun _ => rfl) rfl

theorem unpin_drops (g : Guard) (a : Src) :
    Does (.unpin g a) (fun e _ => e.active) (fun e b => e.goesOn (dropWindow b e.crew.ctx (e.int32 a e.lead).toNat)) := by
  refine does_of_rows _ (fun _ => rfl) (fun e m rm lu ha => ?_)
  simp only [lanes_nonempty (e := e.withRows m rm lu) ha, Bool.false_eq_true, if_false, withRows_int32, withRows_lead]
  rfl

/-- A walk whose every step changes stacks alone changes stacks alone. -/
theorem foldl_dramStacks {α : Type} {f : State → α → State} (hf : ∀ s x, ∃ d, f s x = { s with dramStacks := d })
    (l : List α) (s : State) : ∃ d, l.foldl f s = { s with dramStacks := d } := by
  induction l generalizing s with
  | nil => exact ⟨s.dramStacks, rfl⟩
  | cons x xs ih =>
    obtain ⟨d, hd⟩ := hf s x
    obtain ⟨d', hd'⟩ := ih { s with dramStacks := d }
    exact ⟨d', by rw [List.foldl_cons, hd, hd']⟩

/-- R160: a window that is held is dropped, and only its context and the cisterns change. -/
theorem dropWindow_held {s : State} {ctx h : Nat} {w : Window}
    (hw : (s.ctxs.find ctx).bind (fun c => c.windows.find h) = some w) :
    ∃ d, dropWindow s ctx h = { s with
      ctxs := s.ctxs.change ctx (fun c => { c with windows := c.windows.del h }), dramStacks := d } := by
  simp only [dropWindow, hw]
  exact foldl_dramStacks (fun _ _ => ⟨_, rfl⟩) _ { s with ctxs := _ }

theorem dropWindow_absent {s : State} {ctx h : Nat} (hw : (s.ctxs.find ctx).bind (fun c => c.windows.find h) = none) :
    dropWindow s ctx h = s := by
  simp only [dropWindow, hw]

/-- R160: what dropping a window leaves. -/
theorem dropWindow_spec (s : State) (ctx h : Nat) :
    dropWindow s ctx h = { s with ctxs := (dropWindow s ctx h).ctxs, dramStacks := (dropWindow s ctx h).dramStacks }
      ∧ ((dropWindow s ctx h).ctxs.find ctx).bind (fun c => c.windows.find h) = none
      ∧ ∀ x, x ≠ ctx → (dropWindow s ctx h).ctxs.find x = s.ctxs.find x := by
  cases hw : (s.ctxs.find ctx).bind (fun c => c.windows.find h) with
  | none => rw [dropWindow_absent hw]; exact ⟨rfl, hw, fun _ _ => rfl⟩
  | some w =>
    obtain ⟨d, hd⟩ := dropWindow_held hw
    rw [hd]
    refine ⟨rfl, ?_, fun x hx => SMap.find_change_ne _ _ hx⟩
    rw [SMap.find_change_self]
    cases s.ctxs.find ctx with
    | none => rfl
    | some c => exact SMap.find_del_self c.windows h

/-- Settles O30: each instruction in turn, and what dropping a window leaves. -/
theorem recordsAndFences : Obligations.RecordsAndFences := by
  intro g d bd br base extent a n baseHi fade sm dm stride rights sw scope spadw
  exact ⟨brmk_writes g bd base extent baseHi stride rights sw, brmk_traps g bd base extent baseHi stride rights sw,
    fence_goesOn g sm dm scope spadw, fence_waits g sm dm scope spadw, icsync_drops g br a n, pin_translates g d br fade a n,
    unpin_drops g a, dropWindow_spec⟩

end Sys2Proof.Machine
end

section
/-! SUPPORT. ATOM, ATOMO, REDS and COMBINE as a crew issues them: the requests to the synchronisation engines (R174, R195,
R197, R201, R412 to R416, R440, R534 to R536). -/
namespace Sys2Proof.Machine

section
variable (e : Env) (m : SMap Crew) (rm : SMap RegPlace) (lu : SMap Nat)

@[simp] theorem withRows_flt (ty : FTy) (a : Src) (l : Nat) : (e.withRows m rm lu).flt ty a l = e.flt ty a l :=
  congrArg (fun x : W64 => x.toNat % 2 ^ (fmtOf ty).width) (readSrc_rows e.s e.crew e.split (.flt ty) .w32 a l m rm lu)

@[simp] theorem withRows_atomInt (ty : AtomTy) (a : Src) (l : Nat) :
    (e.withRows m rm lu).atomInt ty a l = e.atomInt ty a l := by
  cases ty with
  | f32 => exact withRows_flt e m rm lu .f32 a l
  | n32 | s32 | n64 | s64 => exact congrArg BitVec.toNat (withRows_int e m rm lu _ a l)

@[simp] theorem withRows_atomCheck (br : BitVec 4) (off : BitVec 11) (a : Src) (n : Need) (size : Nat) :
    (e.withRows m rm lu).atomCheck br off a n size = e.atomCheck br off a n size := by
  simp only [Env.atomCheck, withRows_recBits, withRows_lanes,
    funext (withRows_offset e m rm lu (e.recBits br) a (off.toInt * (size : Int)))]

@[simp] theorem withRows_atomLanes (br : BitVec 4) (off : BitVec 11) (a : Src) (size : Nat) (f : LaneReq → LaneReq) :
    (e.withRows m rm lu).atomLanes br off a size f = e.atomLanes br off a size f := by
  simp only [Env.atomLanes, withRows_recBits, withRows_lanes, withRows_offset]

end

/-- R134, R135: offsets that reach pass the checks of an atomic access. -/
theorem atomCheck_reaches {e : Env} {br : BitVec 4} {off : BitVec 11} {a : Src} {n : Need} {size : Nat}
    (h : e.reaches (e.recBits br) n size size (e.offset (e.recBits br) a (off.toInt * (size : Int)))) :
    e.atomCheck br off a n size = none := by
  obtain ⟨hm, hg, hl⟩ := h
  exact checkLanes_passes hm hg (List.forall_mem_map.mpr hl)

/-- R195, R201: a request to the synchronisation engines, with a line request for each lane. -/
def Env.syncAccess (e : Env) (kind : AccKind) (br : BitVec 4) (qs : List LaneReq) : Access :=
  { e.access kind 3 (e.recBits br) qs 0 with lines := syncLines qs }

/-- R416: a request is sent; one with a scope holds its split's later accesses. -/
def Env.syncSent (e : Env) (b : State) (d : DestUse) (kind : AccKind) (br : BitVec 4) (qs : List LaneReq)
    (on acq : Bool) : State :=
  e.goesTracked on (e.awaits b d (e.syncAccess kind br qs))
    (fun sp => if acq then { sp with acq := b.nextId :: sp.acq } else sp)

/-- The end of an instruction takes the mark of its split away, whatever else it does to the split. -/
theorem goesTracked_of_marked (e : Env) (on : Bool) (t : State) (n : Nat) (f : Split → Split) :
    e.goesTracked on (updSplit t e.cid e.sid (Split.marked n)) f = e.goesTracked on t f := by
  have hu : updAcc (updSplit t e.cid e.sid (Split.marked n)) e.s.nextId (fun a => { a with rep := true })
      = updSplit (updAcc t e.s.nextId (fun a => { a with rep := true })) e.cid e.sid (Split.marked n) := rfl
  simp only [Env.goesTracked, Env.moves, hu, keepUndo_updSplit, updSplit_updSplit _ _ _ (Split.marked_id n)]
  rfl

theorem syncSent_marked (e : Env) (m : SMap Crew) (d : DestUse) (kind : AccKind) (br : BitVec 4) (qs : List LaneReq)
    (on acq : Bool) : e.syncSent { e.s with crews := e.markedCrews m } d kind br qs on acq
      = e.syncSent { e.s with crews := m } d kind br qs on acq := by
  rw [Env.syncSent, ← updSplit_marked, awaits_updSplit, goesTracked_of_marked]
  rfl

section
variable (e : Env) (m : SMap Crew) (rm : SMap RegPlace) (lu : SMap Nat) {d : DestUse} (hd : ∀ b, d ≠ .record b)
  (kind : AccKind) (br : BitVec 4) (qs : List LaneReq) (acq : Bool)

/-- What an atomic access does once its fence is done. -/
def postsSync (d : DestUse) (kind : AccKind) (br : BitVec 4) (qs : List LaneReq) (on acq : Bool) (e : Env) : Eff :=
  e.tracked on (.next (e.postSync e.s d kind br qs acq).1)

include hd

/-- R195: a request that is posted over the rows given is awaited as posted. -/
theorem postSync_awaits : (e.withRows m rm lu).postSync { e.s with crews := m } d kind br qs acq
    = (let t := e.awaits { e.s with crews := m } d (e.syncAccess kind br qs)
       (if acq then (e.withRows m rm lu).acquire t e.s.nextId else t, e.s.nextId)) := by
  have hpost := post_awaits e m rm lu (a := fun id => { e.syncAccess kind br qs with id := id }) hd (fun _ => rfl) rfl
  exact congrArg (fun p : State × Nat => (if acq then (e.withRows m rm lu).acquire p.1 p.2 else p.1, p.2)) hpost

theorem settle_postsSync (on : Bool) :
    (e.withRows m rm lu).settle e.s (postsSync d kind br qs on acq (e.withRows m rm lu))
      = e.syncSent { e.s with crews := m } d kind br qs on acq := by
  rw [postsSync, withRows_s, postSync_awaits e m rm lu hd]
  exact settle_acquired e m rm lu on acq (by rfl) _

/-- R416: an atomic access whose fence, where it has a scope, is done sends its request. -/
theorem settle_atomFence (on : Bool) {scope : Option Scope}
    (hf : ∀ sc, scope = some sc → e.fenceDone { e.s with crews := m } sc 0xFF) :
    (e.withRows m rm lu).settle e.s ((e.withRows m rm lu).atomFence scope (postsSync d kind br qs on acq))
      = e.syncSent { e.s with crews := m } d kind br qs on acq := by
  cases scope with
  | none => exact settle_postsSync e m rm lu hd kind br qs acq on
  | some sc =>
    rw [Env.atomFence, fenced_done (src := allPaths) (hf sc rfl) rfl, settle_withRows e m (e.markedCrews m),
      settle_postsSync e (e.markedCrews m) rm lu hd, syncSent_marked]

end

section
variable (g : Guard) (d : Dest) (op : AtomOp) (rop : RedsOp) (ty : AtomTy) (br : BitVec 4) (off : BitVec 11)
  (scope : Option Scope) (a x y : Src) (grp : BitVec 12)

/-- R412 to R416: ATOM sends its request; the split of a repeatable context waits for its race check. -/
theorem atom_sends : Does (.atom g d op ty br off scope a x y)
    (fun e b => e.active ∧ (∀ sc, scope = some sc → e.fenceDone b sc 0xFF)
      ∧ e.reaches (e.recBits br) { r := true, w := true, s := true } (atomBytes ty) (atomBytes ty)
          (e.offset (e.recBits br) a (off.toInt * (atomBytes ty : Int))))
    (fun e b => e.syncSent b (.l d ty.operand) (.atom op ty) br (e.atomLanes br off a (atomBytes ty) (fun q =>
      { q with data := leBytes (atomBytes ty) (e.atomInt ty x q.lane), aux := e.atomInt ty y q.lane })) true scope.isSome) := by
  refine does_of_rows _ (fun _ => rfl) (fun e m rm lu ⟨ha, hf, hr⟩ => ?_)
  simp only [withRows_atomCheck, atomCheck_reaches hr, lanes_nonempty (e := e.withRows m rm lu) ha, Bool.false_eq_true,
    if_false, withRows_atomLanes, withRows_atomInt]
  exact settle_atomFence e m rm lu (fun _ => DestUse.noConfusion) _ br _ _ true hf

/-- R412 to R416: ATOMO sends its request with the sequence of each lane. -/
theorem atomo_sends : Does (.atomo g d op ty br off scope a x y)
    (fun e b => e.active ∧ (∀ sc, scope = some sc → e.fenceDone b sc 0xFF)
      ∧ e.reaches (e.recBits br) { r := true, w := true, s := true } 8 8
          (e.offset (e.recBits br) a (off.toInt * ((8 : Nat) : Int))))
    (fun e b => e.syncSent b (.l d .w64) (.atomo op ty) br (e.atomLanes br off a 8 (fun q =>
      { q with data := leBytes 4 (e.atomInt ty x q.lane), aux := (e.int32 y q.lane).toNat })) false scope.isSome) := by
  refine does_of_rows _ (fun _ => rfl) (fun e m rm lu ⟨ha, hf, hr⟩ => ?_)
  simp only [withRows_atomCheck, atomCheck_reaches hr, lanes_nonempty (e := e.withRows m rm lu) ha, Bool.false_eq_true,
    if_false, withRows_atomLanes, withRows_atomInt, withRows_int32]
  exact settle_atomFence e m rm lu (fun _ => DestUse.noConfusion) _ br _ _ false hf

/-- R174, R534 to R536: REDS enters its crew's store queue with each lane's operand and group. -/
theorem reds_enqueues : Does (.reds g rop ty br off a x y)
    (fun e _ => (e.active ∧ e.crew.storeQ.length < 32)
      ∧ e.reaches (e.recBits br) { w := true, s := true } (atomBytes ty) (atomBytes ty)
          (e.offset (e.recBits br) a (off.toInt * (atomBytes ty : Int))))
    (fun e b => e.goesOn (e.enqueues b (e.syncAccess (.reds rop ty) br (e.atomLanes br off a (atomBytes ty) (fun q =>
      { q with data := leBytes (atomBytes ty) (e.atomInt ty x q.lane), aux := (e.int32 y q.lane).toNat % 4096
               aux2 := (e.int32 y q.lane).toNat / 4096 % 256 }))))) := by
  refine does_of_rows _ (fun _ => rfl) (fun e m rm lu ⟨⟨ha, hroom⟩, hr⟩ => ?_)
  simp only [withRows_atomCheck, atomCheck_reaches hr, lanes_nonempty (e := e.withRows m rm lu) ha, Bool.false_eq_true,
    if_false, withRows_atomLanes, withRows_atomInt, withRows_int32, queueing_room (e := e.withRows m rm lu) hroom,
    withRows_s, postSync_awaits e m rm lu (d := .none) (fun _ => DestUse.noConfusion)]
  rfl

/-- R440: the fold of a group, at each of the 64 slices. -/
def Env.combineAccess (e : Env) (grp : BitVec 12) : Access :=
  { e.access (.combine grp.toNat) 3 0 [] 0 with lines := (List.range 64).map (fun i => { vline := i }), xlated := true }

/-- R174, R440: COMBINE enters its crew's store queue. -/
theorem combine_enqueues : Does (.combine g grp) (fun e _ => e.active ∧ e.crew.storeQ.length < 32)
    (fun e b => e.goesOn (e.enqueues b (e.combineAccess grp))) := by
  refine does_of_rows _ (fun _ => rfl) (fun e m rm lu ⟨ha, hroom⟩ => ?_)
  simp only [lanes_nonempty (e := e.withRows m rm lu) ha, Bool.false_eq_true, if_false,
    queueing_room (e := e.withRows m rm lu) hroom, withRows_s]
  rfl

/-- R174: COMBINE waits while its crew's store queue is full. -/
theorem combine_waits : Does (.combine g grp) (fun e _ => e.active ∧ 32 ≤ e.crew.storeQ.length)
    (fun e _ => e.waits (.waitOperand .storeRoom) id) := by
  refine does_of _ (fun _ => rfl) (fun s cid sid cr sp offs m rm lu hm hc _ ⟨ha, hlen⟩ => ?_)
  have hfull : storeQueueSize ≤ (envOf s (.combine g grp) cid sid cr sp offs m rm lu).crew.storeQ.length := hlen
  simp only [lanes_nonempty (e := envOf s (.combine g grp) cid sid cr sp offs m rm lu) ha, Bool.false_eq_true, if_false,
    Env.queueing, hfull, if_true]
  exact settle_waits _ hc hm

end

/-- Settles O32: each instruction in turn. -/
theorem atomics : Obligations.Atomics := by
  intro g d op rop ty br off scope a x y grp
  exact ⟨atom_sends g d op ty br off scope a x y, atomo_sends g d op ty br off scope a x y,
    reds_enqueues g rop ty br off a x y, combine_enqueues g grp, combine_waits g grp⟩

end Sys2Proof.Machine
end
